-- ==== Sys2Proof/Word.lean ====
section
/-! DEFINITION. The units of 00_scope R6, R8, R9 and the plainest bit helpers. -/
namespace Sys2Proof

/-- A byte (R9). -/
abbrev Byte := BitVec 8

/-- A 64-bit word (R9). -/
abbrev Word := BitVec 64

/-- One lane of a slice file: 1,024 slices of 4 bits, slice s in bits 4s+3 : 4s (01 R27). -/
abbrev Lane := BitVec 4096

/-- A 128-bit mask, bit i for lane i (01 R27). -/
abbrev Mask := BitVec 128

end Sys2Proof
end

