-- ==== Sys2Proof/Machine/Num.lean ====
section
/-! DEFINITION. Exact arithmetic and rounding of 02_number_formats (R55 to R65): dyadic values, the three float formats,
RoundNE, RoundI, RoundF, and the functions that are correctly rounded (R63, R164). -/
namespace Sys2Proof.Machine

/-- The sticky flags of R35 as bits: IV 0, DZ 1, OF 2, UF 3, IX 4, QS 5, FM 6. -/
abbrev Flags := BitVec 7

def flagIV : Flags := 1
def flagDZ : Flags := 2
def flagOF : Flags := 4
def flagUF : Flags := 8
def flagIX : Flags := 16
def flagQS : Flags := 32
def flagFM : Flags := 64

/-- A flag if a condition holds. -/
def flagIf (b : Bool) (f : Flags) : Flags := if b then f else 0

/-- SExt of R65. -/
def sext (a w : Nat) : Int := if a % 2 ^ w < 2 ^ (w - 1) then (a % 2 ^ w : Nat) else (a % 2 ^ w : Nat) - (2 ^ w : Nat)

/-- ZExt of R65. -/
def zext (a w : Nat) : Int := (a % 2 ^ w : Nat)

/-- Ext of R131. -/
def ext (sg : Bool) (a w : Nat) : Int := if sg then sext a w else zext a w

/-- The low w bits of an integer (R131). -/
def low (v : Int) (w : Nat) : Nat := (v % (2 ^ w : Nat)).toNat

/-- The limits of Sat (R65). -/
def satLo (w : Nat) (sg : Bool) : Int := if sg then -((2 ^ (w - 1) : Nat) : Int) else 0
def satHi (w : Nat) (sg : Bool) : Int := if sg then ((2 ^ (w - 1) : Nat) : Int) - 1 else ((2 ^ w : Nat) : Int) - 1

/-- Sat of R65. -/
def sat (v : Int) (w : Nat) (sg : Bool) : Int :=
  if v < satLo w sg then satLo w sg else if v > satHi w sg then satHi w sg else v

/-- A dyadic number m × 2^e. -/
structure Dy where
  m : Int
  e : Int
  deriving DecidableEq, Repr

/-- Exact sum of two dyadics. -/
def Dy.add (a b : Dy) : Dy :=
  let e := if a.e ≤ b.e then a.e else b.e
  ⟨a.m * (2 ^ (a.e - e).toNat : Nat) + b.m * (2 ^ (b.e - e).toNat : Nat), e⟩

/-- Exact product. -/
def Dy.mul (a b : Dy) : Dy := ⟨a.m * b.m, a.e + b.e⟩

def Dy.neg (a : Dy) : Dy := ⟨-a.m, a.e⟩

/-- Comparison through the sign of the exact difference. -/
def Dy.lt (a b : Dy) : Bool := (a.add b.neg).m < 0
def Dy.le (a b : Dy) : Bool := (a.add b.neg).m ≤ 0
def Dy.eq (a b : Dy) : Bool := (a.add b.neg).m == 0

/-- floor(log2 |m|) of a non-zero integer. -/
def ilog2 (m : Int) : Nat := Nat.log2 m.natAbs

/-- floor(log2 |d|) of a non-zero dyadic. -/
def Dy.log2 (d : Dy) : Int := (ilog2 d.m : Int) + d.e

/-- The multiple of 2^q that d becomes under mode rnd (R59), in units of 2^q, and whether it is exact. -/
def roundAt (rnd : BitVec 2) (d : Dy) (q : Int) : Int × Bool :=
  if q ≤ d.e then (d.m * (2 ^ (d.e - q).toNat : Nat), true)
  else
    let p : Int := (2 ^ (q - d.e).toNat : Nat)
    let lo := d.m / p
    let r := d.m % p
    if r = 0 then (lo, true)
    else
      let up := match rnd.toNat with
        | 0 => if 2 * r < p then false else if 2 * r > p then true else lo % 2 != 0
        | 1 => d.m < 0
        | 2 => false
        | _ => true
      (if up then lo + 1 else lo, false)

/-- RoundI of R65. -/
def roundI (rnd : BitVec 2) (d : Dy) : Int × Bool := roundAt rnd d 0

/-- RoundNE of R65. -/
def roundNE (d : Dy) : Int := (roundAt 0 d 0).1

/-- The plain float formats of R55, by the format codes of R161: 0 FP32, 1 FP16, 2 BF16. -/
structure Fmt where
  bits : Nat
  f : Nat
  bias : Int
  flush : Bool
  deriving DecidableEq, Repr

def fmtOf (code : Nat) : Fmt :=
  match code with
  | 0 => ⟨32, 23, 127, false⟩
  | 1 => ⟨16, 10, 15, false⟩
  | _ => ⟨16, 7, 127, true⟩

/-- The smallest normal exponent. -/
def Fmt.emin (x : Fmt) : Int := 1 - x.bias
/-- The largest exponent. -/
def Fmt.emax (x : Fmt) : Int := x.bias
/-- The sign bit's weight. -/
def Fmt.signBit (x : Fmt) : Nat := 2 ^ (x.bits - 1)
/-- Bit pattern of +infinity. -/
def Fmt.infBits (x : Fmt) : Nat := 2 ^ (x.bits - 1) - 2 ^ x.f
/-- The canonical NaN (R55). -/
def Fmt.nan (x : Fmt) : Nat := x.infBits + 2 ^ (x.f - 1)
/-- The largest finite bit pattern. -/
def Fmt.maxBits (x : Fmt) : Nat := x.infBits - 1
/-- A pattern with a sign. -/
def Fmt.signed (x : Fmt) (neg : Bool) (b : Nat) : Nat := if neg then b + x.signBit else b

/-- A float operand as read (R55, R57, R58). -/
inductive FVal where
  | nan (signalling : Bool)
  | inf (neg : Bool)
  | fin (neg : Bool) (m : Nat) (e : Int)
  deriving DecidableEq, Repr

/-- The value a bit pattern of a format denotes; BF16 subnormals read as zero (R58). -/
def Fmt.val (x : Fmt) (b : Nat) : FVal :=
  let neg := b % 2 ^ x.bits ≥ x.signBit
  let ex := (b / 2 ^ x.f) % 2 ^ (x.bits - 1 - x.f)
  let fr := b % 2 ^ x.f
  if ex = 2 ^ (x.bits - 1 - x.f) - 1 then
    if fr = 0 then .inf neg else .nan (fr < 2 ^ (x.f - 1))
  else if ex = 0 then .fin neg (if x.flush then 0 else fr) (x.emin - x.f)
  else .fin neg (2 ^ x.f + fr) (ex - x.bias - x.f)

/-- The dyadic of a finite value; 0 for the others. -/
def FVal.dy : FVal → Dy
  | .fin neg m e => ⟨if neg then -(m : Int) else m, e⟩
  | _ => ⟨0, 0⟩

/-- The same value with the opposite sign. -/
def FVal.negate : FVal → FVal
  | .fin neg m e => .fin (!neg) m e
  | .inf neg => .inf (!neg)
  | .nan q => .nan q

def FVal.isNan : FVal → Bool
  | .nan _ => true
  | _ => false

def FVal.isNeg : FVal → Bool
  | .fin neg _ _ => neg
  | .inf neg => neg
  | .nan _ => false

def FVal.isZero : FVal → Bool
  | .fin _ m _ => m == 0
  | _ => false

def FVal.isInf : FVal → Bool
  | .inf _ => true
  | _ => false

def FVal.isSig : FVal → Bool
  | .nan s => s
  | _ => false

/-- RoundF of R65 for a value that is not zero: bits and flags, by R58, R59, R60, R61. -/
def roundNZ (x : Fmt) (rnd : BitVec 2) (d : Dy) : Nat × Flags :=
  let neg := decide (d.m < 0)
  let lg := d.log2
  let q := if lg - x.f < x.emin - x.f then x.emin - (x.f : Int) else lg - x.f
  let r := roundAt rnd d q
  let mag := r.1.natAbs
  let ru := (roundAt rnd d (lg - x.f)).1.natAbs
  let tiny := decide (lg < x.emin) && !(decide (lg = x.emin - 1) && ru == 2 ^ (x.f + 1))
  let bits := ((q + x.f + x.bias - 1) * (2 ^ x.f : Nat) + mag).toNat
  if bits ≥ x.infBits then
    let toInf := match rnd.toNat with | 0 => true | 1 => false | 2 => neg | _ => !neg
    (x.signed neg (if toInf then x.infBits else x.maxBits), flagOF ||| flagIX)
  else if x.flush && bits < 2 ^ x.f then (x.signed neg 0, flagUF ||| flagIX)
  else (x.signed neg bits, if r.2 then 0 else flagIX ||| flagIf tiny flagUF)

/-- RoundF of R65; `zneg` is the sign of an exact zero (R62). -/
def roundF (x : Fmt) (rnd : BitVec 2) (zneg : Bool) (d : Dy) : Nat × Flags :=
  if d.m = 0 then (x.signed zneg 0, 0) else roundNZ x rnd d

/-- The canonical NaN with IV if some operand is signalling (R57). -/
def nanOut (x : Fmt) (sig : Bool) : Nat × Flags := (x.nan, flagIf sig flagIV)

/-- The sign of an exact zero sum of two addends (R62). -/
def zeroSumSign (rnd : BitVec 2) (an bn bothZero : Bool) : Bool :=
  if bothZero && an == bn then an else rnd.toNat == 2

/-- p + q rounded once, where `p` may be an exact product (R61, R62). -/
def faddV (x : Fmt) (rnd : BitVec 2) (p q : FVal) : Nat × Flags :=
  match p, q with
  | .nan s, .nan s' => nanOut x (s || s')
  | .nan s, _ => nanOut x s
  | _, .nan s => nanOut x s
  | .inf a, .inf b => if a == b then (x.signed a x.infBits, 0) else (x.nan, flagIV)
  | .inf a, _ => (x.signed a x.infBits, 0)
  | _, .inf b => (x.signed b x.infBits, 0)
  | .fin an am _, .fin bn bm _ => roundF x rnd (zeroSumSign rnd an bn (am == 0 && bm == 0)) (p.dy.add q.dy)

/-- The exact product (R61, R62): the value, and whether it is 0 × ∞. -/
def fprod (a b : FVal) : FVal × Bool :=
  match a, b with
  | .nan s, .nan s' => (.nan (s || s'), false)
  | .nan s, _ => (.nan s, false)
  | _, .nan s => (.nan s, false)
  | .inf n, .fin n' m _ => if m == 0 then (.nan false, true) else (.inf (n ^^ n'), false)
  | .fin n m _, .inf n' => if m == 0 then (.nan false, true) else (.inf (n ^^ n'), false)
  | .inf n, .inf n' => (.inf (n ^^ n'), false)
  | .fin n m e, .fin n' m' e' => (.fin (n ^^ n') (m * m') (e + e'), false)

/-- a × b + c rounded once (R61, R63). -/
def fmaV (x : Fmt) (rnd : BitVec 2) (a b c : FVal) : Nat × Flags :=
  match fprod a b with
  | (_, true) => (x.nan, flagIV)
  | (p, false) => faddV x rnd p c

/-- a × b rounded once (R61, R62). -/
def fmulV (x : Fmt) (rnd : BitVec 2) (a b : FVal) : Nat × Flags :=
  match fprod a b with
  | (_, true) => (x.nan, flagIV)
  | (.nan s, _) => nanOut x s
  | (.inf n, _) => (x.signed n x.infBits, 0)
  | (.fin n m e, _) => roundF x rnd n (FVal.fin n m e).dy

/-- Enc of R65 for an operand value of the same format: what is written when a value passes unchanged. -/
def Fmt.enc (x : Fmt) : FVal → Nat
  | .nan _ => x.nan
  | .inf n => x.signed n x.infBits
  | .fin n m e => (roundF x 0 n (FVal.fin n m e).dy).1

/-- The order of R163 and R165 on non-NaN values, −0 below +0 when `zsign` says so. -/
def FVal.ltV (zsign : Bool) (a b : FVal) : Bool :=
  match a, b with
  | .inf n, .inf n' => n && !n'
  | .inf n, _ => n
  | _, .inf n' => !n'
  | .fin an am _, .fin bn bm _ => if am == 0 && bm == 0 then zsign && an && !bn else a.dy.lt b.dy
  | _, _ => false

/-- VFMIN and VFMAX (R163). -/
def fminmaxV (x : Fmt) (max : Bool) (a b : FVal) : Nat × Flags :=
  let fl := flagIf (a.isSig || b.isSig) flagIV
  if a.isNan && b.isNan then (x.nan, fl)
  else if a.isNan then (x.enc b, fl)
  else if b.isNan then (x.enc a, fl)
  else (x.enc (if (if max then a.ltV true b else b.ltV true a) then b else a), fl)

/-- One conversion between plain floats (R64). -/
def fcvtV (x : Fmt) (rnd : BitVec 2) (a : FVal) : Nat × Flags :=
  match a with
  | .nan s => nanOut x s
  | .inf n => (x.signed n x.infBits, 0)
  | .fin n _ _ => roundF x rnd n a.dy

/-- Float to integer (R64): the integer and the flags. -/
def fcvtI (w : Nat) (sg : Bool) (rnd : BitVec 2) (a : FVal) : Int × Flags :=
  match a with
  | .nan _ => (0, flagIV)
  | .inf n => (if n then satLo w sg else satHi w sg, flagIV)
  | .fin _ _ _ =>
    let r := roundI rnd a.dy
    let v := sat r.1 w sg
    (v, if v != r.1 then flagIV else if r.2 then 0 else flagIX)

/-- Integer to float (R64). -/
def icvtF (x : Fmt) (rnd : BitVec 2) (v : Int) : Nat × Flags := roundF x rnd false ⟨v, 0⟩

/-- floor(√n), one bit at a time from bit k down. -/
def isqrtGo (n : Nat) : Nat → Nat → Nat
  | 0, r => if (r + 1) * (r + 1) ≤ n then r + 1 else r
  | k + 1, r => isqrtGo n k (if (r + 2 ^ (k + 1)) * (r + 2 ^ (k + 1)) ≤ n then r + 2 ^ (k + 1) else r)

def isqrt (n : Nat) : Nat := isqrtGo n (Nat.log2 n / 2 + 1) 0

/-- A magnitude known to lie strictly between m and m + 1 units of 2^e, as a dyadic that rounds alike whenever the result's
last place is above 2^e. -/
def between (neg : Bool) (m : Nat) (e : Int) : Dy := ⟨if neg then -((2 * m + 1 : Nat) : Int) else ((2 * m + 1 : Nat) : Int), e - 1⟩

/-- √(m × 2^e), m > 0. -/
def sqrtDy (m : Nat) (e : Int) : Dy :=
  let e' := e - 64 - (e % 2)
  let n := m * 2 ^ (64 + (e % 2).toNat)
  let r := isqrt n
  if r * r = n then ⟨r, e' / 2⟩ else between false r (e' / 2)

/-- 1 ÷ (m × 2^e) with a sign, m > 0. -/
def rcpDy (neg : Bool) (m : Nat) (e : Int) : Dy :=
  let r := 2 ^ 96 / m
  if r * m = 2 ^ 96 then ⟨if neg then -(r : Int) else r, -96 - e⟩ else between neg r (-96 - e)

/-- 1 ÷ √(m × 2^e), m > 0. -/
def rsqDy (m : Nat) (e : Int) : Dy :=
  let k := 160 + (e % 2).toNat
  let r := isqrt (2 ^ k / m)
  if r * r * m = 2 ^ k then ⟨r, (-(k : Int) - e) / 2⟩ else between false r ((-(k : Int) - e) / 2)

/-- Fixed-point working precision of the two transcendentals (log 15). -/
def tp : Nat := 420

/-- Terms y^n/n! of e^y in tp-bit fixed point, summed while fuel lasts. -/
def expSum (y : Nat) : Nat → Nat → Nat → Nat → Nat
  | 0, _, _, acc => acc
  | k + 1, n, t, acc => expSum y k (n + 1) (t * y / 2 ^ tp / (n + 1)) (acc + t)

/-- Terms z^(2n+1)/(2n+1) of artanh z in tp-bit fixed point. -/
def atanhSum (z2 : Nat) : Nat → Nat → Nat → Nat → Nat
  | 0, _, _, acc => acc
  | k + 1, n, p, acc => atanhSum z2 k (n + 1) (p * z2 / 2 ^ tp) (acc + p / (2 * n + 1))

/-- ln(a ÷ b) for 1 ≤ a ÷ b ≤ 2, in tp-bit fixed point. -/
def lnFix (a b : Nat) : Nat :=
  let z := (a - b) * 2 ^ tp / (a + b)
  2 * atanhSum (z * z / 2 ^ tp) 150 0 z 0

def ln2Fix : Nat := lnFix 2 1

/-- 2^a for finite a = ±m × 2^e (R164): exact for integers; else the enclosure's lower end at 2^-320 of the value. -/
def exp2Dy (a : Dy) : Dy :=
  let fl := (roundAt 2 a 0)
  let n : Int := if fl.1 > 4096 then 4096 else if fl.1 < -4096 then -4096 else fl.1
  if fl.2 then ⟨1, n⟩
  else
    let fr := (roundAt 2 (a.add ⟨-fl.1, 0⟩) (-(tp : Int))).1.toNat
    let v := expSum (fr * ln2Fix / 2 ^ tp) 140 0 (2 ^ tp) 0
    between false (v / 2 ^ (tp - 320)) (n - 320)

/-- log2 of m × 2^e, m > 0, m × 2^e ≠ 1 (R164): exact for powers of two. -/
def log2Dy (m : Nat) (e : Int) : Dy :=
  let k := Nat.log2 m
  if m = 2 ^ k then ⟨k + e, 0⟩
  else
    let v : Int := ((k : Int) + e) * (2 ^ tp : Nat) + ((lnFix m (2 ^ k) * 2 ^ tp / ln2Fix : Nat) : Int)
    between (decide (v < 0)) (v.natAbs / 2 ^ (tp - 320)) (-320)

/-- The five one-operand functions of R164. -/
inductive Fn1 where
  | sqrt | rcp | rsq | exp2 | log2
  deriving DecidableEq, Repr

/-- R164 with its table of special operands. -/
def fn1V (fn : Fn1) (x : Fmt) (rnd : BitVec 2) (a : FVal) : Nat × Flags :=
  let iv : Nat × Flags := (x.nan, flagIV)
  match a with
  | .nan s => nanOut x s
  | .inf n =>
    match fn with
    | .sqrt | .log2 => if n then iv else (x.infBits, 0)
    | .rcp => (x.signed n 0, 0)
    | .rsq => if n then iv else (0, 0)
    | .exp2 => if n then (0, 0) else (x.infBits, 0)
  | .fin n m e =>
    match fn with
    | .sqrt => if m = 0 then (x.signed n 0, 0) else if n then iv else roundF x rnd false (sqrtDy m e)
    | .rcp => if m = 0 then (x.signed n x.infBits, flagDZ) else roundF x rnd n (rcpDy n m e)
    | .rsq => if m = 0 then (x.signed n x.infBits, flagDZ) else if n then iv else roundF x rnd false (rsqDy m e)
    | .exp2 => if m = 0 then roundF x rnd false ⟨1, 0⟩ else roundF x rnd false (exp2Dy a.dy)
    | .log2 => if m = 0 then (x.signed true x.infBits, flagDZ) else if n then iv else roundF x rnd false (log2Dy m e)

end Sys2Proof.Machine
end

