-- ==== Sys2Proof/Machine/Blocks.lean ====
section
/-! DEFINITION. Described blocks of 02_number_formats (R66 to R73, R81 to R85) and the k-groups the matrix engine consumes
(R74 to R79). A block is its 512 bits as one number, byte b in bits 8b+7 : 8b. -/
namespace Sys2Proof.Machine

/-- Elements of a block of width m (R67). -/
def count (m : Nat) : Nat :=
  match m with
  | 2 => 248 | 3 => 160 | 4 => 120 | 5 => 96 | 6 => 80 | 7 => 64 | 8 => 56
  | _ => 0

/-- Fields of R66. -/
def blkMw (b : Nat) : Nat := b % 16
def blkKind (b : Nat) : Nat := b / 16 % 8
def blkRaw (b : Nat) : Bool := b / 128 % 2 == 1
def blkScale (b : Nat) : Nat := b / 256 % 256
def blkPayload (b : Nat) : Nat := b / 65536

/-- The first check of R70 that a fetched block fails, as the reason of R287. -/
def blkBad (b : Nat) : Option Nat :=
  if blkKind b ≥ 3 then some 0
  else if blkMw b < 2 || blkMw b > 8 then some 1
  else if blkRaw b != (blkMw b == 8) then some 2
  else if blkKind b == 1 && blkScale b != 127 then some 3
  else none

/-- Irregular but accepted (R71). -/
def blkFM (b : Nat) : Bool :=
  if blkKind b == 2 then blkPayload b != 0 else blkPayload b / 2 ^ (blkMw b * count (blkMw b)) != 0

/-- The mantissa of element i (R68, R69). -/
def blkMant (b : Nat) (sg : Bool) (i : Nat) : Int :=
  if blkKind b == 2 then 0 else ext sg (blkPayload b / 2 ^ (blkMw b * i)) (blkMw b)

/-- The exponent of a block's elements (R69, R74). -/
def blkExp (b : Nat) : Int := if blkKind b == 0 then (blkScale b : Int) - 127 else 0

/-- Blocks of a row slot (R72). -/
def slotBlocks (len mmax : Nat) : Nat := (len + count mmax - 1) / count mmax

/-- Why a row read stopped short (R73): a bad block with its reason, or an exhausted slot (reason 4). -/
structure RowBad where
  blk : Nat
  reason : Nat
  deriving DecidableEq, Repr

/-- The elements of a row of `len` from its slot's blocks in order (R73), whether one was irregular, and how many blocks
were fetched. -/
def rowRead (sg : Bool) : List Nat → Nat → Nat → List Dy → Bool → Except RowBad (List Dy × Bool × Nat)
  | _, 0, i, acc, fm => .ok (acc, fm, i)
  | [], _ + 1, i, _, _ => .error ⟨i, 4⟩
  | b :: bs, n + 1, i, acc, fm =>
    match blkBad b with
    | some r => .error ⟨i, r⟩
    | none =>
      let k := if count (blkMw b) < n + 1 then count (blkMw b) else n + 1
      rowRead sg bs (n + 1 - k) (i + 1) (acc ++ (List.range k).map fun e => ⟨blkMant b sg e, blkExp b⟩) (fm || blkFM b)

/-- One quantised block (R82 to R84). -/
structure QBlock where
  bits : Nat
  q : List Int
  flags : Flags
  deriving DecidableEq, Repr

/-- The scale of a BFP block (R82): elements below zero take no part when unsigned. -/
def bfpScale (m : Nat) (sg : Bool) (a : List FVal) : Nat :=
  let fits (s : Nat) : Bool := a.all fun v =>
    match v with
    | .fin neg _ _ =>
      let r := roundNE ⟨v.dy.m, v.dy.e + 127 - s⟩
      (!sg && neg) || (satLo m sg ≤ r && r ≤ satHi m sg)
    | _ => true
  ((List.range 256).find? fits).getD 255

/-- One element (R82, R83): its mantissa at exponent `e` and its flags. DESIGN CHOICE (log 82): with `sg` unsigned a negative element
that RoundNE takes to 0 raises no QS, as the procedure of R82 has it; its prose has every negative element raise QS. -/
def quantElem (m : Nat) (sg : Bool) (e : Int) (v : FVal) : Int × Flags :=
  match v with
  | .nan _ => (0, flagIV)
  | .inf n => (if n then satLo m sg else satHi m sg, flagQS)
  | .fin _ _ _ =>
    let r := roundNE ⟨v.dy.m, v.dy.e - e⟩
    let q := sat r m sg
    (q, flagIf (q != r) flagQS ||| flagIf (!(Dy.eq ⟨q, e⟩ v.dy)) flagIX)

/-- Packing of R68, element 0 lowest. -/
def packMant (m : Nat) : List Int → Nat
  | [] => 0
  | q :: qs => low q m + 2 ^ m * packMant m qs

/-- One block of width m from its elements (R82 to R84); `int` selects the INT kind. -/
def quantBlock (m : Nat) (sg int : Bool) (a : List FVal) : QBlock :=
  let s := if int then 127 else bfpScale m sg a
  let r := a.map (quantElem m sg ((s : Int) - 127))
  let q := r.map (·.1)
  let fl := r.foldl (fun f p => f ||| p.2) 0
  let raw := if m = 8 then 128 else 0
  if q.all (· == 0) then ⟨raw + 32 + m, q, fl⟩
  else ⟨raw + (if int then 16 else 0) + m + 256 * s + 65536 * packMant m q, q, fl⟩

/-- The largest finite magnitude, and the largest error of a BFP block (R85). -/
def maxDy (l : List Dy) : Dy := l.foldl (fun a b => if a.lt b then b else a) ⟨0, 0⟩
def absDy (d : Dy) : Dy := ⟨(d.m.natAbs : Int), d.e⟩

/-- Acceptance in adaptive mode (R85). DESIGN CHOICE (log 97): of a block without a finite element the largest error and the largest magnitude
are both taken as 0, which accepts the first width. -/
def adaptOk (t : Nat) (a : List FVal) (b : QBlock) : Bool :=
  let fin := (a.zip b.q).filterMap fun (v, q) =>
    match v with
    | .fin _ _ _ => some (absDy v.dy, absDy ((Dy.mk q ((blkScale b.bits : Int) - 127)).add v.dy.neg))
    | _ => none
  let zeroBlk := blkKind b.bits == 2
  let errs := if zeroBlk then fin.map (·.1) else fin.map (·.2)
  let big := maxDy (fin.map (·.1))
  (maxDy errs).le ⟨big.m, big.e - t⟩

/-- The widths tried in adaptive mode (R85): the first accepted, else 8. -/
def adaptBlock (t : Nat) (sg : Bool) (a : List FVal) : List Nat → QBlock × Nat
  | [] => (quantBlock 8 sg false (a.take 56), 56)
  | m :: ms =>
    let b := quantBlock m sg false (a.take (count m))
    if m = 8 || adaptOk t (a.take (count m)) b then (b, count m) else adaptBlock t sg a ms

/-- The blocks of a row (R81, R84, R85), at most `fuel` of them. -/
def quantRow (m t : Nat) (adapt int sg : Bool) : Nat → List FVal → List QBlock
  | 0, _ => []
  | fuel + 1, a =>
    if a.isEmpty then []
    else if adapt then
      let (b, n) := adaptBlock t sg a ((List.range 9).filter (m ≤ ·))
      b :: quantRow m t adapt int sg fuel (a.drop n)
    else quantBlock m sg int (a.take (count m)) :: quantRow m t adapt int sg fuel (a.drop (count m))

/-- Conversion of a plain float k-group (R75): the eight mantissas, the exponent, and IX; none for a zero k-group. -/
def kgroupOf (v : List FVal) : Option (List Int × Int × Bool) :=
  let nz := v.filter fun a => a.dy.m != 0
  match nz with
  | [] => none
  | a :: rest =>
    let emax := rest.foldl (fun e b => if e < b.dy.log2 then b.dy.log2 else e) a.dy.log2
    let at_ (e : Int) := v.map fun b => roundNE ⟨b.dy.m, b.dy.e - e⟩
    let m0 := at_ (emax - 14)
    let e := if m0.any (fun k => k.natAbs == 32768) then emax - 13 else emax - 14
    let ms := at_ e
    some (ms, e, (ms.zip v).any fun (k, b) => !(Dy.eq ⟨k, e⟩ b.dy))

/-- One live or idle pair of a window, for one accumulator cell (R79). -/
structure CellPair where
  live : Bool
  inv : Bool
  e : Int
  t : Int
  deriving DecidableEq, Repr

/-- One promotion window of one cell (R78, R79): the new cell and its flags. DESIGN CHOICE (log 82): an invalid k-group paired with a
zero one counts as R79 says (NaN, IV), though R86 bars flags of pairs that are not live. -/
def windowCell (ew : Int) (acc : Nat) (ps : List CellPair) : Nat × Flags :=
  if ps.any (·.inv) then ((fmtOf 0).nan, flagIV)
  else
    let live := ps.filter (·.live)
    if live.isEmpty then (acc, 0)
    else
      let r := live.foldl (fun (p : Int × Bool) c =>
        let x := roundAt 0 ⟨c.t, c.e⟩ ew
        (p.1 + x.1, p.2 || !x.2)) (0, false)
      let fl := flagIf r.2 flagIX
      match (fmtOf 0).val acc with
      | .fin n m e =>
        let d := (FVal.fin n m e).dy.add ⟨r.1, ew⟩
        if r.1 = 0 then (acc, fl) else
          let o := roundF (fmtOf 0) 0 false d
          (o.1, fl ||| o.2)
      | .nan s => ((fmtOf 0).nan, fl ||| flagIf s flagIV)
      | .inf _ => (acc, fl)

end Sys2Proof.Machine
end

