-- ==== Sys2Proof/Syntax.lean ====
section
/-! DEFINITION. The syntax of 04_encoding_opcode_map: operands, FC field bundles, the data that acts from outside
carry, and ONE inductive with a constructor per row of spec/opcode_table.json. -/
namespace Sys2Proof

/-- A slice operand (R90): start slice and width code; the width is 4 * (wcode + 1) bits. -/
structure Opnd where
  start : BitVec 10
  wcode : BitVec 4
  deriving DecidableEq, Repr

/-- The operand field that holds 0 (R115: what an unused operand field must hold). -/
def Opnd.zero : Opnd := ⟨0, 0⟩

/-- The streams of R17 and R23. -/
inductive StreamId where
  | c | m | v | l | s
  | d (n : Fin 16)
  deriving DecidableEq, Repr

/-- The stream numbers of R105 and R285. -/
def StreamId.code : StreamId → Nat
  | .c => 0 | .m => 1 | .v => 2 | .l => 3 | .s => 4
  | .d n => 5 + n.val

/-- True of the memory streams. -/
def StreamId.isMem : StreamId → Bool
  | .d _ => true
  | _ => false

/-- The fields of format FC (R124), both words. -/
structure FcArgs where
  dsp : BitVec 3
  ssp : BitVec 3
  da  : Opnd
  sa  : Opnd
  tag : BitVec 4
  var : BitVec 4
  mod : BitVec 4
  ln  : Opnd
  hd  : Opnd
  hv  : Bool
  aux : BitVec 17
  deriving DecidableEq, Repr

/-- The modes of a pseudo-channel (R300). -/
inductive PchMode where
  | timed | pooled | retired
  deriving DecidableEq, Repr

/-- A reference of an inter unit (R349): its output number, and the vector in the standard's own units. -/
structure BlockRef where
  out : Int
  mvx : Int
  mvy : Int
  deriving DecidableEq, Repr

/-- A prediction unit (R349), as a standard's decoder gives it: where it lies in the cropped picture (its first sample and its size),
intra or its references in list order, and whether it has a coded residual. -/
structure PredUnit where
  x : Int
  y : Int
  w : Nat
  h : Nat
  intra : Bool
  refs : List BlockRef
  coded : Bool
  deriving DecidableEq, Repr

/-- A luma transform block (R349): where it lies in the cropped picture, and its sum of |dequantised coefficient|, in lossless coding of
|residual|. -/
structure TransBlock where
  x : Int
  y : Int
  w : Nat
  h : Nat
  sum : Nat
  deriving DecidableEq, Repr

/-- One output frame as a standard's decoder gives it (R344 to R349): cropped size, key frame, no picture decoded, 10-bit, 4:0:0, the
output number that a shown existing frame repeats, the luma and interleaved chroma samples row by row, its prediction units and its luma
transform blocks. -/
structure Picture where
  w : Nat
  h : Nat
  key : Bool
  err : Bool
  d10 : Bool
  mono : Bool
  rep : Option Int
  luma : List Nat
  chroma : List Nat
  units : List PredUnit
  trans : List TransBlock
  deriving DecidableEq, Repr, Inhabited

/-- The profiles and chroma formats of R344. -/
inductive Profile where
  | main | main10 | high | other
  deriving DecidableEq, Repr
inductive Chroma where
  | c400 | c420 | other
  deriving DecidableEq, Repr

/-- What a stream says of itself, as R344 asks for it: profile, level (ten times its number), sample depth, chroma format, cropped size, and
the tools of its row's last column: field or frame-packing SEI, scalable or multiview extensions, field pictures, MBAFF, large-scale
tiles. -/
structure SeqInfo where
  profile : Profile
  level : Nat
  depth : Nat
  chroma : Chroma
  w : Nat
  h : Nat
  sei : Bool
  layers : Bool
  fields : Bool
  mbaff : Bool
  largeTile : Bool
  deriving DecidableEq, Repr

/-- A firmware image as R418 lays it out: its bytes. -/
structure Image where
  bytes  : List Byte
  deriving DecidableEq, Repr

/-- One constructor per row of spec/opcode_table.json: the 224 opcodes of R127, then the device steps of 95_what_each_step_holds. -/
inductive Instr where
  /-- ADD (0x00), R132. -/
  | add (sg : Bool) (d a b : Opnd)
  /-- SUB (0x01), R132. -/
  | sub (sg : Bool) (d a b : Opnd)
  /-- MUL (0x02), R132. -/
  | mul (sg : Bool) (d a b : Opnd)
  /-- MULH (0x03), R132. -/
  | mulh (sg : Bool) (d a b : Opnd)
  /-- DIV (0x04), R133. -/
  | div (sg : Bool) (d a b : Opnd)
  /-- REM (0x05), R133. -/
  | rem (sg : Bool) (d a b : Opnd)
  /-- MIN (0x06), R132. -/
  | min (sg : Bool) (d a b : Opnd)
  /-- MAX (0x07), R132. -/
  | max (sg : Bool) (d a b : Opnd)
  /-- AND (0x08), R132. -/
  | and (sg : Bool) (d a b : Opnd)
  /-- OR (0x09), R132. -/
  | or (sg : Bool) (d a b : Opnd)
  /-- XOR (0x0A), R132. -/
  | xor (sg : Bool) (d a b : Opnd)
  /-- ANDN (0x0B), R132. -/
  | andn (sg : Bool) (d a b : Opnd)
  /-- SHL (0x0C), R134. -/
  | shl (sg : Bool) (d a b : Opnd)
  /-- SHR (0x0D), R134. -/
  | shr (sg : Bool) (d a b : Opnd)
  /-- ROT (0x0E), R134. -/
  | rot (sg : Bool) (d a b : Opnd)
  /-- CLZ (0x0F), R135. -/
  | clz (d a : Opnd)
  /-- POPC (0x10), R135. -/
  | popc (d a : Opnd)
  /-- EXTR (0x11), R136. -/
  | extr (sg : Bool) (d a b : Opnd)
  /-- INSR (0x12), R136. -/
  | insr (sg : Bool) (d a b : Opnd)
  /-- CMP (0x13), R137. -/
  | cmp (sf : BitVec 3) (sg : Bool) (d a b : Opnd)
  /-- SEL (0x14), R138. -/
  | sel (sg : Bool) (d a b c : Opnd)
  /-- MOV (0x15), R135. -/
  | mov (sg : Bool) (d a : Opnd)
  /-- ADDI (0x16), R139. -/
  | addi (d a : Opnd) (imm : BitVec 18)
  /-- ANDI (0x17), R139. -/
  | andi (d a : Opnd) (imm : BitVec 18)
  /-- ORI (0x18), R139. -/
  | ori (d a : Opnd) (imm : BitVec 18)
  /-- XORI (0x19), R139. -/
  | xori (d a : Opnd) (imm : BitVec 18)
  /-- SHLI (0x1A), R139. -/
  | shli (sg : Bool) (n : BitVec 6) (d a : Opnd)
  /-- SHRI (0x1B), R139. -/
  | shri (sg : Bool) (n : BitVec 6) (d a : Opnd)
  /-- CMPI (0x1C), R139. -/
  | cmpi (d a : Opnd) (imm : BitVec 18)
  /-- LI (0x1D), R140. -/
  | li (d : Opnd) (imm : BitVec 32)
  /-- LIU (0x1E), R140. -/
  | liu (d : Opnd) (imm : BitVec 32)
  /-- LIH (0x1F), R140. -/
  | lih (d : Opnd) (imm : BitVec 32)
  /-- AGEN (0x20), R141. -/
  | agen (sf : BitVec 3) (sg : Bool) (d a b : Opnd)
  /-- AGENI (0x21), R141. -/
  | ageni (d a : Opnd) (imm : BitVec 18)
  /-- LD (0x22), R142. -/
  | ld (d a : Opnd) (imm : BitVec 18)
  /-- ST (0x23), R142. -/
  | st (d a : Opnd) (imm : BitVec 18)
  /-- SPILL (0x24), R142. -/
  | spill (d a : Opnd) (imm : BitVec 18)
  /-- FILL (0x25), R142. -/
  | fill (d a : Opnd) (imm : BitVec 18)
  /-- BR (0x26), R147. -/
  | br (cond : BitVec 3) (a : Opnd) (off : BitVec 24)
  /-- CALL (0x27), R148. -/
  | call (a : Opnd) (off : BitVec 24)
  /-- RET (0x28), R148. -/
  | ret (a : Opnd)
  /-- BRX (0x29), R148. -/
  | brx (a : Opnd) (off : BitVec 24)
  /-- LOOP (0x2A), R153. -/
  | loop (lvl : BitVec 2) (per : BitVec 20)
  /-- ENDL (0x2B), R153. -/
  | endl (lvl : BitVec 2)
  /-- CUE (0x2C), R150. -/
  | cue (a : Opnd) (off : BitVec 8)
  /-- HOLD (0x2D), R149. -/
  | hold
  /-- WAIT (0x2E), R94. -/
  | wait (n : BitVec 32)
  /-- AWAIT (0x2F), R152. -/
  | await (mask : BitVec 16)
  /-- ENDSTEP (0x30), R155. -/
  | endstep
  /-- MFSR (0x31), R156. -/
  | mfsr (d : Opnd) (num : BitVec 10)
  /-- MTSR (0x32), R157. -/
  | mtsr (num : BitVec 10) (a : Opnd)
  /-- ABS (0x33), R135. -/
  | abs (sg : Bool) (d a : Opnd)
  /-- NEG (0x34), R135. -/
  | neg (sg : Bool) (d a : Opnd)
  /-- ADDS (0x35), R132. -/
  | adds (sg : Bool) (d a b : Opnd)
  /-- SUBS (0x36), R132. -/
  | subs (sg : Bool) (d a b : Opnd)
  /-- MULI (0x37), R139. -/
  | muli (d a : Opnd) (imm : BitVec 18)
  /-- CTZ (0x38), R135. -/
  | ctz (d a : Opnd)
  /-- BREV (0x39), R135. -/
  | brev (d a : Opnd)
  /-- CRCX (0x3A), R144. -/
  | crcx (d a b : Opnd)
  /-- ROLLK (0x3B), R145. -/
  | rollk (d a b : Opnd)
  /-- KTOX (0x3C), R146. -/
  | ktox (hi : Bool) (k : BitVec 3) (d : Opnd)
  /-- XTOK (0x3D), R146. -/
  | xtok (hi : Bool) (k : BitVec 3) (a : Opnd)
  /-- BTST (0x3E), R137. -/
  | btst (sg : Bool) (d a b : Opnd)
  /-- MOVC (0x3F), R138. -/
  | movc (sg : Bool) (d a b : Opnd)
  /-- VADD (0x40), R160. -/
  | vadd (sg : Bool) (k : BitVec 3) (d a b : Opnd)
  /-- VSUB (0x41), R160. -/
  | vsub (sg : Bool) (k : BitVec 3) (d a b : Opnd)
  /-- VMUL (0x42), R160. -/
  | vmul (sg : Bool) (k : BitVec 3) (d a b : Opnd)
  /-- VMULH (0x43), R160. -/
  | vmulh (sg : Bool) (k : BitVec 3) (d a b : Opnd)
  /-- VMIN (0x44), R160. -/
  | vmin (sg : Bool) (k : BitVec 3) (d a b : Opnd)
  /-- VMAX (0x45), R160. -/
  | vmax (sg : Bool) (k : BitVec 3) (d a b : Opnd)
  /-- VAND (0x46), R160. -/
  | vand (sg : Bool) (k : BitVec 3) (d a b : Opnd)
  /-- VOR (0x47), R160. -/
  | vor (sg : Bool) (k : BitVec 3) (d a b : Opnd)
  /-- VXOR (0x48), R160. -/
  | vxor (sg : Bool) (k : BitVec 3) (d a b : Opnd)
  /-- VANDN (0x49), R160. -/
  | vandn (sg : Bool) (k : BitVec 3) (d a b : Opnd)
  /-- VSHL (0x4A), R160. -/
  | vshl (sg : Bool) (k : BitVec 3) (d a b : Opnd)
  /-- VSHR (0x4B), R160. -/
  | vshr (sg : Bool) (k : BitVec 3) (d a b : Opnd)
  /-- VABS (0x4C), R160. -/
  | vabs (sg : Bool) (k : BitVec 3) (d a : Opnd)
  /-- VNEG (0x4D), R160. -/
  | vneg (sg : Bool) (k : BitVec 3) (d a : Opnd)
  /-- VADDS (0x4E), R160. -/
  | vadds (sg : Bool) (k : BitVec 3) (d a b : Opnd)
  /-- VSUBS (0x4F), R160. -/
  | vsubs (sg : Bool) (k : BitVec 3) (d a b : Opnd)
  /-- VFADD (0x50), R162. -/
  | vfadd (fmt : BitVec 4) (rnd : BitVec 2) (k : BitVec 3) (d a b : Opnd)
  /-- VFSUB (0x51), R162. -/
  | vfsub (fmt : BitVec 4) (rnd : BitVec 2) (k : BitVec 3) (d a b : Opnd)
  /-- VFMUL (0x52), R162. -/
  | vfmul (fmt : BitVec 4) (rnd : BitVec 2) (k : BitVec 3) (d a b : Opnd)
  /-- VFMA (0x53), R162. -/
  | vfma (fmt : BitVec 4) (rnd : BitVec 2) (k : BitVec 3) (d a b c : Opnd)
  /-- VFMS (0x54), R162. -/
  | vfms (fmt : BitVec 4) (rnd : BitVec 2) (k : BitVec 3) (d a b c : Opnd)
  /-- VFNMA (0x55), R162. -/
  | vfnma (fmt : BitVec 4) (rnd : BitVec 2) (k : BitVec 3) (d a b c : Opnd)
  /-- VFNMS (0x56), R162. -/
  | vfnms (fmt : BitVec 4) (rnd : BitVec 2) (k : BitVec 3) (d a b c : Opnd)
  /-- VFMIN (0x57), R163. -/
  | vfmin (fmt : BitVec 4) (k : BitVec 3) (d a b : Opnd)
  /-- VFMAX (0x58), R163. -/
  | vfmax (fmt : BitVec 4) (k : BitVec 3) (d a b : Opnd)
  /-- VFABS (0x59), R163. -/
  | vfabs (fmt : BitVec 4) (k : BitVec 3) (d a : Opnd)
  /-- VFNEG (0x5A), R163. -/
  | vfneg (fmt : BitVec 4) (k : BitVec 3) (d a : Opnd)
  /-- VSQRT (0x5B), R164. -/
  | vsqrt (fmt : BitVec 4) (rnd : BitVec 2) (k : BitVec 3) (d a : Opnd)
  /-- VRCP (0x5C), R164. -/
  | vrcp (fmt : BitVec 4) (rnd : BitVec 2) (k : BitVec 3) (d a : Opnd)
  /-- VRSQ (0x5D), R164. -/
  | vrsq (fmt : BitVec 4) (rnd : BitVec 2) (k : BitVec 3) (d a : Opnd)
  /-- VEXP2 (0x5E), R164. -/
  | vexp2 (fmt : BitVec 4) (rnd : BitVec 2) (k : BitVec 3) (d a : Opnd)
  /-- VLOG2 (0x5F), R164. -/
  | vlog2 (fmt : BitVec 4) (rnd : BitVec 2) (k : BitVec 3) (d a : Opnd)
  /-- VCMP (0x60), R165. -/
  | vcmp (cc : BitVec 3) (sg : Bool) (k kd : BitVec 3) (a b : Opnd)
  /-- VFCMP (0x61), R165. -/
  | vfcmp (cc : BitVec 3) (fmt : BitVec 4) (k kd : BitVec 3) (a b : Opnd)
  /-- KAND (0x62), R166. -/
  | kand (kd ka kb : BitVec 3)
  /-- KOR (0x63), R166. -/
  | kor (kd ka kb : BitVec 3)
  /-- KXOR (0x64), R166. -/
  | kxor (kd ka kb : BitVec 3)
  /-- KNOT (0x65), R166. -/
  | knot (kd ka : BitVec 3)
  /-- KPOPC (0x66), R166. -/
  | kpopc (d : Opnd) (ka : BitVec 3)
  /-- VSEL (0x67), R167. -/
  | vsel (k : BitVec 3) (d a b : Opnd)
  /-- VCVT (0x68), R168. -/
  | vcvt (dst src : BitVec 4) (rnd : BitVec 2) (k : BitVec 3) (d a : Opnd)
  /-- VCVTFI (0x69), R168. -/
  | vcvtfi (dst src : BitVec 4) (rnd : BitVec 2) (k : BitVec 3) (d a : Opnd)
  /-- VCVTIF (0x6A), R168. -/
  | vcvtif (dst src : BitVec 4) (rnd : BitVec 2) (k : BitVec 3) (d a : Opnd)
  /-- VCVTII (0x6B), R168. -/
  | vcvtii (sat : Bool) (dst src : BitVec 4) (k : BitVec 3) (d a : Opnd)
  /-- VQNT (0x6C), R169. -/
  | vqnt (wid : BitVec 3) (adapt int sg : Bool) (d a c e : Opnd)
  /-- VXPD (0x6D), R170. -/
  | vxpd (sg : Bool) (fmt : BitVec 4) (rnd : BitVec 2) (d a c : Opnd)
  /-- VSPLAT (0x6E), R171. -/
  | vsplat (sg : Bool) (k : BitVec 3) (d a : Opnd)
  /-- VBCAST (0x6F), R171. -/
  | vbcast (k : BitVec 3) (d a b : Opnd)
  /-- VRED (0x70), R172. -/
  | vred (op : BitVec 3) (sg : Bool) (k : BitVec 3) (d a : Opnd)
  /-- VFRED (0x71), R173. -/
  | vfred (op : BitVec 2) (fmt : BitVec 4) (rnd : BitVec 2) (k : BitVec 3) (d a : Opnd)
  /-- VSCAN (0x72), R172. -/
  | vscan (op : BitVec 3) (sg : Bool) (k : BitVec 3) (d a : Opnd)
  /-- VFSCAN (0x73), R174. -/
  | vfscan (op : BitVec 2) (fmt : BitVec 4) (rnd : BitVec 2) (k : BitVec 3) (d a : Opnd)
  /-- VPERM (0x74), R171. -/
  | vperm (k : BitVec 3) (d a b : Opnd)
  /-- VROT (0x75), R171. -/
  | vrot (k : BitVec 3) (d a b : Opnd)
  /-- VCMPR (0x76), R171. -/
  | vcmpr (k : BitVec 3) (d a : Opnd)
  /-- VIOTA (0x77), R171. -/
  | viota (k : BitVec 3) (d : Opnd)
  /-- VLD (0x78), R175. -/
  | vld (d a : Opnd) (imm : BitVec 18)
  /-- VLDS (0x79), R176. -/
  | vlds (k : BitVec 3) (d a b : Opnd)
  /-- VLDX (0x7A), R176. -/
  | vldx (k : BitVec 3) (d a b : Opnd)
  /-- VST (0x7B), R175. -/
  | vst (d a : Opnd) (imm : BitVec 18)
  /-- VSTS (0x7C), R176. -/
  | vsts (k : BitVec 3) (d a b : Opnd)
  /-- VSTX (0x7D), R176. -/
  | vstx (k : BitVec 3) (d a b : Opnd)
  /-- VGETX (0x7E), R171. -/
  | vgetx (sg : Bool) (d a b : Opnd)
  /-- VMOV (0x7F), R160. -/
  | vmov (sg : Bool) (k : BitVec 3) (d a : Opnd)
  /-- FEEDA (0x80), R185. -/
  | feeda (cont mc : Bool) (e : BitVec 7) (cw kn : Opnd)
  /-- FEEDB (0x81), R185. -/
  | feedb (cont mc : Bool) (e : BitVec 7) (cw kn : Opnd)
  /-- FEEDAX (0x82), R187. -/
  | feedax (mc : Bool) (e : BitVec 7) (cw kn : Opnd)
  /-- FEEDBX (0x83), R187. -/
  | feedbx (mc : Bool) (e : BitVec 7) (cw kn : Opnd)
  /-- WINA (0x84), R195. -/
  | wina (e : BitVec 7) (cw kn : Opnd)
  /-- WINB (0x85), R195. -/
  | winb (e : BitVec 7) (cw kn : Opnd)
  /-- CROPA (0x86), R198. -/
  | cropa (e : BitVec 7) (cw : Opnd)
  /-- QCLR (0x87), R189. -/
  | qclr (qb rcu : Bool) (e : BitVec 7) (kn : Opnd)
  /-- MMA (0x88), R190. -/
  | mma (p : BitVec 6) (cw kn : Opnd)
  /-- MMAC (0x89), R190. -/
  | mmac (p : BitVec 6) (cw kn : Opnd)
  /-- ACLR (0x8A), R191. -/
  | aclr (e : BitVec 7) (kn : Opnd)
  /-- ALD (0x8B), R191. -/
  | ald (e : BitVec 7) (cw kn : Opnd)
  /-- ASAV (0x8C), R191. -/
  | asav (e : BitVec 7) (cw kn : Opnd)
  /-- DRN (0x8D), R193. -/
  | drn (e : BitVec 7) (cw kn : Opnd)
  /-- DRNA (0x8E), R193. -/
  | drna (e : BitVec 7) (cw kn : Opnd)
  /-- DRNF (0x8F), R193. -/
  | drnf (e : BitVec 7) (cw kn : Opnd)
  /-- WCFG (0x90), R194. -/
  | wcfg (cw kn : Opnd)
  /-- WPADV (0x91), R194. -/
  | wpadv (cw : Opnd)
  /-- BOXCFG (0x92), R197. -/
  | boxcfg (cw kn : Opnd)
  /-- POOLMX (0x93), R196. -/
  | poolmx (init fin : Bool) (e : BitVec 7) (cw kn : Opnd)
  /-- POOLAV (0x94), R196. -/
  | poolav (init fin : Bool) (e : BitVec 7) (cw kn : Opnd)
  /-- ASCL (0x95), R191. -/
  | ascl (rnd : BitVec 2) (e : BitVec 7) (cw kn : Opnd)
  /-- ABIAS (0x96), R191. -/
  | abias (rnd : BitVec 2) (e : BitVec 7) (cw kn : Opnd)
  /-- ACLMP (0x97), R191. -/
  | aclmp (e : BitVec 7) (cw kn : Opnd)
  /-- ARDV (0x98), R191. -/
  | ardv (e : BitVec 7) (cw kn : Opnd)
  /-- AWRV (0x99), R191. -/
  | awrv (e : BitVec 7) (cw kn : Opnd)
  /-- DRNR (0x9A), R193. -/
  | drnr (e : BitVec 7) (cw kn : Opnd)
  /-- MMAZ (0x9B), R190. -/
  | mmaz (p : BitVec 6) (cw kn : Opnd)
  /-- FEEDD (0x9C), R188. -/
  | feedd (qb : Bool) (e : BitVec 7) (cw kn : Opnd)
  /-- MCFG (0x9D), R192. -/
  | mcfg (cw : Opnd)
  /-- MSTAT (0x9E), R199. -/
  | mstat (kn : Opnd)
  /-- QSTAT (0x9F), R189. -/
  | qstat (kn : Opnd)
  /-- COPY (0xA0), R207. -/
  | copy (f : FcArgs)
  /-- COPYA (0xA1), R212. -/
  | copya (f : FcArgs)
  /-- SEQCFG (0xA2), R210. -/
  | seqcfg (slot : BitVec 3) (off : BitVec 15) (a : Opnd)
  /-- MCOPY (0xA3), R224. -/
  | mcopy (f : FcArgs)
  /-- TLFETCH (0xA4), R225. -/
  | tlfetch (f : FcArgs)
  /-- UCOPY (0xA5), R216. -/
  | ucopy (f : FcArgs)
  /-- GATH (0xA6), R218. -/
  | gath (f : FcArgs)
  /-- GATHS (0xA7), R221. -/
  | gaths (f : FcArgs)
  /-- SCAT (0xA8), R222. -/
  | scat (f : FcArgs)
  /-- SCATW (0xA9), R223. -/
  | scatw (f : FcArgs)
  /-- PIN (0xAA), R220. -/
  | pin (d a : Opnd) (beats : BitVec 12)
  /-- UNPIN (0xAB), R220. -/
  | unpin (d a : Opnd)
  /-- XFORM (0xAC), R226. -/
  | xform (f : FcArgs)
  /-- XFORMV (0xAD), R228. -/
  | xformv (f : FcArgs)
  /-- UFILL (0xAE), R216. -/
  | ufill (f : FcArgs)
  /-- XSTAT (0xAF), R229. -/
  | xstat (d a : Opnd)
  /-- ATADD (0xB0), R232. -/
  | atadd (sp : BitVec 3) (d a b : Opnd)
  /-- ATMIN (0xB1), R232. -/
  | atmin (flag : Bool) (sp : BitVec 3) (d a b : Opnd)
  /-- ATMAX (0xB2), R232. -/
  | atmax (flag : Bool) (sp : BitVec 3) (d a b : Opnd)
  /-- ATAND (0xB3), R232. -/
  | atand (sp : BitVec 3) (d a b : Opnd)
  /-- ATOR (0xB4), R232. -/
  | ator (sp : BitVec 3) (d a b : Opnd)
  /-- ATXOR (0xB5), R232. -/
  | atxor (sp : BitVec 3) (d a b : Opnd)
  /-- ATSWP (0xB6), R232. -/
  | atswp (sp : BitVec 3) (d a b : Opnd)
  /-- ATCAS (0xB7), R232. -/
  | atcas (sp : BitVec 3) (d a b c : Opnd)
  /-- ATFMIN (0xB8), R233. -/
  | atfmin (flag : Bool) (sp : BitVec 3) (d a b : Opnd)
  /-- ATFMAX (0xB9), R233. -/
  | atfmax (flag : Bool) (sp : BitVec 3) (d a b : Opnd)
  /-- ATFADD (0xBA), R233. -/
  | atfadd (flag : Bool) (sp : BitVec 3) (d a b : Opnd)
  /-- GONG_ARR (0xBB), R243. -/
  | gongArr (d a : Opnd) (n : BitVec 12)
  /-- GONG_WAIT (0xBC), R244. -/
  | gongWait (a : Opnd)
  /-- GONG_HDL (0xBD), R242. -/
  | gongHdl (flag : Bool) (sp : BitVec 3) (d a b : Opnd)
  /-- GONG_INIT (0xBE), R241. -/
  | gongInit (sp : BitVec 3) (a b : Opnd)
  /-- LSTEP (0xBF), R247. -/
  | lstep (lead : Bool) (d a b : Opnd)
  /-- LGRAPH (0xC0), R247. -/
  | lgraph (lead : Bool) (d a b : Opnd)
  /-- CMU_TAB (0xC1), R248. -/
  | cmuTab (a : Opnd) (tag : BitVec 4)
  /-- CMU_FRM (0xC2), R248. -/
  | cmuFrm (a : Opnd) (tag : BitVec 4)
  /-- MPB (0xC3), R252. -/
  | mpb (a : Opnd) (tag : BitVec 4)
  /-- BEL_LOOK (0xC4), R248. -/
  | belLook (a : Opnd) (tag : BitVec 4)
  /-- BEL_DEP (0xC5), R248. -/
  | belDep (a : Opnd) (tag : BitVec 4)
  /-- BEL_RES (0xC6), R248. -/
  | belRes (a : Opnd) (tag : BitVec 4)
  /-- BEL_PIN (0xC7), R248. -/
  | belPin (a : Opnd) (tag : BitVec 4)
  /-- ACT (0xC8), R262. -/
  | act (bank : BitVec 4) (row : BitVec 16)
  /-- RD (0xC9), R263. -/
  | rd (bank : BitVec 4) (col : BitVec 5) (beat : BitVec 13)
  /-- WR (0xCA), R263. -/
  | wr (bank : BitVec 4) (col : BitVec 5) (beat : BitVec 13)
  /-- PRE (0xCB), R265. -/
  | pre (bank : BitVec 4)
  /-- PREA (0xCC), R265. -/
  | prea
  /-- REFPB (0xCD), R266. -/
  | refpb (bank : BitVec 4)
  /-- RDA (0xCE), R263. -/
  | rda (bank : BitVec 4) (col : BitVec 5) (beat : BitVec 13)
  /-- WRA (0xCF), R263. -/
  | wra (bank : BitVec 4) (col : BitVec 5) (beat : BitVec 13)
  /-- RING_SET (0xD0), R267. -/
  | ringSet (base : BitVec 16) (lines : BitVec 13) (rank : BitVec 6)
  /-- RING_SEEK (0xD1), R267. -/
  | ringSeek (rows : BitVec 16) (beat : BitVec 13)
  /-- RING_ADV (0xD2), R267. -/
  | ringAdv (rows : BitVec 16) (beat : BitVec 13)
  /-- RING_GONG (0xD3), R268. -/
  | ringGong (beat : BitVec 13)
  /-- WRM (0xD4), R263. -/
  | wrm (bank : BitVec 4) (col : BitVec 5) (beat : BitVec 13) (mask : BitVec 8)
  /-- RDZ (0xD5), R263. -/
  | rdz (bank : BitVec 4) (col : BitVec 5)
  /-- WRZ (0xD6), R263. -/
  | wrz (bank : BitVec 4) (col : BitVec 5)
  /-- DMARK (0xD7), R269. -/
  | dmark (beat : BitVec 13) (code : BitVec 8)
  /-- NOP (0xD8), R277. -/
  | nop
  /-- TRAP (0xD9), R278. -/
  | trap (code : BitVec 10)
  /-- TRAPNZ (0xDA), R278. -/
  | trapnz (a : Opnd) (code : BitVec 10)
  /-- BRK (0xDB), R279. -/
  | brk (code : BitVec 10)
  /-- SVC (0xDC), R280. -/
  | svc (d a : Opnd) (code : BitVec 10)
  /-- EVENT (0xDD), R281. -/
  | event (d a : Opnd) (code : BitVec 10)
  /-- CKMARK (0xDE), R282. -/
  | ckmark (code : BitVec 10)
  /-- ILL (0xDF), R277. -/
  | ill (body : BitVec 46)
  /-- UNASSIGNED_OPCODE, R129. -/
  | unassignedOpcode (op : BitVec 8)
  /-- STEP_OVERRUN, R22. -/
  | stepOverrun (g : Nat)
  /-- ABANDONMENT_FINISH, R41. -/
  | abandonmentFinish (g : Nat)
  /-- TRAP_RECORD, R284. -/
  | trapRecord (g : Nat)
  /-- STEP_COMPLETION, R26. -/
  | stepCompletion (g : Nat)
  /-- FLAG_AREA_WRITE, R327. -/
  | flagAreaWrite (job : Nat)
  /-- SEGMENT_RELEASE, R96. -/
  | segmentRelease (g : Nat)
  /-- LOOP_ITERATION_START, R97. -/
  | loopIterationStart (g rank : Nat) (strm : StreamId)
  /-- DYNAMIC_WAIT_END, R151. -/
  | dynamicWaitEnd (g rank : Nat)
  /-- WAIT_BUDGET_EXHAUSTED, R151. -/
  | waitBudgetExhausted (g rank : Nat)
  /-- UNTIMED_BEAT_LANDING, R215. -/
  | untimedBeatLanding (req move : Nat)
  /-- UNTIMED_COMPLETION, R213. -/
  | untimedCompletion (req : Nat) (cancelled : Bool)
  /-- TRACE_FORWARD, R281. -/
  | traceForward (core : Nat)
  /-- REFRESH_ACCRUAL, R270. -/
  | refreshAccrual (pch bank : Nat)
  /-- BASE_DIE_REFRESH, R271. -/
  | baseDieRefresh (pch bank : Nat)
  /-- ABANDON_PRECHARGE, R273. -/
  | abandonPrecharge (pch bank : Nat)
  /-- POOLED_SLOT, R301. -/
  | pooledSlot (pch : Nat)
  /-- SCRUB, R390. -/
  | scrub (key : Nat)
  /-- DISPATCH_SLOT, R331. -/
  | dispatchSlot
  /-- STAGING_CHECK, R335. -/
  | stagingCheck (g : Nat)
  /-- DOWNBEAT, R335. -/
  | downbeat (g : Nat)
  /-- WAITER_RELEASE, R338. -/
  | waiterRelease (stepId : Nat)
  /-- FUTURE_RESOLVED, R306. -/
  | futureResolved (root va : Nat) (entry : BitVec 64)
  /-- REGION_RESIDENT, R338. -/
  | regionResident (job lreg pch : Nat) (rows : List Nat)
  /-- PREEMPTION, R337. -/
  | preemption (op : Nat)
  /-- AFFINITY_HOLD_EXPIRY, R337. -/
  | affinityHoldExpiry (op : Nat)
  /-- HANG_TIMEOUT, R341. -/
  | hangTimeout
  /-- QUEUE_RECORD_WRITE, R328. -/
  | queueRecordWrite (q : Nat) (rec : BitVec 128)
  /-- VERSION_REGISTER, R324. -/
  | versionRegister (rec : BitVec 512)
  /-- PCH_MODE_CHANGE, R300. -/
  | pchModeChange (pch : Nat) (mode : PchMode)
  /-- LAUNCH_PACKET, R405. -/
  | launchPacket (off : Nat) (bytes : List Byte)
  /-- FRAME_PACKET, R407. -/
  | framePacket (q : Nat) (bytes : List Byte)
  /-- ACCESS_UNIT_CONSUMED, R408. -/
  | accessUnitConsumed (stream : Nat)
  /-- FRAME_OUTPUT, R345, of the output frame numbered `pic` since the stream started afresh. -/
  | frameOutput (stream pic : Nat)
  /-- FRAME_GONG_ARRIVAL, R350. -/
  | frameGongArrival (stream : Nat)
  /-- STREAM_OPEN, R346. -/
  | streamOpen (stream engine codec q rate : Nat) (gong : BitVec 64)
  /-- LAYER_TABLE_LOAD, R351. -/
  | layerTableLoad (req : Nat)
  /-- FRAME_SCORING, R356. -/
  | frameScoring (req : Nat)
  /-- BELFRY_DEPOSIT, R373. -/
  | belfryDeposit (req : Nat)
  /-- DEPOSIT_COPY_DONE, R374. -/
  | depositCopyDone (req : Nat)
  /-- BELFRY_LOOKUP, R375. -/
  | belfryLookup (req : Nat)
  /-- BELFRY_RESUMPTION, R376. -/
  | belfryResumption (req : Nat)
  /-- BELFRY_PIN, R377. -/
  | belfryPin (req : Nat)
  /-- ROW_REPAIR, R394. -/
  | rowRepair (pch bank row : Nat) (hard : Bool)
  /-- DIE_SUBSTITUTION, R395. -/
  | dieSubstitution (die : Nat)
  /-- SUBSTITUTION_END, R395. -/
  | substitutionEnd (die : Nat)
  /-- DIE_ABSENT, R396. -/
  | dieAbsent (die : Nat)
  /-- HOST_WINDOW_WRITE, R314. -/
  | hostWindowWrite (off : Nat) (bytes : List Byte)
  /-- HOST_WINDOW_READ, R401. -/
  | hostWindowRead (off len : Nat)
  /-- INVGO, R415. -/
  | invgo (val : BitVec 64)
  /-- INVALIDATION_DONE, R415. -/
  | invalidationDone
  /-- ECONS, R413. -/
  | econs (ring : Nat) (val : BitVec 64)
  /-- RCTL_GO, R423. -/
  | rctlGo (val : BitVec 64)
  /-- REGISTER_WRITE, R402. -/
  | registerWrite (bar off : Nat) (val : BitVec 64)
  /-- GET_VERSION, R421. -/
  | getVersion
  /-- GET_CAPABILITIES, R421. -/
  | getCapabilities
  /-- NEGOTIATE_ALGORITHMS, R421. -/
  | negotiateAlgorithms (hash asym : BitVec 32)
  /-- GET_DIGESTS, R421. -/
  | getDigests
  /-- GET_CERTIFICATE, R421. -/
  | getCertificate (slot off len : Nat)
  /-- CHALLENGE, R421. -/
  | challenge (slot : Nat) (nonce : BitVec 256)
  /-- GET_MEASUREMENTS, R421. -/
  | getMeasurements (index : Nat) (nonce : BitVec 256)
  /-- CONFIGURATION_REQUEST, R422. -/
  | configurationRequest (write : Bool) (reg : Nat) (val : BitVec 32)
  /-- COLD_RESET, R422. -/
  | coldReset
  /-- BOOT_STAGE, R422. -/
  | bootStage (imgs : List Image)
  /-- FUNCTION_LEVEL_RESET, R424. -/
  | functionLevelReset
  /-- THERMAL_HOLD, R426. -/
  | thermalHold (tempC : Nat)
  /-- THERMAL_HOLD_END, R426. -/
  | thermalHoldEnd (tempC : Nat)
  /-- POWER_HOLD, R426. -/
  | powerHold (watts : Nat)
  /-- POWER_HOLD_END, R426. -/
  | powerHoldEnd (watts : Nat)
  /-- THERMAL_SHUTDOWN, R426. -/
  | thermalShutdown
  /-- JOB_ABORT, R326. -/
  | jobAbort (job : Nat)
  /-- LINE_REMAP, R393. -/
  | lineRemap (unit : Nat)
  deriving DecidableEq, Repr

end Sys2Proof
end

