-- ==== Sys2Proof/WellFormed.lean ====
section
/-! DEFINITION. Well-formedness: the operand widths, field values and code values each instruction accepts (R115, R116
and each instruction's rule). A word that breaks one traps with cause 2; `wfFirst` judges the first word's fields and
`wfCont` those that R286 blames on the continuation word. -/
namespace Sys2Proof

/-- The width in bits (R90). -/
def Opnd.width (o : Opnd) : Nat := 4 * (o.wcode.toNat + 1)

/-- The width in slices. -/
def Opnd.slices (o : Opnd) : Nat := o.wcode.toNat + 1

/-- The operand lies inside its file (R90). -/
def Opnd.inFile (o : Opnd) : Bool := o.start.toNat + o.slices ≤ 1024

/-- The width is a whole number of bytes. -/
def Opnd.wholeBytes (o : Opnd) : Bool := o.width % 8 == 0

/-- The width of a format code in bits (R119, R55, R56); described blocks have none. -/
def fmtBits : Nat → Nat
  | 0 => 32 | 1 => 16 | 2 => 16 | 3 => 8 | 4 => 8 | 5 => 16 | 6 => 16 | 7 => 32 | 8 => 64 | _ => 0

/-- The operand has exactly its format's width (R161, R168). -/
def Opnd.fmtWidth (o : Opnd) (f : BitVec 4) : Bool := o.width == fmtBits f.toNat

/-- FP32, FP16 or BF16 (R161). -/
def floatFmt (f : BitVec 4) : Bool := f.toNat ≤ 2

/-- An integer format 3 to 8 (R168). -/
def intFmt (f : BitVec 4) : Bool := 3 ≤ f.toNat && f.toNat ≤ 8

/-- An operand of the width of a format that the instruction takes; a format it does not take is the continuation's fault (R286). -/
def Opnd.floatWidth (o : Opnd) (f : BitVec 4) : Bool := !floatFmt f || o.fmtWidth f
def Opnd.intWidth (o : Opnd) (f : BitVec 4) : Bool := !intFmt f || o.fmtWidth f

/-- The step registers of R32. -/
def srPresent (n : Nat) : Bool := n ≤ 5 || (8 ≤ n && n ≤ 13) || (16 ≤ n && n ≤ 21)

/-- The spaces of an atomic (R230). -/
def atSpace (sp : BitVec 3) : Bool := sp == 0 || sp == 2

/-- The spaces of a gong (R239). -/
def gongSpace (sp : BitVec 3) : Bool := sp == 0 || sp == 2 || sp == 3

/-- cm, vt, pc or hv (R124). -/
def memSpace (sp : BitVec 3) : Bool := sp == 0 || sp == 2 || sp == 3 || sp == 4

/-- An address operand of 32 or 64 bits (R230, R241, R248). -/
def addrWidth (o : Opnd) : Bool := o.wcode == 7 || o.wcode == 15

/-- 8, 16, 32 or 64 bits (R230). -/
def powWidth (o : Opnd) : Bool := o.wcode == 1 || o.wcode == 3 || o.wcode == 7 || o.wcode == 15

namespace FcArgs

/-- IN and OUT, nothing else (R203). -/
def modOk (f : FcArgs) : Bool :=
  f.mod.extractLsb' 2 2 == 0 && (if f.hv then f.mod.extractLsb' 0 2 != 0 else f.mod.extractLsb' 0 2 == 0)

/-- The handle operand (R124, R203). -/
def handleOk (f : FcArgs) : Bool := if f.hv then f.hd.wcode == 15 else f.hd == Opnd.zero

/-- The space pairs of COPY and COPYA (R201). -/
def timedPair (f : FcArgs) : Bool :=
  (f.dsp == 0 && f.ssp == 0) || (f.dsp == 1 && f.ssp == 0) || (f.dsp == 2 && f.ssp == 0) || (f.dsp == 0 && f.ssp == 2)
    || (f.dsp == 3 && f.ssp == 0) || (f.dsp == 0 && f.ssp == 3)

/-- The space pairs of MCOPY (R201). -/
def mcopyPair (f : FcArgs) : Bool := (f.dsp == 4 || f.dsp == 2) && (f.ssp == 4 || f.ssp == 2)

/-- The space pairs of UCOPY (R201). -/
def ucopyPair (f : FcArgs) : Bool := (memSpace f.dsp && memSpace f.ssp) || (f.dsp == 1 && (f.ssp == 0 || f.ssp == 4))

/-- COPY variants 0 to 4; 1 to 4 only from cm to cm (R207). -/
def copyVar (f : FcArgs) : Bool := f.var.toNat ≤ 4 && (f.var == 0 || (f.dsp == 0 && f.ssp == 0))

def fmts (f : FcArgs) : Nat := (f.aux.extractLsb' 0 4).toNat
def fmtd (f : FcArgs) : Nat := (f.aux.extractLsb' 4 4).toNat
def rnd (f : FcArgs) : BitVec 2 := f.aux.extractLsb' 8 2
def es (f : FcArgs) : Nat := (f.aux.extractLsb' 11 2).toNat

/-- The AUX field of COPY by variant (R207); bits 16:13 and 10 are reserved. -/
def copyAux (f : FcArgs) : Bool :=
  f.aux.extractLsb' 13 4 == 0 && !f.aux.getLsbD 10 &&
  match f.var.toNat with
  | 0 => f.aux == 0
  | 1 => f.rnd == 0 && f.es == 0 && ([(5, 3), (6, 4), (0, 1), (0, 2), (7, 5)].contains (f.fmtd, f.fmts))
  | 2 => f.es == 0 && ([(1, 0), (2, 0), (5, 7), (3, 5), (4, 5)].contains (f.fmtd, f.fmts)) && (f.fmts == 0 || f.rnd == 0)
  | 3 => f.rnd == 0 && f.es == 0 && f.fmts == 9 && (f.fmtd == 3 || f.fmtd == 4)
  | 4 => f.rnd == 0 && f.fmts == 0 && f.fmtd == 0
  | _ => false

/-- First-word fields of XFORM and XFORMV (R226): VAR 0 to 5, the parameter operand, S only for unpack and rqnt. -/
def xformFirst (f : FcArgs) : Bool :=
  f.var.toNat ≤ 5 && f.sa.wcode == 15 && f.mod.extractLsb' 0 3 == 0 && (!f.mod.getLsbD 3 || 4 ≤ f.var.toNat)

/-- Continuation fields of XFORM and XFORMV (R226): no handle; the format only for addc. -/
def xformCont (f : FcArgs) : Bool :=
  !f.hv && f.hd == Opnd.zero && f.aux.extractLsb' 4 13 == 0 &&
  (if f.var == 1 then f.fmts == 0 || f.fmts == 3 || f.fmts == 5 || f.fmts == 7 else f.fmts == 0)

end FcArgs

namespace Instr

/-- The first word's operands, widths and codes. -/
def wfFirst : Instr → Bool
  | .add _ d a b => d.inFile && a.inFile && b.inFile
  | .sub _ d a b => d.inFile && a.inFile && b.inFile
  | .mul _ d a b => d.inFile && a.inFile && b.inFile
  | .mulh _ d a b => d.inFile && a.inFile && b.inFile
  | .div _ d a b => d.inFile && a.inFile && b.inFile
  | .rem _ d a b => d.inFile && a.inFile && b.inFile
  | .min _ d a b => d.inFile && a.inFile && b.inFile
  | .max _ d a b => d.inFile && a.inFile && b.inFile
  | .and _ d a b => d.inFile && a.inFile && b.inFile
  | .or _ d a b => d.inFile && a.inFile && b.inFile
  | .xor _ d a b => d.inFile && a.inFile && b.inFile
  | .andn _ d a b => d.inFile && a.inFile && b.inFile
  | .shl _ d a b => d.inFile && a.inFile && b.inFile
  | .shr _ d a b => d.inFile && a.inFile && b.inFile
  | .rot _ d a b => d.inFile && a.inFile && b.inFile
  | .clz d a => d.inFile && a.inFile
  | .popc d a => d.inFile && a.inFile
  | .extr _ d a b => d.inFile && a.inFile && b.inFile
  | .insr _ d a b => d.inFile && a.inFile && b.inFile
  | .cmp sf _ d a b => d.inFile && a.inFile && b.inFile && sf.toNat ≤ 5
  | .sel _ d a b _ => d.inFile && a.inFile && b.inFile
  | .mov _ d a => d.inFile && a.inFile
  | .addi d a _ => d.inFile && a.inFile
  | .andi d a _ => d.inFile && a.inFile
  | .ori d a _ => d.inFile && a.inFile
  | .xori d a _ => d.inFile && a.inFile
  | .shli _ _ d a => d.inFile && a.inFile
  | .shri _ _ d a => d.inFile && a.inFile
  | .cmpi d a _ => d.inFile && a.inFile
  | .li d _ => d.inFile
  | .liu d _ => d.inFile
  | .lih d _ => d.inFile && d.wcode == 15
  | .agen _ _ d a b => d.inFile && a.inFile && b.inFile
  | .ageni d a _ => d.inFile && a.inFile
  | .ld d a _ => d.inFile && a.inFile && d.wholeBytes
  | .st d a _ => d.inFile && a.inFile && d.wholeBytes
  | .spill d a _ => d.inFile && a.inFile
  | .fill d a _ => d.inFile && a.inFile
  | .br cond a _ => a.inFile && cond != 7 && (cond != 0 || a == Opnd.zero)
  | .call a _ => a.inFile && 3 ≤ a.wcode.toNat
  | .ret a => a.inFile && 3 ≤ a.wcode.toNat
  | .brx a _ => a.inFile && 3 ≤ a.wcode.toNat
  | .loop _ _ => true
  | .endl _ => true
  | .cue a _ => a.inFile && a.wcode == 15
  | .hold => true
  | .wait _ => true
  | .await _ => true
  | .endstep => true
  | .mfsr d num => d.inFile && srPresent num.toNat
  | .mtsr num a => a.inFile && srPresent num.toNat
  | .abs _ d a => d.inFile && a.inFile
  | .neg _ d a => d.inFile && a.inFile
  | .adds _ d a b => d.inFile && a.inFile && b.inFile
  | .subs _ d a b => d.inFile && a.inFile && b.inFile
  | .muli d a _ => d.inFile && a.inFile
  | .ctz d a => d.inFile && a.inFile
  | .brev d a => d.inFile && a.inFile
  | .crcx d a b => d.inFile && a.inFile && b.inFile && d.wcode == 15 && a.wcode == 15 && b.wholeBytes
  | .rollk d a b => d.inFile && a.inFile && b.inFile && d.wcode == 15 && a.wcode == 15 && b.wcode == 15
  | .ktox _ _ d => d.inFile
  | .xtok _ _ a => a.inFile
  | .btst _ d a b => d.inFile && a.inFile && b.inFile
  | .movc _ d a b => d.inFile && a.inFile && b.inFile
  | .vadd _ _ d a b => d.inFile && a.inFile && b.inFile
  | .vsub _ _ d a b => d.inFile && a.inFile && b.inFile
  | .vmul _ _ d a b => d.inFile && a.inFile && b.inFile
  | .vmulh _ _ d a b => d.inFile && a.inFile && b.inFile
  | .vmin _ _ d a b => d.inFile && a.inFile && b.inFile
  | .vmax _ _ d a b => d.inFile && a.inFile && b.inFile
  | .vand _ _ d a b => d.inFile && a.inFile && b.inFile
  | .vor _ _ d a b => d.inFile && a.inFile && b.inFile
  | .vxor _ _ d a b => d.inFile && a.inFile && b.inFile
  | .vandn _ _ d a b => d.inFile && a.inFile && b.inFile
  | .vshl _ _ d a b => d.inFile && a.inFile && b.inFile
  | .vshr _ _ d a b => d.inFile && a.inFile && b.inFile
  | .vabs _ _ d a => d.inFile && a.inFile
  | .vneg _ _ d a => d.inFile && a.inFile
  | .vadds _ _ d a b => d.inFile && a.inFile && b.inFile
  | .vsubs _ _ d a b => d.inFile && a.inFile && b.inFile
  | .vfadd fmt _ _ d a b => d.inFile && a.inFile && b.inFile && d.floatWidth fmt && a.floatWidth fmt && b.floatWidth fmt
  | .vfsub fmt _ _ d a b => d.inFile && a.inFile && b.inFile && d.floatWidth fmt && a.floatWidth fmt && b.floatWidth fmt
  | .vfmul fmt _ _ d a b => d.inFile && a.inFile && b.inFile && d.floatWidth fmt && a.floatWidth fmt && b.floatWidth fmt
  | .vfma fmt _ _ d a b _ => d.inFile && a.inFile && b.inFile && d.floatWidth fmt && a.floatWidth fmt && b.floatWidth fmt
  | .vfms fmt _ _ d a b _ => d.inFile && a.inFile && b.inFile && d.floatWidth fmt && a.floatWidth fmt && b.floatWidth fmt
  | .vfnma fmt _ _ d a b _ => d.inFile && a.inFile && b.inFile && d.floatWidth fmt && a.floatWidth fmt && b.floatWidth fmt
  | .vfnms fmt _ _ d a b _ => d.inFile && a.inFile && b.inFile && d.floatWidth fmt && a.floatWidth fmt && b.floatWidth fmt
  | .vfmin fmt _ d a b => d.inFile && a.inFile && b.inFile && d.floatWidth fmt && a.floatWidth fmt && b.floatWidth fmt
  | .vfmax fmt _ d a b => d.inFile && a.inFile && b.inFile && d.floatWidth fmt && a.floatWidth fmt && b.floatWidth fmt
  | .vfabs fmt _ d a => d.inFile && a.inFile && d.floatWidth fmt && a.floatWidth fmt
  | .vfneg fmt _ d a => d.inFile && a.inFile && d.floatWidth fmt && a.floatWidth fmt
  | .vsqrt fmt _ _ d a => d.inFile && a.inFile && d.floatWidth fmt && a.floatWidth fmt
  | .vrcp fmt _ _ d a => d.inFile && a.inFile && d.floatWidth fmt && a.floatWidth fmt
  | .vrsq fmt _ _ d a => d.inFile && a.inFile && d.floatWidth fmt && a.floatWidth fmt
  | .vexp2 fmt _ _ d a => d.inFile && a.inFile && d.floatWidth fmt && a.floatWidth fmt
  | .vlog2 fmt _ _ d a => d.inFile && a.inFile && d.floatWidth fmt && a.floatWidth fmt
  | .vcmp cc _ _ _ a b => a.inFile && b.inFile && cc.toNat ≤ 5
  | .vfcmp _ fmt _ _ a b => a.inFile && b.inFile && a.floatWidth fmt && b.floatWidth fmt
  | .kand _ _ _ => true
  | .kor _ _ _ => true
  | .kxor _ _ _ => true
  | .knot _ _ => true
  | .kpopc d _ => d.inFile && 1 ≤ d.wcode.toNat
  | .vsel _ d a b => d.inFile && a.inFile && b.inFile && d.wcode == a.wcode && d.wcode == b.wcode
  | .vcvt dst src _ _ d a => d.inFile && a.inFile && d.floatWidth dst && a.floatWidth src
  | .vcvtfi dst src _ _ d a => d.inFile && a.inFile && d.intWidth dst && a.floatWidth src
  | .vcvtif dst src _ _ d a => d.inFile && a.inFile && d.floatWidth dst && a.intWidth src
  | .vcvtii _ dst src _ d a => d.inFile && a.inFile && d.intWidth dst && a.intWidth src
  | .vqnt _ _ _ _ d a _ _ => d.inFile && a.inFile && d.wcode == 7 && a.wcode == 7
  | .vxpd _ fmt _ d a _ => d.inFile && a.inFile && d.floatWidth fmt && a.wcode == 7
  | .vsplat _ _ d a => d.inFile && a.inFile
  | .vbcast _ d a b => d.inFile && a.inFile && b.inFile && d.wcode == a.wcode
  | .vred op _ _ d a => d.inFile && a.inFile && op.toNat ≤ 5
  | .vfred _ fmt _ _ d a => d.inFile && a.inFile && d.floatWidth fmt && a.floatWidth fmt
  | .vscan op _ _ d a => d.inFile && a.inFile && op.toNat ≤ 2
  | .vfscan _ fmt _ _ d a => d.inFile && a.inFile && d.floatWidth fmt && a.floatWidth fmt
  | .vperm _ d a b => d.inFile && a.inFile && b.inFile && d.wcode == a.wcode
  | .vrot _ d a b => d.inFile && a.inFile && b.inFile && d.wcode == a.wcode
  | .vcmpr _ d a => d.inFile && a.inFile && d.wcode == a.wcode
  | .viota _ d => d.inFile && 1 ≤ d.wcode.toNat
  | .vld d a _ => d.inFile && a.inFile && d.wholeBytes
  | .vlds _ d a b => d.inFile && a.inFile && b.inFile && d.wholeBytes
  | .vldx _ d a b => d.inFile && a.inFile && b.inFile && d.wholeBytes
  | .vst d a _ => d.inFile && a.inFile && d.wholeBytes
  | .vsts _ d a b => d.inFile && a.inFile && b.inFile && d.wholeBytes
  | .vstx _ d a b => d.inFile && a.inFile && b.inFile && d.wholeBytes
  | .vgetx _ d a b => d.inFile && a.inFile && b.inFile
  | .vmov _ _ d a => d.inFile && a.inFile
  | .feeda _ _ _ cw kn => cw.inFile && kn.inFile && cw.wcode == 15 && kn.wcode.toNat ≤ 7
  | .feedb _ _ _ cw kn => cw.inFile && kn.inFile && cw.wcode == 15 && kn.wcode.toNat ≤ 7
  | .feedax _ _ cw kn => cw.inFile && kn.inFile && cw.wcode == 15 && kn.wcode.toNat ≤ 7 && 4 ≤ kn.wcode.toNat
  | .feedbx _ _ cw kn => cw.inFile && kn.inFile && cw.wcode == 15 && kn.wcode.toNat ≤ 7 && 4 ≤ kn.wcode.toNat
  | .wina _ cw kn => cw.inFile && kn.inFile && cw.wcode == 15 && kn.wcode.toNat ≤ 7
  | .winb _ cw kn => cw.inFile && kn.inFile && cw.wcode == 15 && kn.wcode.toNat ≤ 7
  | .cropa _ cw => cw.inFile && cw.wcode == 15
  | .qclr _ _ _ kn => kn.inFile && kn.wcode.toNat ≤ 7
  | .mma _ cw kn => cw.inFile && kn.inFile && cw.wcode == 15 && kn.wcode.toNat ≤ 7
  | .mmac _ cw kn => cw.inFile && kn.inFile && cw.wcode == 15 && kn.wcode.toNat ≤ 7
  | .aclr _ kn => kn.inFile && kn.wcode.toNat ≤ 7
  | .ald _ cw kn => cw.inFile && kn.inFile && cw.wcode == 15 && kn.wcode.toNat ≤ 7
  | .asav _ cw kn => cw.inFile && kn.inFile && cw.wcode == 15 && kn.wcode.toNat ≤ 7
  | .drn _ cw kn => cw.inFile && kn.inFile && cw.wcode == 15 && kn.wcode.toNat ≤ 7
  | .drna _ cw kn => cw.inFile && kn.inFile && cw.wcode == 15 && kn.wcode.toNat ≤ 7
  | .drnf _ cw kn => cw.inFile && kn.inFile && cw.wcode == 15 && kn.wcode.toNat ≤ 7
  | .wcfg cw kn => cw.inFile && kn.inFile && cw.wcode == 15 && kn.wcode.toNat ≤ 7
  | .wpadv cw => cw.inFile && cw.wcode == 15
  | .boxcfg cw kn => cw.inFile && kn.inFile && cw.wcode == 15 && kn.wcode.toNat ≤ 7
  | .poolmx _ _ _ cw kn => cw.inFile && kn.inFile && cw.wcode == 15 && kn.wcode.toNat ≤ 7
  | .poolav _ _ _ cw kn => cw.inFile && kn.inFile && cw.wcode == 15 && kn.wcode.toNat ≤ 7
  | .ascl _ _ cw kn => cw.inFile && kn.inFile && cw.wcode == 15 && kn.wcode.toNat ≤ 7
  | .abias _ _ cw kn => cw.inFile && kn.inFile && cw.wcode == 15 && kn.wcode.toNat ≤ 7
  | .aclmp _ cw kn => cw.inFile && kn.inFile && cw.wcode == 15 && kn.wcode.toNat ≤ 7
  | .ardv _ cw kn => cw.inFile && kn.inFile && cw.wcode == 15 && kn.wcode.toNat ≤ 7
  | .awrv _ cw kn => cw.inFile && kn.inFile && cw.wcode == 15 && kn.wcode.toNat ≤ 7
  | .drnr _ cw kn => cw.inFile && kn.inFile && cw.wcode == 15 && kn.wcode.toNat ≤ 7
  | .mmaz _ cw kn => cw.inFile && kn.inFile && cw.wcode == 15 && kn.wcode.toNat ≤ 7
  | .feedd _ _ cw kn => cw.inFile && kn.inFile && cw.wcode == 15 && kn.wcode.toNat ≤ 7
  | .mcfg cw => cw.inFile && cw.wcode == 15
  | .mstat kn => kn.inFile && kn.wcode == 7
  | .qstat kn => kn.inFile && kn.wcode == 7
  | .copy f => f.da.inFile && f.sa.inFile && f.modOk && f.tag == 0 && f.timedPair && f.copyVar
  | .copya f => f.da.inFile && f.sa.inFile && f.modOk && f.tag == 0 && f.timedPair && f.var == 0
  | .seqcfg _ _ a => a.inFile
  | .mcopy f => f.da.inFile && f.sa.inFile && f.modOk && f.var == 0 && f.mcopyPair
  | .tlfetch f => f.da.inFile && f.sa.inFile && f.modOk && f.var.extractLsb' 1 3 == 0 && f.dsp == 0 && (f.ssp == 4 || f.ssp == 2)
  | .ucopy f => f.da.inFile && f.sa.inFile && f.modOk && f.var == 0 && f.ucopyPair
  | .gath f => f.da.inFile && f.sa.inFile && f.modOk && !f.var.getLsbD 3 && f.var.extractLsb' 1 2 != 3 && f.dsp == 0 && memSpace f.ssp
  | .gaths f => f.da.inFile && f.sa.inFile && f.modOk && f.var == 0 && f.ssp == 0 && (f.dsp == 2 || f.dsp == 3 || f.dsp == 4)
  | .scat f => f.da.inFile && f.sa.inFile && f.modOk && f.var == 0 && f.ssp == 0 && memSpace f.dsp
  | .scatw f => f.da.inFile && f.sa.inFile && f.modOk && f.var == 0 && f.dsp == 0 && memSpace f.ssp
  | .pin d a _ => d.inFile && a.inFile && a.wcode == 15
  | .unpin d a => d.inFile && a.inFile && a.wcode == 15
  | .xform f => f.da.inFile && f.sa.inFile && f.tag == 0 && f.dsp == 0 && f.ssp == 0 && f.xformFirst
  | .xformv f => f.da.inFile && f.sa.inFile && f.tag == 0 && f.dsp == 2 && f.ssp == 0 && f.xformFirst
  | .ufill f => f.da.inFile && f.sa.inFile && f.modOk && f.var == 0 && f.ssp == 0 && f.sa.wcode == 15 && memSpace f.dsp
  | .xstat d a => d.inFile && a.inFile
  | .atadd sp d a b => d.inFile && a.inFile && b.inFile && atSpace sp && addrWidth a && powWidth b && d.wcode == b.wcode
  | .atmin _ sp d a b => d.inFile && a.inFile && b.inFile && atSpace sp && addrWidth a && powWidth b && d.wcode == b.wcode
  | .atmax _ sp d a b => d.inFile && a.inFile && b.inFile && atSpace sp && addrWidth a && powWidth b && d.wcode == b.wcode
  | .atand sp d a b => d.inFile && a.inFile && b.inFile && atSpace sp && addrWidth a && powWidth b && d.wcode == b.wcode
  | .ator sp d a b => d.inFile && a.inFile && b.inFile && atSpace sp && addrWidth a && powWidth b && d.wcode == b.wcode
  | .atxor sp d a b => d.inFile && a.inFile && b.inFile && atSpace sp && addrWidth a && powWidth b && d.wcode == b.wcode
  | .atswp sp d a b => d.inFile && a.inFile && b.inFile && atSpace sp && addrWidth a && powWidth b && d.wcode == b.wcode
  | .atcas sp d a b _ => d.inFile && a.inFile && b.inFile && atSpace sp && addrWidth a && powWidth b && d.wcode == b.wcode
  | .atfmin flag sp d a b => d.inFile && a.inFile && b.inFile && atSpace sp && addrWidth a && d.wcode == b.wcode && (b.wcode == 3 || (b.wcode == 7 && !flag))
  | .atfmax flag sp d a b => d.inFile && a.inFile && b.inFile && atSpace sp && addrWidth a && d.wcode == b.wcode && (b.wcode == 3 || (b.wcode == 7 && !flag))
  | .atfadd flag sp d a b => d.inFile && a.inFile && b.inFile && atSpace sp && addrWidth a && d.wcode == b.wcode && (b.wcode == 3 || (b.wcode == 7 && !flag))
  | .gongArr d a n => d.inFile && a.inFile && a.wcode == 15 && n != 0
  | .gongWait a => a.inFile && a.wcode == 15
  | .gongHdl flag sp d a b => d.inFile && a.inFile && b.inFile && gongSpace sp && d.wcode == 15 && (!flag || b == Opnd.zero)
  | .gongInit sp a b => a.inFile && b.inFile && gongSpace sp && addrWidth a && b.wcode == 7
  | .lstep _ d a b => d.inFile && a.inFile && b.inFile && a.wcode == 15
  | .lgraph _ d a b => d.inFile && a.inFile && b.inFile && a.wcode == 15
  | .cmuTab a _ => a.inFile && addrWidth a
  | .cmuFrm a _ => a.inFile && addrWidth a
  | .mpb a _ => a.inFile && addrWidth a
  | .belLook a _ => a.inFile && addrWidth a
  | .belDep a _ => a.inFile && addrWidth a
  | .belRes a _ => a.inFile && addrWidth a
  | .belPin a _ => a.inFile && addrWidth a
  | .act _ row => row.toNat ≤ 49151
  | .rd _ _ _ => true
  | .wr _ _ _ => true
  | .pre _ => true
  | .prea => true
  | .refpb _ => true
  | .rda _ _ _ => true
  | .wra _ _ _ => true
  | .ringSet base lines _ => !base.getLsbD 15 && !lines.getLsbD 12
  | .ringSeek rows _ => rows.toNat ≤ 49151
  | .ringAdv _ _ => true
  | .ringGong _ => true
  | .wrm _ _ _ mask => mask != 0
  | .rdz _ _ => true
  | .wrz _ _ => true
  | .dmark _ _ => true
  | .nop => true
  | .trap _ => true
  | .trapnz a _ => a.inFile
  | .brk _ => true
  | .svc d a _ => d.inFile && a.inFile
  | .event d a _ => d.inFile && a.inFile
  | .ckmark _ => true
  | .ill _ => true
  | .unassignedOpcode _ => true
  | .stepOverrun _ => true
  | .abandonmentFinish _ => true
  | .trapRecord _ => true
  | .stepCompletion _ => true
  | .flagAreaWrite _ => true
  | .segmentRelease _ => true
  | .loopIterationStart _ _ _ => true
  | .dynamicWaitEnd _ _ => true
  | .waitBudgetExhausted _ _ => true
  | .untimedBeatLanding _ _ => true
  | .untimedCompletion _ _ => true
  | .traceForward _ => true
  | .refreshAccrual _ _ => true
  | .baseDieRefresh _ _ => true
  | .abandonPrecharge _ _ => true
  | .pooledSlot _ => true
  | .scrub _ => true
  | .dispatchSlot => true
  | .stagingCheck _ => true
  | .downbeat _ => true
  | .waiterRelease _ => true
  | .futureResolved _ _ _ => true
  | .regionResident _ _ _ _ => true
  | .preemption _ => true
  | .affinityHoldExpiry _ => true
  | .hangTimeout => true
  | .queueRecordWrite _ _ => true
  | .versionRegister _ => true
  | .pchModeChange _ _ => true
  | .launchPacket _ _ => true
  | .framePacket _ _ => true
  | .accessUnitConsumed _ => true
  | .frameOutput _ _ => true
  | .frameGongArrival _ => true
  | .streamOpen _ _ _ _ _ _ => true
  | .layerTableLoad _ => true
  | .frameScoring _ => true
  | .belfryDeposit _ => true
  | .depositCopyDone _ => true
  | .belfryLookup _ => true
  | .belfryResumption _ => true
  | .belfryPin _ => true
  | .rowRepair _ _ _ _ => true
  | .dieSubstitution _ => true
  | .substitutionEnd _ => true
  | .dieAbsent _ => true
  | .hostWindowWrite _ _ => true
  | .hostWindowRead _ _ => true
  | .invgo _ => true
  | .invalidationDone => true
  | .econs _ _ => true
  | .rctlGo _ => true
  | .registerWrite _ _ _ => true
  | .getVersion => true
  | .getCapabilities => true
  | .negotiateAlgorithms _ _ => true
  | .getDigests => true
  | .getCertificate _ _ _ => true
  | .challenge _ _ => true
  | .getMeasurements _ _ => true
  | .configurationRequest _ _ _ => true
  | .coldReset => true
  | .bootStage _ => true
  | .functionLevelReset => true
  | .thermalHold _ => true
  | .thermalHoldEnd _ => true
  | .powerHold _ => true
  | .powerHoldEnd _ => true
  | .thermalShutdown => true
  | .jobAbort _ => true
  | .lineRemap _ => true

/-- The operands, widths and codes that the continuation word names. -/
def wfCont : Instr → Bool
  | .add _ _ _ _ => true
  | .sub _ _ _ _ => true
  | .mul _ _ _ _ => true
  | .mulh _ _ _ _ => true
  | .div _ _ _ _ => true
  | .rem _ _ _ _ => true
  | .min _ _ _ _ => true
  | .max _ _ _ _ => true
  | .and _ _ _ _ => true
  | .or _ _ _ _ => true
  | .xor _ _ _ _ => true
  | .andn _ _ _ _ => true
  | .shl _ _ _ _ => true
  | .shr _ _ _ _ => true
  | .rot _ _ _ _ => true
  | .clz _ _ => true
  | .popc _ _ => true
  | .extr _ _ _ _ => true
  | .insr _ _ _ _ => true
  | .cmp _ _ _ _ _ => true
  | .sel _ _ _ _ c => c.inFile
  | .mov _ _ _ => true
  | .addi _ _ _ => true
  | .andi _ _ _ => true
  | .ori _ _ _ => true
  | .xori _ _ _ => true
  | .shli _ _ _ _ => true
  | .shri _ _ _ _ => true
  | .cmpi _ _ _ => true
  | .li _ _ => true
  | .liu _ _ => true
  | .lih _ _ => true
  | .agen _ _ _ _ _ => true
  | .ageni _ _ _ => true
  | .ld _ _ _ => true
  | .st _ _ _ => true
  | .spill _ _ _ => true
  | .fill _ _ _ => true
  | .br _ _ _ => true
  | .call _ _ => true
  | .ret _ => true
  | .brx _ _ => true
  | .loop _ _ => true
  | .endl _ => true
  | .cue _ _ => true
  | .hold => true
  | .wait _ => true
  | .await _ => true
  | .endstep => true
  | .mfsr _ _ => true
  | .mtsr _ _ => true
  | .abs _ _ _ => true
  | .neg _ _ _ => true
  | .adds _ _ _ _ => true
  | .subs _ _ _ _ => true
  | .muli _ _ _ => true
  | .ctz _ _ => true
  | .brev _ _ => true
  | .crcx _ _ _ => true
  | .rollk _ _ _ => true
  | .ktox _ _ _ => true
  | .xtok _ _ _ => true
  | .btst _ _ _ _ => true
  | .movc _ _ _ _ => true
  | .vadd _ _ _ _ _ => true
  | .vsub _ _ _ _ _ => true
  | .vmul _ _ _ _ _ => true
  | .vmulh _ _ _ _ _ => true
  | .vmin _ _ _ _ _ => true
  | .vmax _ _ _ _ _ => true
  | .vand _ _ _ _ _ => true
  | .vor _ _ _ _ _ => true
  | .vxor _ _ _ _ _ => true
  | .vandn _ _ _ _ _ => true
  | .vshl _ _ _ _ _ => true
  | .vshr _ _ _ _ _ => true
  | .vabs _ _ _ _ => true
  | .vneg _ _ _ _ => true
  | .vadds _ _ _ _ _ => true
  | .vsubs _ _ _ _ _ => true
  | .vfadd fmt _ _ _ _ _ => floatFmt fmt
  | .vfsub fmt _ _ _ _ _ => floatFmt fmt
  | .vfmul fmt _ _ _ _ _ => floatFmt fmt
  | .vfma fmt _ _ _ _ _ c => c.inFile && floatFmt fmt && c.fmtWidth fmt
  | .vfms fmt _ _ _ _ _ c => c.inFile && floatFmt fmt && c.fmtWidth fmt
  | .vfnma fmt _ _ _ _ _ c => c.inFile && floatFmt fmt && c.fmtWidth fmt
  | .vfnms fmt _ _ _ _ _ c => c.inFile && floatFmt fmt && c.fmtWidth fmt
  | .vfmin fmt _ _ _ _ => floatFmt fmt
  | .vfmax fmt _ _ _ _ => floatFmt fmt
  | .vfabs fmt _ _ _ => floatFmt fmt
  | .vfneg fmt _ _ _ => floatFmt fmt
  | .vsqrt fmt _ _ _ _ => floatFmt fmt
  | .vrcp fmt _ _ _ _ => floatFmt fmt
  | .vrsq fmt _ _ _ _ => floatFmt fmt
  | .vexp2 fmt _ _ _ _ => floatFmt fmt
  | .vlog2 fmt _ _ _ _ => floatFmt fmt
  | .vcmp _ _ _ _ _ _ => true
  | .vfcmp _ fmt _ _ _ _ => floatFmt fmt
  | .kand _ _ _ => true
  | .kor _ _ _ => true
  | .kxor _ _ _ => true
  | .knot _ _ => true
  | .kpopc _ _ => true
  | .vsel _ _ _ _ => true
  | .vcvt dst src _ _ _ _ => floatFmt dst && floatFmt src
  | .vcvtfi dst src _ _ _ _ => intFmt dst && floatFmt src
  | .vcvtif dst src _ _ _ _ => floatFmt dst && intFmt src
  | .vcvtii _ dst src _ _ _ => intFmt dst && intFmt src
  | .vqnt wid _ _ _ _ _ c e => c.inFile && e.inFile && c.wcode == 3 && wid != 0
  | .vxpd _ fmt _ _ _ c => c.inFile && floatFmt fmt && c.wcode == 3
  | .vsplat _ _ _ _ => true
  | .vbcast _ _ _ _ => true
  | .vred _ _ _ _ _ => true
  | .vfred op fmt rnd _ _ _ => floatFmt fmt && op.toNat ≤ 2 && (op == 0 || rnd == 0)
  | .vscan _ _ _ _ _ => true
  | .vfscan op fmt rnd _ _ _ => floatFmt fmt && op.toNat ≤ 2 && (op == 0 || rnd == 0)
  | .vperm _ _ _ _ => true
  | .vrot _ _ _ _ => true
  | .vcmpr _ _ _ => true
  | .viota _ _ => true
  | .vld _ _ _ => true
  | .vlds _ _ _ _ => true
  | .vldx _ _ _ _ => true
  | .vst _ _ _ => true
  | .vsts _ _ _ _ => true
  | .vstx _ _ _ _ => true
  | .vgetx _ _ _ _ => true
  | .vmov _ _ _ _ => true
  | .feeda _ _ _ _ _ => true
  | .feedb _ _ _ _ _ => true
  | .feedax _ _ _ _ => true
  | .feedbx _ _ _ _ => true
  | .wina _ _ _ => true
  | .winb _ _ _ => true
  | .cropa _ _ => true
  | .qclr _ _ _ _ => true
  | .mma _ _ _ => true
  | .mmac _ _ _ => true
  | .aclr _ _ => true
  | .ald _ _ _ => true
  | .asav _ _ _ => true
  | .drn _ _ _ => true
  | .drna _ _ _ => true
  | .drnf _ _ _ => true
  | .wcfg _ _ => true
  | .wpadv _ => true
  | .boxcfg _ _ => true
  | .poolmx _ _ _ _ _ => true
  | .poolav _ _ _ _ _ => true
  | .ascl _ _ _ _ => true
  | .abias _ _ _ _ => true
  | .aclmp _ _ _ => true
  | .ardv _ _ _ => true
  | .awrv _ _ _ => true
  | .drnr _ _ _ => true
  | .mmaz _ _ _ => true
  | .feedd _ _ _ _ => true
  | .mcfg _ => true
  | .mstat _ => true
  | .qstat _ => true
  | .copy f => f.ln.inFile && f.hd.inFile && f.handleOk && f.copyAux
  | .copya f => f.ln.inFile && f.hd.inFile && f.handleOk && f.ln == Opnd.zero && f.aux.extractLsb' 3 14 == 0
  | .seqcfg _ _ _ => true
  | .mcopy f => f.ln.inFile && f.hd.inFile && f.handleOk && f.ln.wcode == 15 && f.aux.extractLsb' 3 14 == 0
  | .tlfetch f => f.ln.inFile && f.hd.inFile && f.handleOk && f.aux == 0
  | .ucopy f => f.ln.inFile && f.hd.inFile && f.handleOk && f.aux == 0
  | .gath f => f.ln.inFile && f.hd.inFile && f.handleOk && f.aux == 0
  | .gaths f => f.ln.inFile && f.hd.inFile && f.handleOk && f.aux == 0
  | .scat f => f.ln.inFile && f.hd.inFile && f.handleOk && f.aux == 0
  | .scatw f => f.ln.inFile && f.hd.inFile && f.handleOk && f.aux == 0
  | .pin _ _ _ => true
  | .unpin _ _ => true
  | .xform f => f.ln.inFile && f.hd.inFile && f.xformCont
  | .xformv f => f.ln.inFile && f.hd.inFile && f.xformCont
  | .ufill f => f.ln.inFile && f.hd.inFile && f.handleOk && f.aux == 0
  | .xstat _ _ => true
  | .atadd _ _ _ _ => true
  | .atmin _ _ _ _ _ => true
  | .atmax _ _ _ _ _ => true
  | .atand _ _ _ _ => true
  | .ator _ _ _ _ => true
  | .atxor _ _ _ _ => true
  | .atswp _ _ _ _ => true
  | .atcas _ _ _ b c => c.inFile && c.wcode == b.wcode
  | .atfmin _ _ _ _ _ => true
  | .atfmax _ _ _ _ _ => true
  | .atfadd _ _ _ _ _ => true
  | .gongArr _ _ _ => true
  | .gongWait _ => true
  | .gongHdl _ _ _ _ _ => true
  | .gongInit _ _ _ => true
  | .lstep _ _ _ _ => true
  | .lgraph _ _ _ _ => true
  | .cmuTab _ _ => true
  | .cmuFrm _ _ => true
  | .mpb _ _ => true
  | .belLook _ _ => true
  | .belDep _ _ => true
  | .belRes _ _ => true
  | .belPin _ _ => true
  | .act _ _ => true
  | .rd _ _ _ => true
  | .wr _ _ _ => true
  | .pre _ => true
  | .prea => true
  | .refpb _ => true
  | .rda _ _ _ => true
  | .wra _ _ _ => true
  | .ringSet _ _ _ => true
  | .ringSeek _ _ => true
  | .ringAdv _ _ => true
  | .ringGong _ => true
  | .wrm _ _ _ _ => true
  | .rdz _ _ => true
  | .wrz _ _ => true
  | .dmark _ _ => true
  | .nop => true
  | .trap _ => true
  | .trapnz _ _ => true
  | .brk _ => true
  | .svc _ _ _ => true
  | .event _ _ _ => true
  | .ckmark _ => true
  | .ill _ => true
  | .unassignedOpcode _ => true
  | .stepOverrun _ => true
  | .abandonmentFinish _ => true
  | .trapRecord _ => true
  | .stepCompletion _ => true
  | .flagAreaWrite _ => true
  | .segmentRelease _ => true
  | .loopIterationStart _ _ _ => true
  | .dynamicWaitEnd _ _ => true
  | .waitBudgetExhausted _ _ => true
  | .untimedBeatLanding _ _ => true
  | .untimedCompletion _ _ => true
  | .traceForward _ => true
  | .refreshAccrual _ _ => true
  | .baseDieRefresh _ _ => true
  | .abandonPrecharge _ _ => true
  | .pooledSlot _ => true
  | .scrub _ => true
  | .dispatchSlot => true
  | .stagingCheck _ => true
  | .downbeat _ => true
  | .waiterRelease _ => true
  | .futureResolved _ _ _ => true
  | .regionResident _ _ _ _ => true
  | .preemption _ => true
  | .affinityHoldExpiry _ => true
  | .hangTimeout => true
  | .queueRecordWrite _ _ => true
  | .versionRegister _ => true
  | .pchModeChange _ _ => true
  | .launchPacket _ _ => true
  | .framePacket _ _ => true
  | .accessUnitConsumed _ => true
  | .frameOutput _ _ => true
  | .frameGongArrival _ => true
  | .streamOpen _ _ _ _ _ _ => true
  | .layerTableLoad _ => true
  | .frameScoring _ => true
  | .belfryDeposit _ => true
  | .depositCopyDone _ => true
  | .belfryLookup _ => true
  | .belfryResumption _ => true
  | .belfryPin _ => true
  | .rowRepair _ _ _ _ => true
  | .dieSubstitution _ => true
  | .substitutionEnd _ => true
  | .dieAbsent _ => true
  | .hostWindowWrite _ _ => true
  | .hostWindowRead _ _ => true
  | .invgo _ => true
  | .invalidationDone => true
  | .econs _ _ => true
  | .rctlGo _ => true
  | .registerWrite _ _ _ => true
  | .getVersion => true
  | .getCapabilities => true
  | .negotiateAlgorithms _ _ => true
  | .getDigests => true
  | .getCertificate _ _ _ => true
  | .challenge _ _ => true
  | .getMeasurements _ _ => true
  | .configurationRequest _ _ _ => true
  | .coldReset => true
  | .bootStage _ => true
  | .functionLevelReset => true
  | .thermalHold _ => true
  | .thermalHoldEnd _ => true
  | .powerHold _ => true
  | .powerHoldEnd _ => true
  | .thermalShutdown => true
  | .jobAbort _ => true
  | .lineRemap _ => true

/-- An instruction the decoder accepts. -/
def wf (i : Instr) : Bool := i.wfFirst && i.wfCont

end Instr

end Sys2Proof
end

