-- ==== Sys2Proof/Decode.lean ====
section
/-! DEFINITION. The decoder, total on any words, rejecting by name, and after it the encoder (04 R87 to R130). Each body
format has one reader and one writer; each opcode states which fields its format leaves reserved. -/
namespace Sys2Proof

/-- Why a word is not an instruction, by the rows of R129. -/
inductive Bad where
  | wrongStream
  | field (inCont : Bool)
  | continuation (inCont : Bool)
  deriving DecidableEq, Repr

/-- The cause code of R129. -/
def Bad.cause : Bad → Nat
  | .wrongStream => 1
  | .field _ => 2
  | .continuation _ => 3

/-- Whether the fault lies in the continuation word (R286). -/
def Bad.inCont : Bad → Bool
  | .wrongStream => false
  | .field b => b
  | .continuation b => b

/-- A slice operand field whose lowest bit is `lo` (R90). -/
def opndAt {n : Nat} (b : BitVec n) (lo : Nat) : Opnd := ⟨b.extractLsb' (lo + 4) 10, b.extractLsb' lo 4⟩

/-- The 14 bits of a slice operand (R90). -/
def Opnd.bits (o : Opnd) : BitVec 14 := o.start ++ o.wcode

/-- F3 (R117). -/
structure F3 where
  d : Opnd
  a : Opnd
  b : Opnd
  m : BitVec 4

def F3.of (b : BitVec 46) : F3 := ⟨opndAt b 32, opndAt b 18, opndAt b 4, b.extractLsb' 0 4⟩

/-- F3 extension (R118). -/
structure F3X where
  c : Opnd
  e : Opnd
  aux : BitVec 6
  fmt2 : BitVec 4
  fmt : BitVec 4
  rsv : BitVec 2
  rnd : BitVec 2

def F3X.of (b : BitVec 46) : F3X :=
  ⟨opndAt b 32, opndAt b 18, b.extractLsb' 12 6, b.extractLsb' 8 4, b.extractLsb' 4 4, b.extractLsb' 2 2, b.extractLsb' 0 2⟩

/-- FI (R120). -/
structure FI where
  d : Opnd
  a : Opnd
  i : BitVec 18

def FI.of (b : BitVec 46) : FI := ⟨opndAt b 32, opndAt b 18, b.extractLsb' 0 18⟩

/-- FW (R121). The operand fills bits 45:32, so no bit is left over. -/
structure FW where
  d : Opnd
  i : BitVec 32

def FW.of (b : BitVec 46) : FW := ⟨opndAt b 32, b.extractLsb' 0 32⟩

/-- FB (R122). -/
structure FB where
  a : Opnd
  off : BitVec 24
  rsv : BitVec 5
  cond : BitVec 3

def FB.of (b : BitVec 46) : FB := ⟨opndAt b 32, b.extractLsb' 8 24, b.extractLsb' 3 5, b.extractLsb' 0 3⟩

/-- FS (R126). -/
structure FS where
  d : Opnd
  a : Opnd
  num : BitVec 10
  rsv : BitVec 8

def FS.of (b : BitVec 46) : FS := ⟨opndAt b 32, opndAt b 18, b.extractLsb' 8 10, b.extractLsb' 0 8⟩

/-- FM (R123); `r` is OPX bit 7, `e` the rest of OPX (R183). -/
structure FM where
  cw : Opnd
  kn : Opnd
  pw : BitVec 6
  r : Bool
  e : BitVec 7
  m : BitVec 4

def FM.of (b : BitVec 46) : FM :=
  ⟨opndAt b 32, opndAt b 18, b.extractLsb' 12 6, b.getLsbD 11, b.extractLsb' 4 7, b.extractLsb' 0 4⟩

/-- FC, both words (R124). -/
def FcArgs.of (b x : BitVec 46) : FcArgs :=
  ⟨b.extractLsb' 43 3, b.extractLsb' 40 3, opndAt b 26, opndAt b 12, b.extractLsb' 8 4, b.extractLsb' 4 4, b.extractLsb' 0 4,
   opndAt x 32, opndAt x 18, x.getLsbD 17, x.extractLsb' 0 17⟩

/-- FD (R125). -/
structure FD where
  bank : BitVec 4
  row : BitVec 16
  col : BitVec 5
  beat : BitVec 13
  m : BitVec 8

def FD.of (b : BitVec 46) : FD :=
  ⟨b.extractLsb' 42 4, b.extractLsb' 26 16, b.extractLsb' 21 5, b.extractLsb' 8 13, b.extractLsb' 0 8⟩

/-- A mask field (R159): number in bits 2:0, bits 13:3 zero. -/
def maskNo (o : Opnd) : BitVec 3 := o.bits.extractLsb' 0 3
def maskOk (o : Opnd) : Bool := o.bits.extractLsb' 3 11 == 0
/-- The d field of VCMP and VFCMP (R165): mask in 2:0, condition in 6:4, bit 3 and 13:7 zero. -/
def maskCc (o : Opnd) : BitVec 3 := o.bits.extractLsb' 4 3
def maskCcOk (o : Opnd) : Bool := o.bits.extractLsb' 7 7 == 0 && !o.bits.getLsbD 3

/-- Guard of a first-word field. -/
def need (ok : Bool) (i : Instr) : Except Bad Instr := if ok then .ok i else .error (.field false)

/-- Guards of a first word and of its continuation word. -/
def need2 (ok okx : Bool) (i : Instr) : Except Bad Instr :=
  if ok then if okx then .ok i else .error (.field true) else .error (.field false)

/-- Opcodes 0x00 to 0x0F (R127, R128); `y` is the continuation body, 0 where the opcode has none. -/
def decode0 (lo : Nat) (b _y : BitVec 46) : Except Bad Instr :=
  match lo with
  | 0 => let f := F3.of b; need ((f.m.extractLsb' 0 3 == 0)) (.add (f.m.getLsbD 3) f.d f.a f.b)
  | 1 => let f := F3.of b; need ((f.m.extractLsb' 0 3 == 0)) (.sub (f.m.getLsbD 3) f.d f.a f.b)
  | 2 => let f := F3.of b; need ((f.m.extractLsb' 0 3 == 0)) (.mul (f.m.getLsbD 3) f.d f.a f.b)
  | 3 => let f := F3.of b; need ((f.m.extractLsb' 0 3 == 0)) (.mulh (f.m.getLsbD 3) f.d f.a f.b)
  | 4 => let f := F3.of b; need ((f.m.extractLsb' 0 3 == 0)) (.div (f.m.getLsbD 3) f.d f.a f.b)
  | 5 => let f := F3.of b; need ((f.m.extractLsb' 0 3 == 0)) (.rem (f.m.getLsbD 3) f.d f.a f.b)
  | 6 => let f := F3.of b; need ((f.m.extractLsb' 0 3 == 0)) (.min (f.m.getLsbD 3) f.d f.a f.b)
  | 7 => let f := F3.of b; need ((f.m.extractLsb' 0 3 == 0)) (.max (f.m.getLsbD 3) f.d f.a f.b)
  | 8 => let f := F3.of b; need ((f.m.extractLsb' 0 3 == 0)) (.and (f.m.getLsbD 3) f.d f.a f.b)
  | 9 => let f := F3.of b; need ((f.m.extractLsb' 0 3 == 0)) (.or (f.m.getLsbD 3) f.d f.a f.b)
  | 10 => let f := F3.of b; need ((f.m.extractLsb' 0 3 == 0)) (.xor (f.m.getLsbD 3) f.d f.a f.b)
  | 11 => let f := F3.of b; need ((f.m.extractLsb' 0 3 == 0)) (.andn (f.m.getLsbD 3) f.d f.a f.b)
  | 12 => let f := F3.of b; need ((f.m.extractLsb' 0 3 == 0)) (.shl (f.m.getLsbD 3) f.d f.a f.b)
  | 13 => let f := F3.of b; need ((f.m.extractLsb' 0 3 == 0)) (.shr (f.m.getLsbD 3) f.d f.a f.b)
  | 14 => let f := F3.of b; need ((f.m.extractLsb' 0 3 == 0)) (.rot (f.m.getLsbD 3) f.d f.a f.b)
  | _ => let f := F3.of b; need ((f.m == 0) && (f.b == Opnd.zero)) (.clz f.d f.a)

/-- Opcodes 0x10 to 0x1F (R127, R128); `y` is the continuation body, 0 where the opcode has none. -/
def decode1 (lo : Nat) (b y : BitVec 46) : Except Bad Instr :=
  match lo with
  | 0 => let f := F3.of b; need ((f.m == 0) && (f.b == Opnd.zero)) (.popc f.d f.a)
  | 1 => let f := F3.of b; need ((f.m.extractLsb' 0 3 == 0)) (.extr (f.m.getLsbD 3) f.d f.a f.b)
  | 2 => let f := F3.of b; need ((f.m.extractLsb' 0 3 == 0)) (.insr (f.m.getLsbD 3) f.d f.a f.b)
  | 3 => let f := F3.of b; .ok (.cmp (f.m.extractLsb' 0 3) (f.m.getLsbD 3) f.d f.a f.b)
  | 4 => let f := F3.of b; let x := F3X.of y; need2 ((f.m.extractLsb' 0 3 == 0)) ((x.rsv == 0) && (x.e == Opnd.zero) && (x.aux == 0) && (x.fmt2 == 0) && (x.fmt == 0) && (x.rnd == 0)) (.sel (f.m.getLsbD 3) f.d f.a f.b x.c)
  | 5 => let f := F3.of b; need ((f.m.extractLsb' 0 3 == 0) && (f.b == Opnd.zero)) (.mov (f.m.getLsbD 3) f.d f.a)
  | 6 => let f := FI.of b; .ok (.addi f.d f.a f.i)
  | 7 => let f := FI.of b; .ok (.andi f.d f.a f.i)
  | 8 => let f := FI.of b; .ok (.ori f.d f.a f.i)
  | 9 => let f := FI.of b; .ok (.xori f.d f.a f.i)
  | 10 => let f := FI.of b; need ((f.i.extractLsb' 7 11 == 0)) (.shli (f.i.getLsbD 6) (f.i.extractLsb' 0 6) f.d f.a)
  | 11 => let f := FI.of b; need ((f.i.extractLsb' 7 11 == 0)) (.shri (f.i.getLsbD 6) (f.i.extractLsb' 0 6) f.d f.a)
  | 12 => let f := FI.of b; .ok (.cmpi f.d f.a f.i)
  | 13 => let f := FW.of b; .ok (.li f.d f.i)
  | 14 => let f := FW.of b; .ok (.liu f.d f.i)
  | _ => let f := FW.of b; .ok (.lih f.d f.i)

/-- Opcodes 0x20 to 0x2F (R127, R128); `y` is the continuation body, 0 where the opcode has none. -/
def decode2 (lo : Nat) (b _y : BitVec 46) : Except Bad Instr :=
  match lo with
  | 0 => let f := F3.of b; .ok (.agen (f.m.extractLsb' 0 3) (f.m.getLsbD 3) f.d f.a f.b)
  | 1 => let f := FI.of b; .ok (.ageni f.d f.a f.i)
  | 2 => let f := FI.of b; .ok (.ld f.d f.a f.i)
  | 3 => let f := FI.of b; .ok (.st f.d f.a f.i)
  | 4 => let f := FI.of b; .ok (.spill f.d f.a f.i)
  | 5 => let f := FI.of b; .ok (.fill f.d f.a f.i)
  | 6 => let f := FB.of b; need ((f.rsv == 0)) (.br f.cond f.a f.off)
  | 7 => let f := FB.of b; need ((f.rsv == 0) && (f.cond == 0)) (.call f.a f.off)
  | 8 => let f := FB.of b; need ((f.rsv == 0) && (f.cond == 0) && (f.off == 0)) (.ret f.a)
  | 9 => let f := FB.of b; need ((f.rsv == 0) && (f.cond == 0)) (.brx f.a f.off)
  | 10 => let f := FW.of b; need ((f.d == Opnd.zero) && (f.i.extractLsb' 22 10 == 0)) (.loop (f.i.extractLsb' 20 2) (f.i.extractLsb' 0 20))
  | 11 => let f := FW.of b; need ((f.d == Opnd.zero) && (f.i.extractLsb' 2 30 == 0)) (.endl (f.i.extractLsb' 0 2))
  | 12 => let f := FI.of b; need ((f.d == Opnd.zero) && (f.i.extractLsb' 8 10 == 0)) (.cue f.a (f.i.extractLsb' 0 8))
  | 13 => let f := FW.of b; need ((f.d == Opnd.zero) && (f.i == 0)) (.hold)
  | 14 => let f := FW.of b; need ((f.d == Opnd.zero)) (.wait f.i)
  | _ => let f := FI.of b; need ((f.d == Opnd.zero) && (f.a == Opnd.zero) && (f.i.extractLsb' 16 2 == 0)) (.await (f.i.extractLsb' 0 16))

/-- Opcodes 0x30 to 0x3F (R127, R128); `y` is the continuation body, 0 where the opcode has none. -/
def decode3 (lo : Nat) (b _y : BitVec 46) : Except Bad Instr :=
  match lo with
  | 0 => let f := FW.of b; need ((f.d == Opnd.zero) && (f.i == 0)) (.endstep)
  | 1 => let f := FS.of b; need ((f.rsv == 0) && (f.a == Opnd.zero)) (.mfsr f.d f.num)
  | 2 => let f := FS.of b; need ((f.rsv == 0) && (f.d == Opnd.zero)) (.mtsr f.num f.a)
  | 3 => let f := F3.of b; need ((f.m.extractLsb' 0 3 == 0) && (f.b == Opnd.zero)) (.abs (f.m.getLsbD 3) f.d f.a)
  | 4 => let f := F3.of b; need ((f.m.extractLsb' 0 3 == 0) && (f.b == Opnd.zero)) (.neg (f.m.getLsbD 3) f.d f.a)
  | 5 => let f := F3.of b; need ((f.m.extractLsb' 0 3 == 0)) (.adds (f.m.getLsbD 3) f.d f.a f.b)
  | 6 => let f := F3.of b; need ((f.m.extractLsb' 0 3 == 0)) (.subs (f.m.getLsbD 3) f.d f.a f.b)
  | 7 => let f := FI.of b; .ok (.muli f.d f.a f.i)
  | 8 => let f := F3.of b; need ((f.m == 0) && (f.b == Opnd.zero)) (.ctz f.d f.a)
  | 9 => let f := F3.of b; need ((f.m == 0) && (f.b == Opnd.zero)) (.brev f.d f.a)
  | 10 => let f := F3.of b; need ((f.m == 0)) (.crcx f.d f.a f.b)
  | 11 => let f := F3.of b; need ((f.m == 0)) (.rollk f.d f.a f.b)
  | 12 => let f := F3.of b; need ((f.a == Opnd.zero) && (f.b == Opnd.zero)) (.ktox (f.m.getLsbD 3) (f.m.extractLsb' 0 3) f.d)
  | 13 => let f := F3.of b; need ((f.d == Opnd.zero) && (f.b == Opnd.zero)) (.xtok (f.m.getLsbD 3) (f.m.extractLsb' 0 3) f.a)
  | 14 => let f := F3.of b; need ((f.m.extractLsb' 0 3 == 0)) (.btst (f.m.getLsbD 3) f.d f.a f.b)
  | _ => let f := F3.of b; need ((f.m.extractLsb' 0 3 == 0)) (.movc (f.m.getLsbD 3) f.d f.a f.b)

/-- Opcodes 0x40 to 0x4F (R127, R128); `y` is the continuation body, 0 where the opcode has none. -/
def decode4 (lo : Nat) (b _y : BitVec 46) : Except Bad Instr :=
  match lo with
  | 0 => let f := F3.of b; .ok (.vadd (f.m.getLsbD 3) (f.m.extractLsb' 0 3) f.d f.a f.b)
  | 1 => let f := F3.of b; .ok (.vsub (f.m.getLsbD 3) (f.m.extractLsb' 0 3) f.d f.a f.b)
  | 2 => let f := F3.of b; .ok (.vmul (f.m.getLsbD 3) (f.m.extractLsb' 0 3) f.d f.a f.b)
  | 3 => let f := F3.of b; .ok (.vmulh (f.m.getLsbD 3) (f.m.extractLsb' 0 3) f.d f.a f.b)
  | 4 => let f := F3.of b; .ok (.vmin (f.m.getLsbD 3) (f.m.extractLsb' 0 3) f.d f.a f.b)
  | 5 => let f := F3.of b; .ok (.vmax (f.m.getLsbD 3) (f.m.extractLsb' 0 3) f.d f.a f.b)
  | 6 => let f := F3.of b; .ok (.vand (f.m.getLsbD 3) (f.m.extractLsb' 0 3) f.d f.a f.b)
  | 7 => let f := F3.of b; .ok (.vor (f.m.getLsbD 3) (f.m.extractLsb' 0 3) f.d f.a f.b)
  | 8 => let f := F3.of b; .ok (.vxor (f.m.getLsbD 3) (f.m.extractLsb' 0 3) f.d f.a f.b)
  | 9 => let f := F3.of b; .ok (.vandn (f.m.getLsbD 3) (f.m.extractLsb' 0 3) f.d f.a f.b)
  | 10 => let f := F3.of b; .ok (.vshl (f.m.getLsbD 3) (f.m.extractLsb' 0 3) f.d f.a f.b)
  | 11 => let f := F3.of b; .ok (.vshr (f.m.getLsbD 3) (f.m.extractLsb' 0 3) f.d f.a f.b)
  | 12 => let f := F3.of b; need ((f.b == Opnd.zero)) (.vabs (f.m.getLsbD 3) (f.m.extractLsb' 0 3) f.d f.a)
  | 13 => let f := F3.of b; need ((f.b == Opnd.zero)) (.vneg (f.m.getLsbD 3) (f.m.extractLsb' 0 3) f.d f.a)
  | 14 => let f := F3.of b; .ok (.vadds (f.m.getLsbD 3) (f.m.extractLsb' 0 3) f.d f.a f.b)
  | _ => let f := F3.of b; .ok (.vsubs (f.m.getLsbD 3) (f.m.extractLsb' 0 3) f.d f.a f.b)

/-- Opcodes 0x50 to 0x5F (R127, R128); `y` is the continuation body, 0 where the opcode has none. -/
def decode5 (lo : Nat) (b y : BitVec 46) : Except Bad Instr :=
  match lo with
  | 0 => let f := F3.of b; let x := F3X.of y; need2 (!f.m.getLsbD 3) ((x.rsv == 0) && (x.c == Opnd.zero) && (x.e == Opnd.zero) && (x.aux == 0) && (x.fmt2 == 0)) (.vfadd x.fmt x.rnd (f.m.extractLsb' 0 3) f.d f.a f.b)
  | 1 => let f := F3.of b; let x := F3X.of y; need2 (!f.m.getLsbD 3) ((x.rsv == 0) && (x.c == Opnd.zero) && (x.e == Opnd.zero) && (x.aux == 0) && (x.fmt2 == 0)) (.vfsub x.fmt x.rnd (f.m.extractLsb' 0 3) f.d f.a f.b)
  | 2 => let f := F3.of b; let x := F3X.of y; need2 (!f.m.getLsbD 3) ((x.rsv == 0) && (x.c == Opnd.zero) && (x.e == Opnd.zero) && (x.aux == 0) && (x.fmt2 == 0)) (.vfmul x.fmt x.rnd (f.m.extractLsb' 0 3) f.d f.a f.b)
  | 3 => let f := F3.of b; let x := F3X.of y; need2 (!f.m.getLsbD 3) ((x.rsv == 0) && (x.e == Opnd.zero) && (x.aux == 0) && (x.fmt2 == 0)) (.vfma x.fmt x.rnd (f.m.extractLsb' 0 3) f.d f.a f.b x.c)
  | 4 => let f := F3.of b; let x := F3X.of y; need2 (!f.m.getLsbD 3) ((x.rsv == 0) && (x.e == Opnd.zero) && (x.aux == 0) && (x.fmt2 == 0)) (.vfms x.fmt x.rnd (f.m.extractLsb' 0 3) f.d f.a f.b x.c)
  | 5 => let f := F3.of b; let x := F3X.of y; need2 (!f.m.getLsbD 3) ((x.rsv == 0) && (x.e == Opnd.zero) && (x.aux == 0) && (x.fmt2 == 0)) (.vfnma x.fmt x.rnd (f.m.extractLsb' 0 3) f.d f.a f.b x.c)
  | 6 => let f := F3.of b; let x := F3X.of y; need2 (!f.m.getLsbD 3) ((x.rsv == 0) && (x.e == Opnd.zero) && (x.aux == 0) && (x.fmt2 == 0)) (.vfnms x.fmt x.rnd (f.m.extractLsb' 0 3) f.d f.a f.b x.c)
  | 7 => let f := F3.of b; let x := F3X.of y; need2 (!f.m.getLsbD 3) ((x.rsv == 0) && (x.c == Opnd.zero) && (x.e == Opnd.zero) && (x.aux == 0) && (x.fmt2 == 0) && (x.rnd == 0)) (.vfmin x.fmt (f.m.extractLsb' 0 3) f.d f.a f.b)
  | 8 => let f := F3.of b; let x := F3X.of y; need2 (!f.m.getLsbD 3) ((x.rsv == 0) && (x.c == Opnd.zero) && (x.e == Opnd.zero) && (x.aux == 0) && (x.fmt2 == 0) && (x.rnd == 0)) (.vfmax x.fmt (f.m.extractLsb' 0 3) f.d f.a f.b)
  | 9 => let f := F3.of b; let x := F3X.of y; need2 (!f.m.getLsbD 3 && (f.b == Opnd.zero)) ((x.rsv == 0) && (x.c == Opnd.zero) && (x.e == Opnd.zero) && (x.aux == 0) && (x.fmt2 == 0) && (x.rnd == 0)) (.vfabs x.fmt (f.m.extractLsb' 0 3) f.d f.a)
  | 10 => let f := F3.of b; let x := F3X.of y; need2 (!f.m.getLsbD 3 && (f.b == Opnd.zero)) ((x.rsv == 0) && (x.c == Opnd.zero) && (x.e == Opnd.zero) && (x.aux == 0) && (x.fmt2 == 0) && (x.rnd == 0)) (.vfneg x.fmt (f.m.extractLsb' 0 3) f.d f.a)
  | 11 => let f := F3.of b; let x := F3X.of y; need2 (!f.m.getLsbD 3 && (f.b == Opnd.zero)) ((x.rsv == 0) && (x.c == Opnd.zero) && (x.e == Opnd.zero) && (x.aux == 0) && (x.fmt2 == 0)) (.vsqrt x.fmt x.rnd (f.m.extractLsb' 0 3) f.d f.a)
  | 12 => let f := F3.of b; let x := F3X.of y; need2 (!f.m.getLsbD 3 && (f.b == Opnd.zero)) ((x.rsv == 0) && (x.c == Opnd.zero) && (x.e == Opnd.zero) && (x.aux == 0) && (x.fmt2 == 0)) (.vrcp x.fmt x.rnd (f.m.extractLsb' 0 3) f.d f.a)
  | 13 => let f := F3.of b; let x := F3X.of y; need2 (!f.m.getLsbD 3 && (f.b == Opnd.zero)) ((x.rsv == 0) && (x.c == Opnd.zero) && (x.e == Opnd.zero) && (x.aux == 0) && (x.fmt2 == 0)) (.vrsq x.fmt x.rnd (f.m.extractLsb' 0 3) f.d f.a)
  | 14 => let f := F3.of b; let x := F3X.of y; need2 (!f.m.getLsbD 3 && (f.b == Opnd.zero)) ((x.rsv == 0) && (x.c == Opnd.zero) && (x.e == Opnd.zero) && (x.aux == 0) && (x.fmt2 == 0)) (.vexp2 x.fmt x.rnd (f.m.extractLsb' 0 3) f.d f.a)
  | _ => let f := F3.of b; let x := F3X.of y; need2 (!f.m.getLsbD 3 && (f.b == Opnd.zero)) ((x.rsv == 0) && (x.c == Opnd.zero) && (x.e == Opnd.zero) && (x.aux == 0) && (x.fmt2 == 0)) (.vlog2 x.fmt x.rnd (f.m.extractLsb' 0 3) f.d f.a)

/-- Opcodes 0x60 to 0x6F (R127, R128); `y` is the continuation body, 0 where the opcode has none. -/
def decode6 (lo : Nat) (b y : BitVec 46) : Except Bad Instr :=
  match lo with
  | 0 => let f := F3.of b; need (maskCcOk f.d) (.vcmp (maskCc f.d) (f.m.getLsbD 3) (f.m.extractLsb' 0 3) (maskNo f.d) f.a f.b)
  | 1 => let f := F3.of b; let x := F3X.of y; need2 (!f.m.getLsbD 3 && maskCcOk f.d) ((x.rsv == 0) && (x.c == Opnd.zero) && (x.e == Opnd.zero) && (x.aux == 0) && (x.fmt2 == 0) && (x.rnd == 0)) (.vfcmp (maskCc f.d) x.fmt (f.m.extractLsb' 0 3) (maskNo f.d) f.a f.b)
  | 2 => let f := F3.of b; need ((f.m == 0) && maskOk f.d && maskOk f.a && maskOk f.b) (.kand (maskNo f.d) (maskNo f.a) (maskNo f.b))
  | 3 => let f := F3.of b; need ((f.m == 0) && maskOk f.d && maskOk f.a && maskOk f.b) (.kor (maskNo f.d) (maskNo f.a) (maskNo f.b))
  | 4 => let f := F3.of b; need ((f.m == 0) && maskOk f.d && maskOk f.a && maskOk f.b) (.kxor (maskNo f.d) (maskNo f.a) (maskNo f.b))
  | 5 => let f := F3.of b; need ((f.m == 0) && maskOk f.d && maskOk f.a && (f.b == Opnd.zero)) (.knot (maskNo f.d) (maskNo f.a))
  | 6 => let f := F3.of b; need ((f.m == 0) && maskOk f.a && (f.b == Opnd.zero)) (.kpopc f.d (maskNo f.a))
  | 7 => let f := F3.of b; need (!f.m.getLsbD 3) (.vsel (f.m.extractLsb' 0 3) f.d f.a f.b)
  | 8 => let f := F3.of b; let x := F3X.of y; need2 (!f.m.getLsbD 3 && (f.b == Opnd.zero)) ((x.rsv == 0) && (x.c == Opnd.zero) && (x.e == Opnd.zero) && (x.aux == 0)) (.vcvt x.fmt x.fmt2 x.rnd (f.m.extractLsb' 0 3) f.d f.a)
  | 9 => let f := F3.of b; let x := F3X.of y; need2 (!f.m.getLsbD 3 && (f.b == Opnd.zero)) ((x.rsv == 0) && (x.c == Opnd.zero) && (x.e == Opnd.zero) && (x.aux == 0)) (.vcvtfi x.fmt x.fmt2 x.rnd (f.m.extractLsb' 0 3) f.d f.a)
  | 10 => let f := F3.of b; let x := F3X.of y; need2 (!f.m.getLsbD 3 && (f.b == Opnd.zero)) ((x.rsv == 0) && (x.c == Opnd.zero) && (x.e == Opnd.zero) && (x.aux == 0)) (.vcvtif x.fmt x.fmt2 x.rnd (f.m.extractLsb' 0 3) f.d f.a)
  | 11 => let f := F3.of b; let x := F3X.of y; need2 (!f.m.getLsbD 3 && (f.b == Opnd.zero)) ((x.rsv == 0) && (x.c == Opnd.zero) && (x.e == Opnd.zero) && (x.aux.extractLsb' 1 5 == 0) && (x.rnd == 0)) (.vcvtii (x.aux.getLsbD 0) x.fmt x.fmt2 (f.m.extractLsb' 0 3) f.d f.a)
  | 12 => let f := F3.of b; let x := F3X.of y; need2 ((f.b == Opnd.zero) && (f.m == 0)) ((x.rsv == 0) && (x.fmt == 9) && (x.fmt2 == 0) && (x.rnd == 0)) (.vqnt (x.aux.extractLsb' 3 3) (x.aux.getLsbD 2) (x.aux.getLsbD 1) (x.aux.getLsbD 0) f.d f.a x.c x.e)
  | 13 => let f := F3.of b; let x := F3X.of y; need2 ((f.b == Opnd.zero) && (f.m == 0)) ((x.rsv == 0) && (x.e == Opnd.zero) && (x.aux.extractLsb' 1 5 == 0) && (x.fmt2 == 9)) (.vxpd (x.aux.getLsbD 0) x.fmt x.rnd f.d f.a x.c)
  | 14 => let f := F3.of b; need ((f.b == Opnd.zero)) (.vsplat (f.m.getLsbD 3) (f.m.extractLsb' 0 3) f.d f.a)
  | _ => let f := F3.of b; need (!f.m.getLsbD 3) (.vbcast (f.m.extractLsb' 0 3) f.d f.a f.b)

/-- Opcodes 0x70 to 0x7F (R127, R128); `y` is the continuation body, 0 where the opcode has none. -/
def decode7 (lo : Nat) (b y : BitVec 46) : Except Bad Instr :=
  match lo with
  | 0 => let f := F3.of b; need (maskOk f.b) (.vred (maskNo f.b) (f.m.getLsbD 3) (f.m.extractLsb' 0 3) f.d f.a)
  | 1 => let f := F3.of b; let x := F3X.of y; need2 (!f.m.getLsbD 3 && (f.b == Opnd.zero)) ((x.rsv == 0) && (x.c == Opnd.zero) && (x.e == Opnd.zero) && (x.aux.extractLsb' 2 4 == 0) && (x.fmt2 == 0)) (.vfred (x.aux.extractLsb' 0 2) x.fmt x.rnd (f.m.extractLsb' 0 3) f.d f.a)
  | 2 => let f := F3.of b; need (maskOk f.b) (.vscan (maskNo f.b) (f.m.getLsbD 3) (f.m.extractLsb' 0 3) f.d f.a)
  | 3 => let f := F3.of b; let x := F3X.of y; need2 (!f.m.getLsbD 3 && (f.b == Opnd.zero)) ((x.rsv == 0) && (x.c == Opnd.zero) && (x.e == Opnd.zero) && (x.aux.extractLsb' 2 4 == 0) && (x.fmt2 == 0)) (.vfscan (x.aux.extractLsb' 0 2) x.fmt x.rnd (f.m.extractLsb' 0 3) f.d f.a)
  | 4 => let f := F3.of b; need (!f.m.getLsbD 3) (.vperm (f.m.extractLsb' 0 3) f.d f.a f.b)
  | 5 => let f := F3.of b; need (!f.m.getLsbD 3) (.vrot (f.m.extractLsb' 0 3) f.d f.a f.b)
  | 6 => let f := F3.of b; need (!f.m.getLsbD 3 && (f.b == Opnd.zero)) (.vcmpr (f.m.extractLsb' 0 3) f.d f.a)
  | 7 => let f := F3.of b; need (!f.m.getLsbD 3 && (f.a == Opnd.zero) && (f.b == Opnd.zero)) (.viota (f.m.extractLsb' 0 3) f.d)
  | 8 => let f := FI.of b; .ok (.vld f.d f.a f.i)
  | 9 => let f := F3.of b; need (!f.m.getLsbD 3) (.vlds (f.m.extractLsb' 0 3) f.d f.a f.b)
  | 10 => let f := F3.of b; need (!f.m.getLsbD 3) (.vldx (f.m.extractLsb' 0 3) f.d f.a f.b)
  | 11 => let f := FI.of b; .ok (.vst f.d f.a f.i)
  | 12 => let f := F3.of b; need (!f.m.getLsbD 3) (.vsts (f.m.extractLsb' 0 3) f.d f.a f.b)
  | 13 => let f := F3.of b; need (!f.m.getLsbD 3) (.vstx (f.m.extractLsb' 0 3) f.d f.a f.b)
  | 14 => let f := F3.of b; need ((f.m.extractLsb' 0 3 == 0)) (.vgetx (f.m.getLsbD 3) f.d f.a f.b)
  | _ => let f := F3.of b; need ((f.b == Opnd.zero)) (.vmov (f.m.getLsbD 3) (f.m.extractLsb' 0 3) f.d f.a)

/-- Opcodes 0x80 to 0x8F (R127, R128); `y` is the continuation body, 0 where the opcode has none. -/
def decode8 (lo : Nat) (b _y : BitVec 46) : Except Bad Instr :=
  match lo with
  | 0 => let f := FM.of b; need ((f.pw == 0) && !f.r && (f.m.extractLsb' 2 2 == 0)) (.feeda (f.m.getLsbD 0) (f.m.getLsbD 1) f.e f.cw f.kn)
  | 1 => let f := FM.of b; need ((f.pw == 0) && !f.r && (f.m.extractLsb' 2 2 == 0)) (.feedb (f.m.getLsbD 0) (f.m.getLsbD 1) f.e f.cw f.kn)
  | 2 => let f := FM.of b; need ((f.pw == 0) && !f.r && (f.m.extractLsb' 2 2 == 0) && !f.m.getLsbD 0) (.feedax (f.m.getLsbD 1) f.e f.cw f.kn)
  | 3 => let f := FM.of b; need ((f.pw == 0) && !f.r && (f.m.extractLsb' 2 2 == 0) && !f.m.getLsbD 0) (.feedbx (f.m.getLsbD 1) f.e f.cw f.kn)
  | 4 => let f := FM.of b; need ((f.pw == 0) && !f.r && (f.m == 0)) (.wina f.e f.cw f.kn)
  | 5 => let f := FM.of b; need ((f.pw == 0) && !f.r && (f.m == 0)) (.winb f.e f.cw f.kn)
  | 6 => let f := FM.of b; need ((f.pw == 0) && !f.r && (f.m == 0) && (f.kn == Opnd.zero)) (.cropa f.e f.cw)
  | 7 => let f := FM.of b; need ((f.pw == 0) && !f.r && (f.cw == Opnd.zero) && (f.m.extractLsb' 2 2 == 0)) (.qclr (f.m.getLsbD 0) (f.m.getLsbD 1) f.e f.kn)
  | 8 => let f := FM.of b; need (!f.r && (f.m == 0) && (f.e == 0)) (.mma f.pw f.cw f.kn)
  | 9 => let f := FM.of b; need (!f.r && (f.m == 0) && (f.e == 0)) (.mmac f.pw f.cw f.kn)
  | 10 => let f := FM.of b; need ((f.pw == 0) && !f.r && (f.m == 0) && (f.cw == Opnd.zero)) (.aclr f.e f.kn)
  | 11 => let f := FM.of b; need ((f.pw == 0) && !f.r && (f.m == 0)) (.ald f.e f.cw f.kn)
  | 12 => let f := FM.of b; need ((f.pw == 0) && !f.r && (f.m == 0)) (.asav f.e f.cw f.kn)
  | 13 => let f := FM.of b; need ((f.pw == 0) && !f.r && (f.m == 0)) (.drn f.e f.cw f.kn)
  | 14 => let f := FM.of b; need ((f.pw == 0) && !f.r && (f.m == 0)) (.drna f.e f.cw f.kn)
  | _ => let f := FM.of b; need ((f.pw == 0) && !f.r && (f.m == 0)) (.drnf f.e f.cw f.kn)

/-- Opcodes 0x90 to 0x9F (R127, R128); `y` is the continuation body, 0 where the opcode has none. -/
def decode9 (lo : Nat) (b _y : BitVec 46) : Except Bad Instr :=
  match lo with
  | 0 => let f := FM.of b; need ((f.pw == 0) && !f.r && (f.m == 0) && (f.e == 0)) (.wcfg f.cw f.kn)
  | 1 => let f := FM.of b; need ((f.pw == 0) && !f.r && (f.m == 0) && (f.e == 0) && (f.kn == Opnd.zero)) (.wpadv f.cw)
  | 2 => let f := FM.of b; need ((f.pw == 0) && !f.r && (f.m == 0) && (f.e == 0)) (.boxcfg f.cw f.kn)
  | 3 => let f := FM.of b; need ((f.pw == 0) && !f.r && (f.m.extractLsb' 2 2 == 0)) (.poolmx (f.m.getLsbD 0) (f.m.getLsbD 1) f.e f.cw f.kn)
  | 4 => let f := FM.of b; need ((f.pw == 0) && !f.r && (f.m.extractLsb' 2 2 == 0)) (.poolav (f.m.getLsbD 0) (f.m.getLsbD 1) f.e f.cw f.kn)
  | 5 => let f := FM.of b; need ((f.pw == 0) && !f.r && (f.m.extractLsb' 2 2 == 0)) (.ascl (f.m.extractLsb' 0 2) f.e f.cw f.kn)
  | 6 => let f := FM.of b; need ((f.pw == 0) && !f.r && (f.m.extractLsb' 2 2 == 0)) (.abias (f.m.extractLsb' 0 2) f.e f.cw f.kn)
  | 7 => let f := FM.of b; need ((f.pw == 0) && !f.r && (f.m == 0)) (.aclmp f.e f.cw f.kn)
  | 8 => let f := FM.of b; need ((f.pw == 0) && !f.r && (f.m == 0)) (.ardv f.e f.cw f.kn)
  | 9 => let f := FM.of b; need ((f.pw == 0) && !f.r && (f.m == 0)) (.awrv f.e f.cw f.kn)
  | 10 => let f := FM.of b; need ((f.pw == 0) && !f.r && (f.m == 0)) (.drnr f.e f.cw f.kn)
  | 11 => let f := FM.of b; need (!f.r && (f.m == 0) && (f.e == 0)) (.mmaz f.pw f.cw f.kn)
  | 12 => let f := FM.of b; need ((f.pw == 0) && !f.r && (f.m.extractLsb' 1 3 == 0)) (.feedd (f.m.getLsbD 0) f.e f.cw f.kn)
  | 13 => let f := FM.of b; need ((f.pw == 0) && !f.r && (f.m == 0) && (f.e == 0) && (f.kn == Opnd.zero)) (.mcfg f.cw)
  | 14 => let f := FM.of b; need ((f.pw == 0) && !f.r && (f.m == 0) && (f.e == 0) && (f.cw == Opnd.zero)) (.mstat f.kn)
  | _ => let f := FM.of b; need ((f.pw == 0) && !f.r && (f.m == 0) && (f.e == 0) && (f.cw == Opnd.zero)) (.qstat f.kn)

/-- Opcodes 0xA0 to 0xAF (R127, R128); `y` is the continuation body, 0 where the opcode has none. -/
def decodeA (lo : Nat) (b y : BitVec 46) : Except Bad Instr :=
  match lo with
  | 0 => let f := FcArgs.of b y; .ok (.copy f)
  | 1 => let f := FcArgs.of b y; .ok (.copya f)
  | 2 => let f := FI.of b; need ((f.d == Opnd.zero)) (.seqcfg (f.i.extractLsb' 0 3) (f.i.extractLsb' 3 15) f.a)
  | 3 => let f := FcArgs.of b y; .ok (.mcopy f)
  | 4 => let f := FcArgs.of b y; .ok (.tlfetch f)
  | 5 => let f := FcArgs.of b y; .ok (.ucopy f)
  | 6 => let f := FcArgs.of b y; .ok (.gath f)
  | 7 => let f := FcArgs.of b y; .ok (.gaths f)
  | 8 => let f := FcArgs.of b y; .ok (.scat f)
  | 9 => let f := FcArgs.of b y; .ok (.scatw f)
  | 10 => let f := FI.of b; need ((f.i.extractLsb' 12 6 == 0)) (.pin f.d f.a (f.i.extractLsb' 0 12))
  | 11 => let f := FI.of b; need ((f.i == 0)) (.unpin f.d f.a)
  | 12 => let f := FcArgs.of b y; .ok (.xform f)
  | 13 => let f := FcArgs.of b y; .ok (.xformv f)
  | 14 => let f := FcArgs.of b y; .ok (.ufill f)
  | _ => let f := F3.of b; need ((f.m == 0) && (f.b == Opnd.zero)) (.xstat f.d f.a)

/-- Opcodes 0xB0 to 0xBF (R127, R128); `y` is the continuation body, 0 where the opcode has none. -/
def decodeB (lo : Nat) (b y : BitVec 46) : Except Bad Instr :=
  match lo with
  | 0 => let f := F3.of b; need (!f.m.getLsbD 3) (.atadd (f.m.extractLsb' 0 3) f.d f.a f.b)
  | 1 => let f := F3.of b; .ok (.atmin (f.m.getLsbD 3) (f.m.extractLsb' 0 3) f.d f.a f.b)
  | 2 => let f := F3.of b; .ok (.atmax (f.m.getLsbD 3) (f.m.extractLsb' 0 3) f.d f.a f.b)
  | 3 => let f := F3.of b; need (!f.m.getLsbD 3) (.atand (f.m.extractLsb' 0 3) f.d f.a f.b)
  | 4 => let f := F3.of b; need (!f.m.getLsbD 3) (.ator (f.m.extractLsb' 0 3) f.d f.a f.b)
  | 5 => let f := F3.of b; need (!f.m.getLsbD 3) (.atxor (f.m.extractLsb' 0 3) f.d f.a f.b)
  | 6 => let f := F3.of b; need (!f.m.getLsbD 3) (.atswp (f.m.extractLsb' 0 3) f.d f.a f.b)
  | 7 => let f := F3.of b; let x := F3X.of y; need2 (!f.m.getLsbD 3) ((x.rsv == 0) && (x.e == Opnd.zero) && (x.aux == 0) && (x.fmt2 == 0) && (x.fmt == 0) && (x.rnd == 0)) (.atcas (f.m.extractLsb' 0 3) f.d f.a f.b x.c)
  | 8 => let f := F3.of b; .ok (.atfmin (f.m.getLsbD 3) (f.m.extractLsb' 0 3) f.d f.a f.b)
  | 9 => let f := F3.of b; .ok (.atfmax (f.m.getLsbD 3) (f.m.extractLsb' 0 3) f.d f.a f.b)
  | 10 => let f := F3.of b; .ok (.atfadd (f.m.getLsbD 3) (f.m.extractLsb' 0 3) f.d f.a f.b)
  | 11 => let f := FI.of b; need ((f.i.extractLsb' 12 6 == 0)) (.gongArr f.d f.a (f.i.extractLsb' 0 12))
  | 12 => let f := FI.of b; need ((f.d == Opnd.zero) && (f.i == 0)) (.gongWait f.a)
  | 13 => let f := F3.of b; .ok (.gongHdl (f.m.getLsbD 3) (f.m.extractLsb' 0 3) f.d f.a f.b)
  | 14 => let f := F3.of b; need (!f.m.getLsbD 3 && (f.d == Opnd.zero)) (.gongInit (f.m.extractLsb' 0 3) f.a f.b)
  | _ => let f := F3.of b; need ((f.m.extractLsb' 1 3 == 0)) (.lstep (f.m.getLsbD 0) f.d f.a f.b)

/-- Opcodes 0xC0 to 0xCF (R127, R128); `y` is the continuation body, 0 where the opcode has none. -/
def decodeC (lo : Nat) (b _y : BitVec 46) : Except Bad Instr :=
  match lo with
  | 0 => let f := F3.of b; need ((f.m.extractLsb' 1 3 == 0)) (.lgraph (f.m.getLsbD 0) f.d f.a f.b)
  | 1 => let f := F3.of b; need ((f.d == Opnd.zero) && (f.b == Opnd.zero)) (.cmuTab f.a f.m)
  | 2 => let f := F3.of b; need ((f.d == Opnd.zero) && (f.b == Opnd.zero)) (.cmuFrm f.a f.m)
  | 3 => let f := F3.of b; need ((f.d == Opnd.zero) && (f.b == Opnd.zero)) (.mpb f.a f.m)
  | 4 => let f := F3.of b; need ((f.d == Opnd.zero) && (f.b == Opnd.zero)) (.belLook f.a f.m)
  | 5 => let f := F3.of b; need ((f.d == Opnd.zero) && (f.b == Opnd.zero)) (.belDep f.a f.m)
  | 6 => let f := F3.of b; need ((f.d == Opnd.zero) && (f.b == Opnd.zero)) (.belRes f.a f.m)
  | 7 => let f := F3.of b; need ((f.d == Opnd.zero) && (f.b == Opnd.zero)) (.belPin f.a f.m)
  | 8 => let f := FD.of b; need ((f.col == 0) && (f.beat == 0) && (f.m == 0)) (.act f.bank f.row)
  | 9 => let f := FD.of b; need ((f.row == 0) && (f.m == 0)) (.rd f.bank f.col f.beat)
  | 10 => let f := FD.of b; need ((f.row == 0) && (f.m == 0)) (.wr f.bank f.col f.beat)
  | 11 => let f := FD.of b; need ((f.row == 0) && (f.col == 0) && (f.beat == 0) && (f.m == 0)) (.pre f.bank)
  | 12 => let f := FD.of b; need ((f.bank == 0) && (f.row == 0) && (f.col == 0) && (f.beat == 0) && (f.m == 0)) (.prea)
  | 13 => let f := FD.of b; need ((f.row == 0) && (f.col == 0) && (f.beat == 0) && (f.m == 0)) (.refpb f.bank)
  | 14 => let f := FD.of b; need ((f.row == 0) && (f.m == 0)) (.rda f.bank f.col f.beat)
  | _ => let f := FD.of b; need ((f.row == 0) && (f.m == 0)) (.wra f.bank f.col f.beat)

/-- Opcodes 0xD0 to 0xDF (R127, R128); `y` is the continuation body, 0 where the opcode has none. -/
def decodeD (lo : Nat) (b _y : BitVec 46) : Except Bad Instr :=
  match lo with
  | 0 => let f := FD.of b; need ((f.bank == 0) && (f.col == 0) && (f.m.extractLsb' 6 2 == 0)) (.ringSet f.row f.beat (f.m.extractLsb' 0 6))
  | 1 => let f := FD.of b; need ((f.bank == 0) && (f.col == 0) && (f.m == 0)) (.ringSeek f.row f.beat)
  | 2 => let f := FD.of b; need ((f.bank == 0) && (f.col == 0) && (f.m == 0)) (.ringAdv f.row f.beat)
  | 3 => let f := FD.of b; need ((f.bank == 0) && (f.row == 0) && (f.col == 0) && (f.m == 0)) (.ringGong f.beat)
  | 4 => let f := FD.of b; need ((f.row == 0)) (.wrm f.bank f.col f.beat f.m)
  | 5 => let f := FD.of b; need ((f.row == 0) && (f.beat == 0) && (f.m == 0)) (.rdz f.bank f.col)
  | 6 => let f := FD.of b; need ((f.row == 0) && (f.beat == 0) && (f.m == 0)) (.wrz f.bank f.col)
  | 7 => let f := FD.of b; need ((f.bank == 0) && (f.row == 0) && (f.col == 0)) (.dmark f.beat f.m)
  | 8 => let f := FS.of b; need ((f.rsv == 0) && (f.d == Opnd.zero) && (f.a == Opnd.zero) && (f.num == 0)) (.nop)
  | 9 => let f := FS.of b; need ((f.rsv == 0) && (f.d == Opnd.zero) && (f.a == Opnd.zero)) (.trap f.num)
  | 10 => let f := FS.of b; need ((f.rsv == 0) && (f.d == Opnd.zero)) (.trapnz f.a f.num)
  | 11 => let f := FS.of b; need ((f.rsv == 0) && (f.d == Opnd.zero) && (f.a == Opnd.zero)) (.brk f.num)
  | 12 => let f := FS.of b; need ((f.rsv == 0)) (.svc f.d f.a f.num)
  | 13 => let f := FS.of b; need ((f.rsv == 0)) (.event f.d f.a f.num)
  | 14 => let f := FS.of b; need ((f.rsv == 0) && (f.d == Opnd.zero) && (f.a == Opnd.zero)) (.ckmark f.num)
  | _ => .ok (.ill b)

/-- The opcodes that take a continuation word (R89, R128). -/
def twoWords (op : Nat) : Bool :=
  op == 0x14 || (0x50 ≤ op && op ≤ 0x5F) || op == 0x61 || (0x68 ≤ op && op ≤ 0x6D) || op == 0x71 || op == 0x73 || (0xA0 ≤ op && op ≤ 0xA1) || (0xA3 ≤ op && op ≤ 0xA9) || (0xAC ≤ op && op ≤ 0xAE) || op == 0xB7

/-- The streams in which an opcode is valid (R128). -/
def streamOk (op : Nat) (st : StreamId) : Bool :=
  let every := (0x2A ≤ op && op ≤ 0x2B) || op == 0x2E || op == 0x30 || op == 0xD8 || op == 0xD9 || op == 0xDB || op == 0xDE || op == 0xDF
  match st with
  | .c => every || (op ≤ 0x3F && op != 0x2D) || (0xAF ≤ op && op ≤ 0xC7) || op == 0xDA || op == 0xDC || op == 0xDD
  | .v => every || op == 0x2D || (0x40 ≤ op && op ≤ 0x77) || op == 0x7E || op == 0x7F
  | .l => every || op == 0x2D || (0x78 ≤ op && op ≤ 0x7A) || (0x80 ≤ op && op ≤ 0x87) || (0x90 ≤ op && op ≤ 0x92) || op == 0x9C || op == 0x9F
          || (0xA0 ≤ op && op ≤ 0xA7) || op == 0xAA || op == 0xAB
  | .s => every || op == 0x2D || (0x7B ≤ op && op ≤ 0x7D) || (0xA0 ≤ op && op ≤ 0xA2) || op == 0xA5 || op == 0xA8 || op == 0xA9
          || (0xAC ≤ op && op ≤ 0xAE)
  | .m => every || op == 0x2D || (0x88 ≤ op && op ≤ 0x8F) || (0x93 ≤ op && op ≤ 0x9B) || op == 0x9D || op == 0x9E
  | .d _ => every || op == 0x2D || (0xC8 ≤ op && op ≤ 0xD7)

/-- The layout of one opcode below 0xE0, before the operands' widths are judged (R115). -/
def decodeBody (op : Nat) (b y : BitVec 46) : Except Bad Instr :=
  match op / 16 with
  | 0 => decode0 (op % 16) b y
  | 1 => decode1 (op % 16) b y
  | 2 => decode2 (op % 16) b y
  | 3 => decode3 (op % 16) b y
  | 4 => decode4 (op % 16) b y
  | 5 => decode5 (op % 16) b y
  | 6 => decode6 (op % 16) b y
  | 7 => decode7 (op % 16) b y
  | 8 => decode8 (op % 16) b y
  | 9 => decode9 (op % 16) b y
  | 10 => decodeA (op % 16) b y
  | 11 => decodeB (op % 16) b y
  | 12 => decodeC (op % 16) b y
  | _ => decodeD (op % 16) b y

/-- Operand widths and accepted codes: what the layout accepts must also be well formed (R116). -/
def judge (i : Instr) : Except Bad Instr :=
  if i.wfFirst then if i.wfCont then .ok i else .error (.field true) else .error (.field false)

/-- The IDLE field (R87). -/
def idleOf (w : Word) : Nat := (w.extractLsb' 54 10).toNat

/-- The OP field (R87). -/
def opOf (w : Word) : Nat := (w.extractLsb' 46 8).toNat

/-- The body (R87). -/
def bodyOf (w : Word) : BitVec 46 := w.extractLsb' 0 46

/-- The words an instruction takes, judged by its OP field alone (R89, R128). -/
def wordsOf (w : Word) : Nat := if twoWords (opOf w) then 2 else 1

/-- The format codes FMT and FMT2 that the continuation of a two-word F3 opcode may hold (R161, R165, R168, R170). -/
def contFormats (op : Nat) : List (BitVec 4 × BitVec 4) :=
  let fl : List (BitVec 4) := [0, 1, 2]
  let ints : List (BitVec 4) := [3, 4, 5, 6, 7, 8]
  let pairs (ds ss : List (BitVec 4)) := ds.flatMap fun d => ss.map fun s => (d, s)
  match op with
  | 0x14 | 0xB7 => [(0, 0)]
  | 0x68 => pairs fl fl
  | 0x69 => pairs ints fl
  | 0x6A => pairs fl ints
  | 0x6B => pairs ints ints
  | 0x6C => [(9, 0)]
  | 0x6D => pairs fl [9]
  | _ => pairs fl [0]

/-- Continuation bodies that leave a first word judged alone: with and without a handle (FC), and with each format pair (F3). -/
def contBodies (op : Nat) : List (BitVec 46) :=
  if op / 16 == 10 then [0, 0x20000]
  else (contFormats op).map fun f => (0 : BitVec 34) ++ f.2 ++ f.1 ++ (0 : BitVec 4)

/-- No field and no operand width of the first word of a two-word opcode breaks its rule whatever the continuation holds (R129:
cause 2 is lower than the 3 of a missing continuation). -/
def firstWordOk (op : Nat) (b : BitVec 46) : Bool :=
  (contBodies op).any fun y =>
    match decodeBody op b y with
    | .ok i => i.wfFirst
    | .error _ => false

/-- The decoder (R87 to R89, R115 to R130): the instruction of the word `w` issued in stream `st`, `nxt` being the word
after it in the program, if there is one. ILL and the unassigned opcodes decode to the rows that trap with cause 0. -/
def decode (st : StreamId) (w : Word) (nxt : Option Word) : Except Bad Instr :=
  let op := opOf w
  if op ≥ 0xE0 then .ok (.unassignedOpcode (w.extractLsb' 46 8))
  else if !streamOk op st then .error .wrongStream
  else if twoWords op then
    match nxt with
    | none => if firstWordOk op (bodyOf w) then .error (.continuation false) else .error (.field false)
    | some x =>
      match decodeBody op (bodyOf w) (bodyOf x) with
      | .error e => .error e
      | .ok i =>
        match judge i with
        | .error e => .error e
        | .ok i => if x.extractLsb' 46 18 == 0 then .ok i else .error (.continuation true)
  else
    match decodeBody op (bodyOf w) 0 with
    | .error e => .error e
    | .ok i => judge i

/-! The encoder. -/

def f3Body (d a b : Opnd) (m : BitVec 4) : BitVec 46 := d.bits ++ a.bits ++ b.bits ++ m
def f3xBody (c e : Opnd) (aux : BitVec 6) (fmt2 fmt : BitVec 4) (rnd : BitVec 2) : BitVec 46 :=
  c.bits ++ e.bits ++ aux ++ fmt2 ++ fmt ++ (0 : BitVec 2) ++ rnd
def fiBody (d a : Opnd) (i : BitVec 18) : BitVec 46 := d.bits ++ a.bits ++ i
def fwBody (d : Opnd) (i : BitVec 32) : BitVec 46 := d.bits ++ i
def fbBody (a : Opnd) (off : BitVec 24) (cond : BitVec 3) : BitVec 46 := a.bits ++ off ++ (0 : BitVec 5) ++ cond
def fsBody (d a : Opnd) (num : BitVec 10) : BitVec 46 := d.bits ++ a.bits ++ num ++ (0 : BitVec 8)
def fmBody (cw kn : Opnd) (pw : BitVec 6) (e : BitVec 7) (m : BitVec 4) : BitVec 46 :=
  cw.bits ++ kn.bits ++ pw ++ (0 : BitVec 1) ++ e ++ m
def fcBody (f : FcArgs) : BitVec 46 := f.dsp ++ f.ssp ++ f.da.bits ++ f.sa.bits ++ f.tag ++ f.var ++ f.mod
def fcxBody (f : FcArgs) : BitVec 46 := f.ln.bits ++ f.hd.bits ++ BitVec.ofBool f.hv ++ f.aux
def fdBody (bank : BitVec 4) (row : BitVec 16) (col : BitVec 5) (beat : BitVec 13) (m : BitVec 8) : BitVec 46 :=
  bank ++ row ++ col ++ beat ++ m

/-- mod with the S bit and SUB (R131). -/
def modS (sg : Bool) (sub : BitVec 3) : BitVec 4 := BitVec.ofBool sg ++ sub
def mod2 (hi lo : Bool) : BitVec 4 := (0 : BitVec 2) ++ BitVec.ofBool hi ++ BitVec.ofBool lo
def bit4 (b : Bool) : BitVec 4 := (0 : BitVec 3) ++ BitVec.ofBool b
def bit6 (b : Bool) : BitVec 6 := (0 : BitVec 5) ++ BitVec.ofBool b
def aux2 (op : BitVec 2) : BitVec 6 := (0 : BitVec 4) ++ op
def qntAux (wid : BitVec 3) (adapt int sg : Bool) : BitVec 6 :=
  wid ++ BitVec.ofBool adapt ++ BitVec.ofBool int ++ BitVec.ofBool sg
/-- The immediate of SHLI and SHRI (R139). -/
def shImm (sg : Bool) (n : BitVec 6) : BitVec 18 := (0 : BitVec 11) ++ BitVec.ofBool sg ++ n
/-- A mask field as an operand field (R159). -/
def maskOpnd (k : BitVec 3) : Opnd := ⟨0, (0 : BitVec 1) ++ k⟩
/-- The d field of a compare (R165). -/
def maskCcOpnd (kd cc : BitVec 3) : Opnd := ⟨(0 : BitVec 7) ++ cc, (0 : BitVec 1) ++ kd⟩

/-- An encoding: opcode, body and continuation body. -/
structure Enc where
  op : BitVec 8
  body : BitVec 46
  cont : Option (BitVec 46)
  deriving DecidableEq, Repr

/-- The encoding of every instruction row (R117 to R128); a device step has none. -/
def encode : Instr → Option Enc
  | .add sg d a b => some ⟨0x00, f3Body d a b (modS sg 0), none⟩
  | .sub sg d a b => some ⟨0x01, f3Body d a b (modS sg 0), none⟩
  | .mul sg d a b => some ⟨0x02, f3Body d a b (modS sg 0), none⟩
  | .mulh sg d a b => some ⟨0x03, f3Body d a b (modS sg 0), none⟩
  | .div sg d a b => some ⟨0x04, f3Body d a b (modS sg 0), none⟩
  | .rem sg d a b => some ⟨0x05, f3Body d a b (modS sg 0), none⟩
  | .min sg d a b => some ⟨0x06, f3Body d a b (modS sg 0), none⟩
  | .max sg d a b => some ⟨0x07, f3Body d a b (modS sg 0), none⟩
  | .and sg d a b => some ⟨0x08, f3Body d a b (modS sg 0), none⟩
  | .or sg d a b => some ⟨0x09, f3Body d a b (modS sg 0), none⟩
  | .xor sg d a b => some ⟨0x0A, f3Body d a b (modS sg 0), none⟩
  | .andn sg d a b => some ⟨0x0B, f3Body d a b (modS sg 0), none⟩
  | .shl sg d a b => some ⟨0x0C, f3Body d a b (modS sg 0), none⟩
  | .shr sg d a b => some ⟨0x0D, f3Body d a b (modS sg 0), none⟩
  | .rot sg d a b => some ⟨0x0E, f3Body d a b (modS sg 0), none⟩
  | .clz d a => some ⟨0x0F, f3Body d a Opnd.zero 0, none⟩
  | .popc d a => some ⟨0x10, f3Body d a Opnd.zero 0, none⟩
  | .extr sg d a b => some ⟨0x11, f3Body d a b (modS sg 0), none⟩
  | .insr sg d a b => some ⟨0x12, f3Body d a b (modS sg 0), none⟩
  | .cmp sf sg d a b => some ⟨0x13, f3Body d a b (modS sg sf), none⟩
  | .sel sg d a b c => some ⟨0x14, f3Body d a b (modS sg 0), some (f3xBody c Opnd.zero 0 0 0 0)⟩
  | .mov sg d a => some ⟨0x15, f3Body d a Opnd.zero (modS sg 0), none⟩
  | .addi d a imm => some ⟨0x16, fiBody d a imm, none⟩
  | .andi d a imm => some ⟨0x17, fiBody d a imm, none⟩
  | .ori d a imm => some ⟨0x18, fiBody d a imm, none⟩
  | .xori d a imm => some ⟨0x19, fiBody d a imm, none⟩
  | .shli sg n d a => some ⟨0x1A, fiBody d a (shImm sg n), none⟩
  | .shri sg n d a => some ⟨0x1B, fiBody d a (shImm sg n), none⟩
  | .cmpi d a imm => some ⟨0x1C, fiBody d a imm, none⟩
  | .li d imm => some ⟨0x1D, fwBody d imm, none⟩
  | .liu d imm => some ⟨0x1E, fwBody d imm, none⟩
  | .lih d imm => some ⟨0x1F, fwBody d imm, none⟩
  | .agen sf sg d a b => some ⟨0x20, f3Body d a b (modS sg sf), none⟩
  | .ageni d a imm => some ⟨0x21, fiBody d a imm, none⟩
  | .ld d a imm => some ⟨0x22, fiBody d a imm, none⟩
  | .st d a imm => some ⟨0x23, fiBody d a imm, none⟩
  | .spill d a imm => some ⟨0x24, fiBody d a imm, none⟩
  | .fill d a imm => some ⟨0x25, fiBody d a imm, none⟩
  | .br cond a off => some ⟨0x26, fbBody a off cond, none⟩
  | .call a off => some ⟨0x27, fbBody a off 0, none⟩
  | .ret a => some ⟨0x28, fbBody a 0 0, none⟩
  | .brx a off => some ⟨0x29, fbBody a off 0, none⟩
  | .loop lvl per => some ⟨0x2A, fwBody Opnd.zero ((lvl ++ per).setWidth 32), none⟩
  | .endl lvl => some ⟨0x2B, fwBody Opnd.zero (lvl.setWidth 32), none⟩
  | .cue a off => some ⟨0x2C, fiBody Opnd.zero a (off.setWidth 18), none⟩
  | .hold => some ⟨0x2D, fwBody Opnd.zero 0, none⟩
  | .wait n => some ⟨0x2E, fwBody Opnd.zero n, none⟩
  | .await mask => some ⟨0x2F, fiBody Opnd.zero Opnd.zero (mask.setWidth 18), none⟩
  | .endstep => some ⟨0x30, fwBody Opnd.zero 0, none⟩
  | .mfsr d num => some ⟨0x31, fsBody d Opnd.zero num, none⟩
  | .mtsr num a => some ⟨0x32, fsBody Opnd.zero a num, none⟩
  | .abs sg d a => some ⟨0x33, f3Body d a Opnd.zero (modS sg 0), none⟩
  | .neg sg d a => some ⟨0x34, f3Body d a Opnd.zero (modS sg 0), none⟩
  | .adds sg d a b => some ⟨0x35, f3Body d a b (modS sg 0), none⟩
  | .subs sg d a b => some ⟨0x36, f3Body d a b (modS sg 0), none⟩
  | .muli d a imm => some ⟨0x37, fiBody d a imm, none⟩
  | .ctz d a => some ⟨0x38, f3Body d a Opnd.zero 0, none⟩
  | .brev d a => some ⟨0x39, f3Body d a Opnd.zero 0, none⟩
  | .crcx d a b => some ⟨0x3A, f3Body d a b 0, none⟩
  | .rollk d a b => some ⟨0x3B, f3Body d a b 0, none⟩
  | .ktox hi k d => some ⟨0x3C, f3Body d Opnd.zero Opnd.zero (modS hi k), none⟩
  | .xtok hi k a => some ⟨0x3D, f3Body Opnd.zero a Opnd.zero (modS hi k), none⟩
  | .btst sg d a b => some ⟨0x3E, f3Body d a b (modS sg 0), none⟩
  | .movc sg d a b => some ⟨0x3F, f3Body d a b (modS sg 0), none⟩
  | .vadd sg k d a b => some ⟨0x40, f3Body d a b (modS sg k), none⟩
  | .vsub sg k d a b => some ⟨0x41, f3Body d a b (modS sg k), none⟩
  | .vmul sg k d a b => some ⟨0x42, f3Body d a b (modS sg k), none⟩
  | .vmulh sg k d a b => some ⟨0x43, f3Body d a b (modS sg k), none⟩
  | .vmin sg k d a b => some ⟨0x44, f3Body d a b (modS sg k), none⟩
  | .vmax sg k d a b => some ⟨0x45, f3Body d a b (modS sg k), none⟩
  | .vand sg k d a b => some ⟨0x46, f3Body d a b (modS sg k), none⟩
  | .vor sg k d a b => some ⟨0x47, f3Body d a b (modS sg k), none⟩
  | .vxor sg k d a b => some ⟨0x48, f3Body d a b (modS sg k), none⟩
  | .vandn sg k d a b => some ⟨0x49, f3Body d a b (modS sg k), none⟩
  | .vshl sg k d a b => some ⟨0x4A, f3Body d a b (modS sg k), none⟩
  | .vshr sg k d a b => some ⟨0x4B, f3Body d a b (modS sg k), none⟩
  | .vabs sg k d a => some ⟨0x4C, f3Body d a Opnd.zero (modS sg k), none⟩
  | .vneg sg k d a => some ⟨0x4D, f3Body d a Opnd.zero (modS sg k), none⟩
  | .vadds sg k d a b => some ⟨0x4E, f3Body d a b (modS sg k), none⟩
  | .vsubs sg k d a b => some ⟨0x4F, f3Body d a b (modS sg k), none⟩
  | .vfadd fmt rnd k d a b => some ⟨0x50, f3Body d a b (modS false k), some (f3xBody Opnd.zero Opnd.zero 0 0 fmt rnd)⟩
  | .vfsub fmt rnd k d a b => some ⟨0x51, f3Body d a b (modS false k), some (f3xBody Opnd.zero Opnd.zero 0 0 fmt rnd)⟩
  | .vfmul fmt rnd k d a b => some ⟨0x52, f3Body d a b (modS false k), some (f3xBody Opnd.zero Opnd.zero 0 0 fmt rnd)⟩
  | .vfma fmt rnd k d a b c => some ⟨0x53, f3Body d a b (modS false k), some (f3xBody c Opnd.zero 0 0 fmt rnd)⟩
  | .vfms fmt rnd k d a b c => some ⟨0x54, f3Body d a b (modS false k), some (f3xBody c Opnd.zero 0 0 fmt rnd)⟩
  | .vfnma fmt rnd k d a b c => some ⟨0x55, f3Body d a b (modS false k), some (f3xBody c Opnd.zero 0 0 fmt rnd)⟩
  | .vfnms fmt rnd k d a b c => some ⟨0x56, f3Body d a b (modS false k), some (f3xBody c Opnd.zero 0 0 fmt rnd)⟩
  | .vfmin fmt k d a b => some ⟨0x57, f3Body d a b (modS false k), some (f3xBody Opnd.zero Opnd.zero 0 0 fmt 0)⟩
  | .vfmax fmt k d a b => some ⟨0x58, f3Body d a b (modS false k), some (f3xBody Opnd.zero Opnd.zero 0 0 fmt 0)⟩
  | .vfabs fmt k d a => some ⟨0x59, f3Body d a Opnd.zero (modS false k), some (f3xBody Opnd.zero Opnd.zero 0 0 fmt 0)⟩
  | .vfneg fmt k d a => some ⟨0x5A, f3Body d a Opnd.zero (modS false k), some (f3xBody Opnd.zero Opnd.zero 0 0 fmt 0)⟩
  | .vsqrt fmt rnd k d a => some ⟨0x5B, f3Body d a Opnd.zero (modS false k), some (f3xBody Opnd.zero Opnd.zero 0 0 fmt rnd)⟩
  | .vrcp fmt rnd k d a => some ⟨0x5C, f3Body d a Opnd.zero (modS false k), some (f3xBody Opnd.zero Opnd.zero 0 0 fmt rnd)⟩
  | .vrsq fmt rnd k d a => some ⟨0x5D, f3Body d a Opnd.zero (modS false k), some (f3xBody Opnd.zero Opnd.zero 0 0 fmt rnd)⟩
  | .vexp2 fmt rnd k d a => some ⟨0x5E, f3Body d a Opnd.zero (modS false k), some (f3xBody Opnd.zero Opnd.zero 0 0 fmt rnd)⟩
  | .vlog2 fmt rnd k d a => some ⟨0x5F, f3Body d a Opnd.zero (modS false k), some (f3xBody Opnd.zero Opnd.zero 0 0 fmt rnd)⟩
  | .vcmp cc sg k kd a b => some ⟨0x60, f3Body (maskCcOpnd kd cc) a b (modS sg k), none⟩
  | .vfcmp cc fmt k kd a b => some ⟨0x61, f3Body (maskCcOpnd kd cc) a b (modS false k), some (f3xBody Opnd.zero Opnd.zero 0 0 fmt 0)⟩
  | .kand kd ka kb => some ⟨0x62, f3Body (maskOpnd kd) (maskOpnd ka) (maskOpnd kb) 0, none⟩
  | .kor kd ka kb => some ⟨0x63, f3Body (maskOpnd kd) (maskOpnd ka) (maskOpnd kb) 0, none⟩
  | .kxor kd ka kb => some ⟨0x64, f3Body (maskOpnd kd) (maskOpnd ka) (maskOpnd kb) 0, none⟩
  | .knot kd ka => some ⟨0x65, f3Body (maskOpnd kd) (maskOpnd ka) Opnd.zero 0, none⟩
  | .kpopc d ka => some ⟨0x66, f3Body d (maskOpnd ka) Opnd.zero 0, none⟩
  | .vsel k d a b => some ⟨0x67, f3Body d a b (modS false k), none⟩
  | .vcvt dst src rnd k d a => some ⟨0x68, f3Body d a Opnd.zero (modS false k), some (f3xBody Opnd.zero Opnd.zero 0 src dst rnd)⟩
  | .vcvtfi dst src rnd k d a => some ⟨0x69, f3Body d a Opnd.zero (modS false k), some (f3xBody Opnd.zero Opnd.zero 0 src dst rnd)⟩
  | .vcvtif dst src rnd k d a => some ⟨0x6A, f3Body d a Opnd.zero (modS false k), some (f3xBody Opnd.zero Opnd.zero 0 src dst rnd)⟩
  | .vcvtii sat dst src k d a => some ⟨0x6B, f3Body d a Opnd.zero (modS false k), some (f3xBody Opnd.zero Opnd.zero (bit6 sat) src dst 0)⟩
  | .vqnt wid adapt int sg d a c e => some ⟨0x6C, f3Body d a Opnd.zero 0, some (f3xBody c e (qntAux wid adapt int sg) 0 9 0)⟩
  | .vxpd sg fmt rnd d a c => some ⟨0x6D, f3Body d a Opnd.zero 0, some (f3xBody c Opnd.zero (bit6 sg) 9 fmt rnd)⟩
  | .vsplat sg k d a => some ⟨0x6E, f3Body d a Opnd.zero (modS sg k), none⟩
  | .vbcast k d a b => some ⟨0x6F, f3Body d a b (modS false k), none⟩
  | .vred op sg k d a => some ⟨0x70, f3Body d a (maskOpnd op) (modS sg k), none⟩
  | .vfred op fmt rnd k d a => some ⟨0x71, f3Body d a Opnd.zero (modS false k), some (f3xBody Opnd.zero Opnd.zero (aux2 op) 0 fmt rnd)⟩
  | .vscan op sg k d a => some ⟨0x72, f3Body d a (maskOpnd op) (modS sg k), none⟩
  | .vfscan op fmt rnd k d a => some ⟨0x73, f3Body d a Opnd.zero (modS false k), some (f3xBody Opnd.zero Opnd.zero (aux2 op) 0 fmt rnd)⟩
  | .vperm k d a b => some ⟨0x74, f3Body d a b (modS false k), none⟩
  | .vrot k d a b => some ⟨0x75, f3Body d a b (modS false k), none⟩
  | .vcmpr k d a => some ⟨0x76, f3Body d a Opnd.zero (modS false k), none⟩
  | .viota k d => some ⟨0x77, f3Body d Opnd.zero Opnd.zero (modS false k), none⟩
  | .vld d a imm => some ⟨0x78, fiBody d a imm, none⟩
  | .vlds k d a b => some ⟨0x79, f3Body d a b (modS false k), none⟩
  | .vldx k d a b => some ⟨0x7A, f3Body d a b (modS false k), none⟩
  | .vst d a imm => some ⟨0x7B, fiBody d a imm, none⟩
  | .vsts k d a b => some ⟨0x7C, f3Body d a b (modS false k), none⟩
  | .vstx k d a b => some ⟨0x7D, f3Body d a b (modS false k), none⟩
  | .vgetx sg d a b => some ⟨0x7E, f3Body d a b (modS sg 0), none⟩
  | .vmov sg k d a => some ⟨0x7F, f3Body d a Opnd.zero (modS sg k), none⟩
  | .feeda cont mc e cw kn => some ⟨0x80, fmBody cw kn 0 e (mod2 mc cont), none⟩
  | .feedb cont mc e cw kn => some ⟨0x81, fmBody cw kn 0 e (mod2 mc cont), none⟩
  | .feedax mc e cw kn => some ⟨0x82, fmBody cw kn 0 e (mod2 mc false), none⟩
  | .feedbx mc e cw kn => some ⟨0x83, fmBody cw kn 0 e (mod2 mc false), none⟩
  | .wina e cw kn => some ⟨0x84, fmBody cw kn 0 e 0, none⟩
  | .winb e cw kn => some ⟨0x85, fmBody cw kn 0 e 0, none⟩
  | .cropa e cw => some ⟨0x86, fmBody cw Opnd.zero 0 e 0, none⟩
  | .qclr qb rcu e kn => some ⟨0x87, fmBody Opnd.zero kn 0 e (mod2 rcu qb), none⟩
  | .mma p cw kn => some ⟨0x88, fmBody cw kn p 0 0, none⟩
  | .mmac p cw kn => some ⟨0x89, fmBody cw kn p 0 0, none⟩
  | .aclr e kn => some ⟨0x8A, fmBody Opnd.zero kn 0 e 0, none⟩
  | .ald e cw kn => some ⟨0x8B, fmBody cw kn 0 e 0, none⟩
  | .asav e cw kn => some ⟨0x8C, fmBody cw kn 0 e 0, none⟩
  | .drn e cw kn => some ⟨0x8D, fmBody cw kn 0 e 0, none⟩
  | .drna e cw kn => some ⟨0x8E, fmBody cw kn 0 e 0, none⟩
  | .drnf e cw kn => some ⟨0x8F, fmBody cw kn 0 e 0, none⟩
  | .wcfg cw kn => some ⟨0x90, fmBody cw kn 0 0 0, none⟩
  | .wpadv cw => some ⟨0x91, fmBody cw Opnd.zero 0 0 0, none⟩
  | .boxcfg cw kn => some ⟨0x92, fmBody cw kn 0 0 0, none⟩
  | .poolmx init fin e cw kn => some ⟨0x93, fmBody cw kn 0 e (mod2 fin init), none⟩
  | .poolav init fin e cw kn => some ⟨0x94, fmBody cw kn 0 e (mod2 fin init), none⟩
  | .ascl rnd e cw kn => some ⟨0x95, fmBody cw kn 0 e (rnd.setWidth 4), none⟩
  | .abias rnd e cw kn => some ⟨0x96, fmBody cw kn 0 e (rnd.setWidth 4), none⟩
  | .aclmp e cw kn => some ⟨0x97, fmBody cw kn 0 e 0, none⟩
  | .ardv e cw kn => some ⟨0x98, fmBody cw kn 0 e 0, none⟩
  | .awrv e cw kn => some ⟨0x99, fmBody cw kn 0 e 0, none⟩
  | .drnr e cw kn => some ⟨0x9A, fmBody cw kn 0 e 0, none⟩
  | .mmaz p cw kn => some ⟨0x9B, fmBody cw kn p 0 0, none⟩
  | .feedd qb e cw kn => some ⟨0x9C, fmBody cw kn 0 e (mod2 false qb), none⟩
  | .mcfg cw => some ⟨0x9D, fmBody cw Opnd.zero 0 0 0, none⟩
  | .mstat kn => some ⟨0x9E, fmBody Opnd.zero kn 0 0 0, none⟩
  | .qstat kn => some ⟨0x9F, fmBody Opnd.zero kn 0 0 0, none⟩
  | .copy f => some ⟨0xA0, fcBody f, some (fcxBody f)⟩
  | .copya f => some ⟨0xA1, fcBody f, some (fcxBody f)⟩
  | .seqcfg slot off a => some ⟨0xA2, fiBody Opnd.zero a (off ++ slot), none⟩
  | .mcopy f => some ⟨0xA3, fcBody f, some (fcxBody f)⟩
  | .tlfetch f => some ⟨0xA4, fcBody f, some (fcxBody f)⟩
  | .ucopy f => some ⟨0xA5, fcBody f, some (fcxBody f)⟩
  | .gath f => some ⟨0xA6, fcBody f, some (fcxBody f)⟩
  | .gaths f => some ⟨0xA7, fcBody f, some (fcxBody f)⟩
  | .scat f => some ⟨0xA8, fcBody f, some (fcxBody f)⟩
  | .scatw f => some ⟨0xA9, fcBody f, some (fcxBody f)⟩
  | .pin d a beats => some ⟨0xAA, fiBody d a (beats.setWidth 18), none⟩
  | .unpin d a => some ⟨0xAB, fiBody d a 0, none⟩
  | .xform f => some ⟨0xAC, fcBody f, some (fcxBody f)⟩
  | .xformv f => some ⟨0xAD, fcBody f, some (fcxBody f)⟩
  | .ufill f => some ⟨0xAE, fcBody f, some (fcxBody f)⟩
  | .xstat d a => some ⟨0xAF, f3Body d a Opnd.zero 0, none⟩
  | .atadd sp d a b => some ⟨0xB0, f3Body d a b (modS false sp), none⟩
  | .atmin flag sp d a b => some ⟨0xB1, f3Body d a b (modS flag sp), none⟩
  | .atmax flag sp d a b => some ⟨0xB2, f3Body d a b (modS flag sp), none⟩
  | .atand sp d a b => some ⟨0xB3, f3Body d a b (modS false sp), none⟩
  | .ator sp d a b => some ⟨0xB4, f3Body d a b (modS false sp), none⟩
  | .atxor sp d a b => some ⟨0xB5, f3Body d a b (modS false sp), none⟩
  | .atswp sp d a b => some ⟨0xB6, f3Body d a b (modS false sp), none⟩
  | .atcas sp d a b c => some ⟨0xB7, f3Body d a b (modS false sp), some (f3xBody c Opnd.zero 0 0 0 0)⟩
  | .atfmin flag sp d a b => some ⟨0xB8, f3Body d a b (modS flag sp), none⟩
  | .atfmax flag sp d a b => some ⟨0xB9, f3Body d a b (modS flag sp), none⟩
  | .atfadd flag sp d a b => some ⟨0xBA, f3Body d a b (modS flag sp), none⟩
  | .gongArr d a n => some ⟨0xBB, fiBody d a (n.setWidth 18), none⟩
  | .gongWait a => some ⟨0xBC, fiBody Opnd.zero a 0, none⟩
  | .gongHdl flag sp d a b => some ⟨0xBD, f3Body d a b (modS flag sp), none⟩
  | .gongInit sp a b => some ⟨0xBE, f3Body Opnd.zero a b (modS false sp), none⟩
  | .lstep lead d a b => some ⟨0xBF, f3Body d a b (bit4 lead), none⟩
  | .lgraph lead d a b => some ⟨0xC0, f3Body d a b (bit4 lead), none⟩
  | .cmuTab a tag => some ⟨0xC1, f3Body Opnd.zero a Opnd.zero tag, none⟩
  | .cmuFrm a tag => some ⟨0xC2, f3Body Opnd.zero a Opnd.zero tag, none⟩
  | .mpb a tag => some ⟨0xC3, f3Body Opnd.zero a Opnd.zero tag, none⟩
  | .belLook a tag => some ⟨0xC4, f3Body Opnd.zero a Opnd.zero tag, none⟩
  | .belDep a tag => some ⟨0xC5, f3Body Opnd.zero a Opnd.zero tag, none⟩
  | .belRes a tag => some ⟨0xC6, f3Body Opnd.zero a Opnd.zero tag, none⟩
  | .belPin a tag => some ⟨0xC7, f3Body Opnd.zero a Opnd.zero tag, none⟩
  | .act bank row => some ⟨0xC8, fdBody bank row 0 0 0, none⟩
  | .rd bank col beat => some ⟨0xC9, fdBody bank 0 col beat 0, none⟩
  | .wr bank col beat => some ⟨0xCA, fdBody bank 0 col beat 0, none⟩
  | .pre bank => some ⟨0xCB, fdBody bank 0 0 0 0, none⟩
  | .prea => some ⟨0xCC, fdBody 0 0 0 0 0, none⟩
  | .refpb bank => some ⟨0xCD, fdBody bank 0 0 0 0, none⟩
  | .rda bank col beat => some ⟨0xCE, fdBody bank 0 col beat 0, none⟩
  | .wra bank col beat => some ⟨0xCF, fdBody bank 0 col beat 0, none⟩
  | .ringSet base lines rank => some ⟨0xD0, fdBody 0 base 0 lines (rank.setWidth 8), none⟩
  | .ringSeek rows beat => some ⟨0xD1, fdBody 0 rows 0 beat 0, none⟩
  | .ringAdv rows beat => some ⟨0xD2, fdBody 0 rows 0 beat 0, none⟩
  | .ringGong beat => some ⟨0xD3, fdBody 0 0 0 beat 0, none⟩
  | .wrm bank col beat mask => some ⟨0xD4, fdBody bank 0 col beat mask, none⟩
  | .rdz bank col => some ⟨0xD5, fdBody bank 0 col 0 0, none⟩
  | .wrz bank col => some ⟨0xD6, fdBody bank 0 col 0 0, none⟩
  | .dmark beat code => some ⟨0xD7, fdBody 0 0 0 beat code, none⟩
  | .nop => some ⟨0xD8, fsBody Opnd.zero Opnd.zero 0, none⟩
  | .trap code => some ⟨0xD9, fsBody Opnd.zero Opnd.zero code, none⟩
  | .trapnz a code => some ⟨0xDA, fsBody Opnd.zero a code, none⟩
  | .brk code => some ⟨0xDB, fsBody Opnd.zero Opnd.zero code, none⟩
  | .svc d a code => some ⟨0xDC, fsBody d a code, none⟩
  | .event d a code => some ⟨0xDD, fsBody d a code, none⟩
  | .ckmark code => some ⟨0xDE, fsBody Opnd.zero Opnd.zero code, none⟩
  | .ill body => some ⟨0xDF, body, none⟩
  | .unassignedOpcode _ => none
  | .stepOverrun _ => none
  | .abandonmentFinish _ => none
  | .trapRecord _ => none
  | .stepCompletion _ => none
  | .flagAreaWrite _ => none
  | .segmentRelease _ => none
  | .loopIterationStart _ _ _ => none
  | .dynamicWaitEnd _ _ => none
  | .waitBudgetExhausted _ _ => none
  | .untimedBeatLanding _ _ => none
  | .untimedCompletion _ _ => none
  | .traceForward _ => none
  | .refreshAccrual _ _ => none
  | .baseDieRefresh _ _ => none
  | .abandonPrecharge _ _ => none
  | .pooledSlot _ => none
  | .scrub _ => none
  | .dispatchSlot => none
  | .stagingCheck _ => none
  | .downbeat _ => none
  | .waiterRelease _ => none
  | .futureResolved _ _ _ => none
  | .regionResident _ _ _ _ => none
  | .preemption _ => none
  | .affinityHoldExpiry _ => none
  | .hangTimeout => none
  | .queueRecordWrite _ _ => none
  | .versionRegister _ => none
  | .pchModeChange _ _ => none
  | .launchPacket _ _ => none
  | .framePacket _ _ => none
  | .accessUnitConsumed _ => none
  | .frameOutput _ _ => none
  | .frameGongArrival _ => none
  | .streamOpen _ _ _ _ _ _ => none
  | .layerTableLoad _ => none
  | .frameScoring _ => none
  | .belfryDeposit _ => none
  | .depositCopyDone _ => none
  | .belfryLookup _ => none
  | .belfryResumption _ => none
  | .belfryPin _ => none
  | .rowRepair _ _ _ _ => none
  | .dieSubstitution _ => none
  | .substitutionEnd _ => none
  | .dieAbsent _ => none
  | .hostWindowWrite _ _ => none
  | .hostWindowRead _ _ => none
  | .invgo _ => none
  | .invalidationDone => none
  | .econs _ _ => none
  | .rctlGo _ => none
  | .registerWrite _ _ _ => none
  | .getVersion => none
  | .getCapabilities => none
  | .negotiateAlgorithms _ _ => none
  | .getDigests => none
  | .getCertificate _ _ _ => none
  | .challenge _ _ => none
  | .getMeasurements _ _ => none
  | .configurationRequest _ _ _ => none
  | .coldReset => none
  | .bootStage _ => none
  | .functionLevelReset => none
  | .thermalHold _ => none
  | .thermalHoldEnd _ => none
  | .powerHold _ => none
  | .powerHoldEnd _ => none
  | .thermalShutdown => none
  | .jobAbort _ => none
  | .lineRemap _ => none

/-- The words of an encoding, issued after `idle` idle cycles (R87, R89). -/
def Enc.words (e : Enc) (idle : BitVec 10) : List Word :=
  (idle ++ e.op ++ e.body) :: (match e.cont with | none => [] | some x => [(0 : BitVec 18) ++ x])

/-- The first stream of R128 in which an opcode is valid. -/
def firstStream (op : Nat) : StreamId :=
  if streamOk op .c then .c else if streamOk op .v then .v else if streamOk op .l then .l else if streamOk op .s then .s
  else if streamOk op .m then .m else if streamOk op (.d 0) then .d 0 else .c

/-- What the decoder reads from the bits `w` of an instruction, first word in the low 64 bits, in the first stream where
its opcode is valid. -/
def decodeTableWord (_nbits w : Nat) : Option Instr :=
  let w0 : Word := BitVec.ofNat 64 w
  match decode (firstStream (opOf w0)) w0 (some (BitVec.ofNat 64 (w / 2 ^ 64))) with
  | .ok i => some i
  | .error _ => none

end Sys2Proof
end

