-- ==== Sys2Proof/Config.lean ====
section
/-! DEFINITION. What an implementation fixes and the spec leaves open, as constants with no body: nothing can be proved
about their values (assumption log 4, 12, 13). -/
namespace Sys2Proof.Config

/-- Which entry of its waiter table the scheduler allocates for the head of a gong's chain (R338); LINK is one more. -/
opaque waiterEntry : Nat → BitVec 16

/-- Whether an access uses a cached translation or walks the table afresh, until an invalidation completes (R307). -/
opaque useCached : Nat → Bool

/-- Whether a read of a beat of the bus on a cycle ends with an error status (R414): cycle and beat number. -/
opaque peerReadFails : Nat → Nat → Bool

/-- SHA-384 (R419, R421), uninterpreted. -/
opaque sha384 : List Byte → BitVec 384

/-- RSASSA-PSS verification of R419 over the signed message, uninterpreted. -/
opaque rsaVerify : List Byte → List Byte → Bool

/-- SLH-DSA-SHA2-192s verification of R419, uninterpreted. -/
opaque slhVerify : List Byte → List Byte → Bool

/-- The device's RSA and SLH-DSA signatures over an SPDM transcript (R421), uninterpreted. -/
opaque rsaSign : List Byte → List Byte
opaque slhSign : List Byte → List Byte

/-- The certificate chain of slot 0 and the boot ROM digest (R421). -/
opaque certChain : List Byte
opaque romDigest : BitVec 384

/-- The key digests fused for each image kind and slot (R419). -/
opaque keyDigest : Nat → Nat → BitVec 384

/-- PCI Express configuration space reads after some writes (R400, R422): what the link standard defines. -/
opaque configRead : List (Nat × BitVec 32) → Nat → BitVec 32

/-- The debug state that measurement 6 reports (R421). -/
opaque debugState : Byte

/-- Whether the spare die trains when it is mapped in (R395, R396). -/
opaque spareWorks : Bool

/-- What a carve-out byte holds at a downbeat after another step of the same job (R30): true keeps the earlier value, false
gives zero. -/
opaque keepCarveByte : Nat → Bool

/-- What a byte holds whose old contents a repair or a remap has lost (R393, R394). -/
opaque lostByte : Nat → Byte

/-- The group's bits and parity bit in SYND of a cause 85 in an accumulator cell or a latch record (R397), for a parity key and a
cycle. -/
opaque paritySynd : Nat → Nat → BitVec 17

/-- Whether a bank group has a repair resource left for a row (R394). -/
opaque repairLeft : Nat → Bool

/-- What service firmware sets up in boot stage 7 (R422): where the trap, error and hang rings begin and how many records they hold
(page and count, held to HBM4 and to at least one record by `State.firmwareSetup`), HANGTO, further physical ranges of its own, the
Belfry pool (MiB of its start and of its size), its window, and the scrub pass (R390). -/
opaque trapRegion : Nat × Nat
opaque errRegion : Nat × Nat
opaque hangRegion : Nat × Nat
opaque hangTimeout : Nat
opaque firmwareRanges : List (Nat × Nat)
opaque belfryPool : Option (Nat × Nat)
opaque belfryWindow : Nat
opaque scrubPass : Nat

/-- How many records of a ring (0 trap, 1 error, 2 hang) service firmware has taken when the record with a number is written: it empties
the rings when it likes (R284, R341, R399). -/
opaque ringTaken : Nat → Nat → Nat

/-- The ring, base line and lines, that an image declares for a memory stream (R256): program address, length, CRC and stream number. The
spec does not say where a loaded image carries it. -/
opaque imageRing : Nat → Nat → Nat → Nat → Nat × Nat

/-- Whether a job holds a vault allocation on a die (R395): job number and die. The spec does not say how firmware allocates vaults. -/
opaque vaultHeld : Nat → Nat → Bool

/-- The output frame with a number that a standard's decoder gives for the access units read so far, where it gives one (R345, R408): codec,
units (none: one that could not be read whole), whether an EOS has flushed the frames held for reordering, number. -/
opaque decode : Nat → List (Option (List Byte)) → Bool → Nat → Option Picture

/-- What the access units read so far say of their stream (R344). -/
opaque sequences : Nat → List (Option (List Byte)) → List SeqInfo

/-- Whether a beat of an output frame lands on a cycle before its frame gong's arrival (R350, R364), for a free value and the beat's place
in its stream. -/
opaque codecLands : Nat → Nat → Bool

end Sys2Proof.Config
end

