-- ==== Sys2Proof/Machine/State.lean ====
section
/-! DEFINITION. The state of the device as plain data: memory, the gangs that hold cores, the scheduler, the engines, the
host link and the root controller, and the machine after cold reset. -/
namespace Sys2Proof.Machine

/-- Memory: address keys strictly rising, no listed byte equal to 0, what an unlisted byte reads as (log 1, 2). -/
abbrev Mem := List Host.Cell

/-- Where the model's own machine stops. -/
inductive Fault where
  /-- exec was called in a state whose cursor names no running stream: raised by every instruction meaning; safe, no run
  from a fetched word reaches it (log 3). -/
  | noIssuer
  deriving DecidableEq, Repr

/-- Instructions the model has no meaning for. -/
inductive Refusal where
  /-- Raised by a refused arm of exec only; safe. -/
  | notModelled (mnemonic : String)
  deriving DecidableEq, Repr

/-- The word that issued something: its gang rank, stream, word address and issue cycle (R285). -/
structure Who where
  rank : Nat
  strm : StreamId
  waddr : Nat
  issue : Nat
  deriving DecidableEq, Repr

/-- What a fault reports beyond its word (R285 to R287); `key` is the failing unit of a machine check (R398). -/
structure Trap where
  cause : Nat
  lo : Nat := 0
  hi : Nat := 0
  due : Nat := 0
  inCont : Bool := false
  other : Option Who := none
  key : Nat := 0
  deriving DecidableEq, Repr

/-- The reported fault of an attempt (R41, R108): detection cycle, faulting word, report. -/
structure FaultRec where
  f : Nat
  who : Option Who
  trap : Trap
  deriving DecidableEq, Repr

/-- Locations the Clave tracks (R104): slices of `x`, slices of `v` in some lanes, mask bits, bytes of core memory; and the
accumulator rows and latch entries, whose parity alone is checked (R386). -/
inductive Loc where
  | x (start slices : Nat)
  | v (start slices : Nat) (lanes : Mask)
  | k (n : Nat) (bits : Mask)
  | cm (addr len : Nat)
  | acc (row : Nat) (cols : Mask)
  | lat (qb : Bool) (entry : Nat)
  deriving DecidableEq, Repr

/-- A pending write (R104), or a timed delivery by another core or a memory stream when `foreign` (R106). -/
structure Claim where
  who : Who
  loc : Loc
  land : Nat
  foreign : Bool := false
  deriving DecidableEq, Repr

/-- Signedness source of a latch record (R179). -/
inductive SnKind where
  | described | signed | unsigned
  deriving DecidableEq, Repr

/-- One latch row of one entry (R179): eight mantissa fields, exponent, width, signedness, Z, PD, INV, PSN with the poisoned
beat's key; and, for the DETAIL of cause 64 (R287), the format and scale bytes of the block it comes from and the block's address (0 and 0
where it comes from none). -/
structure KRec where
  m : List Nat
  e : Int
  w : Nat
  sn : SnKind
  z : Bool
  pd : Bool
  inv : Bool
  psn : Option Nat
  blk : Nat × Nat
  deriving DecidableEq, Repr

/-- A latch entry that is pending (before `due`) or filled (R179); an empty entry is not listed. `cut` says that its last fill never
lands (R182): it is pending until another one. -/
structure LatchEntry where
  due : Nat
  rows : List KRec
  cut : Bool := false
  deriving DecidableEq, Repr

/-- Where `.cont` resumes a described row (R185): next block of the slot, elements taken, decoded k-groups in hand. -/
structure RowCur where
  blk : Nat
  taken : Nat
  buf : List KRec
  deriving DecidableEq, Repr

/-- A latch: entries by number, row cursors by latch row. -/
structure Latch where
  entries : List (Nat × LatchEntry)
  curs : List (Nat × RowCur)
  deriving DecidableEq, Repr

/-- Read-modify-write of one word of a bank (R230). -/
inductive AtOp where
  | add | min | max | and | or | xor | swp | cas | fmin | fmax | fadd
  deriving DecidableEq, Repr

/-- The side of a vault bank (R294), with what decides a conflict on it (R296). -/
inductive Side where
  | vertical (odd : Bool)
  | lateral (row : Nat)
  | fabric (die : Nat)
  | rmw
  deriving DecidableEq, Repr

/-- The input descriptor of a feed, resolved (R184), with the instruction's own fields. -/
structure FeedDesc where
  qb : Bool
  e : Nat
  n : Nat
  rows : Nat
  kl : Nat
  mmax : Nat
  fmt : Nat
  pitch : Nat
  base : Nat
  mc : Bool
  deriving DecidableEq, Repr

/-- What happens on one cycle for one word: landings, reaches, consumptions (R98 to R101 and each instruction). -/
inductive Act where
  | wx (start width val : Nat)
  | wv (start width : Nat) (lanes : Mask) (vals : List Nat)
  | wk (k : Nat) (bits val : Mask)
  | mem (key : Nat) (bytes : List Byte) (psn : Bool)
  | bank (core bank line : Nat) (wr : Bool)
  | vbank (die vault bank : Nat) (side : Side) (wr : Bool)
  | setFlags (f : BitVec 7)
  | clrFlags (f : BitVec 7)
  | setMode (m : BitVec 2)
  | setBudget (n : Nat)
  | clrDone (mask : BitVec 16)
  | lineCopy (src dst land : Nat)
  | conv (var fmts fmtd : Nat) (rnd : BitVec 2) (src dst k land : Nat)
  | trnRead (src k : Nat)
  | trnLand (dst es k : Nat)
  | feedFetch (f : FeedDesc) (src : Nat) (cur : Bool) (round row : Nat)
  | feedFill (f : FeedDesc) (j : Nat)
  | fill (qb : Bool) (entry : Nat) (rows : List KRec)
  | stashRec (j row : Nat) (r : KRec) (fl : BitVec 7)
  | winRead (f : FeedDesc) (j row g c addr : Nat)
  | cropPix (f : FeedDesc) (g row k c addr : Nat)
  | cropFill (f : FeedDesc) (g : Nat) (near : Bool) (rows : List (Option (BitVec 32 × BitVec 32))) (fl : BitVec 7)
  | qclr (qb rcu : Bool) (e n : Nat)
  | outDesc (w : BitVec 64)
  | winCfg (w : BitVec 64) (c : Nat)
  | winPad (w : BitVec 64)
  | boxLine (addr n line : Nat)
  | mmaPair (j a b bw : Nat) (ap2 sa sb : Bool)
  | mmaLand (n p : Nat) (sa sb zero : Bool) (diag : Option Int)
  | poolEntry (j e : Nat)
  | poolLand (n g : Nat) (max init fin incl sg : Bool)
  | aldRow (row addr land : Nat)
  | accWrite (row : Nat) (cells : Lane)
  | accClear (col : Bool) (i : Nat)
  | late (tr : Trap)
  | xload (addr n start width land : Nat)
  | vload (addrs : List Nat) (lanes : Mask) (n start width land : Nat)
  | slotRead (slot key : Nat)
  | slotLand (slot : Nat) (bytes : List Byte)
  | blockRead (req key : Nat)
  | xformLine (var : Nat) (sg : Bool) (fmt : Nat) (par : BitVec 64) (key : Nat)
  | atomic (op : AtOp) (flag : Bool) (key w : Nat) (b c : Nat) (d : Nat) (land : Nat)
  | gongInit (key : Nat) (reload : BitVec 32)
  | gongHdl (handle : BitVec 64) (key d : Nat) (land : Nat)
  | regist (handle : BitVec 64) (key : Nat)
  | count (inb : Bool) (handle : BitVec 64) (key : Nat)
  | ringRegist (handle : BitVec 64)
  | readReg (n start width : Nat)
  | readTag (n start width : Nat)
  deriving DecidableEq, Repr

/-- An act of a word on a cycle. -/
structure Timed where
  at_ : Nat
  who : Who
  act : Act
  deriving DecidableEq, Repr

/-- Data a word in flight has read and not yet used: copied lines, k-groups of feeds, latch pairs of an MMA or pool. -/
inductive Stash where
  | line (who : Who) (k : Nat) (bytes : List Byte) (psn : Bool)
  | krec (who : Who) (j row : Nat) (r : KRec) (fl : BitVec 7)
  | pix (who : Who) (g row k : Nat) (vals : List Nat) (psn : Option Nat)
  | pair (who : Who) (j : Nat) (a b : List KRec)
  deriving DecidableEq, Repr

/-- An open loop level of a stream (R97, R153). -/
structure LoopLv where
  lvl : Nat
  origin : Nat
  period : Nat
  count : Nat
  iter : Nat
  bodyPc : Nat
  loopPc : Nat
  endl : Option Nat
  deriving DecidableEq, Repr

/-- What a dynamic wait awaits (R151, R152, R244). -/
inductive WaitCond where
  | tags (mask : BitVec 16)
  | gong (handle : BitVec 64) (lat : Nat)
  deriving DecidableEq, Repr

/-- What a stream is doing. `cued` is the c stream between its CUE and the release. -/
inductive StrmSt where
  | run
  | hold
  | cued
  | wait (c : WaitCond) (who : Who)
  | ended
  | stopped
  deriving DecidableEq, Repr

/-- A stream (R17, R92): its next word issues on base + max(IDLE, floor) (R92, R93). `stopAt` is the cycle on which a fault of
one of its words was detected after issue, its last (R41). -/
structure Stream where
  id : StreamId
  pc : Nat
  base : Nat
  floor : Nat
  st : StrmSt
  mark : BitVec 10
  loops : List LoopLv
  opened : List (Nat × Nat)
  stopAt : Option Nat
  deriving DecidableEq, Repr

/-- A completion-list entry (R243, R247). -/
inductive Compl where
  | arrive (handle : BitVec 64) (n : Nat) (waddr : Nat)
  | lstep (tob : Nat) (q : Nat) (waddr : Nat)
  | lgraph (graph : Nat) (q : Nat) (waddr : Nat)
  deriving DecidableEq, Repr

/-- A service-list entry (R280). -/
structure SvcEnt where
  num : BitVec 10
  arg : BitVec 64
  rank : Nat
  waddr : Nat
  deriving DecidableEq, Repr

/-- Release and landing cycles of the shared resources (R181, R204). -/
structure Ports where
  arrRel : Nat
  arrLand : Nat
  accRel : Nat
  feedRel : Nat
  lastLandM : Nat
  lastLandL : Nat
  loc : Nat
  vert : Nat
  net : Nat
  xf : Nat
  imBusy : Nat
  deriving DecidableEq, Repr

/-- The crop unit (R197): control word, records and sample position. -/
structure BoxState where
  cw : BitVec 64
  recs : List (Nat × List Byte)
  n : Nat
  s0 : Nat
  landed : Nat
  deriving DecidableEq, Repr

/-- Per-tag status of XSTAT (R229). -/
structure TagStat where
  drop : Bool
  items : Nat
  deriving DecidableEq, Repr

/-- One gang core in one attempt (R27, R32). -/
structure Core where
  gcore : Nat
  rank : Nat
  idx : List Nat
  res : BitVec 4
  x : BitVec 4096
  v : Vector Lane 128
  k : Vector Mask 8
  acc : Vector Lane 128
  cnt : Vector Nat 128
  qa : Latch
  qb : Latch
  flags : BitVec 7
  mode : BitVec 2
  hits : Nat
  log : List (BitVec 128)
  budget : Nat
  pend : BitVec 16
  done : BitVec 16
  tags : List (Nat × TagStat)
  counts : List Nat
  slots : List (Nat × List Byte)
  slotAt : List (Nat × Nat)
  outDesc : BitVec 64
  win : Option (BitVec 64 × Nat)
  pad : BitVec 64
  winQ : Nat
  box : Option BoxState
  compl : List Compl
  svc : List SvcEnt
  ports : Ports
  claims : List Claim
  imOut : Nat
  streams : List Stream
  deriving DecidableEq, Repr

/-- The kinds of untimed request (R201, R248), operands resolved on the issue cycle. -/
inductive ReqKind where
  | ucopy (dsp ssp dst src n : Nat)
  | ufill (dsp dst : Nat) (pat : BitVec 64) (n : Nat)
  | gath (dd : Bool) (ssp da sa dsc : Nat)
  | gaths (dsp tab sa dsc : Nat)
  | scat (dsp da sa dsc : Nat)
  | scatw (ssp da sa dsc : Nat)
  | mcopy (dsp ssp da sa : Nat) (ent : BitVec 64) (slot : List Byte)
  | tlfetch (rk : Bool) (ssp da sa lim : Nat)
  | engine (op : Nat) (addr : Nat)
  deriving DecidableEq, Repr

/-- One beat's work of an untimed request, on translated keys: copy bytes, copy bytes that the reader decodes (R374, R386), put
bytes, or combine a beat of FP32 elements (R216 to R225). `sp` and `ad` are the source's space and address, as DETAIL names them (R287). -/
inductive Move where
  | copy (dst src len : Nat)
  | load (dst src len : Nat) (sp ad : Nat)
  | put (dst : Nat) (bytes : List Byte)
  | fma (dst src : Nat) (w : BitVec 32) (sp ad : Nat)
  deriving DecidableEq, Repr

/-- What an engine answered (R249). -/
structure EngStatus where
  code : Nat
  count : Nat
  value : BitVec 64
  deriving DecidableEq, Repr

/-- An outstanding untimed request (R213). `pages` are the pages it translated (R415). When the device first works on it, `draw` is taken
for its choices of R307, and its descriptors and lists are read, `got` piece by piece; `moves` is computed from them. `due` is the completion
cycle of one that transfers nothing (R224). -/
structure Req where
  id : Nat
  who : Who
  tag : Nat
  kind : ReqKind
  io : BitVec 2
  handle : Option (BitVec 64)
  block : List Byte
  seq : Nat
  moves : Option (List Move)
  ordered : Bool
  items : Nat
  drop : Bool
  late : Option Trap
  flags : BitVec 7
  status : Option EngStatus
  lastBeat : Nat
  due : Option Nat
  pages : List Nat
  draw : Option Nat
  got : List (List Byte)
  node : Option Nat
  deriving DecidableEq, Repr

/-- A memory stream and its lease (R254 to R256). -/
structure MStream where
  n : Nat
  pch : Nat
  nr : Nat
  rows : List Nat
  strm : Stream
  entry : Nat
  len : Nat
  rank : Nat
  base : Nat
  lines : Nat
  cur : Nat
  rb : Nat
  counts : List Nat
  deriving DecidableEq, Repr

/-- A tensor-operator block (R317 to R323). -/
structure Tob where
  kind : Nat
  flags : Nat
  steplen : Nat
  prog : Nat
  plen : Nat
  pcrc : Nat
  loops : List (Nat × Nat)
  grows : Nat
  gcols : Nat
  chkm : Nat
  wbud : Nat
  cbase : Nat
  csize : Nat
  resr : List (Nat × Nat)
  leases : List (BitVec 32)
  waitg : List (BitVec 64)
  arrg : BitVec 64
  wadv : List Nat
  bnode : Nat
  bopt : Nat
  args : List Byte
  deriving DecidableEq, Repr

/-- What a machine-check retry must keep (R392): the cause, key and unit of the last machine check and its record's SEQ,
whether its verdict is lasting, the attempts that met one, and the cores and pseudo-channels of the retry. -/
structure McState where
  cause : Nat
  key : Nat
  unit : Nat
  orig : Nat
  lasting : Bool
  attempts : Nat
  cells : List Nat
  pchs : List (Nat × Nat)
  deriving DecidableEq, Repr

/-- A step as the scheduler names it (R319, R329). -/
structure QStep where
  id : Nat
  job : Nat
  tobIdx : Nat
  n : Nat
  attempt : Nat
  errs : Nat
  mc : Option McState
  deriving DecidableEq, Repr

/-- The stage a gang is in (R329, R335): placed until staged, staged until the downbeat, then running; ending from a
fault until its abandonment finishes on a cycle, and closed until its record has landed. -/
inductive Phase where
  | placed (since : Nat)
  | staged (ready : Nat)
  | running
  | ending
  | closed (a : Nat)
  deriving DecidableEq, Repr

/-- The conditions of R338. -/
inductive WaitOn where
  | gong (key : Nat) (handle : BitVec 64) (since : Nat)
  | now
  | page (root va : Nat)
  | region (job lreg : Nat)
  | pch (n : Nat)
  deriving DecidableEq, Repr

/-- A CUE of the segment that is ending (R96). -/
structure CueRec where
  rank : Nat
  rel : Nat
  counts : List Nat
  who : Who
  deriving DecidableEq, Repr

/-- A gang: one step on its cores (R19, R20). `marks` are the marks of R282 on cycle f, of the faulting stream and of `c`; `replays` lists the handles marked as replays with the rank that registered them (R240), `applied` the count-downs R45 would credit
back: gong, inbound or not; `words` are the words of the instruction of the reported fault as they were fetched on f (R285). -/
structure Gang where
  id : Nat
  step : QStep
  queue : Nat
  tobAddr : Nat
  tob : Tob
  root : Nat
  brken : Bool
  cells : List Nat
  phase : Phase
  dbt : Nat
  segStart : Nat
  cues : List CueRec
  nest : List (Nat × Nat × Nat × Nat)
  cores : List Core
  mems : List MStream
  agenda : List Timed
  stash : List Stash
  reqs : List Req
  fault : Option FaultRec
  more : Nat
  wait : Option WaitOn
  refs : List Nat
  marks : BitVec 10 × BitVec 10
  words : List (BitVec 64)
  replays : List (Nat × BitVec 64)
  applied : List (Nat × Bool)
  deriving DecidableEq, Repr

/-- A command of a pseudo-channel's history (R259): cycle, opcode, bank; an implicit precharge keeps its command's
opcode and says so. -/
structure HbmCmd where
  cyc : Nat
  op : Nat
  bank : Nat
  implicit : Bool
  deriving DecidableEq, Repr

/-- Bank states (R258). -/
inductive BankSt where
  | idle
  | active (row : Nat)
  | closing (until_ : Nat)
  deriving DecidableEq, Repr

/-- The beats of a pooled request in one row (R301), read or written; `cols` have their commands two cycles apart from `start` on, once
the row has been opened. `req` is the untimed request they are of, where there is one; `lead` says that they are not beats that it moves:
table entries of its translations, its descriptors and lists, and the accesses of every other agent (log 89). -/
structure PoolReq where
  req : Option Nat
  lead : Bool
  row : Nat
  bank : Nat
  cols : List Nat
  wr : Bool
  start : Option Nat
  deriving DecidableEq, Repr

/-- A pseudo-channel (R254, R258, R270, R300). `lease` is the gang that holds it; `quiet` says that its base die has stopped
refreshing for a bound lease. -/
structure Pch where
  mode : PchMode
  debt : List Int
  banks : List BankSt
  hist : List HbmCmd
  lease : Option Nat
  quiet : Bool
  pool : List PoolReq
  deriving DecidableEq, Repr

/-- What a core keeps between steps: its planes (R40), the image staged in the active one, the job it last ran (R30), and
its trace queue (R281). `units` names, for each unit of core memory, the last job that had it in a carve-out. -/
structure CoreInfo where
  active : Bool
  valid : Bool
  len : Nat
  image : Option (Nat × Nat × Nat)
  lastJob : Nat
  units : List (Nat × Nat)
  trace : List (BitVec 128)
  deriving DecidableEq, Repr

/-- A gong update that reaches a gong on the current cycle (R238). `ord` is its place in the order of R238. -/
structure GongUpd where
  key : Nat
  ord : Nat × Nat × Nat × Nat × Nat
  kind : Nat
  n : Nat
  handle : BitVec 64
  gang : Nat
  who : Option Who
  deriving DecidableEq, Repr

/-- A change of the low four bits of a 16-byte cell of core memory or a vault, where a gong has its generation (R237, R244): cycle,
cell, value before and after, and whether it was an advance. -/
structure GongLog where
  cyc : Nat
  key : Nat
  before : Nat
  after : Nat
  advance : Bool
  deriving DecidableEq, Repr

/-- Stores with a code (R381). -/
inductive StoreKind where
  | hbm | core | plane | sequencer | vault
  deriving DecidableEq, Repr

/-- An error pattern standing in a protected unit: the unit's first byte key, the data bits and check bits that differ
from what was written (R382, R383). -/
structure Upset where
  store : StoreKind
  unit : Nat
  data : BitVec 256
  check : BitVec 32
  deriving DecidableEq, Repr

/-- What a write to core memory replaced, for the ring fetches of R257: its cycle, place and old bytes, the poisoned beats and the
error patterns among them. -/
structure MemWas where
  cyc : Nat
  key : Nat
  old : List Byte
  psn : List Nat
  ups : List Upset
  deriving DecidableEq, Repr

/-- One count of a queue's TOB being walked (R319). -/
structure TobRun where
  job : Nat
  tobIdx : Nat
  next : Nat
  total : Nat
  deriving DecidableEq, Repr

/-- A waiter (R338). -/
structure Waiter where
  q : Nat
  step : QStep
  on : WaitOn
  since : Nat
  deriving DecidableEq, Repr

/-- A work queue (R328, R329, R332). -/
structure Queue where
  rec_ : BitVec 128
  deficit : Int
  pass : Nat
  front : List QStep
  runs : List TobRun
  heldSince : Nat
  ring : Nat
  deriving DecidableEq, Repr

/-- A TOB of a job (R324, R327). -/
structure TobEnt where
  addr : Nat
  tob : Tob
  total : Nat
  done : Nat
  dropped : Bool
  flagw : BitVec 7
  added : Bool
  deriving DecidableEq, Repr

/-- How a job ended (R326). -/
inductive JobEnd where
  | normal
  | fault
  | abort
  deriving DecidableEq, Repr

/-- A job (R326, R327). -/
structure Job where
  num : Nat
  q : Nat
  root : Nat
  graph : Nat
  version : Nat
  tobs : List TobEnt
  deps : List (Nat × Nat)
  flaga : Nat
  flagn : Nat
  tag : BitVec 32
  brken : Bool
  quiet : Bool
  viaPort : Bool
  ended : Option JobEnd
  record : BitVec 1024
  deriving DecidableEq, Repr

/-- A registered graph version (R324). -/
structure Version where
  graph : Nat
  version : Nat
  rec_ : BitVec 512
  current : Bool
  deriving DecidableEq, Repr

/-- What one core keeps of an operator for one rank (R320, R337): whether it has an accumulator checkpoint, its regions
(first line, lines), the cycle of the completion, the affinity hold, and once it has been pre-empted the saved checkpoint and
regions, each with its poisoned beats (their place in the save pool is the scheduler's own, R328). The rank is `noRank` where another
rank's step has taken the core: the regions then hold no rank's values. -/
structure Kept where
  op : Nat
  job : Nat
  tobIdx : Nat
  q : Nat
  rank : Nat
  core : Nat
  acc : Bool
  regions : List (Nat × Nat)
  since : Nat
  held : Bool
  saved : Option (List (List Byte × List Nat))
  deriving DecidableEq, Repr

/-- A reservation of R334: its queue, the step it was made for, and the cores it claims; none yet while it waits to be granted. -/
structure Reservation where
  q : Nat
  step : Nat
  cells : List Nat
  deriving DecidableEq, Repr

/-- A lease region and where it is resident (R321). -/
structure Region where
  job : Nat
  lreg : Nat
  pch : Nat
  rows : List Nat
  deriving DecidableEq, Repr

/-- The ring that an image declares for one of its memory streams (R256), under the image's address, length and CRC. The spec
does not say where a loaded image carries it (log 34). -/
structure RingDecl where
  prog : Nat
  plen : Nat
  pcrc : Nat
  strm : Nat
  base : Nat
  lines : Nat
  deriving DecidableEq, Repr

/-- A ring of records in device memory (R284, R341, R399): its first byte, how many records it holds, how many of those written firmware
has taken, and how many are in memory. -/
structure MemRing where
  base : Nat
  room : Nat
  taken : Nat
  stored : Nat
  deriving DecidableEq, Repr

/-- The step scheduler and service firmware's tables beside it. `hangRing` and `trapRing` list every record written; the rings in
memory have them as far as firmware set them up. -/
structure Sched where
  queues : List (Nat × Queue)
  jobs : List (Nat × Job)
  versions : List Version
  waiters : List Waiter
  kept : List Kept
  regions : List Region
  rings : List RingDecl
  reservations : List Reservation
  classPtr : List (Nat × Nat)
  decisions : Nat
  nextJob : Nat
  nextId : Nat
  hangTo : Nat
  lastMove : Nat
  lastHang : Nat
  hangSeq : Nat
  hangRing : List (BitVec 512)
  hangMem : Option MemRing
  trapRing : List (BitVec 1024)
  trapMem : Option MemRing
  trapSeq : Nat
  trapLost : Nat
  events : List (Nat × Nat × Nat × BitVec 64)
  services : List (Nat × SvcEnt)
  traceRing : List (BitVec 128)
  claveLogs : List (Nat × Nat × Nat × List (BitVec 128))
  deriving DecidableEq, Repr

/-- One layer of a CMU slot (R351, R352). -/
structure CmuLayer where
  entry : BitVec 64
  isNew : Bool
  ages : List Nat
  deriving DecidableEq, Repr

/-- A CMU slot (R351): layers, last frame and size, the copy a repeat uses, and the command outstanding (R360). -/
structure CmuSlot where
  layers : List (Nat × CmuLayer)
  last : Option Nat
  size : Option (Nat × Nat)
  repeatCopy : Option (List (Nat × CmuLayer))
  busy : Option Nat
  next : Option (List (Nat × CmuLayer) × Nat × (Nat × Nat))
  deriving DecidableEq, Repr

/-- A Belfry node (R369). -/
structure Node where
  key : BitVec 64
  stamp : Nat
  domain : Nat
  rung : Nat
  runl : Nat
  parent : Nat
  depth : Nat
  ref : Nat
  logg : Nat
  next : Nat
  state : Nat
  child : Nat
  deriving DecidableEq, Repr

/-- A deposit that waits for a node in STATE 1, with what it has read and rolled (R373). -/
structure DepWait where
  id : Nat
  key : Nat
  depth : Nat
  units : List Byte
  exts : List (Nat × Nat)
  deriving DecidableEq, Repr

/-- The Belfry (R368 to R378). `table` and `status` are the node table as the pool's memory has it. -/
structure Belfry where
  pool : Option (Nat × Nat)
  window : Nat
  nodes : List (Nat × Node)
  coll : Nat
  drop : Nat
  pins : List (Nat × Nat)
  waiting : List DepWait
  table : List (Nat × Node)
  status : Option (BitVec 512)
  deriving DecidableEq, Repr

/-- A codec stream (R346, R350, R407, R408): `frame` is the next output number, `held` a frame that waits for an output set, `owed` the
arrivals still to be made on its gong. `read` are the access units the engine has read since the stream started afresh (none: a unit that
could not be read whole), `shown` the frames output since then, `flush` says that the next unit starts it afresh, and `writes` are the
beats of output frames that have not landed: frame, address, bytes. -/
structure CodecStream where
  stream : Nat
  engine : Nat
  codec : Nat
  q : Nat
  rate : Nat
  gong : BitVec 64
  units : List (Nat × Nat × BitVec 32)
  eos : List Nat
  outs : List (Nat × Nat × Nat × Nat × Nat)
  frame : Nat
  lastErr : Bool
  lastPic : Option Picture
  held : Option Picture
  owed : Nat
  read : List (Option (List Byte))
  shown : Nat
  flush : Bool
  writes : List (Nat × Nat × List Byte)
  deriving DecidableEq, Repr

/-- An event ring (R409, R412). -/
structure Ring where
  ebase : BitVec 64
  esize : BitVec 32
  prod : BitVec 32
  cons : BitVec 32
  drop : BitVec 32
  arm : Bool
  held : List (Bool × List Byte)
  deriving DecidableEq, Repr

/-- What left the device (R400, R410, R413, R421). -/
inductive HostOut where
  | msix (vector : Nat)
  | readData (bytes : List Byte)
  | config (val : Option (BitVec 32))
  | spdm (name : String) (body : List Byte) (rsa slh : List Byte)
  | belfryWindow (base : Nat)
  deriving DecidableEq, Repr

/-- The host link (R401 to R415). `cfg` lists the writes to configuration space, `fw` are the physical ranges of service firmware's rings and tables (R401). -/
structure HostIf where
  winbase : BitVec 64
  herrLo : Nat
  herrHi : Nat
  pwin : List (Nat × BitVec 128)
  invRoot : BitVec 64
  invVa : BitVec 64
  invCnt : BitVec 64
  invQueue : List (Nat × Nat × Nat × Nat)
  invSeq : BitVec 32
  powcap : BitVec 64
  rctlPage : Nat
  rings : List (Nat × Ring)
  bus : Mem
  cfg : List (Nat × BitVec 32)
  fw : List (Nat × Nat)
  out : List HostOut
  deriving DecidableEq, Repr

/-- The root controller, boot, the die map and power (R3, R403, R416 to R426). `aborted` says that the substitution under way has
aborted the jobs of its die (R395), and `spdmLog` holds the messages exchanged since GET_VERSION, which signatures are over (R421). -/
structure RootCtl where
  powered : Bool
  stage : Nat
  ready : Bool
  fail : Nat
  waiting : Option Nat
  counters : List (Nat × Nat)
  revoked : List (Nat × Nat)
  loaded : List (Nat × BitVec 384 × Nat × Bool)
  dieMap : List Nat
  spareUsed : Bool
  spareFailed : Bool
  substituting : Option Nat
  aborted : Bool
  absent : List Nat
  spdmVersion : Bool
  spdmAlgs : Bool
  spdmLog : List Byte
  thermalHold : Bool
  powerHold : Bool
  junction : Nat
  deriving DecidableEq, Repr

/-- A parity group in error (R384): core, file (R398), group, lane, and the bit of the group that differs from what was written; a
bit at or above the group's data bits is its parity bit. -/
structure ParityErr where
  core : Nat
  file : Nat
  group : Nat
  lane : Nat
  bit : Nat
  deriving DecidableEq, Repr

/-- A fabric flit with bytes in error (R385): source and destination logical die, the cycle on which it travels, its number, and
how many bytes are in error. -/
structure FlitErr where
  src : Nat
  dst : Nat
  cyc : Nat
  flit : Nat
  errs : Nat
  deriving DecidableEq, Repr

/-- Reliability state (R381 to R399). `repairs` lists repaired rows (hard or soft), `rows` retired ones (R394), each as
(pseudo-channel × 16 + bank) × 65,536 + row; `spareCm` and `spareVt` count the spare lines used in a bank (R393); `writeback` lists the
units whose corrected contents a scrub still has to write, with the cycle of that scrub, and `pass` is the length of a scrub pass in cycles (R390). -/
structure ErrState where
  upsets : List Upset
  parity : List ParityErr
  flits : List FlitErr
  ring : List (BitVec 512)
  mem : Option MemRing
  seq : Nat
  supp : List (Nat × Nat × Nat)
  origins : List (Nat × Nat)
  lasting : List (Nat × Nat)
  spareCm : List (Nat × Nat)
  spareVt : List (Nat × Nat)
  repairs : List (Nat × Bool)
  rows : List Nat
  unusable : List Nat
  writeback : List (Nat × Nat)
  pass : Nat
  deriving DecidableEq, Repr

/-- A pin of the row cache (R220). -/
structure PinEnt where
  die : Nat
  job : Nat
  va : Nat
  beats : Nat
  deriving DecidableEq, Repr

/-- A cached translation (R307): root, 4 KiB page, physical page, rights. -/
structure TlbEnt where
  die : Nat
  root : Nat
  page : Nat
  pa : Nat
  read : Bool
  write : Bool
  deriving DecidableEq, Repr

/-- The stream whose word issues: its gang, core rank (0 for a memory stream) and stream. -/
structure Cursor where
  gang : Nat
  rank : Nat
  strm : StreamId
  deriving DecidableEq, Repr

/-- The device. `used` lists the banks reached on the current cycle (R107, R215, R294): 0 a core bank, 1 a vault bank that a lane
writes, 2 a vault bank reached at all; `ticked` the events of fixed
cycles that have taken place on it: 0 a dispatch slot, 1 a slot of a pooled controller, 2 an accrual of a bank (log 3). -/
structure State where
  tlc : Nat
  cursor : Cursor
  mem : Mem
  poison : List Nat
  memLog : List MemWas
  used : List (Nat × Nat)
  ticked : List (Nat × Nat)
  gangs : List (Nat × Gang)
  infos : List (Nat × CoreInfo)
  pchs : List (Nat × Pch)
  gongQ : List GongUpd
  gongLog : List GongLog
  sched : Sched
  pins : List PinEnt
  tlb : List TlbEnt
  cmu : List (Nat × CmuSlot)
  belfry : Belfry
  codec : List (Nat × CodecStream)
  host : HostIf
  root : RootCtl
  err : ErrState
  fresh : Nat
  reqSeq : Nat
  inbox : List (Nat × Instr)
  deriving DecidableEq, Repr

/-- The scheduler after cold reset: nothing registered, job numbers from 1 (R326), decisions from 0 (R331). -/
def Sched.reset : Sched :=
  { queues := [], jobs := [], versions := [], waiters := [], kept := [], regions := [], rings := [], reservations := [], classPtr := [],
    decisions := 0, nextJob := 1, nextId := 0, hangTo := 0, lastMove := 0, lastHang := 0, hangSeq := 0, hangRing := [],
    hangMem := none, trapRing := [], trapMem := none, trapSeq := 0, trapLost := 0, events := [], services := [], traceRing := [],
    claveLogs := [] }

/-- The host link after cold reset (R402, R409): every register 0. -/
def HostIf.reset : HostIf :=
  { winbase := 0, herrLo := 0, herrHi := 0, pwin := [], invRoot := 0, invVa := 0, invCnt := 0, invQueue := [], invSeq := 0,
    powcap := 0, rctlPage := 0, rings := [], bus := [], cfg := [], fw := [], out := [] }

/-- The root controller after cold reset: STAGE 0 before stage 1 begins (R403, R422), dies on their shipped positions (R3), nothing
blown. -/
def RootCtl.reset : RootCtl :=
  { powered := true, stage := 0, ready := false, fail := 0, waiting := none, counters := [], revoked := [], loaded := [],
    dieMap := [0, 1, 2, 3, 4, 5, 6, 7], spareUsed := false, spareFailed := false, substituting := none, aborted := false, absent := [],
    spdmVersion := false, spdmAlgs := false, spdmLog := [], thermalHold := false, powerHold := false, junction := 0 }

/-- No errors, no records (R397: SEQ 0 at cold reset). -/
def ErrState.reset : ErrState :=
  { upsets := [], parity := [], flits := [], ring := [], mem := none, seq := 0, supp := [], origins := [], lasting := [],
    spareCm := [], spareVt := [], repairs := [], rows := [], unusable := [], writeback := [], pass := 0 }

/-- The machine right after cold reset: before boot stage 1, no step, no job, TLC 0 (R27, R326, R422; log 1, 22, 23). -/
def State.reset : State :=
  { tlc := 0, cursor := ⟨0, 0, .c⟩, mem := [], poison := [], memLog := [], used := [], ticked := [], gangs := [], infos := [], pchs := [], gongQ := [], gongLog := [],
    sched := Sched.reset, pins := [], tlb := [], cmu := [],
    belfry := { pool := none, window := 0, nodes := [], coll := 0, drop := 0, pins := [], waiting := [], table := [], status := none },
    codec := [], host := HostIf.reset, root := RootCtl.reset, err := ErrState.reset, fresh := 0, reqSeq := 0, inbox := [] }

end Sys2Proof.Machine
end

