-- ==== Sys2Proof/Machine/Ops.lean ====
section
/-! DEFINITION. The named operations over the state: memory and its address keys, slices, the gangs' cores and streams,
the Clave (R104 to R106), raising a fault (R41, R108), and what a word's issue yields. -/
namespace Sys2Proof.Machine

/-! Association lists with rising keys. -/

/-- The value listed under a key. -/
def aget {α : Type} (k : Nat) : List (Nat × α) → Option α
  | [] => none
  | (a, v) :: t => if a = k then some v else aget k t

/-- Put a value under a key, keeping keys rising. -/
def aset {α : Type} (k : Nat) (v : α) : List (Nat × α) → List (Nat × α)
  | [] => [(k, v)]
  | (a, w) :: t => if k < a then (k, v) :: (a, w) :: t else if k = a then (k, v) :: t else (a, w) :: aset k v t

/-- Drop a key. -/
def adel {α : Type} (k : Nat) (l : List (Nat × α)) : List (Nat × α) := l.filter fun p => p.1 != k

/-- Change the value under a key, if there is one. -/
def amod {α : Type} (k : Nat) (f : α → α) : List (Nat × α) → List (Nat × α)
  | [] => []
  | (a, v) :: t => if a = k then (a, f v) :: t else (a, v) :: amod k f t

/-- Insert a number into a rising list without repeats. -/
def insertNat (n : Nat) : List Nat → List Nat
  | [] => [n]
  | a :: t => if n < a then n :: a :: t else if n = a then a :: t else a :: insertNat n t

/-! Memory (log 1, 2): what an unlisted byte reads as is 0. -/

/-- One byte. -/
def Mem.read (k : Nat) : Mem → Byte
  | [] => 0
  | (a, b) :: t => if a = k then b else Mem.read k t

/-- Put one byte: rising addresses, no byte equal to 0 listed. -/
def Mem.write (k : Nat) (v : Byte) : Mem → Mem
  | [] => if v = 0 then [] else [(k, v)]
  | (a, b) :: t =>
    if k < a then (if v = 0 then (a, b) :: t else (k, v) :: (a, b) :: t)
    else if k = a then (if v = 0 then t else (k, v) :: t)
    else (a, b) :: Mem.write k v t

/-- The canonical form: rising addresses above `lo`, nothing listed as 0. -/
def Mem.wfFrom : Nat → Mem → Bool
  | _, [] => true
  | lo, (a, b) :: t => decide (lo ≤ a) && (b != 0) && Mem.wfFrom (a + 1) t

def Mem.wf (m : Mem) : Bool := Mem.wfFrom 0 m

/-- Bytes k, k+1, … -/
def Mem.bytes (m : Mem) (k : Nat) : Nat → List Byte
  | 0 => []
  | n + 1 => Mem.read k m :: Mem.bytes m (k + 1) n

/-- Write bytes from k on. -/
def Mem.put (k : Nat) : List Byte → Mem → Mem
  | [], m => m
  | b :: bs, m => Mem.put (k + 1) bs (Mem.write k b m)

/-- A little-endian number from bytes (R6). -/
def leNat : List Byte → Nat
  | [] => 0
  | b :: bs => b.toNat + 256 * leNat bs

/-- The n little-endian bytes of a number (R6). -/
def leBytes : Nat → Nat → List Byte
  | 0, _ => []
  | n + 1, v => BitVec.ofNat 8 v :: leBytes n (v / 256)

/-! Address keys: physical memory (HBM4, peer aperture) below 2^48, then vaults, core memories, planes, sequencer stores. -/

/-- Byte `a` of core memory of global core g (R4, R27). -/
def cmKey (g a : Nat) : Nat := 2 ^ 49 + g * 2 ^ 21 + a
/-- Byte of a vault: `a` holds die, vault and offset as R202 packs a `vt:` base (31 bits). -/
def vtKey (a : Nat) : Nat := 2 ^ 48 + a
/-- Byte of a plane of a core (R27: 16,384 words). -/
def imKey (g : Nat) (plane : Bool) (a : Nat) : Nat := 2 ^ 50 + (g * 2 + plane.toNat) * 2 ^ 17 + a
/-- Byte of a sequencer store (R255: 4,096 words). -/
def seqKey (pch a : Nat) : Nat := 2 ^ 51 + pch * 2 ^ 15 + a

/-- The store a key lies in (R381); none for the peer aperture and what lies beyond every store. -/
def storeOf (k : Nat) : Option StoreKind :=
  if k < 0x6000000000 then some .hbm
  else if k < 2 ^ 48 then none
  else if k < 2 ^ 49 then some .vault
  else if k < 2 ^ 50 then some .core
  else if k < 2 ^ 51 then some .plane
  else if k < 2 ^ 52 then some .sequencer
  else none

/-- Bytes of the unit a store's code protects (R381). -/
def StoreKind.unit : StoreKind → Nat
  | .hbm => 32 | .vault => 16 | .core | .plane | .sequencer => 8

/-- The bank and line of a core-memory address (R291) and of a vault offset (R293). -/
def cmBank (a : Nat) : Nat := a / 64 % 32
def vtBank (a : Nat) : Nat := a / 64 % 16

/-! Slices (R90). -/

/-- Slices(F, s, w). -/
def slices (f : Lane) (s w : Nat) : Nat := (f.toNat / 2 ^ (4 * s)) % 2 ^ w

/-- F with Slices(F, s, w) := y. -/
def setSlices (f : Lane) (s w y : Nat) : Lane :=
  let m : Lane := BitVec.ofNat 4096 ((2 ^ w - 1) * 2 ^ (4 * s))
  (f &&& ~~~m) ||| BitVec.ofNat 4096 ((y % 2 ^ w) * 2 ^ (4 * s))

/-- Fields (offset, width, value) laid into one number: records and entries. -/
def packBits : List (Nat × Nat × Nat) → Nat
  | [] => 0
  | (o, w, v) :: t => (v % 2 ^ w) * 2 ^ o + packBits t

/-- Field of a number. -/
def fld (v lo w : Nat) : Nat := v / 2 ^ lo % 2 ^ w

end Sys2Proof.Machine

namespace Sys2Proof

/-- The location an `x` operand names. -/
def Opnd.xloc (o : Opnd) : Machine.Loc := .x o.start.toNat o.slices
/-- The location of a `v` operand in every lane (R158: sources are read in every lane). -/
def Opnd.vloc (o : Opnd) : Machine.Loc := .v o.start.toNat o.slices (BitVec.allOnes 128)
end Sys2Proof

namespace Sys2Proof.Machine

/-! Reading the scalar file. -/

def Core.rd (c : Core) (o : Opnd) : Nat := slices c.x o.start.toNat o.width
/-- Ext(op) of R131. -/
def Core.ext (c : Core) (sg : Bool) (o : Opnd) : Int := Machine.ext sg (c.rd o) o.width
/-- SExt of an operand (R139). -/
def Core.sx (c : Core) (o : Opnd) : Int := sext (c.rd o) o.width
/-- A mask; k0 reads all ones (R28). -/
def Core.kmask (c : Core) (n : Nat) : Mask := if n = 0 then BitVec.allOnes 128 else (c.k.toList[n]?).getD 0
/-- A `v` operand's values, lane by lane. -/
def Core.vrd (c : Core) (o : Opnd) : List Nat := c.v.toList.map fun l => slices l o.start.toNat o.width
/-- An accumulator cell (row r, column c) as its bit pattern. -/
def Core.accCell (c : Core) (r col : Nat) : Nat := fld ((c.acc.toList[r]?).getD 0).toNat (32 * col) 32

/-! Access to gangs, cores and streams. -/

def Gang.coreAt (g : Gang) (rank : Nat) : Option Core := g.cores[rank]?
def Gang.modCore (g : Gang) (rank : Nat) (f : Core → Core) : Gang := { g with cores := g.cores.modify rank f }
def Gang.memAt (g : Gang) (n : Nat) : Option MStream := g.mems.find? fun m => m.n == n
def Gang.modMem (g : Gang) (n : Nat) (f : MStream → MStream) : Gang :=
  { g with mems := g.mems.map fun m => if m.n == n then f m else m }

/-- The stream of a core with an id. -/
def Core.strm (c : Core) (id : StreamId) : Option Stream := c.streams.find? fun s => s.id == id
def Core.modStrm (c : Core) (id : StreamId) (f : Stream → Stream) : Core :=
  { c with streams := c.streams.map fun s => if s.id == id then f s else s }

/-- A stream of a gang: core streams by rank, memory streams by number. -/
def Gang.strm (g : Gang) (rank : Nat) (id : StreamId) : Option Stream :=
  match id with
  | .d n => (g.memAt n.val).map (·.strm)
  | _ => (g.coreAt rank).bind (·.strm id)

def Gang.modStrm (g : Gang) (rank : Nat) (id : StreamId) (f : Stream → Stream) : Gang :=
  match id with
  | .d n => g.modMem n.val fun m => { m with strm := f m.strm }
  | _ => g.modCore rank (·.modStrm id f)

def State.modGang (s : State) (id : Nat) (f : Gang → Gang) : State := { s with gangs := amod id f s.gangs }
def State.modCore (s : State) (id rank : Nat) (f : Core → Core) : State := s.modGang id (·.modCore rank f)

/-- The gang that holds a global core (R20). -/
def State.gangOfCore (s : State) (g : Nat) : Option (Nat × Gang) := s.gangs.find? fun p => p.2.cells.contains g

/-- What a core keeps between steps: planes 0, nothing valid, before anything is staged. -/
def CoreInfo.blank : CoreInfo := { active := false, valid := false, len := 0, image := none, lastJob := 0, units := [], trace := [] }
def State.info (s : State) (g : Nat) : CoreInfo := (aget g s.infos).getD CoreInfo.blank
def State.setInfo (s : State) (g : Nat) (i : CoreInfo) : State := { s with infos := aset g i s.infos }

/-- A pseudo-channel that no mode change has touched: pooled, debt 0, banks idle (log 22). -/
def Pch.blank : Pch :=
  { mode := .pooled, debt := List.replicate 16 0, banks := List.replicate 16 .idle, hist := [], lease := none, quiet := false, pool := [] }
def State.pch (s : State) (n : Nat) : Pch := (aget n s.pchs).getD Pch.blank
def State.modPch (s : State) (n : Nat) (f : Pch → Pch) : State := { s with pchs := aset n (f (s.pch n)) s.pchs }

/-! Faults (R41, R108). -/

/-- R108 among faults of one cycle: stream, rank, cause. A fault with no word comes last (STRM 31). -/
def FaultRec.before (a b : FaultRec) : Bool :=
  let sa : Nat := (a.who.map (·.strm.code)).getD 31
  let sb : Nat := (b.who.map (·.strm.code)).getD 31
  let ra : Nat := (a.who.map (·.rank)).getD 0
  let rb : Nat := (b.who.map (·.rank)).getD 0
  decide (sa < sb) || (sa == sb && (decide (ra < rb) || (ra == rb && decide (a.trap.cause < b.trap.cause))))

/-- MORE saturates at 255 (R284). -/
def satAdd1 (m : Nat) (n : Nat) : Nat := if n < m then n + 1 else m

/-- The stream of a faulting word stops (R41): at once for a fault at issue, after cycle t for a later one. -/
def Gang.stop (g : Gang) (t : Nat) (w : Option Who) : Gang :=
  match w with
  | none => g
  | some w => g.modStrm w.rank w.strm fun s => if w.issue = t then { s with st := .stopped } else { s with stopAt := some t }

/-- The phase after a fault: a running or ending gang is ending. -/
def Phase.faulted : Phase → Phase
  | .running => .ending
  | p => p

/-- A fault detected on cycle t (R41, R108, R284): the reported fault is the first by R108 of the first cycle; the others up
to f + 32 are counted in MORE; the stream of the faulting word stops. -/
def Gang.raise (g : Gang) (t : Nat) (w : Option Who) (tr : Trap) : Gang :=
  let r : FaultRec := ⟨t, w, tr⟩
  match g.fault with
  | none => { g.stop t w with fault := some r, more := 0, phase := g.phase.faulted }
  | some f =>
    if t ≤ f.f + 32 then
      { g.stop t w with fault := some (if t == f.f && r.before f then r else f), more := satAdd1 255 g.more }
    else g.stop t w

/-- The receivers of a landing fill (R186). -/
def Gang.receivers (g : Gang) (rank : Nat) (f : FeedDesc) : List Nat :=
  let gc := g.tob.gcols
  if !f.mc then [rank]
  else if f.qb then (List.range g.tob.grows).map fun r => r * gc + rank % gc
  else (List.range gc).map fun c => rank / gc * gc + c

/-- The latch entry a fill lands in, with its receivers. -/
def Gang.fillOf (g : Gang) (t : Timed) : Option (List Nat × Bool × Nat) :=
  match t.act with
  | .feedFill f j => some (g.receivers t.who.rank f, f.qb, (f.e + j) % 128)
  | .fill qb e _ => some ([t.who.rank], qb, e)
  | .cropFill f k _ _ _ => some ([t.who.rank], false, (f.e + k) % 128)
  | _ => none

/-- The last cycle on which something still fills an entry of a rank's latch. -/
def Gang.fillDue (g : Gang) (r : Nat) (qb : Bool) (e : Nat) : Option Nat :=
  g.agenda.foldl (fun m a => match g.fillOf a with
    | some (rs, q, k) => if rs.contains r && q == qb && k == e then some (match m with | some t => if t < a.at_ then a.at_ else t | none => a.at_) else m
    | none => m) none

/-- An entry whose fill does not land is pending until its next fill, if one is to come (R180, R182). -/
def Latch.unfilled (l : Latch) (e : Nat) (next : Option Nat) : Latch :=
  { l with entries := amod e (fun x => { x with due := next.getD x.due, cut := next.isNone }) l.entries }

/-- A fill that is in the agenda no more leaves its entry in its receivers unfilled. -/
def Gang.unfill (g : Gang) (p : List Nat × Bool × Nat) : Gang :=
  p.1.foldl (fun (g : Gang) r =>
    let n := g.fillDue r p.2.1 p.2.2
    g.modCore r fun c => if p.2.1 then { c with qb := c.qb.unfilled p.2.2 n } else { c with qa := c.qa.unfilled p.2.2 n }) g

/-- What is left of a word's effect lands no more (R41: a fault detected after issue). -/
def Gang.cut (g : Gang) (w : Who) (t : Nat) : Gang :=
  let gone := g.agenda.filter fun a => a.who == w && decide (t ≤ a.at_)
  let left := { g with agenda := g.agenda.filter fun a => a.who != w || decide (a.at_ < t) }
  (gone.filterMap g.fillOf).foldl Gang.unfill left

/-- Steps that still issue or may be faulted. -/
def Gang.live (g : Gang) : Bool :=
  match g.phase with
  | .running | .ending => true
  | _ => false

/-! The Clave (R104 to R106). -/

/-- Ranges [a, a+n) and [b, b+m): the lowest common element. -/
def overlap (a n b m : Nat) : Option Nat :=
  let lo := if a < b then b else a
  if lo < a + n && lo < b + m then some lo else none

/-- The lowest slice, mask number or byte that two locations share, with its SPACE code (R105). -/
def Loc.meets : Loc → Loc → Option (Nat × Nat)
  | .x a n, .x b m => (overlap a n b m).map (0, ·)
  | .v a n l, .v b m l' => if l &&& l' = 0 then none else (overlap a n b m).map (1, ·)
  | .k a l, .k b l' => if a = b && l &&& l' != 0 then some (2, a) else none
  | .cm a n, .cm b m => (overlap a n b m).map (3, ·)
  | _, _ => none

/-- A hazard of one read: SPACE, INDEX and the claim. -/
structure Hazard where
  space : Nat
  index : Nat
  claim : Claim
  deriving DecidableEq, Repr

/-- The claim that a read of `l` on cycle t meets, lowest location first; then the earliest of the deliveries, the latest landing of
the core's own writes (log 7). -/
def hazardOf (t : Nat) (foreign : Bool) (cs : List Claim) (l : Loc) : Option Hazard :=
  (cs.filterMap fun c =>
    if c.foreign == foreign && c.who.issue ≤ t && t < c.land then (l.meets c.loc).map fun (s, i) => ⟨s, i, c⟩ else none).foldl
    (fun b h => match b with
      | none => some h
      | some g => if h.index < g.index || (h.index == g.index && (if foreign then decide (h.claim.land < g.claim.land) else decide (g.claim.land < h.claim.land))) then some h else some g) none

/-- Cause 16 of an early read of a timed delivery (R106, R287 kind 1). -/
def missTrap (dbt : Nat) (h : Hazard) : Trap :=
  { cause := 16, lo := 1, due := h.claim.land - dbt }

/-- Cause 17 of an early read in trap mode (R104, R287). -/
def hazTrap (dbt : Nat) (h : Hazard) : Trap :=
  { cause := 17, lo := packBits [(0, 3, h.space), (3, 21, h.index)], due := h.claim.land - dbt }

/-- A record-log entry (R105). -/
def logEntry (dbt : Nat) (w : Who) (h : Hazard) : BitVec 128 :=
  BitVec.ofNat 128 (packBits [(64, 21, w.issue - dbt), (50, 14, w.waddr), (45, 5, w.strm.code), (42, 3, h.space),
    (21, 21, h.index), (0, 21, h.claim.land - w.issue)])

/-- Recorded hazards (R36, R105): HITS saturates, the first 32 enter the log. -/
def Core.record (c : Core) (dbt : Nat) (w : Who) (hs : List Hazard) : Core :=
  { c with hits := if c.hits + hs.length < 65535 then c.hits + hs.length else 65535,
           log := (c.log ++ hs.map (logEntry dbt w)).take 32 }

/-! Issue. -/

/-- Everything a word's meaning may look at: the state, its gang, its core (rank 0's for a memory stream), its stream. -/
structure Ctx where
  s : State
  gid : Nat
  g : Gang
  c : Core
  st : Stream
  m : Option MStream
  who : Who
  words : Nat

/-- The issue cycle. -/
def Ctx.t (c : Ctx) : Nat := c.s.tlc

/-- What a word does when it meets no fault: writes pending on its core with landing cycles, deliveries pending on other
cores of the gang, acts on later cycles, the change of its stream, and the changes of its issue cycle. -/
structure Eff where
  claims : List (Loc × Nat) := []
  deliver : List (Nat × Loc × Nat) := []
  acts : List (Nat × Act) := []
  flow : Option (Stream → Stream) := none
  core : Core → Core := id
  gang : Gang → Gang := id
  dev : State → State := id

/-- A word's reads for the Clave, and its effect or the fault it meets at issue. -/
structure Plan where
  reads : List Loc
  res : Except Trap Eff

/-- A plan that faults. -/
def Plan.bad (reads : List Loc) (cause : Nat) (lo : Nat := 0) (hi : Nat := 0) (inCont : Bool := false) : Plan :=
  ⟨reads, .error { cause := cause, lo := lo, hi := hi, inCont := inCont }⟩

/-- The stream after its word (R92): next word, counted from this issue. -/
def Stream.next (t words : Nat) (s : Stream) : Stream := { s with pc := s.pc + words, base := t + 1, floor := 0 }

/-- The opcode's word count for an instruction (R89). -/
def instrWords (i : Instr) : Nat :=
  match encode i with
  | some e => if e.cont.isSome then 2 else 1
  | none => 1

/-- The issuing word the cursor names (log 3). -/
def State.ctx (s : State) (cur : Cursor) (i : Instr) : Option Ctx :=
  match aget cur.gang s.gangs with
  | none => none
  | some g =>
    match g.coreAt cur.rank, g.strm cur.rank cur.strm with
    | some c, some st =>
      some { s := s, gid := cur.gang, g := g, c := c, st := st,
             m := match cur.strm with | .d n => g.memAt n.val | _ => none,
             who := ⟨cur.rank, cur.strm, st.pc, s.tlc⟩, words := instrWords i }
    | _, _ => none

/-- Claims a plan would make on its own core, for words of one cycle to see each other (log 8). -/
def Plan.claimsOf (p : Plan) (w : Who) : List Claim :=
  match p.res with
  | .ok e => e.claims.map fun (l, t) => { who := w, loc := l, land := t }
  | .error _ => []

/-- A word takes effect on its issue cycle. -/
def Ctx.commit (x : Ctx) (e : Eff) : State :=
  let s := e.dev x.s
  s.modGang x.gid fun g =>
    let g := e.gang g
    let g := { g with agenda := g.agenda ++ e.acts.map fun p => (⟨p.1, x.who, p.2⟩ : Timed) }
    let g := e.deliver.foldl (fun (g : Gang) d =>
      g.modCore d.1 fun c => { c with claims := c.claims ++ [⟨x.who, d.2.1, d.2.2, true⟩] }) g
    let g := g.modCore x.who.rank fun c =>
      let c := e.core c
      { c with claims := c.claims ++ e.claims.map fun p => (⟨x.who, p.1, p.2, false⟩ : Claim) }
    g.modStrm x.who.rank x.who.strm ((e.flow).getD (Stream.next x.t x.words))

/-- The faults of a word at issue: its own, and those of its reads; R108 reports the lowest cause. -/
def lowestTrap : List Trap → Option Trap
  | [] => none
  | a :: t =>
    match lowestTrap t with
    | none => some a
    | some b => if b.cause < a.cause then some b else some a

end Sys2Proof.Machine
end

