-- ==== Sys2Proof/Machine/Err.lean ====
section
/-! DEFINITION. Codes, poison and error records of 16_reliability (R381 to R389, R391, R397 to R399): reading a store through
its code, writing it, and raising a fault with its error record. -/
namespace Sys2Proof.Machine

/-- One bits of a number below 2^16. -/
def ones (n : Nat) : Nat := ((List.range 16).filter fun i => n.testBit i).length

/-- The columns h_i of R383 for c check bits and n data bits: weight 3, then weight 5, in increasing order. -/
def secCols (c n : Nat) : List Nat :=
  ((List.range (2 ^ c)).filter (fun v => ones v == 3) ++ (List.range (2 ^ c)).filter fun v => ones v == 5).take n

/-- XOR of the columns of the one bits of `d` (R383). -/
def secCheck (cols : List Nat) (d : Nat) : Nat :=
  ((List.range cols.length).zip cols).foldl (fun x p => if d.testBit p.1 then x ^^^ p.2 else x) 0

/-- What reading a unit finds (R382, R383): the flips left in the data, and the report. -/
structure CodeOut where
  flips : Nat
  psn : Bool := false
  bad : Bool := false
  fix : Option Nat := none
  synd : Nat := 0
  symv : Nat := 0

/-- SEC-DED read (R383): n data bits, data and check flips. -/
def secRead (c n data check : Nat) : CodeOut :=
  let cols := secCols c n
  let s := check ^^^ secCheck cols data
  if s = 0 then { flips := data }
  else
    match (List.range c).find? (fun k => s == 2 ^ k) with
    | some k => { flips := data, fix := some (n + k), synd := s }
    | none =>
      match (List.range n).find? (fun i => cols[i]? == some s) with
      | some i => { flips := data ^^^ 2 ^ i, fix := some i, synd := s }
      | none => { flips := data, bad := true, synd := s }

/-- Multiplication by α in the field of R382. -/
def gfx (a : Nat) : Nat := if a * 2 ≥ 256 then (a * 2) ^^^ 0x11D else a * 2
/-- a × α^j. -/
def gfxp (a : Nat) : Nat → Nat
  | 0 => a
  | j + 1 => gfx (gfxp a j)

/-- Syndrome S_i of an error pattern, byte j in bits 8j+7 : 8j (R382). -/
def hbmSyn (err i : Nat) : Nat := (List.range 36).foldl (fun x j => x ^^^ gfxp (fld err (8 * j) 8) (i * j)) 0

/-- A product in the field of R382. -/
def gfMul (a b : Nat) : Nat := (List.range 8).foldl (fun x i => if b.testBit i then x ^^^ gfxp a i else x) 0
/-- The inverse: a^254. -/
def gfInv (a : Nat) : Nat := (List.range 253).foldl (fun x _ => gfMul x a) a

/-- The check bytes c_32 to c_35 of a burst (R382): the four that make the sums 0, each by Lagrange's formula over the points α^32 to
α^35. -/
def hbmCheck (data : Nat) : Nat :=
  let pt (k : Nat) : Nat := gfxp 1 (32 + k)
  let byte (k : Nat) : Nat :=
    match (((List.range 4).filter (· != k)).map pt) with
    | [a, b, c] =>
      let top := gfMul (gfMul (gfMul a b) c) (hbmSyn data 0) ^^^
        gfMul (gfMul a b ^^^ gfMul a c ^^^ gfMul b c) (hbmSyn data 1) ^^^ gfMul (a ^^^ b ^^^ c) (hbmSyn data 2) ^^^ hbmSyn data 3
      gfMul top (gfInv (gfMul (gfMul (pt k ^^^ a) (pt k ^^^ b)) (pt k ^^^ c)))
    | _ => 0
  packBits ((List.range 4).map fun k => (8 * k, 8, byte k))

/-- The error pattern of a poisoned burst (R388). -/
def psnPattern : Nat := 0xFFFF * 2 ^ 256

/-- HBM symbol-code read (R382, R388). -/
def hbmRead (err : Nat) : CodeOut :=
  let s (i : Nat) := hbmSyn err i
  let synd := packBits [(0, 8, s 0), (8, 8, s 1), (16, 8, s 2), (24, 8, s 3)]
  let data := err % 2 ^ 256
  if synd = 0 then { flips := data }
  else if (List.range 4).all fun i => s i == hbmSyn psnPattern i then { flips := data, psn := true, synd := synd }
  else
    match (List.range 36).find? (fun j => s 0 != 0 && s 1 == gfxp (s 0) j && s 2 == gfxp (s 1) j && s 3 == gfxp (s 2) j) with
    | some j => { flips := (err ^^^ (s 0) * 2 ^ (8 * j)) % 2 ^ 256, fix := some j, synd := synd, symv := s 0 }
    | none => { flips := data, bad := true, synd := synd }

/-- A read of some bytes (R386, R387): what is delivered, whether it is poisoned, the first uncorrectable unit, and the
units corrected. -/
structure Read where
  bytes : List Byte
  psn : Bool := false
  bad : Option Nat := none
  fixed : List Nat := []
  deriving DecidableEq, Repr

/-- Reading one unit of a store through its code. -/
def State.unitOut (s : State) (st : StoreKind) (u : Nat) : CodeOut :=
  match s.err.upsets.find? (fun e => e.unit == u) with
  | none => if st == .hbm && s.poison.contains (u / 32) then { flips := 0, psn := true } else { flips := 0 }
  | some e =>
    match st with
    | .hbm =>
      let p := if s.poison.contains (u / 32) then psnPattern else 0
      hbmRead ((e.data.toNat + 2 ^ 256 * e.check.toNat) ^^^ p)
    | .vault => secRead 9 128 e.data.toNat e.check.toNat
    | _ => secRead 8 64 e.data.toNat e.check.toNat

/-- The beats that n bytes at a key touch. -/
def beatsOf (k n : Nat) : List Nat := if n = 0 then [] else (List.range ((k + n - 1) / 32 + 1 - k / 32)).map (k / 32 + ·)

/-- Bytes at a key with their code applied. A store without error patterns reads plain. DESIGN CHOICE (log 87): a read that races with an
atomic or a write sees what is there on its own cycle, where R236 and R313 allow old or new. -/
def State.fetch (s : State) (k n : Nat) : Read :=
  let plain := s.mem.bytes k n
  let psn := (beatsOf k n).any s.poison.contains
  if s.err.upsets.isEmpty then { bytes := plain, psn := psn }
  else
    match storeOf k with
    | none => { bytes := plain }
    | some st =>
      let us := ((List.range ((k + n - 1) / st.unit + 1 - k / st.unit)).map fun i => (k / st.unit + i) * st.unit)
      let outs := us.map fun u => (u, s.unitOut st u)
      let flips (b : Nat) : Byte :=
        match outs.find? (fun p => p.1 == b / st.unit * st.unit) with
        | some p => BitVec.ofNat 8 (fld p.2.flips (8 * (b % st.unit)) 8)
        | none => 0
      { bytes := (plain.zip (List.range n)).map fun p => p.1 ^^^ flips (k + p.2)
        psn := if st == .hbm then outs.any (·.2.psn) else psn
        bad := (outs.find? (·.2.bad)).map (·.1)
        fixed := (outs.filter fun p => p.2.fix.isSome).map (·.1) }

/-- Bytes of a partly written unit lose their flips, the others keep theirs (log 27). -/
def clearFlips (u len : Nat) (k n : Nat) (d : BitVec 256) : BitVec 256 :=
  let keep := (List.range len).foldl (fun m b => if k ≤ u + b && u + b < k + n then m else m + 0xFF * 2 ^ (8 * b)) 0
  d &&& BitVec.ofNat 256 keep

/-- Error patterns after a write of n bytes at k: a unit written whole has none. -/
def upsetsAfter (us : List Upset) (k n : Nat) : List Upset :=
  us.filterMap fun e =>
    let len := e.store.unit
    if k + n ≤ e.unit || e.unit + len ≤ k then some e
    else if k ≤ e.unit && e.unit + len ≤ k + n then none
    else some { e with data := clearFlips e.unit len k n e.data }

/-- Poison marks after a write (R387). -/
def poisonAfter (ps : List Nat) (k n : Nat) (psn : Bool) : List Nat :=
  let beats := (List.range ((k + n - 1) / 32 + 1 - k / 32)).map (k / 32 + ·)
  beats.foldl (fun ps b =>
    if psn then insertNat b ps
    else if k ≤ 32 * b && 32 * b + 32 ≤ k + n then ps.filter (· != b) else ps) ps

/-- The 16-byte cells whose low four bits a write changes (R237, R244). -/
def genChanges (t k : Nat) (old new : List Byte) : List GongLog :=
  ((List.range ((k + new.length + 15) / 16 - (k + 15) / 16)).map fun i => 16 * ((k + 15) / 16 + i)).filterMap fun c =>
    let b := ((old[c - k]?).getD 0).toNat % 16; let a := ((new[c - k]?).getD 0).toNat % 16
    if a = b then none else some ⟨t, c, b, a, false⟩

/-- What a write of n bytes at a core-memory key replaces. -/
def State.was (s : State) (k : Nat) (old : List Byte) : MemWas :=
  let bs := beatsOf k old.length
  { cyc := s.tlc, key := k, old := old, psn := s.poison.filter bs.contains
    ups := s.err.upsets.filter fun u => decide (u.unit < k + old.length) && decide (k < u.unit + u.store.unit) }

/-- A write of bytes at a key (R308, R387); core memory keeps what it held for the ring fetches of R257, and what a gong's generation
was is kept for GONG.WAIT (R244). A beat written whole and clean has no origin of poison any more (R391). DESIGN CHOICE (log 87): a write
that lands on a gong that is linked or counted down leaves every byte new, where R237 allows old or new. -/
def State.store (s : State) (k : Nat) (bs : List Byte) (psn : Bool := false) : State :=
  if bs.isEmpty then s else
  let core := storeOf k == some .core
  let cell := core || storeOf k == some .vault
  let old := if cell then s.mem.bytes k bs.length else []
  let ps := poisonAfter s.poison k bs.length psn
  { s with mem := s.mem.put k bs, poison := ps
           memLog := if core then s.memLog ++ [s.was k old] else s.memLog
           gongLog := if cell then s.gongLog ++ genChanges s.tlc k old bs else s.gongLog
           err := { s.err with upsets := upsetsAfter s.err.upsets k bs.length
                               origins := if s.err.origins.isEmpty then [] else s.err.origins.filter fun o => !(beatsOf k bs.length).contains o.1 || ps.contains o.1 } }

/-- A beat that a scrub or a controller cannot correct is marked poisoned in place (R386); in HBM4 the burst then has the pattern of R388
and no other error. -/
def State.poisonBeat (s : State) (k : Nat) : State :=
  { s with poison := insertNat (k / 32) s.poison
           err := { s.err with upsets := s.err.upsets.filter fun u => !(u.store == .hbm && u.unit == k / 32 * 32) } }

/-- Undo one write of the log. -/
def State.unwrite (s : State) (w : MemWas) : State :=
  let bs := beatsOf w.key w.old.length
  { s with mem := s.mem.put w.key w.old
           poison := w.psn.foldl (fun l b => insertNat b l) (s.poison.filter fun b => !bs.contains b)
           err := { s.err with upsets := (s.err.upsets.filter fun u =>
             !(decide (u.unit < w.key + w.old.length) && decide (w.key < u.unit + u.store.unit))) ++ w.ups } }

/-- n bytes of core memory as the writes that landed on or before cycle t left them (R102, R257). -/
def State.asAt (s : State) (t k n : Nat) : State :=
  (s.memLog.filter fun w => decide (t < w.cyc) && decide (w.key < k + n) && decide (k < w.key + w.old.length)).foldr (fun w s => s.unwrite w) s

/-! Error records (R397, R398). -/

/-- The cause of an uncorrectable read of a store (R381). -/
def StoreKind.cause : StoreKind → Nat
  | .hbm => 80 | .vault => 81 | .core => 82 | .plane => 84 | .sequencer => 86

/-- Keys of parity groups (R384), of links (R385): no memory lies there. -/
def parityKey (core file group lane : Nat) : Nat := 2 ^ 52 + core * 2 ^ 32 + file * 2 ^ 28 + group * 2 ^ 8 + lane
def linkKey (src dst flit : Nat) : Nat := 2 ^ 53 + src * 2 ^ 20 + dst * 2 ^ 16 + flit

/-- LOC of R398 from the failing key. -/
def locOf (cause k : Nat) (timed : Bool) (chk : Nat) (strm : Nat) : Nat :=
  let hbm := let p := k / (768 * 2 ^ 20); let o := k % (768 * 2 ^ 20)
    packBits [(0, 9, p), (9, 4, fld o 10 4), (13, 16, o / 16384), (29, 5, fld o 5 5), (34, 1, timed.toNat)]
  let vt := let a := k - 2 ^ 48
    packBits [(0, 4, fld a 24 4), (4, 4, fld a 6 4), (8, 14, fld a 10 14), (22, 2, fld a 4 2), (24, 9, chk)]
  let cm := let a := (k - 2 ^ 49) % 2 ^ 21
    packBits [(0, 5, fld a 6 5), (5, 10, fld a 11 10), (15, 3, fld a 3 3)]
  match cause with
  | 80 => hbm
  | 81 => vt
  | 82 => cm
  | 83 => let v := k - 2 ^ 53; packBits [(0, 3, fld v 20 3), (3, 3, fld v 16 4), (14, 14, fld v 0 14)]
  | 84 => let v := k - 2 ^ 50; packBits [(0, 1, v / 2 ^ 17), (1, 14, fld v 3 14)]
  | 85 => let v := k - 2 ^ 52; packBits [(0, 3, fld v 28 4), (3, 14, fld v 8 20), (17, 7, fld v 0 7)]
  | 86 => let v := k - 2 ^ 51; packBits [(0, 9, v / 2 ^ 15), (9, 12, fld v 3 12), (21, 4, strm)]
  | _ =>
    match storeOf k with
    | some .hbm => hbm
    | some .vault => vt
    | some .core => cm
    | _ => 0

/-- The logical die and core of a failing key (R397). -/
def keyDie (cause k : Nat) : Nat :=
  if cause = 85 then (k - 2 ^ 52) / 2 ^ 32 / 32
  else match storeOf k with
    | some .vault => (k - 2 ^ 48) / 2 ^ 28
    | some .core => (k - 2 ^ 49) / 2 ^ 21 / 32
    | some .plane => (k - 2 ^ 50) / 2 ^ 18 / 32
    | _ => if cause = 83 then fld (k - 2 ^ 53) 20 4 else 0
def keyCore (cause k : Nat) : Nat :=
  if cause = 85 then (k - 2 ^ 52) / 2 ^ 32 % 32
  else match storeOf k with
    | some .core => (k - 2 ^ 49) / 2 ^ 21 % 32
    | some .plane => (k - 2 ^ 50) / 2 ^ 18 % 32
    | _ => 0

/-- The die that a stack of HBM4 hangs on. PRESUMED (log 97): the one of its number. -/
def stackDie (pch : Nat) : Nat := pch / 64

/-- The logical die a fabric path to or from a key ends on; the host hangs on no die. -/
def keyStack (k : Nat) : Nat :=
  match storeOf k with
  | some .vault | some .core | some .plane => keyDie 82 k
  | some .hbm => stackDie (k / (768 * 2 ^ 20))
  | some .sequencer => stackDie ((k - 2 ^ 51) / 2 ^ 15)
  | none => 15

/-- The link key of a flit between two dies that is uncorrectable on this cycle (R385). -/
def State.badFlit (s : State) (a b : Nat) : Option Nat :=
  if a = b then none
  else (s.err.flits.find? fun e => e.src == a && e.dst == b && e.cyc == s.tlc && decide (4 < e.errs)).map fun e => linkKey a b e.flit

/-- The unit a cause is attributed to (R391), as one number. -/
def mcUnit (cause k : Nat) : Nat :=
  match cause with
  | 80 => 2 ^ 60 + k / 1024
  | 81 => 2 ^ 61 + (k - 2 ^ 48) / 64
  | 83 => 2 ^ 62 + (k - 2 ^ 53) / 2 ^ 16
  | 86 => 2 ^ 63 + (k - 2 ^ 51) / 2 ^ 15
  | 82 | 84 | 85 => 2 ^ 59 + keyDie cause k * 32 + keyCore cause k
  | _ =>
    match storeOf k with
    | some .hbm => 2 ^ 60 + k / 1024
    | some .vault => 2 ^ 61 + (k - 2 ^ 48) / 64
    | _ => 2 ^ 59 + keyDie 82 k * 32 + keyCore 82 k

/-- What an error record says beyond its place. -/
structure ErrRec where
  cause : Nat
  key : Nat
  orig : Option Nat := none
  job : Nat := 0
  att : Nat := 0
  queue : Nat := 0
  synd : Nat := 0
  symv : Nat := 0
  symp : Nat := 0xFF
  supp : Nat := 0
  verdict : Nat := 3
  outcome : Nat
  src : Nat := 0
  act : Nat := 0
  raw : Nat := 0
  strm : Nat := 0

/-- The physical position of a logical die (R3). -/
def State.pdie (s : State) (d : Nat) : Nat := (s.root.dieMap[d]?).getD 0

/-- Firmware has taken some records of a ring in memory (0 trap, 1 error, 2 hang) when record `seq` is written; `n` were written so far
(log 88). -/
def MemRing.served (m : MemRing) (ring seq n : Nat) : MemRing :=
  let k := m.taken + Config.ringTaken ring seq
  { m with taken := if k < n then k else n }
/-- Records that still fit. -/
def MemRing.left (m : MemRing) (n : Nat) : Nat := m.room - (n - m.taken)

/-- A ring as the next record finds it, and how many records fit; before firmware has set it up nothing bounds it (log 88). -/
def ringAt (m : Option MemRing) (ring seq n want : Nat) : Option MemRing × Nat :=
  match m with
  | none => (none, want)
  | some m => let m := m.served ring seq n; (some m, m.left n)

/-- An error record enters the error ring; a full ring drops it and SEQ counts on (R397, R399). -/
def State.errRecord (s : State) (r : ErrRec) : State :=
  let cols := secCols 9 128
  let chk := if storeOf r.key = some .vault then
      secCheck cols (leNat (s.mem.bytes (r.key / 16 * 16) 16)) ^^^ ((s.err.upsets.find? fun e => e.unit == r.key / 16 * 16).map (·.check.toNat)).getD 0
    else 0
  let link := if r.cause = 83 then packBits [(6, 4, s.pdie (fld (r.key - 2 ^ 53) 20 4)), (10, 4, s.pdie (fld (r.key - 2 ^ 53) 16 4))] else 0
  let hbm := r.cause == 80 || (r.cause == 65 && storeOf r.key == some .hbm) || r.cause == 86
  let die := if hbm then 0 else keyDie r.cause r.key
  let bits := packBits [(480, 32, s.err.seq), (448, 32, r.orig.getD s.err.seq), (384, 64, s.tlc), (352, 32, r.job),
    (320, 32, r.synd), (312, 8, r.symv), (304, 8, r.symp), (208, 96, locOf r.cause r.key ((s.pch (r.key / (768 * 2 ^ 20))).mode == .timed) chk r.strm + link),
    (200, 8, r.supp), (192, 8, r.cause), (188, 4, if hbm then 15 else s.pdie die), (185, 3, die),
    (180, 5, keyCore r.cause r.key), (176, 4, r.att), (174, 2, r.verdict), (171, 3, r.outcome), (168, 3, r.src),
    (160, 8, r.act), (150, 10, r.queue), (0, 128, r.raw)]
  let m := ringAt s.err.mem 1 s.err.seq s.err.ring.length 1
  { s with err := { s.err with ring := if m.2 = 0 then s.err.ring else s.err.ring ++ [BitVec.ofNat 512 bits]
                               mem := m.1, seq := (s.err.seq + 1) % 2 ^ 32 } }

/-- The job, attempt and queue fields of a step's records, and the memory stream whose sequencer store it is (R398). -/
def ErrRec.ofGang (r : ErrRec) (g : Gang) : ErrRec :=
  { r with job := g.step.job, att := if g.step.attempt < 15 then g.step.attempt else 15, queue := g.queue
           strm := if r.cause = 86 then ((g.mems.find? fun m => m.pch == (r.key - 2 ^ 51) / 2 ^ 15).map (·.n)).getD 0 else r.strm }

/-- The syndrome of cause 85: the group's 16 bits as read and its parity bit (R397); of a cell or a latch record, whose group is not
of 16 bits, a free value (log 79). -/
def State.paritySynd (s : State) (key : Nat) : Nat :=
  let core := (key - 2 ^ 52) / 2 ^ 32
  let v := key - 2 ^ 52
  let file := fld v 28 4; let grp := fld v 8 20; let lane := fld v 0 8
  match s.gangs.findSome? fun g => g.2.cores.find? fun c => c.gcore == core with
  | none => 0
  | some c =>
    let bit := ((s.err.parity.find? fun p => p.core == core && p.file == file && p.group == grp && p.lane == lane).map (·.bit)).getD 16
    let word : Nat := match file with
      | 0 => slices c.x (4 * grp) 16
      | 1 => slices ((c.v.toList[lane]?).getD 0) (4 * grp) 16
      | _ => fld ((c.k.toList[grp / 8]?).getD 0).toNat (16 * (grp % 8)) 16
    let par := (ones word + (if 16 ≤ bit then 1 else 0)) % 2
    if 3 ≤ file then (Config.paritySynd key s.tlc).toNat
    else (if bit < 16 then word ^^^ 2 ^ bit else word) + 2 ^ 16 * par

/-- Syndrome, position and raw data of a unit as read (R397). -/
def State.describe (s : State) (r : ErrRec) : ErrRec :=
  if r.cause = 65 then r
  else if r.cause = 83 then { r with synd := 0xFF }
  else if r.cause = 85 then { r with synd := s.paritySynd r.key }
  else
  match storeOf r.key with
  | none => r
  | some st =>
    let o := s.unitOut st r.key
    let word := leNat (s.mem.bytes r.key st.unit)
    match s.err.upsets.find? (fun e => e.unit == r.key) with
    | none => r
    | some e =>
      let asRead := word ^^^ e.data.toNat
      let chk := match st with
        | .hbm => hbmCheck word ^^^ e.check.toNat ^^^ (if s.poison.contains (r.key / 32) then psnPattern / 2 ^ 256 else 0)
        | .vault => secCheck (secCols 9 128) word ^^^ e.check.toNat
        | _ => secCheck (secCols 8 64) word ^^^ e.check.toNat
      { r with synd := o.synd, symv := o.symv, symp := (o.fix).getD 0xFF,
               raw := match st with | .hbm => chk | .vault => asRead | _ => asRead + 2 ^ 64 * chk }

/-- A corrected read (R389): at most one record in 4,096 cycles for each unit, the others counted. -/
def State.corrected (s : State) (g : Option Gang) (src k : Nat) : State :=
  match storeOf k with
  | none => s
  | some st =>
    let u := mcUnit st.cause k
    let last := s.err.supp.find? (fun p => p.1 == u)
    let upd (s : State) (e : Nat × Nat × Nat) : State :=
      { s with err := { s.err with supp := e :: s.err.supp.filter fun p => p.1 != u } }
    match last with
    | some (_, t, n) =>
      if s.tlc < t + 4096 then upd s (u, t, n + 1)
      else
        let r : ErrRec := { cause := st.cause, key := k, outcome := 0, src := src, supp := if n < 255 then n else 255 }
        upd ((s.errRecord (s.describe (match g with | some g => r.ofGang g | none => r)))) (u, s.tlc, 0)
    | none =>
      let r : ErrRec := { cause := st.cause, key := k, outcome := 0, src := src }
      upd (s.errRecord (s.describe (match g with | some g => r.ofGang g | none => r))) (u, s.tlc, 0)

/-- A flit with up to four bytes in error arrives corrected, with a record of its ordered pair of dies (R385, R389, R397). -/
def State.flitFixed (s : State) (e : FlitErr) : State :=
  let k := linkKey e.src e.dst e.flit
  let u := mcUnit 83 k
  let r : ErrRec := { cause := 83, key := k, outcome := 0, synd := e.errs }
  match s.err.supp.find? fun p => p.1 == u with
  | some (_, t, n) =>
    if s.tlc < t + 4096 then { s with err := { s.err with supp := (u, t, n + 1) :: s.err.supp.filter fun p => p.1 != u } }
    else
      let s := s.errRecord { r with supp := if n < 255 then n else 255 }
      { s with err := { s.err with supp := (u, s.tlc, 0) :: s.err.supp.filter fun p => p.1 != u } }
  | none =>
    let s := s.errRecord r
    { s with err := { s.err with supp := (u, s.tlc, 0) :: s.err.supp.filter fun p => p.1 != u } }

/-- The correctable flits of this cycle. -/
def State.flitsFixed (s : State) : State :=
  (s.err.flits.filter fun e => e.cyc == s.tlc && e.src != e.dst && decide (1 ≤ e.errs) && decide (e.errs ≤ 4)).foldl State.flitFixed s

/-- A beat crosses dies in an uncorrectable flit (R298, R385): it arrives poisoned, with a record of cause 83; `dst` is the beat that
is then poisoned. -/
def State.flitBetween (s : State) (gid a b : Nat) (dst : Nat) : State × Bool :=
  match s.badFlit a b with
  | none => (s, false)
  | some k =>
    let r : ErrRec := { cause := 83, key := k, outcome := 1, synd := 0xFF }
    let s := s.errRecord (match aget gid s.gangs with | some g => r.ofGang g | none => r)
    ({ s with err := { s.err with origins := aset (dst / 32) (mcUnit 83 k) s.err.origins } }, true)

/-- Records of all corrections of one read. -/
def State.correctedAll (s : State) (g : Option Gang) (src : Nat) (r : Read) : State :=
  r.fixed.foldl (fun s k => s.corrected g src k) s

/-- A move of uncorrectable data writes a record with OUTCOME 1 (R386, R399); the beat it yields remembers the unit. -/
def State.movedBad (s : State) (g : Option Gang) (src : Nat) (r : Read) (dst : Option Nat) : State :=
  match r.bad with
  | none => s
  | some k =>
    match storeOf k with
    | none => s
    | some st =>
      let e : ErrRec := { cause := st.cause, key := k, outcome := 1, src := src }
      let s := s.errRecord (s.describe (match g with | some g => e.ofGang g | none => e))
      match dst with
      | none => s
      | some d => { s with err := { s.err with origins := aset (d / 32) (mcUnit st.cause k) s.err.origins } }

/-- The fault of an instruction that decodes what it read (R386, R387); `space` and `addr` are R287's. Until the number of the error
record takes its place, `lo` keeps the beat's space and address where `hi` names the pseudo-channel. -/
def Read.trap (r : Read) (k n space addr : Nat) (poison : List Nat) : Option Trap :=
  if r.psn then
    let b := ((List.range ((k + n - 1) / 32 + 1 - k / 32)).map (k / 32 + ·)).find? poison.contains
    let key := (b.getD (k / 32)) * 32
    some { cause := 65, key := key, hi := packBits [(0, 3, space), (8, 56, (addr / 32 * 32 + (key - k / 32 * 32)))] }
  else
    match r.bad with
    | none => none
    | some u =>
      match storeOf u with
      | none => none
      | some st =>
        let beat := packBits [(0, 3, space), (8, 56, (addr + u - k) / 32 * 32)]
        some (if st == .hbm then { cause := st.cause, key := u, lo := beat, hi := u / (768 * 2 ^ 20) } else { cause := st.cause, key := u, hi := beat })

/-- Machine-check causes (R289) and the poison cause, which all name an error record (R287). -/
def mcCause (c : Nat) : Bool := c == 65 || (80 ≤ c && c ≤ 86)

/-- The unit of R391 for a trap: a poisoned beat's origin where the device holds it. -/
def State.trapUnit (s : State) (tr : Trap) : Nat :=
  if tr.cause = 65 then (aget (tr.key / 32) s.err.origins).getD (mcUnit 65 tr.key) else mcUnit tr.cause tr.key

/-- A fault of a gang (R41, R108); a machine check writes its error record first, and the trap names it (R287, R399). -/
def State.raise (s : State) (gid t : Nat) (w : Option Who) (tr : Trap) : State :=
  if mcCause tr.cause then
    let seq := s.err.seq
    let r : ErrRec := { cause := tr.cause, key := tr.key, outcome := 2, verdict := 0 }
    let s := s.errRecord (s.describe (match aget gid s.gangs with | some g => r.ofGang g | none => r))
    s.modGang gid fun g => g.raise t w { tr with lo := seq }
  else s.modGang gid fun g => g.raise t w tr

/-- A fault detected after issue also ends what is left of its word's effect (R41). -/
def State.raiseCut (s : State) (gid t : Nat) (w : Who) (tr : Trap) : State :=
  (s.raise gid t (some w) tr).modGang gid fun g => g.cut w t

/-! Parity of the files (R384, R386). -/

/-- The parity group of a location that holds a standing error: file, group and lane. -/
def Loc.parity (core : Nat) (l : Loc) (p : ParityErr) : Bool :=
  p.core == core &&
  match l with
  | .x a n => p.file == 0 && a / 4 ≤ p.group && p.group ≤ (a + n - 1) / 4
  | .v a n m => p.file == 1 && a / 4 ≤ p.group && p.group ≤ (a + n - 1) / 4 && m.getLsbD p.lane
  | .k n b => p.file == 2 && p.group / 8 == n && (List.range 16).any fun i => b.getLsbD (16 * (p.group % 8) + i)
  | .acc r m => p.file == 3 && p.group / 128 == r && m.getLsbD (p.group % 128)
  | .lat qb e => p.file == (if qb then 5 else 4) && p.group / 128 == e
  | .cm _ _ => false

/-- Cause 85 of a word's reads (R386). -/
def parityTrap (ps : List ParityErr) (core : Nat) (reads : List Loc) : Option Trap :=
  (ps.find? fun p => reads.any fun l => l.parity core p).map fun p =>
    { cause := 85, key := parityKey core p.file p.group p.lane }

/-- Whether a write of a location covers a bit of a group. -/
def Loc.coversBit (l : Loc) (p : ParityErr) (i : Nat) : Bool := match l with
  | .x a n => a ≤ 4 * p.group + i / 4 && 4 * p.group + i / 4 < a + n
  | .v a n _ => a ≤ 4 * p.group + i / 4 && 4 * p.group + i / 4 < a + n
  | .k _ b => b.getLsbD (16 * (p.group % 8) + i)
  | _ => true

/-- Errors left after a write (R384): a group written whole has none; one written in part stays in error, in its parity bit where the
write covers the bit that was. -/
def parityAfter (ps : List ParityErr) (core : Nat) (l : Loc) : List ParityErr :=
  if ps.isEmpty then ps else
  ps.filterMap fun p =>
    if !l.parity core p then some p
    else if (List.range 16).all (l.coversBit p) then none
    else if p.bit < 16 && l.coversBit p p.bit then some { p with bit := 16 }
    else some p

/-- Fresh parity of a location of some cores (R384). -/
def State.parityFresh (s : State) (cores : List Nat) (l : Loc) : State :=
  if s.err.parity.isEmpty then s
  else { s with err := { s.err with parity := cores.foldl (fun ps c => parityAfter ps c l) s.err.parity } }

/-- The files of a core that take their downbeat values have fresh parity everywhere (R27, R384). -/
def State.parityReset (s : State) (core : Nat) : State :=
  if s.err.parity.isEmpty then s else { s with err := { s.err with parity := s.err.parity.filter fun p => p.core != core } }

end Sys2Proof.Machine
end

