-- ==== Sys2Proof/Machine/Flags.lean ====
section
/-! DEFINITION. The sticky flags of R35: setting and clearing them on one cycle, and gathering them from lanes. -/
namespace Sys2Proof.Machine

/-- The act that raises an instruction's flags on the cycle its result lands (R35). -/
def flagActs (t : Nat) (f : Flags) : List (Nat × Act) := if f = 0 then [] else [(t, .setFlags f)]

/-- FLAGS after the clears and then the sets of one cycle: a set beats a clear (R35). -/
def flagsAfter (old clears sets : Flags) : Flags := (old &&& ~~~clears) ||| sets

/-- The union of flags (R86: of what was computed only). -/
def flagsOf (l : List Flags) : Flags := l.foldl (· ||| ·) 0

end Sys2Proof.Machine
end

