-- ==== Sys2Proof/Machine/Operands.lean ====
section
/-! DEFINITION. Operand forms: writes of `x`, `v` and mask operands with their landing cycles, own core memory inside the
carve-out with the banks it reaches (R142, R143, R175 to R177, R291), and the words of a program. -/
namespace Sys2Proof.Machine

/-- DETAIL of causes 32, 33, 34, 36 (R287): space and address, and the reason. -/
def rangeLo (space : Nat) (addr : Int) : Nat := packBits [(0, 3, space), (8, 56, low addr 56)]

/-- Whether bytes a … a+n−1 lie inside the step's carve-out (R30, R39). -/
def Gang.inCarve (g : Gang) (a : Int) (n : Nat) : Bool :=
  decide ((g.tob.cbase * 65536 : Nat) ≤ a) && decide (a + n ≤ ((g.tob.cbase + g.tob.csize) * 65536 : Nat)) && decide (a + n ≤ 2 ^ 21)

/-- Whether the gang lies on two dies (R19). -/
def Gang.twoDies (g : Gang) : Bool := decide (g.tob.grows > 4)

/-- Lines of core memory that a span touches (R291). -/
def linesOf (a n : Nat) : List Nat := if n = 0 then [] else (List.range ((a + n - 1) / 64 + 1 - a / 64)).map (a / 64 + ·)

/-- Requests to the banks of one core for some lines (R107). -/
def bankActs (t gcore : Nat) (wr : Bool) (ls : List Nat) : List (Nat × Act) :=
  ls.map fun l => (t, .bank gcore (l % 32) (l / 32) wr)

/-- A write to an `x` operand (R90, R131). -/
def Ctx.wx (x : Ctx) (d : Opnd) (v : Nat) (lat : Nat) : Nat × Act := (x.t + lat, .wx d.start.toNat d.width v)
def Ctx.cx (x : Ctx) (d : Opnd) (lat : Nat) : Loc × Nat := (d.xloc, x.t + lat)

/-- A plan that writes one `x` operand (R131). -/
def Ctx.xPlan (x : Ctx) (reads : List Loc) (d : Opnd) (v : Int) (lat : Nat) (fl : Flags := 0) : Plan :=
  ⟨reads, .ok { claims := [x.cx d lat], acts := x.wx d (low v d.width) lat :: flagActs (x.t + lat) fl }⟩

/-- A plan that writes some lanes of a `v` operand (R158): `vals` gives every lane, `m` the lanes written. -/
def Ctx.vPlan (x : Ctx) (reads : List Loc) (d : Opnd) (m : Mask) (vals : List Nat) (lat : Nat) (fl : Flags := 0) : Plan :=
  ⟨reads, .ok { claims := if m = 0 then [] else [(.v d.start.toNat d.slices m, x.t + lat)]
                acts := (if m = 0 then [] else [(x.t + lat, .wv d.start.toNat d.width m vals)]) ++ flagActs (x.t + lat) fl }⟩

/-- A plan that writes some bits of a mask; a write to k0 is discarded (R28, R159). -/
def Ctx.kPlan (x : Ctx) (reads : List Loc) (k : Nat) (bits val : Mask) (lat : Nat) (fl : Flags := 0) : Plan :=
  ⟨reads, .ok { claims := if k = 0 then [] else [(.k k bits, x.t + lat)]
                acts := (if k = 0 then [] else [(x.t + lat, .wk k bits val)]) ++ flagActs (x.t + lat) fl }⟩

/-- A mask operand as a location (R158). -/
def kloc (k : Nat) : Loc := .k k (BitVec.allOnes 128)

/-- The first poisoned beat that a load would consume (R143, R177, R387): cause 65 on its issue cycle. -/
def Ctx.cmPoison (x : Ctx) (a : Int) (n : Nat) : Option Trap :=
  let k := cmKey x.c.gcore a.toNat
  ({ bytes := [], psn := (beatsOf k n).any x.s.poison.contains } : Read).trap k n 0 a.toNat x.s.poison

/-- A load reads own core memory as it stands at the end of its issue cycle (R102, R143); what cannot be corrected is a fault of the
cycle on which it reaches the bank (R386), and corrections are recorded (R389). -/
def State.loadRead (s : State) (gid : Nat) (w : Who) (gcore addr n reach : Nat) : State × List Byte :=
  let k := cmKey gcore addr
  let r := s.fetch k n
  let s := s.correctedAll (aget gid s.gangs) 0 r
  match ({ r with psn := false }).trap k n 0 addr s.poison with
  | some tr => (s.modGang gid fun g => { g with agenda := g.agenda ++ [⟨reach, w, .late tr⟩] }, r.bytes)
  | none => (s, r.bytes)

/-- The locations of a core-memory span, where it lies inside the memory at all. -/
def cmLoc (a : Int) (n : Nat) : List Loc := if 0 ≤ a ∧ a < 2 ^ 21 ∧ n ≠ 0 then [.cm a.toNat n] else []

/-- The 64-bit word at a word address of the program a stream runs, as its code delivers it (R23, R40, R255, R386). -/
def State.wordAt (s : State) (g : Gang) (rank : Nat) (id : StreamId) (pc : Nat) : Option Read :=
  match id with
  | .d n =>
    match g.memAt n.val with
    | some m => if m.entry ≤ pc && pc < m.entry + m.len then some (s.fetch (seqKey m.pch (8 * (pc - m.entry))) 8) else none
    | none => none
  | _ =>
    match g.coreAt rank with
    | some c =>
      let i := s.info c.gcore
      if pc < i.len then some (s.fetch (imKey c.gcore i.active (8 * pc)) 8) else none
    | none => none

/-- The word as a bit vector. -/
def Read.word (r : Read) : Word := BitVec.ofNat 64 (leNat r.bytes)

/-- The program length a stream is held to (R24, R122): PLANE.LEN + 1, or the end of a memory stream's words. -/
def State.progLen (s : State) (g : Gang) (rank : Nat) (id : StreamId) : Nat :=
  match id with
  | .d n => match g.memAt n.val with | some m => m.entry + m.len | none => 0
  | _ => match g.coreAt rank with | some c => (s.info c.gcore).len | none => 0

/-! Due words. -/

/-- Streams of a gang in the order of R108: stream code, then rank. -/
def Gang.streams (g : Gang) : List (Nat × Stream) :=
  ([StreamId.c, .m, .v, .l, .s].map fun id => g.cores.filterMap fun c => (c.strm id).map fun s => (c.rank, s)).flatten ++
    g.mems.map fun m => (0, m.strm)

/-- A gang whose streams still issue: running, or up to f + 32 of an ending attempt (R41). -/
def Gang.issues (g : Gang) (t : Nat) : Bool :=
  match g.phase with
  | .running => true
  | .ending => match g.fault with | some f => decide (t ≤ f.f + 32) | none => true
  | _ => false

/-- The cycle on which a stream's next word issues (R92, R93); a word beyond the program counts as IDLE 0 (log 20). -/
def State.dueAt (s : State) (g : Gang) (rank : Nat) (st : Stream) : Nat :=
  let idle := match s.wordAt g rank st.id st.pc with | some r => idleOf r.word | none => 0
  st.base + (if idle < st.floor then st.floor else idle)

def State.isDue (s : State) (g : Gang) (rank : Nat) (st : Stream) : Bool :=
  st.st == .run && decide (st.base + st.floor ≤ s.tlc) && decide (s.dueAt g rank st ≤ s.tlc)

end Sys2Proof.Machine
end

