-- ==== Sys2Proof/Machine/Scalar.lean ====
section
/-! DEFINITION. Scalar arithmetic, logic, immediates, addresses, loads, stores, checksums, keys and step registers of
05_control_instructions (R131 to R146, R156, R157). Each `plan…` is what one word reads and does. -/
namespace Sys2Proof.Machine

/-- The two-operand results of R132 to R134, R137 on extended values; `wd` is the destination width. -/
inductive Bin where
  | add | sub | mul | mulh | min | max | and | or | xor | andn | adds | subs | shl | shr | rot | btst
  deriving DecidableEq, Repr

/-- Logic on two's-complement bits of 64-bit values (R132). -/
def bits64 (f : Nat → Nat → Nat) (a b : Int) : Int := (f (low a 64) (low b 64) : Nat)

/-- Rotation right of the low w bits (R134). -/
def rotr (v w n : Nat) : Nat := if w = 0 then 0 else v / 2 ^ (n % w) + v % 2 ^ (n % w) * 2 ^ (w - n % w)

/-- Bit n of an extended value (R137): bits above what a 64-bit value holds are its sign. -/
def bitAt (a : Int) (n : Nat) : Int := if n ≥ 64 then (if a < 0 then 1 else 0) else (a / (2 ^ n : Nat)) % 2

/-- SHL of R134. -/
def shlR (wd : Nat) (a : Int) (n : Nat) : Int := if n ≥ wd then 0 else a * (2 ^ n : Nat)
/-- SHR of R134: arithmetic where the value is signed. -/
def shrR (wd : Nat) (a : Int) (n : Nat) : Int := if n ≥ wd then (if a < 0 then -1 else 0) else a / (2 ^ n : Nat)

/-- res of R132, R134, R137. `bz` is the second operand read unsigned. -/
def Bin.res (op : Bin) (sg : Bool) (wd : Nat) (a b : Int) (bz : Nat) : Int :=
  match op with
  | .add => a + b
  | .sub => a - b
  | .mul => a * b
  | .mulh => (a * b) / (2 ^ wd : Nat)
  | .min => if a ≤ b then a else b
  | .max => if a ≤ b then b else a
  | .and => bits64 (· &&& ·) a b
  | .or => bits64 (· ||| ·) a b
  | .xor => bits64 (· ^^^ ·) a b
  | .andn => bits64 (fun p q => p &&& (q ^^^ (2 ^ 64 - 1))) a b
  | .adds => sat (a + b) wd sg
  | .subs => sat (a - b) wd sg
  | .shl => shlR wd a bz
  | .shr => shrR wd a bz
  | .rot => (rotr (low a wd) wd bz : Nat)
  | .btst => bitAt a bz

/-- Latency of R132 to R134, R137. -/
def Bin.lat : Bin → Nat
  | .mul | .mulh => 3
  | _ => 1

def planBin (op : Bin) (sg : Bool) (d a b : Opnd) (x : Ctx) : Plan :=
  x.xPlan [a.xloc, b.xloc] d (op.res sg d.width (x.c.ext sg a) (x.c.ext sg b) (x.c.rd b)) op.lat

/-- Truncating division of R133: quotient, remainder, and DZ. -/
def divRem (a b : Int) : Int × Int × Flags :=
  if b = 0 then (-1, a, flagDZ)
  else
    let q : Int := (a.natAbs / b.natAbs : Nat)
    let q := if (a < 0) != (b < 0) then -q else q
    (q, a - q * b, 0)

def divLat (d a b : Opnd) : Nat := if a.width ≤ 32 && b.width ≤ 32 && d.width ≤ 32 then 18 else 34

def planDiv (sg : Bool) (d a b : Opnd) (x : Ctx) : Plan :=
  let r := divRem (x.c.ext sg a) (x.c.ext sg b)
  x.xPlan [a.xloc, b.xloc] d r.1 (divLat d a b) r.2.2

def planRem (sg : Bool) (d a b : Opnd) (x : Ctx) : Plan :=
  let r := divRem (x.c.ext sg a) (x.c.ext sg b)
  x.xPlan [a.xloc, b.xloc] d r.2.1 (divLat d a b) r.2.2

/-- The unary results of R135. -/
inductive Un where
  | mov | abs | neg | clz | popc | ctz | brev
  deriving DecidableEq, Repr

/-- Leading zeros of the w-bit value v: the first set bit from the top. -/
def clzN (v w : Nat) : Nat := ((List.range w).find? fun i => v.testBit (w - 1 - i)).getD w
def ctzN (v w : Nat) : Nat := ((List.range w).find? fun i => v.testBit i).getD w
def popcN (v w : Nat) : Nat := ((List.range w).filter fun i => v.testBit i).length
def brevN (v w : Nat) : Nat := (List.range w).foldl (fun r i => 2 * r + (v.testBit i).toNat) 0

/-- res of R135: `a` extended, `z` its w bits. -/
def Un.res (op : Un) (a : Int) (z w : Nat) : Int :=
  match op with
  | .mov => a
  | .abs => (a.natAbs : Int)
  | .neg => -a
  | .clz => clzN z w
  | .popc => popcN z w
  | .ctz => ctzN z w
  | .brev => brevN z w

def planUn (op : Un) (sg : Bool) (d a : Opnd) (x : Ctx) : Plan :=
  x.xPlan [a.xloc] d (op.res (x.c.ext sg a) (x.c.rd a) a.width) 1

/-- EXTR of R136: the field at pos of len bits. -/
def extrR (sg : Bool) (a : Int) (b : Nat) : Int :=
  let len := fld b 6 6 + 1
  let f := low (a / (2 ^ (fld b 0 6) : Nat)) len
  if sg then sext f len else f

def planExtr (sg : Bool) (d a b : Opnd) (x : Ctx) : Plan :=
  x.xPlan [a.xloc, b.xloc] d (extrR sg (x.c.ext sg a) (x.c.rd b)) 1

/-- INSR of R136. -/
def insrR (old : Nat) (a : Int) (b : Nat) : Nat :=
  let pos := fld b 0 6; let len := fld b 6 6 + 1
  old % 2 ^ pos + low a len * 2 ^ pos + old / 2 ^ (pos + len) * 2 ^ (pos + len)

def planInsr (sg : Bool) (d a b : Opnd) (x : Ctx) : Plan :=
  x.xPlan [a.xloc, b.xloc, d.xloc] d (insrR (x.c.rd d) (x.c.ext sg a) (x.c.rd b)) 1

/-- Conditions of R137 and R165. -/
def ccHolds (cc : Nat) (a b : Int) : Bool :=
  match cc with
  | 0 => a == b
  | 1 => a != b
  | 2 => decide (a < b)
  | 3 => decide (a ≤ b)
  | 4 => decide (b < a)
  | _ => decide (b ≤ a)

def planCmp (cc : BitVec 3) (sg : Bool) (d a b : Opnd) (x : Ctx) : Plan :=
  x.xPlan [a.xloc, b.xloc] d (if ccHolds cc.toNat (x.c.ext sg a) (x.c.ext sg b) then 1 else 0) 1

def planSel (sg : Bool) (d a b c : Opnd) (x : Ctx) : Plan :=
  x.xPlan [a.xloc, b.xloc, c.xloc] d (if x.c.rd c ≠ 0 then x.c.ext sg a else x.c.ext sg b) 1

/-- MOVC (R138): no write at all when b is zero. -/
def planMovc (sg : Bool) (d a b : Opnd) (x : Ctx) : Plan :=
  if x.c.rd b ≠ 0 then x.xPlan [a.xloc, b.xloc] d (x.c.ext sg a) 1 else ⟨[a.xloc, b.xloc], .ok {}⟩

/-- The immediate instructions of R139. -/
inductive Imm where
  | addi | andi | ori | xori | muli | cmpi
  deriving DecidableEq, Repr

def Imm.res (op : Imm) (a i : Int) : Int :=
  match op with
  | .addi => a + i
  | .andi => bits64 (· &&& ·) a i
  | .ori => bits64 (· ||| ·) a i
  | .xori => bits64 (· ^^^ ·) a i
  | .muli => a * i
  | .cmpi => if a < i then -1 else if a = i then 0 else 1

def Imm.lat : Imm → Nat
  | .muli => 3
  | _ => 1

def planImm (op : Imm) (d a : Opnd) (imm : BitVec 18) (x : Ctx) : Plan :=
  x.xPlan [a.xloc] d (op.res (x.c.sx a) imm.toInt) op.lat

def planShli (sg : Bool) (n : BitVec 6) (d a : Opnd) (x : Ctx) : Plan :=
  x.xPlan [a.xloc] d (x.c.ext sg a * (2 ^ n.toNat : Nat)) 1
def planShri (sg : Bool) (n : BitVec 6) (d a : Opnd) (x : Ctx) : Plan :=
  x.xPlan [a.xloc] d (x.c.ext sg a / (2 ^ n.toNat : Nat)) 1

/-- R140. -/
def planLi (d : Opnd) (imm : BitVec 32) (x : Ctx) : Plan := x.xPlan [] d imm.toInt 1
def planLiu (d : Opnd) (imm : BitVec 32) (x : Ctx) : Plan := x.xPlan [] d imm.toNat 1
/-- LIH writes the upper half of a 64-bit operand only. -/
def planLih (d : Opnd) (imm : BitVec 32) (x : Ctx) : Plan := x.xPlan [] ⟨d.start + 8, 7⟩ imm.toNat 1

/-- R141. -/
def planAgen (sc : BitVec 3) (sg : Bool) (d a b : Opnd) (x : Ctx) : Plan :=
  x.xPlan [a.xloc, b.xloc] d (x.c.rd a + x.c.ext sg b * (2 ^ sc.toNat : Nat)) 1
def planAgeni (d a : Opnd) (imm : BitVec 18) (x : Ctx) : Plan := x.xPlan [a.xloc] d (x.c.rd a + 64 * imm.toInt) 1

/-- addr of R142. -/
def Ctx.cmAddr (x : Ctx) (a : Opnd) (imm : BitVec 18) : Int := x.c.rd a + imm.toInt

/-- LD and FILL (R142, R143): `n` bytes of which the destination takes its slices. The bytes are read once the cycle's writes have landed,
and so are the gong updates among them (R102). -/
def planLoad (n : Nat) (d a : Opnd) (imm : BitVec 18) (x : Ctx) : Plan :=
  let ad := x.cmAddr a imm
  let reads := a.xloc :: cmLoc ad n
  if !x.g.inCarve ad n then .bad reads 33 (rangeLo 0 ad)
  else match x.cmPoison ad n with
    | some tr => ⟨reads, .error tr⟩
    | none =>
      ⟨reads, .ok { claims := [x.cx d 4]
                    acts := (x.t, .xload ad.toNat n d.start.toNat d.width (x.t + 4)) :: bankActs (x.t + 1) x.c.gcore false (linesOf ad.toNat n) }⟩

/-- What LD or FILL reads lands (R142). -/
def State.xload (s : State) (gid : Nat) (w : Who) (gcore addr n start width land : Nat) : State :=
  let r := s.loadRead gid w gcore addr n (s.tlc + 1)
  r.1.modGang gid fun g => { g with agenda := g.agenda ++ [⟨land, w, .wx start width (leNat r.2 % 2 ^ width)⟩] }

def planLd (d a : Opnd) (imm : BitVec 18) (x : Ctx) : Plan := planLoad (d.width / 8) d a imm x
def planFill (d a : Opnd) (imm : BitVec 18) (x : Ctx) : Plan := planLoad ((d.slices + 1) / 2) d a imm x

/-- ST and SPILL (R142, R143). -/
def planStore (n : Nat) (d a : Opnd) (imm : BitVec 18) (x : Ctx) : Plan :=
  let ad := x.cmAddr a imm
  let reads := [a.xloc, d.xloc]
  if !x.g.inCarve ad n then .bad reads 33 (rangeLo 0 ad)
  else
    ⟨reads, .ok { claims := [(.cm ad.toNat n, x.t + 3)]
                  acts := (x.t + 3, .mem (cmKey x.c.gcore ad.toNat) (leBytes n (x.c.rd d)) false)
                    :: bankActs (x.t + 3) x.c.gcore true (linesOf ad.toNat n) }⟩

def planSt (d a : Opnd) (imm : BitVec 18) (x : Ctx) : Plan := planStore (d.width / 8) d a imm x
def planSpill (d a : Opnd) (imm : BitVec 18) (x : Ctx) : Plan := planStore ((d.slices + 1) / 2) d a imm x

/-- One byte of CRC-64/XZ (R144). -/
def crcByte (c : Nat) (b : Nat) : Nat :=
  (List.range 8).foldl (fun c _ => if c % 2 = 1 then (c / 2) ^^^ 0xC96C5795D7870F42 else c / 2) (c ^^^ b)

/-- CRC-64/XZ continued over bytes (R144). -/
def crc64 (a : Nat) (bs : List Nat) : Nat := (bs.foldl crcByte (a ^^^ (2 ^ 64 - 1))) ^^^ (2 ^ 64 - 1)

def planCrcx (d a b : Opnd) (x : Ctx) : Plan :=
  let bs := (List.range (b.width / 8)).map fun i => fld (x.c.rd b) (8 * i) 8
  x.xPlan [a.xloc, b.xloc] d (crc64 (x.c.rd a) bs) 1

/-- One step of the rolling key (R145). -/
def rollKey (h d : Nat) : Nat := (h * 0x9E3779B97F4A7C15 + d) % 2 ^ 64

def planRollk (d a b : Opnd) (x : Ctx) : Plan := x.xPlan [a.xloc, b.xloc] d (rollKey (x.c.rd a) (x.c.rd b)) 3

/-- The half of a mask (R146). -/
def halfBits (hi : Bool) : Mask := if hi then BitVec.ofNat 128 ((2 ^ 64 - 1) * 2 ^ 64) else BitVec.ofNat 128 (2 ^ 64 - 1)

def planKtox (hi : Bool) (k : BitVec 3) (d : Opnd) (x : Ctx) : Plan :=
  x.xPlan [.k k.toNat (halfBits hi)] d (fld (x.c.kmask k.toNat).toNat (if hi then 64 else 0) 64) 1

def planXtok (hi : Bool) (k : BitVec 3) (a : Opnd) (x : Ctx) : Plan :=
  x.kPlan [a.xloc] k.toNat (halfBits hi) (BitVec.ofNat 128 (x.c.rd a * 2 ^ (if hi then 64 else 0))) 1

/-! Step registers (R32 to R40, R156, R157). -/

/-- PLANE (R40): BUSY while a copy into the inactive plane is in flight, its last landing cycle included (R209). -/
def State.planeReg (s : State) (c : Core) : Nat :=
  let i := s.info c.gcore
  packBits [(16, 14, i.len - 1), (2, 1, (decide (s.tlc < c.ports.imBusy) || c.imOut != 0).toNat), (1, 1, i.valid.toNat),
    (0, 1, i.active.toNat)]

/-- The value MFSR reads (R32, R157). -/
def State.stepReg (s : State) (g : Gang) (c : Core) (n : Nat) : Nat :=
  match n with
  | 0 => s.tlc % 2 ^ 64
  | 1 => g.dbt % 2 ^ 64
  | 2 => c.rank
  | 3 => g.tob.grows
  | 4 => g.tob.gcols
  | 5 => g.tobAddr
  | 16 => c.flags.toNat
  | 17 => packBits [(16, 16, c.hits), (0, 2, c.mode.toNat)]
  | 18 => c.budget
  | 19 => packBits [(16, 16, c.done.toNat), (0, 16, c.pend.toNat)]
  | 20 => packBits [(16, 4, c.res.toNat), (8, 6, g.tob.csize), (0, 5, g.tob.cbase)]
  | 21 => s.planeReg c
  | _ => (c.idx[n - 8]?).getD 0

/-- The registers that words of other streams change on their issue cycle (R38, R40, R157, R209, R213): ASYNC and PLANE. -/
def srLate (n : Nat) : Bool := n == 19 || n == 21

/-- MFSR (R157): the value lands on the next cycle; ASYNC and PLANE are taken once the cycle's other words have issued. DESIGN CHOICE (log 97):
CHK.HITS counts the hazards of earlier cycles and of the words that issued before it on this one. -/
def planMfsr (d : Opnd) (num : BitVec 10) (x : Ctx) : Plan :=
  if !srPresent num.toNat then .bad [] 2
  else if srLate num.toNat then
    ⟨[], .ok { claims := [x.cx d 1], acts := [(x.t, .readReg num.toNat d.start.toNat d.width)] }⟩
  else x.xPlan [] d (x.s.stepReg x.g x.c num.toNat) 1

/-- MTSR (R33, R36, R37, R157). -/
def planMtsr (num : BitVec 10) (a : Opnd) (x : Ctx) : Plan :=
  let v := x.c.rd a
  let reads := [a.xloc]
  if !srPresent num.toNat then .bad reads 2
  else
    match num.toNat with
    | 16 => ⟨reads, .ok { acts := [(x.t + 1, .clrFlags (BitVec.ofNat 7 v))] }⟩
    | 17 => if v % 4 = 3 then .bad reads 2 else ⟨reads, .ok { acts := [(x.t + 1, .setMode (BitVec.ofNat 2 v))] }⟩
    | 18 => ⟨reads, .ok { acts := [(x.t + 1, .setBudget (v % 2 ^ 32))] }⟩
    | _ => .bad reads 33 0 2

end Sys2Proof.Machine
end

