-- ==== Sys2Proof/Machine/Vector.lean ====
section
/-! DEFINITION. Integer vector instructions, masks, selection, lane movement and integer reductions of
06_vector_instructions (R158 to R160, R165 to R167, R171, R172). -/
namespace Sys2Proof.Machine

/-- A mask from one Boolean per lane. -/
def maskOf (l : List Bool) : Mask := BitVec.ofNat 128 (l.foldr (fun b n => b.toNat + 2 * n) 0)

/-- The lanes of a mask in increasing order. -/
def lanesIn (m : Mask) : List Nat := (List.range 128).filter fun i => m.getLsbD i

/-- The element of a list, 0 beyond its end. -/
def nth (l : List Nat) (i : Nat) : Nat := (l[i]?).getD 0

/-- The governing mask of mod bits 2:0 (R158). -/
def Ctx.gov (x : Ctx) (k : BitVec 3) : Mask := x.c.kmask k.toNat

/-- Latencies of R160. -/
def Bin.vlat : Bin → Nat
  | .mul | .mulh => 4
  | _ => 2

/-- Two-operand integer instructions (R160). -/
def planVBin (op : Bin) (sg : Bool) (k : BitVec 3) (d a b : Opnd) (x : Ctx) : Plan :=
  let vals := (x.c.vrd a).zipWith (fun p q => low (op.res sg d.width (ext sg p a.width) (ext sg q b.width) q) d.width) (x.c.vrd b)
  x.vPlan [kloc k.toNat, a.vloc, b.vloc] d (x.gov k) vals op.vlat

/-- One-operand integer instructions (R160). -/
def planVUn (op : Un) (sg : Bool) (k : BitVec 3) (d a : Opnd) (x : Ctx) : Plan :=
  x.vPlan [kloc k.toNat, a.vloc] d (x.gov k) ((x.c.vrd a).map fun p => low (op.res (ext sg p a.width) p a.width) d.width) 2

/-- VCMP (R165): all 128 bits are written, 0 in inactive lanes. -/
def planVcmp (cc : BitVec 3) (sg : Bool) (k kd : BitVec 3) (a b : Opnd) (x : Ctx) : Plan :=
  let m := maskOf ((x.c.vrd a).zipWith (fun p q => ccHolds cc.toNat (ext sg p a.width) (ext sg q b.width)) (x.c.vrd b))
  x.kPlan [kloc k.toNat, a.vloc, b.vloc] kd.toNat (BitVec.allOnes 128) (m &&& x.gov k) 2

/-- Mask logic (R166). -/
def planKBin (f : Mask → Mask → Mask) (kd ka kb : BitVec 3) (x : Ctx) : Plan :=
  x.kPlan [kloc ka.toNat, kloc kb.toNat] kd.toNat (BitVec.allOnes 128) (f (x.gov ka) (x.gov kb)) 2

def planKnot (kd ka : BitVec 3) (x : Ctx) : Plan :=
  x.kPlan [kloc ka.toNat] kd.toNat (BitVec.allOnes 128) (~~~(x.gov ka)) 2

def planKpopc (d : Opnd) (ka : BitVec 3) (x : Ctx) : Plan :=
  x.xPlan [kloc ka.toNat] d (lanesIn (x.gov ka)).length 2

/-- VSEL (R167): every lane is written. -/
def planVsel (k : BitVec 3) (d a b : Opnd) (x : Ctx) : Plan :=
  let pairs := (x.c.vrd a).zip (x.c.vrd b)
  let vals := (pairs.zip (List.range 128)).map fun p => if (x.gov k).getLsbD p.2 then p.1.1 else p.1.2
  x.vPlan [kloc k.toNat, a.vloc, b.vloc] d (BitVec.allOnes 128) vals 2

/-! Lane movement (R171). -/

def planVsplat (sg : Bool) (k : BitVec 3) (d a : Opnd) (x : Ctx) : Plan :=
  x.vPlan [kloc k.toNat, a.xloc] d (x.gov k) (List.replicate 128 (low (x.c.ext sg a) d.width)) 2

def planVbcast (k : BitVec 3) (d a b : Opnd) (x : Ctx) : Plan :=
  x.vPlan [kloc k.toNat, a.vloc, b.xloc] d (x.gov k) (List.replicate 128 (nth (x.c.vrd a) (x.c.rd b % 128))) 3

def planVperm (k : BitVec 3) (d a b : Opnd) (x : Ctx) : Plan :=
  let src := x.c.vrd a
  x.vPlan [kloc k.toNat, a.vloc, b.vloc] d (x.gov k) ((x.c.vrd b).map fun m => if m < 128 then nth src m else 0) 3

def planVrot (k : BitVec 3) (d a b : Opnd) (x : Ctx) : Plan :=
  let src := x.c.vrd a
  let n := x.c.rd b % 128
  x.vPlan [kloc k.toNat, a.vloc, b.xloc] d (x.gov k) ((List.range 128).map fun i => nth src ((i + n) % 128)) 3

def planVcmpr (k : BitVec 3) (d a : Opnd) (x : Ctx) : Plan :=
  let src := x.c.vrd a
  let act := lanesIn (x.gov k)
  let vals := act.map (nth src)
  x.vPlan [kloc k.toNat, a.vloc] d (BitVec.allOnes 128) (vals ++ List.replicate (128 - act.length) 0) 3

def planViota (k : BitVec 3) (d : Opnd) (x : Ctx) : Plan :=
  let act := lanesIn (x.gov k)
  x.vPlan [kloc k.toNat] d (BitVec.allOnes 128) ((List.range 128).map fun i => (act.filter (· < i)).length) 3

def planVgetx (sg : Bool) (d a b : Opnd) (x : Ctx) : Plan :=
  x.xPlan [a.vloc, b.xloc] d (ext sg (nth (x.c.vrd a) (x.c.rd b % 128)) a.width) 3

/-! Reductions and scans (R172). -/

/-- Two values combined by op 0 to 5. -/
def redOp (op : Nat) (a b : Int) : Int :=
  match op with
  | 0 => a + b
  | 1 => if a ≤ b then a else b
  | 2 => if a ≤ b then b else a
  | 3 => bits64 (· &&& ·) a b
  | 4 => bits64 (· ||| ·) a b
  | _ => bits64 (· ^^^ ·) a b

/-- Exact combination of some values; 0 for none. -/
def redAll (op : Nat) : List Int → Int
  | [] => 0
  | a :: l => l.foldl (redOp op) a

def planVred (op : BitVec 3) (sg : Bool) (k : BitVec 3) (d a : Opnd) (x : Ctx) : Plan :=
  let src := x.c.vrd a
  x.xPlan [kloc k.toNat, a.vloc] d (redAll op.toNat ((lanesIn (x.gov k)).map fun i => ext sg (nth src i) a.width)) 9

/-- Running combinations over the active lanes, lane by lane (R172, R174): inactive lanes repeat the running value. -/
def scanGo {α : Type} (f : α → α → α) (m : Mask) : Nat → Option α → List α → List (Option α)
  | _, _, [] => []
  | i, s, v :: vs =>
    let s' := if m.getLsbD i then some (match s with | none => v | some r => f r v) else s
    s' :: scanGo f m (i + 1) s' vs

def planVscan (op : BitVec 3) (sg : Bool) (k : BitVec 3) (d a : Opnd) (x : Ctx) : Plan :=
  let vals := scanGo (redOp op.toNat) (x.gov k) 0 none ((x.c.vrd a).map fun v => ext sg v a.width)
  x.vPlan [kloc k.toNat, a.vloc] d (x.gov k) (vals.map fun v => low (v.getD 0) d.width) 10

end Sys2Proof.Machine
end

