-- ==== Sys2Proof/Machine/VectorFloat.lean ====
section
/-! DEFINITION. Floating-point vector arithmetic, comparisons, conversions, block quantisation and expansion, and float
reductions of 06_vector_instructions (R161 to R165, R168 to R170, R173, R174). -/
namespace Sys2Proof.Machine

/-- Lane results with the flags of the active lanes only (R86, R158). -/
def Ctx.fPlan (x : Ctx) (reads : List Loc) (d : Opnd) (k : BitVec 3) (r : List (Nat × Flags)) (lat : Nat) : Plan :=
  x.vPlan (kloc k.toNat :: reads) d (x.gov k) (r.map (·.1)) lat
    (flagsOf ((lanesIn (x.gov k)).map fun i => ((r[i]?).getD (0, 0)).2))

/-- Latency of the FMA rows (R161). -/
def fmaLat (fmt : BitVec 4) : Nat := if fmt = 0 then 5 else 4

/-- A `v` operand as float values. -/
def Ctx.fvals (x : Ctx) (fmt : BitVec 4) (o : Opnd) : List FVal := (x.c.vrd o).map (fmtOf fmt.toNat).val

/-- a + b (R162). -/
def planVfadd (fmt : BitVec 4) (rnd : BitVec 2) (k : BitVec 3) (d a b : Opnd) (x : Ctx) : Plan :=
  x.fPlan [a.vloc, b.vloc] d k ((x.fvals fmt a).zipWith (faddV (fmtOf fmt.toNat) rnd) (x.fvals fmt b)) (fmaLat fmt)
/-- a + (−b) (R162). -/
def planVfsub (fmt : BitVec 4) (rnd : BitVec 2) (k : BitVec 3) (d a b : Opnd) (x : Ctx) : Plan :=
  x.fPlan [a.vloc, b.vloc] d k
    ((x.fvals fmt a).zipWith (fun p q => faddV (fmtOf fmt.toNat) rnd p q.negate) (x.fvals fmt b)) (fmaLat fmt)
/-- a × b (R162). -/
def planVfmul (fmt : BitVec 4) (rnd : BitVec 2) (k : BitVec 3) (d a b : Opnd) (x : Ctx) : Plan :=
  x.fPlan [a.vloc, b.vloc] d k ((x.fvals fmt a).zipWith (fmulV (fmtOf fmt.toNat) rnd) (x.fvals fmt b)) (fmaLat fmt)

/-- The four fused forms of R162: `np` negates the product, `nc` the addend. -/
def planVfma (np nc : Bool) (fmt : BitVec 4) (rnd : BitVec 2) (k : BitVec 3) (d a b c : Opnd) (x : Ctx) : Plan :=
  let f := fmtOf fmt.toNat
  let r := ((x.fvals fmt a).zip (x.fvals fmt b)).zipWith (fun p q =>
    fmaV f rnd (if np then p.1.negate else p.1) p.2 (if nc then q.negate else q)) (x.fvals fmt c)
  x.fPlan [a.vloc, b.vloc, c.vloc] d k r (fmaLat fmt)

/-- VFMIN and VFMAX (R163). -/
def planVfmm (mx : Bool) (fmt : BitVec 4) (k : BitVec 3) (d a b : Opnd) (x : Ctx) : Plan :=
  x.fPlan [a.vloc, b.vloc] d k ((x.fvals fmt a).zipWith (fminmaxV (fmtOf fmt.toNat) mx) (x.fvals fmt b)) 2

/-- The sign operations of R163. -/
def fsignV (f : Fmt) (neg : Bool) (a : FVal) : Nat × Flags :=
  match a with
  | .nan s => nanOut f s
  | v => (f.enc (if neg then v.negate else if v.isNeg then v.negate else v), 0)

def planVfsign (neg : Bool) (fmt : BitVec 4) (k : BitVec 3) (d a : Opnd) (x : Ctx) : Plan :=
  x.fPlan [a.vloc] d k ((x.fvals fmt a).map (fsignV (fmtOf fmt.toNat) neg)) 2

/-- R164. -/
def planVfn1 (fn : Fn1) (fmt : BitVec 4) (rnd : BitVec 2) (k : BitVec 3) (d a : Opnd) (x : Ctx) : Plan :=
  x.fPlan [a.vloc] d k ((x.fvals fmt a).map (fn1V fn (fmtOf fmt.toNat) rnd)) 12

/-- One comparison of R165. -/
def fcmpV (cc : Nat) (a b : FVal) : Bool × Flags :=
  let un := a.isNan || b.isNan
  let lt := a.ltV false b
  let gt := b.ltV false a
  let r := match cc with
    | 0 => !un && !lt && !gt
    | 1 => un || lt || gt
    | 2 => !un && lt
    | 3 => !un && !gt
    | 4 => !un && gt
    | 5 => !un && !lt
    | 6 => un
    | _ => !un
  (r, flagIf (a.isSig || b.isSig) flagIV)

def planVfcmp (cc : BitVec 3) (fmt : BitVec 4) (k kd : BitVec 3) (a b : Opnd) (x : Ctx) : Plan :=
  let r := (x.fvals fmt a).zipWith (fcmpV cc.toNat) (x.fvals fmt b)
  x.kPlan [kloc k.toNat, a.vloc, b.vloc] kd.toNat (BitVec.allOnes 128) (maskOf (r.map (·.1)) &&& x.gov k) 2
    (flagsOf ((lanesIn (x.gov k)).map fun i => ((r[i]?).getD (false, 0)).2))

/-! Conversions (R64, R168). -/

/-- Signedness of an integer format code (R56, R119). -/
def intSigned (f : Nat) : Bool := f == 3 || f == 5 || f == 7 || f == 8

def planVcvt (dst src : BitVec 4) (rnd : BitVec 2) (k : BitVec 3) (d a : Opnd) (x : Ctx) : Plan :=
  x.fPlan [a.vloc] d k ((x.fvals src a).map (fcvtV (fmtOf dst.toNat) rnd)) 3

def planVcvtfi (dst src : BitVec 4) (rnd : BitVec 2) (k : BitVec 3) (d a : Opnd) (x : Ctx) : Plan :=
  let w := fmtBits dst.toNat
  x.fPlan [a.vloc] d k ((x.fvals src a).map fun v =>
    let r := fcvtI w (intSigned dst.toNat) rnd v
    (low r.1 w, r.2)) 3

def planVcvtif (dst src : BitVec 4) (rnd : BitVec 2) (k : BitVec 3) (d a : Opnd) (x : Ctx) : Plan :=
  x.fPlan [a.vloc] d k ((x.c.vrd a).map fun v =>
    icvtF (fmtOf dst.toNat) rnd (ext (intSigned src.toNat) v (fmtBits src.toNat))) 3

def planVcvtii (st : Bool) (dst src : BitVec 4) (k : BitVec 3) (d a : Opnd) (x : Ctx) : Plan :=
  let w := fmtBits dst.toNat
  x.fPlan [a.vloc] d k ((x.c.vrd a).map fun v =>
    let i := ext (intSigned src.toNat) v (fmtBits src.toNat)
    (low (if st then sat i w (intSigned dst.toNat) else i) w, 0)) 3

/-! Described blocks in lanes (R169, R170). -/

/-- Cause 64 for a block (R287). DESIGN CHOICE (log 97): for a block held in lanes, which has no address, SPACE and address are 0. -/
def blkTrap (reason bits : Nat) (space : Nat := 0) (addr : Nat := 0) : Trap :=
  { cause := 64, lo := packBits [(0, 8, bits), (8, 8, bits / 256), (16, 3, reason)], hi := rangeLo space addr }

/-- VQNT (R169). -/
def planVqnt (wid : BitVec 3) (adapt int sg : Bool) (d a c e : Opnd) (x : Ctx) : Plan :=
  let cw := x.c.rd c
  let reads := [a.vloc, c.xloc]
  if fld cw 12 4 ≠ 0 then .bad reads 2 0 0 true
  else if adapt && int then ⟨reads, .error (blkTrap 5 0)⟩
  else
    let src := ((x.c.vrd a).take (fld cw 0 7 + 1)).map (fmtOf 0).val
    let bl := quantRow (wid.toNat + 1) (fld cw 7 5) adapt int sg 8 src
    let lat := if adapt then 8 else 3
    let m := maskOf ((List.range 128).map fun i => decide (i < 16 * bl.length))
    let vals := (List.range 128).map fun i => fld (((bl[i / 16]?).map (·.bits)).getD 0) (32 * (i % 16)) 32
    let fl := flagsOf (bl.map (·.flags))
    ⟨reads, .ok { claims := [(.v d.start.toNat d.slices m, x.t + lat), x.cx e lat]
                  acts := [(x.t + lat, .wv d.start.toNat d.width m vals), x.wx e (low bl.length e.width) lat]
                    ++ flagActs (x.t + lat) fl }⟩

/-- The block held in lanes 16j to 16j + 15 (R169, R170). -/
def laneBlock (v : List Nat) (j : Nat) : Nat :=
  (List.range 16).foldl (fun n i => n + nth v (16 * j + i) * 2 ^ (32 * i)) 0

/-- VXPD (R170). -/
def planVxpd (sg : Bool) (fmt : BitVec 4) (rnd : BitVec 2) (d a c : Opnd) (x : Ctx) : Plan :=
  let cw := x.c.rd c
  let reads := [a.vloc, c.xloc]
  if fld cw 7 9 ≠ 0 then .bad reads 2 0 0 true
  else
    let len := fld cw 0 7 + 1
    let bl := (List.range 8).map (laneBlock (x.c.vrd a))
    match rowRead sg bl len 0 [] false with
    | .error e => ⟨reads, .error (blkTrap e.reason ((bl[e.blk]?).getD 0))⟩
    | .ok (vals, fm, _) =>
      let r := vals.map (roundF (fmtOf fmt.toNat) rnd false)
      let m := maskOf ((List.range 128).map fun i => decide (i < len))
      x.vPlan reads d m (r.map (·.1) ++ List.replicate (128 - len) 0) 3 (flagsOf (r.map (·.2)) ||| flagIf fm flagFM)

/-! Reductions and scans (R173, R174). -/

/-- A running value: its bits and the flags raised so far. -/
abbrev FAcc := Nat × Flags

/-- Op of R173: an operand as read. -/
def fopIn (f : Fmt) (b : Nat) : FAcc := (f.enc (f.val b), flagIf (f.val b).isSig flagIV)

/-- Two running values combined: op 0 sum, 1 min, 2 max. -/
def fredOp (f : Fmt) (op : Nat) (rnd : BitVec 2) (p q : FAcc) : FAcc :=
  let r := match op with
    | 0 => faddV f rnd (f.val p.1) (f.val q.1)
    | 1 => fminmaxV f false (f.val p.1) (f.val q.1)
    | _ => fminmaxV f true (f.val p.1) (f.val q.1)
  (r.1, p.2 ||| q.2 ||| r.2)

/-- One level of the tree: neighbours pair up, an EMPTY partner passes the other (R173). -/
def treeLevel (f : FAcc → FAcc → FAcc) : List (Option FAcc) → List (Option FAcc)
  | p :: q :: t =>
    (match p, q with
      | none, none => none
      | some a, none => some a
      | none, some b => some b
      | some a, some b => some (f a b)) :: treeLevel f t
  | l => l

/-- The seven levels of R173. -/
def treeRed (f : FAcc → FAcc → FAcc) : Nat → List (Option FAcc) → List (Option FAcc)
  | 0, l => l
  | n + 1, l => treeRed f n (treeLevel f l)

def planVfred (op : BitVec 2) (fmt : BitVec 4) (rnd : BitVec 2) (k : BitVec 3) (d a : Opnd) (x : Ctx) : Plan :=
  let f := fmtOf fmt.toNat
  let l := ((x.c.vrd a).zip (List.range 128)).map fun p => if (x.gov k).getLsbD p.2 then some (fopIn f p.1) else none
  let r := ((treeRed (fredOp f op.toNat rnd) 7 l).head?.getD none).getD (0, 0)
  x.xPlan [kloc k.toNat, a.vloc] d r.1 9 r.2

def planVfscan (op : BitVec 2) (fmt : BitVec 4) (rnd : BitVec 2) (k : BitVec 3) (d a : Opnd) (x : Ctx) : Plan :=
  let f := fmtOf fmt.toNat
  let r := scanGo (fredOp f op.toNat rnd) (x.gov k) 0 none ((x.c.vrd a).map (fopIn f))
  x.vPlan [kloc k.toNat, .v a.start.toNat a.slices (x.gov k)] d (x.gov k) (r.map fun v => (v.getD (0, 0)).1) 10
    (flagsOf (r.map fun v => (v.getD (0, 0)).2))

end Sys2Proof.Machine
end

