-- ==== Sys2Proof/Machine/Feed.lean ====
section
/-! DEFINITION. The operand latches and what fills them: feeds, windows, crop and resize, and their status and
configuration words, of 07_matrix_instructions (R179 to R189, R194, R195, R197 to R199). -/
namespace Sys2Proof.Machine

/-! Records (R179). -/

/-- The record of a zero k-group. -/
def zeroRec (pd : Bool) : KRec := ⟨List.replicate 8 0, 0, 2, .described, true, pd, false, none, (0, 0)⟩

/-- Latch entries and their states (R179): an entry not listed is empty; a listed one is pending before `due`. -/
def LatchEntry.isFilled (x : LatchEntry) (t : Nat) : Bool := decide (x.due ≤ t) && !x.cut
def Latch.isFilled (l : Latch) (t e : Nat) : Bool := match aget e l.entries with | some x => x.isFilled t | none => false

/-- Entries become pending until their fill cycle (log 11: the later of two fills). -/
def Latch.pending (l : Latch) (e due : Nat) : Latch :=
  match aget e l.entries with
  | some x => { l with entries := aset e { x with due := if x.due < due || x.cut then due else x.due, cut := false } l.entries }
  | none => { l with entries := aset e { due := due, rows := [] } l.entries }

/-- A fill lands. -/
def Latch.filled (l : Latch) (t e : Nat) (rows : List KRec) : Latch :=
  match aget e l.entries with
  | some x => { l with entries := aset e { x with rows := rows } l.entries }
  | none => { l with entries := aset e { due := t, rows := rows } l.entries }

def Core.modLatch (c : Core) (qb : Bool) (f : Latch → Latch) : Core := if qb then { c with qb := f c.qb } else { c with qa := f c.qa }
def Core.latch (c : Core) (qb : Bool) : Latch := if qb then c.qb else c.qa

/-- The element bytes of a plain format code. -/
def elemBytes (fmt : Nat) : Nat := fmtBits fmt / 8

/-- The record of eight plain elements, given as bit patterns (R74, R75, R76, R184), and the flags of the conversion. DESIGN CHOICE
(log 82): R75 does not define the conversion of a k-group that holds a NaN or an infinity; it raises no flag. -/
def plainRec (fmt : Nat) (vals : List Nat) (psn : Option Nat) : KRec × Flags :=
  if fmt ≤ 2 then
    let vs := vals.map (fmtOf fmt).val
    if vs.any fun v => v.isNan || v.isInf then (⟨List.replicate 8 0, 0, 16, .signed, false, false, true, psn, (0, 0)⟩, 0)
    else
      match kgroupOf vs with
      | none => (⟨List.replicate 8 0, 0, 16, .signed, true, false, false, psn, (0, 0)⟩, 0)
      | some (ms, e, ix) => (⟨ms.map fun m => low m 16, e, 16, .signed, false, false, false, psn, (0, 0)⟩, flagIf ix flagIX)
  else (⟨vals, 0, if fmt = 5 then 16 else 8, if fmt = 4 then .unsigned else .signed, false, false, false, psn, (0, 0)⟩, 0)

/-- k-group number k of a described block at an address (R74): elements at or beyond `lim` are zero. -/
def blockRec (b addr k lim : Nat) (psn : Option Nat) : KRec :=
  let m := (List.range 8).map fun i =>
    if 8 * k + i < lim && blkKind b != 2 then blkPayload b / 2 ^ (blkMw b * (8 * k + i)) % 2 ^ blkMw b else 0
  let z := blkKind b == 2
  ⟨m, if z then 0 else blkExp b, blkMw b, .described, z, false, false, psn, (b % 65536, addr)⟩

/-- The mantissas a consumer multiplies (R190): extended by its own bit where the record is described. -/
def KRec.mants (r : KRec) (sg : Bool) : List Int :=
  r.m.map fun v => match r.sn with | .described => ext sg v r.w | .signed => sext v r.w | .unsigned => zext v r.w

/-! Late reads of own core memory (R104, R106, R182). -/

/-- A read made after its word's issue: misses and hazards in trap mode are raised on the read cycle; record mode logs. A copy's own
lines that have yet to land count too (R206; log 7). The answer says whether the data may be used. -/
def State.lateRead (s : State) (gid rank : Nat) (w : Who) (addr n : Nat) : State × Bool :=
  match aget gid s.gangs with
  | none => (s, false)
  | some g =>
    match g.coreAt rank with
    | none => (s, false)
    | some c =>
      match hazardOf s.tlc true c.claims (.cm addr n) with
      | some h => (s.raiseCut gid s.tlc w (missTrap g.dbt h), false)
      | none =>
        match hazardOf s.tlc false c.claims (.cm addr n) with
        | none => (s, true)
        | some h =>
          if c.mode = 2 then (s.raiseCut gid s.tlc w (hazTrap g.dbt h), false)
          else if c.mode = 1 then (s.modCore gid rank fun c => c.record g.dbt w [h], true)
          else (s, true)

/-- A decoded late read: bytes, or the machine check raised on this cycle (R386); poison is one (R387) unless the data keep it in
their latch records (R179). -/
def State.lateBytes (s : State) (gid rank gcore : Nat) (w : Who) (addr n : Nat) (keeps : Bool) : State × Option Read :=
  let (s, ok) := s.lateRead gid rank w addr n
  if !ok then (s, none)
  else
    let k := cmKey gcore addr
    let r := s.fetch k n
    match ({ r with psn := r.psn && !keeps }).trap k n 0 addr s.poison with
    | some tr => (s.raiseCut gid s.tlc w tr, none)
    | none => (s.correctedAll (aget gid s.gangs) 0 r, some r)

/-- The key of the first poisoned beat among some bytes. -/
def State.psnKey (s : State) (k n : Nat) : Option Nat :=
  if n = 0 then none else
  (((List.range ((k + n - 1) / 32 + 1 - k / 32)).map (k / 32 + ·)).find? s.poison.contains).map (32 * ·)

def State.addStash (s : State) (gid : Nat) (l : List Stash) : State := s.modGang gid fun g => { g with stash := g.stash ++ l }

/-! Input descriptors (R184). -/

/-- FeedDesc from CW, with the instruction's entry, count, latch and multicast bit. -/
def feedDesc (qb mc : Bool) (e n w : Nat) : FeedDesc :=
  { qb := qb, e := e, n := n, rows := fld w 57 7, kl := fld w 45 12, mmax := fld w 41 4, fmt := fld w 37 4, pitch := fld w 21 16,
    base := fld w 0 21, mc := mc }

/-- Formats and m_max that a feed or window accepts (R184). -/
def FeedDesc.fmtOk (f : FeedDesc) : Bool :=
  if f.fmt = 9 then decide (2 ≤ f.mmax) && decide (f.mmax ≤ 8) else decide (f.fmt ≤ 5) && f.mmax == 0

/-- G of R185: k-groups in a round. -/
def FeedDesc.perRound (f : FeedDesc) : Nat := if f.fmt = 9 then count f.mmax / 8 else 8 / elemBytes f.fmt

/-- Rounds of a feed. -/
def FeedDesc.rounds (f : FeedDesc) : Nat := (f.n + f.perRound - 1) / f.perRound

/-- The first byte that a plain source reads of a row (R185). -/
def FeedDesc.rowOff (f : FeedDesc) : Nat := 8 * f.kl * elemBytes f.fmt

/-- The bytes of a source row that may be read (R184, R185): a line of a plain row each round, at most a block of a described row each
round, from the row's cursor on and inside its slot. -/
def FeedDesc.rowSpan (f : FeedDesc) (blk : Nat) : Nat × Nat :=
  if f.fmt = 9 then
    let top := blk + f.rounds
    let all := slotBlocks (f.kl + 1) f.mmax
    (64 * blk, 64 * ((if top < all then top else all) - blk))
  else (f.rowOff, 64 * f.rounds)

/-- The cores that a feed fills (R186). -/
def Ctx.receivers (x : Ctx) (f : FeedDesc) : List Nat := x.g.receivers x.who.rank f

/-- Δ of R186. -/
def Ctx.mcDelay (x : Ctx) (mc : Bool) : Nat := if mc then (if x.g.twoDies then 96 else 24) else 0

/-- Cause 16 of a resource not released (R181, R287). -/
def busyTrap (dbt due : Nat) : Trap := { cause := 16, lo := 4, due := due - dbt }

/-- The change of a feed-port instruction (R181): release, last fill, pending entries on the receivers. -/
def feedCommit (rs : List Nat) (qb : Bool) (rel last : Nat) (pend : List (Nat × Nat)) (rank : Nat) (g : Gang) : Gang :=
  let g := rs.foldl (fun (g : Gang) r =>
    g.modCore r fun c => c.modLatch qb fun l => pend.foldl (fun l p => l.pending p.1 p.2) l) g
  g.modCore rank fun c => { c with ports := { c.ports with
    feedRel := rel, lastLandL := if c.ports.lastLandL < last then last else c.ports.lastLandL } }

/-- The k-groups that entries of a round need from a described row (R185): below the row's end. -/
def FeedDesc.need (f : FeedDesc) (round taken : Nat) : Nat :=
  let total := (f.kl + 8) / 8
  let ents := (if f.n < (round + 1) * f.perRound then f.n else (round + 1) * f.perRound) - round * f.perRound
  if total - taken < ents then total - taken else ents

/-- The row cursor a fetch starts from. -/
def rowStart (c : Core) (f : FeedDesc) (cont : Bool) (round row : Nat) : RowCur :=
  if cont || round != 0 then (aget row (c.latch f.qb).curs).getD ⟨0, 0, []⟩ else ⟨0, 0, []⟩

/-- Whether a fetch reaches a bank, and its byte address (R185). -/
def feedReach (c : Core) (f : FeedDesc) (src : Nat) (cont : Bool) (round row : Nat) : Option Nat :=
  if f.fmt = 9 then
    let cur := rowStart c f cont round row
    if cur.buf.length < f.need round cur.taken && cur.blk < slotBlocks (f.kl + 1) f.mmax then some (src + 64 * cur.blk) else none
  else some (src + f.rowOff + 64 * round)

/-- The block that a row's cursor stands at once the last fetch of the feed before, if it is still to come, has been made (R185). -/
def Ctx.cursorAt (x : Ctx) (qb : Bool) (r : Nat) : Nat :=
  let last := x.g.agenda.findSome? fun a => match a.act with
    | .feedFetch f src cont round r' =>
      if a.who.rank == x.who.rank && f.qb == qb && r' == r && decide (x.t ≤ a.at_) then some (f, src, cont, round) else none
    | _ => none
  match last with
  | some (f, src, cont, round) => (rowStart x.c f cont round r).blk + (feedReach x.c f src cont round r).isSome.toNat
  | none => ((aget r (x.c.latch qb).curs).map (·.blk)).getD 0

/-- The span of latch row r of a feed (R184, R185): a `.cont` feed starts at the row's cursor. -/
def Ctx.feedSpan (x : Ctx) (f : FeedDesc) (cont : Bool) (r : Nat) : Nat × Nat := f.rowSpan (if cont then x.cursorAt f.qb r else 0)

/-- FEEDA, FEEDB and their indexed forms (R185 to R187): `rows` gives each source row's base, or none for an index of
0xFFFF. -/
def feedPlan (x : Ctx) (reads : List Loc) (f : FeedDesc) (cont : Bool) (rows : List (Option Nat)) : Plan :=
  let plain := f.fmt != 9
  let bad := !f.fmtOk || f.n == 0 || f.n > 128 || f.base % 64 != 0 || f.pitch % 64 != 0 || (plain && f.rowOff % 64 != 0) || (plain && cont)
  if bad then .bad reads 2
  else if x.t < x.c.ports.feedRel then ⟨reads, .error (busyTrap x.g.dbt x.c.ports.feedRel)⟩
  else
    let first (p : Nat × Option Nat) : Option Nat := p.2.bind fun b =>
      let sp := x.feedSpan f cont p.1
      if sp.2 = 0 || x.g.inCarve ((b + sp.1 : Nat) : Int) sp.2 then none else some (b + sp.1)
    match ((List.range 128).zip rows).findSome? first with
    | some a => .bad reads 33 (rangeLo 0 (a : Int))
    | none =>
      let dl := x.mcDelay f.mc
      let fillAt (j : Nat) := x.t + 136 + 128 * (j / f.perRound) + dl
      let rel := x.t + 128 * f.rounds
      let idx := (List.range 128).zip rows
      let fetches := ((List.range f.rounds).map fun u => idx.filterMap fun p => match p.2 with
        | some b => some (x.t + 2 + 128 * u + p.1, Act.feedFetch f b cont u p.1)
        | none => none).foldr (· ++ ·) []
      let fills := (List.range f.n).map fun j => (fillAt j, Act.feedFill f j)
      let pend := (List.range f.n).map fun j => ((f.e + j) % 128, fillAt j)
      ⟨reads, .ok { acts := fetches ++ fills, gang := feedCommit (x.receivers f) f.qb rel (fillAt (f.n - 1)) pend x.who.rank }⟩

def planFeed (qb cont mc : Bool) (e : BitVec 7) (cw kn : Opnd) (x : Ctx) : Plan :=
  let f := feedDesc qb mc e.toNat (x.c.rd kn) (x.c.rd cw)
  feedPlan x [cw.xloc, kn.xloc] f cont ((List.range (f.rows + 1)).map fun r => some (f.base + r * f.pitch))

/-- FEEDAX and FEEDBX (R187). DESIGN CHOICE (log 82): KN bits above 17 are not named there; any of them set traps with cause 2. -/
def planFeedx (qb mc : Bool) (e : BitVec 7) (cw kn : Opnd) (x : Ctx) : Plan :=
  let k := x.c.rd kn
  let ixs := fld k 8 10
  let f := feedDesc qb mc e.toNat (fld k 0 8) (x.c.rd cw)
  let reads := [cw.xloc, kn.xloc]
  if ixs + 4 > 1024 || k / 2 ^ 18 != 0 then .bad reads 2
  else
    let ix := x.c.v.toList.map fun l => slices l ixs 16
    feedPlan x (reads ++ [.v ixs 4 (BitVec.allOnes 128)]) f false
      ((ix.take (f.rows + 1)).map fun i => if i = 0xFFFF then none else some (f.base + i * f.pitch))

/-! What feeds do on their reach cycles (R185). -/

/-- The k-groups of a row from byte `ad` on: `n` of them, `G` bytes apart; psn by element bytes. -/
def State.plainRecs (s : State) (gcore fmt ad n : Nat) (bs : List Byte) : List (KRec × Flags) :=
  let b := elemBytes fmt
  (List.range n).map fun j =>
    plainRec fmt ((List.range 8).map fun i => leNat ((bs.drop (8 * b * j + b * i)).take b)) (s.psnKey (cmKey gcore (ad + 8 * b * j)) (8 * b))

/-- One feed fetch (R185). -/
def State.feedFetch (s : State) (gid : Nat) (w : Who) (f : FeedDesc) (src : Nat) (cont : Bool) (round row : Nat) : State :=
  match (aget gid s.gangs).bind (·.coreAt w.rank) with
  | none => s
  | some c =>
    if f.fmt ≠ 9 then
      let ad := src + f.rowOff + 64 * round
      match s.lateBytes gid w.rank c.gcore w ad 64 true with
      | (s, none) => s
      | (s, some r) =>
        let g := f.perRound
        s.addStash gid (((s.plainRecs c.gcore f.fmt ad g r.bytes).zip (List.range g)).map fun p =>
          .krec w (round * g + p.2) row p.1.1 p.1.2)
    else
      let cur := rowStart c f cont round row
      let need := f.need round cur.taken
      let total := (f.kl + 8) / 8
      let give (s : State) (cur : RowCur) (fl : Flags) : State :=
        let recs := cur.buf.take need
        let s := s.addStash gid ((recs.zip (List.range need)).map fun p =>
          .krec w (round * f.perRound + p.2) row p.1 (if p.2 = 0 then fl else 0))
        s.modCore gid w.rank fun c => c.modLatch f.qb fun l =>
          { l with curs := aset row ⟨cur.blk, cur.taken + need, cur.buf.drop need⟩ l.curs }
      if need ≤ cur.buf.length then give s cur 0
      else
        let ad := src + 64 * cur.blk
        if cur.blk ≥ slotBlocks (f.kl + 1) f.mmax then s.raiseCut gid s.tlc w (blkTrap 4 0 0 ad)
        else
          match s.lateBytes gid w.rank c.gcore w ad 64 true with
          | (s, none) => s
          | (s, some r) =>
            let b := leNat r.bytes
            match blkBad b with
            | some why => s.raiseCut gid s.tlc w (blkTrap why b 0 ad)
            | none =>
              let have_ := cur.taken + cur.buf.length
              let k := if count (blkMw b) / 8 < total - have_ then count (blkMw b) / 8 else total - have_
              let lim := f.kl + 1 - 8 * have_
              let head := s.psnKey (cmKey c.gcore ad) 32
              let recs := (List.range k).map fun j =>
                let lo := 2 + blkMw b * 8 * j / 8
                let own := s.psnKey (cmKey c.gcore (ad + lo)) (blkMw b)
                blockRec b ad j lim (match head with | some h => some h | none => own)
              let cur' : RowCur := ⟨cur.blk + 1, cur.taken, cur.buf ++ recs⟩
              if cur'.buf.length < need then s.raiseCut gid s.tlc w (blkTrap 7 b 0 ad)
              else give s cur' (flagIf (blkFM b) flagFM)

/-- The records stashed for entry j, by latch row; rows without one hold zero k-groups. -/
def Gang.stashed (g : Gang) (w : Who) (j : Nat) : List KRec × Flags :=
  let l := g.stash.filterMap fun s => match s with
    | .krec w' j' row r fl => if w' == w && j' == j then some (row, r, fl) else none
    | _ => none
  ((List.range 128).map fun i => match aget i l with | some p => p.1 | none => zeroRec false, flagsOf (l.map (·.2.2)))

/-- Forget what was stashed for entry j. -/
def Gang.unstash (g : Gang) (w : Who) (j : Nat) : Gang :=
  { g with stash := g.stash.filter fun s => match s with
      | .krec w' j' _ _ _ => !(w' == w && j' == j)
      | .pix w' j' _ _ _ _ => !(w' == w && j' == j)
      | _ => true }

/-- An entry fills in its receivers; the flags go to the issuing core (R185, R186). A multicast whose flit is uncorrectable
fills nothing and traps with cause 83 (R385). -/
def State.feedFill (s : State) (gid : Nat) (w : Who) (f : FeedDesc) (j : Nat) : State :=
  let die (g : Gang) (r : Nat) : Nat := ((g.coreAt r).map (·.gcore)).getD 0 / 32
  match (aget gid s.gangs).bind fun g => (g.receivers w.rank f).findSome? fun r => s.badFlit (die g w.rank) (die g r) with
  | some k => s.raiseCut gid s.tlc w { cause := 83, key := k }
  | none =>
    let rs := ((aget gid s.gangs).map fun g => (g.receivers w.rank f).filterMap g.coreAt).getD []
    (s.parityFresh (rs.map (·.gcore)) (.lat f.qb ((f.e + j) % 128))).modGang gid fun g =>
      let (rows, fl) := g.stashed w j
      let g := (g.receivers w.rank f).foldl (fun (g : Gang) r =>
        g.modCore r fun c => c.modLatch f.qb fun l => l.filled s.tlc ((f.e + j) % 128) rows) g
      (g.modCore w.rank fun c => { c with flags := flagsAfter c.flags 0 fl }).unstash w j

/-! FEEDD, QCLR, QSTAT (R188, R189). -/

def planFeedd (qb : Bool) (e : BitVec 7) (cw kn : Opnd) (x : Ctx) : Plan :=
  let w := x.c.rd cw
  let n := x.c.rd kn
  let vs := fld w 0 10; let fmt := fld w 10 4
  let b := elemBytes fmt
  let reads := [cw.xloc, kn.xloc]
  if w / 2 ^ 14 ≠ 0 ∨ fmt > 5 ∨ n = 0 ∨ n > 128 ∨ vs + 16 * n * b > 1024 then .bad reads 2
  else
    let reads := reads ++ [.v vs (16 * n * b) (BitVec.allOnes 128)]
    if x.t < x.c.ports.feedRel then ⟨reads, .error (busyTrap x.g.dbt x.c.ports.feedRel)⟩
    else
      let lanes := x.c.v.toList
      let ent (j : Nat) := lanes.map fun l => plainRec fmt ((List.range 8).map fun i => slices l (vs + (8 * j + i) * 2 * b) (8 * b)) none
      let acts := ((List.range n).map fun j =>
        (x.t + 4 + j, Act.fill qb ((e.toNat + j) % 128) ((ent j).map (·.1))) :: flagActs (x.t + 4 + j) (flagsOf ((ent j).map (·.2)))).foldr (· ++ ·) []
      let pend := (List.range n).map fun j => ((e.toNat + j) % 128, x.t + 4 + j)
      ⟨reads, .ok { acts := acts, gang := feedCommit [x.who.rank] qb (x.t + n) (x.t + 3 + n) pend x.who.rank }⟩

def planQclr (qb rcu : Bool) (e : BitVec 7) (kn : Opnd) (x : Ctx) : Plan :=
  let n := x.c.rd kn
  if n = 0 ∨ n > 128 then .bad [kn.xloc] 2 else ⟨[kn.xloc], .ok { acts := [(x.t + 1, .qclr qb rcu e.toNat n)] }⟩

/-- The entries of a QCLR become empty; `.rcu` forgets the cursors (R185, R189). -/
def Latch.clear (l : Latch) (rcu : Bool) (e n : Nat) : Latch :=
  { entries := l.entries.filter fun p => !((List.range n).any fun j => (e + j) % 128 == p.1)
    curs := if rcu then [] else l.curs }

/-- QSTAT (R189). -/
def planQstat (kn : Opnd) (x : Ctx) : Plan :=
  let cnt (l : Latch) := (l.entries.filter fun p => p.2.isFilled x.t).length
  x.xPlan [] kn (packBits [(17, 15, x.c.winQ), (16, 1, (decide (x.t < x.c.ports.feedRel)).toNat), (8, 8, cnt x.c.qb), (0, 8, cnt x.c.qa)]) 1

/-! The window generator (R194, R195). -/

def planWcfg (cw kn : Opnd) (x : Ctx) : Plan :=
  let c := x.c.rd kn
  if c = 0 ∨ c > 4096 then .bad [cw.xloc, kn.xloc] 2
  else ⟨[cw.xloc, kn.xloc], .ok { acts := [(x.t + 1, .winCfg (BitVec.ofNat 64 (x.c.rd cw)) c)] }⟩

def planWpadv (cw : Opnd) (x : Ctx) : Plan :=
  let w := x.c.rd cw
  if w / 2 ^ 54 ≠ 0 then .bad [cw.xloc] 2 else ⟨[cw.xloc], .ok { acts := [(x.t + 1, .winPad (BitVec.ofNat 64 w))] }⟩

/-- The geometry of WCFG (R194). -/
structure Win where
  iw : Nat
  ih : Nat
  kw : Nat
  kh : Nat
  sx : Nat
  sy : Nat
  dx : Nat
  dy : Nat
  pmode : Nat
  pl : Nat
  pt : Nat
  ow : Nat
  c : Nat

def winOf (w : BitVec 64) (c : Nat) : Win :=
  let v := w.toNat
  ⟨fld v 52 12 + 1, fld v 40 12 + 1, fld v 36 4 + 1, fld v 32 4 + 1, fld v 29 3 + 1, fld v 26 3 + 1, fld v 23 3 + 1, fld v 20 3 + 1,
   fld v 18 2, fld v 14 4, fld v 10 4, fld v 0 10 + 1, c⟩

/-- k-groups in one tap (R194). -/
def Win.groups (w : Win) : Nat := (w.c + 7) / 8

/-- What one latch row of one entry takes (R195). -/
inductive Tap where
  | zero
  | zeroPad
  | const
  | pixel (y x g : Nat)

/-- Reflection and clamping of one coordinate (R195). -/
def clampTo (i : Int) (n : Nat) : Nat := if i < 0 then 0 else if i > (n : Int) - 1 then n - 1 else i.toNat
def reflectTo (i : Int) (n : Nat) : Nat := clampTo (if i < 0 then -i else if i > (n : Int) - 1 then 2 * ((n : Int) - 1) - i else i) n

/-- The tap of latch row r in sample position s (R195). -/
def Win.tap (w : Win) (pad : BitVec 64) (s r : Nat) : Tap :=
  let p := fld pad.toNat 42 12 * w.ow + fld pad.toNat 32 10 + r
  let oy := p / w.ow; let ox := p % w.ow
  let tap := s / w.groups; let g := s % w.groups
  if tap ≥ w.kw * w.kh then .zero
  else
    let iy : Int := (oy * w.sy + tap / w.kw * w.dy : Nat) - (w.pt : Int)
    let ix : Int := (ox * w.sx + tap % w.kw * w.dx : Nat) - (w.pl : Int)
    if 0 ≤ iy ∧ iy < w.ih ∧ 0 ≤ ix ∧ ix < w.iw then .pixel iy.toNat ix.toNat g
    else
      match w.pmode with
      | 0 => .zeroPad
      | 1 => .const
      | 2 => .pixel (clampTo iy w.ih) (clampTo ix w.iw) g
      | _ => .pixel (reflectTo iy w.ih) (reflectTo ix w.iw) g

/-- The record of a constant pad (R195). -/
def constRec (fmt : Nat) (pad : BitVec 64) : KRec × Flags :=
  let v := pad.toNat % 2 ^ 32
  if fmt ≤ 2 then
    let r := plainRec 0 (List.replicate 8 v) none
    ({ r.1 with pd := true }, r.2)
  else
    (⟨List.replicate 8 (v % 2 ^ (if fmt = 5 then 16 else 8)), 0, if fmt = 5 then 16 else 8,
      if fmt = 9 then .described else if fmt = 4 then .unsigned else .signed, false, true, false, none, (0, 0)⟩, 0)

/-- Bytes one pixel's row of C channels holds (R195). -/
def pixelBytes (f : FeedDesc) (c : Nat) : Nat := if f.fmt = 9 then 64 else c * elemBytes f.fmt

/-- The bytes of k-group g that a window or crop reads of a pixel, and their offset (R195, R198). -/
def groupSpan (f : FeedDesc) (c g : Nat) : Nat × Nat :=
  if f.fmt = 9 then (0, 64)
  else (8 * g * elemBytes f.fmt, (if c - 8 * g < 8 then c - 8 * g else 8) * elemBytes f.fmt)

def planWin (qb : Bool) (e : BitVec 7) (cw kn : Opnd) (x : Ctx) : Plan :=
  let f := feedDesc qb false e.toNat (x.c.rd kn) (x.c.rd cw)
  let reads := [cw.xloc, kn.xloc]
  match x.c.win with
  | none => .bad reads 2
  | some (gw, c) =>
    let w := winOf gw c
    let klOk := if f.fmt = 9 then f.kl + 1 == c && decide (c ≤ count f.mmax) && f.base % 64 == 0 && f.pitch % 64 == 0 else f.kl == 0
    let img := (w.ih * w.iw - 1) * f.pitch + pixelBytes f c
    if !f.fmtOk || !klOk || f.n == 0 || f.n > 128 then .bad reads 2
    else if x.t < x.c.ports.feedRel then ⟨reads, .error (busyTrap x.g.dbt x.c.ports.feedRel)⟩
    else if !x.g.inCarve f.base img then .bad reads 33 (rangeLo 0 f.base)
    else
      let one (j r : Nat) : List (Nat × Act) :=
        let at_ := x.t + 2 + 128 * j + r
        match w.tap x.c.pad (x.c.winQ + j) r with
        | .zero => []
        | .zeroPad => [(at_, .stashRec j r (zeroRec true) 0)]
        | .const => let k := constRec f.fmt x.c.pad; [(at_, .stashRec j r k.1 k.2)]
        | .pixel y px g =>
          let ad := f.base + (y * w.iw + px) * f.pitch
          let sp := groupSpan f c g
          (at_, .winRead f j r g c ad) :: bankActs at_ x.c.gcore false (linesOf (ad + sp.1) sp.2)
      let acts := ((List.range f.n).map fun j => ((List.range (f.rows + 1)).map (one j)).foldr (· ++ ·) []).foldr (· ++ ·) []
      let fills := (List.range f.n).map fun j => (x.t + 136 + 128 * j, Act.feedFill f j)
      let pend := (List.range f.n).map fun j => ((f.e + j) % 128, x.t + 136 + 128 * j)
      ⟨reads, .ok { acts := acts ++ fills
                    core := fun c => { c with winQ := c.winQ + f.n }
                    gang := feedCommit [x.who.rank] qb (x.t + 128 * f.n) (x.t + 8 + 128 * f.n) pend x.who.rank }⟩

/-- One window read (R195). -/
def State.winRead (s : State) (gid : Nat) (w : Who) (f : FeedDesc) (j row g c addr : Nat) : State :=
  match (aget gid s.gangs).bind (·.coreAt w.rank) with
  | none => s
  | some cr =>
    let sp := groupSpan f c g
    match s.lateBytes gid w.rank cr.gcore w (addr + sp.1) sp.2 true with
    | (s, none) => s
    | (s, some r) =>
      let psnOf (off n : Nat) := s.psnKey (cmKey cr.gcore (addr + off)) n
      if f.fmt = 9 then
        let b := leNat r.bytes
        match blkBad b with
        | some why => s.raiseCut gid s.tlc w (blkTrap why b 0 addr)
        | none =>
          if count (blkMw b) < c then s.raiseCut gid s.tlc w (blkTrap 4 b 0 addr)
          else s.addStash gid [.krec w j row (blockRec b addr g c ((psnOf 0 32).orElse fun _ => psnOf (2 + blkMw b * g) (blkMw b))) (flagIf (blkFM b) flagFM)]
      else
        let b := elemBytes f.fmt
        let k := plainRec f.fmt ((List.range 8).map fun i => leNat ((r.bytes.drop (b * i)).take b)) (psnOf sp.1 sp.2)
        s.addStash gid [.krec w j row k.1 k.2]

/-! Crop and resize (R197, R198). -/

def planBoxcfg (cw kn : Opnd) (x : Ctx) : Plan :=
  let w := x.c.rd cw; let n := x.c.rd kn
  let base := fld w 0 21
  let reads := [cw.xloc, kn.xloc]
  if w / 2 ^ 34 ≠ 0 ∨ n = 0 ∨ n > 256 ∨ base % 16 ≠ 0 then .bad reads 2
  else if x.t < x.c.ports.feedRel then ⟨reads, .error (busyTrap x.g.dbt x.c.ports.feedRel)⟩
  else if !x.g.inCarve base (16 * n) then .bad reads 33 (rangeLo 0 base)
  else
    let ls := linesOf base (16 * n)
    let acts := (((List.range ls.length).zip ls).map fun p =>
      (x.t + 1 + p.1, Act.boxLine base n p.2) :: bankActs (x.t + 1 + p.1) x.c.gcore false [p.2]).foldr (· ++ ·) []
    let rel := x.t + 1 + ls.length
    ⟨reads, .ok { acts := acts
                  core := fun c => { c with box := some ⟨BitVec.ofNat 64 w, [], n, 0, match c.box with
                    | some b => if b.landed < rel then b.landed else rel
                    | none => rel⟩ }
                  gang := feedCommit [] false rel rel [] x.who.rank }⟩

/-- BOXCFG reads one line of its list (R197). -/
def State.boxLine (s : State) (gid : Nat) (w : Who) (addr n line : Nat) : State :=
  match (aget gid s.gangs).bind (·.coreAt w.rank) with
  | none => s
  | some cr =>
    let lo := if 64 * line < addr then addr else 64 * line
    let hi := if addr + 16 * n < 64 * line + 64 then addr + 16 * n else 64 * line + 64
    match s.lateBytes gid w.rank cr.gcore w lo (hi - lo) false with
    | (s, none) => s
    | (s, some r) =>
      let recs := (List.range ((hi - lo) / 16)).map fun i => ((lo - addr) / 16 + i, (r.bytes.drop (16 * i)).take 16)
      s.modCore gid w.rank fun c => { c with box := c.box.map fun b =>
        { b with recs := recs.foldl (fun l p => aset p.1 p.2 l) b.recs } }

/-- A running FP32 value with its flags: the F(·) of R198. -/
def f32v (b : Nat) : FVal := (fmtOf 0).val b
def fAdd (a b : FAcc) : FAcc := let r := faddV (fmtOf 0) 0 (f32v a.1) (f32v b.1); (r.1, a.2 ||| b.2 ||| r.2)
def fSub (a b : FAcc) : FAcc := let r := faddV (fmtOf 0) 0 (f32v a.1) (f32v b.1).negate; (r.1, a.2 ||| b.2 ||| r.2)
def fMul (a b : FAcc) : FAcc := let r := fmulV (fmtOf 0) 0 (f32v a.1) (f32v b.1); (r.1, a.2 ||| b.2 ||| r.2)

/-- F(m × 2^e ÷ n) of an exact dyadic for a positive integer n, rounded once. -/
def fDyDivN (neg : Bool) (m : Nat) (e : Int) (n : Nat) : FAcc :=
  let q := m * 2 ^ 64 / n
  let d : Dy := if q * n = m * 2 ^ 64 then ⟨if neg then -(q : Int) else q, e - 64⟩ else between neg q (e - 64)
  roundF (fmtOf 0) 0 neg d

/-- F(a ÷ n) for a positive integer n. -/
def fDivN (a : FAcc) (n : Nat) : FAcc :=
  match f32v a.1 with
  | .nan s => ((fmtOf 0).nan, a.2 ||| flagIf s flagIV)
  | .inf neg => ((fmtOf 0).signed neg (fmtOf 0).infBits, a.2)
  | .fin neg m e => let r := fDyDivN neg m e n; (r.1, a.2 ||| r.2)

/-- F((y1 − y0) ÷ n): the difference is exact (R15) and the quotient is rounded once; a NaN or an infinity passes through. -/
def fSubDivN (y1 y0 : Nat) (n : Nat) : FAcc :=
  match f32v y1, f32v y0 with
  | .fin _ _ _, .fin _ _ _ =>
    let d := (f32v y1).dy.add (f32v y0).dy.neg
    fDyDivN (decide (d.m < 0)) d.m.natAbs d.e n
  | _, _ => fDivN (fSub (y1, 0) (y0, 0)) n

/-- The sampling coordinate of R198 along one axis: F(y0 + F((i + 0.5) × F((y1 − y0) ÷ n))). -/
def cropCoord (y0 y1 : Nat) (i n : Nat) : FAcc :=
  let half := roundF (fmtOf 0) 0 false ⟨2 * i + 1, -1⟩
  fAdd (y0, 0) (fMul (half.1, 0) (fSubDivN y1 y0 n))

/-- A clamped coordinate: floor, the next one, and the exact fraction (R198). -/
def cropAxis (y : Nat) (n : Nat) (near : Bool) : Nat × Nat × Nat :=
  let d := (f32v y).dy
  let hi : Dy := ⟨(n : Int) - 1, 0⟩
  let c : Dy := if d.m < 0 then ⟨0, 0⟩ else if hi.lt d then hi else d
  if near then
    let f := clampTo (roundAt 2 (c.add ⟨1, -1⟩) 0).1 n
    (f, f, 0)
  else
    let f := (roundAt 2 c 0).1
    (f.toNat, if f.toNat + 1 < n then f.toNat + 1 else n - 1, (roundF (fmtOf 0) 0 false (c.add ⟨-f, 0⟩)).1)

/-- A sample of CROPA: the rows and columns it reads with their weights, or none when a coordinate is NaN or infinite. -/
structure CropSample where
  ya : Nat
  yb : Nat
  wy : Nat
  xa : Nat
  xb : Nat
  wx : Nat

/-- The sample of latch row r (R198) and the flags of its coordinates; none for a row that receives zero k-groups. -/
def cropSample (b : BoxState) (w : Win) (r : Nat) : Option (Option CropSample × Flags) :=
  let v := b.cw.toNat
  let owc := fld v 27 6 + 1; let ohc := fld v 21 6 + 1
  let near := fld v 33 1 == 1
  let s := b.s0 + r
  let bi := s / (ohc * owc)
  if bi ≥ b.n then none
  else
    let rec_ := (aget bi b.recs).getD []
    let at_ (k : Nat) := leNat ((rec_.drop (4 * k)).take 4)
    let y := cropCoord (at_ 0) (at_ 2) (s / owc % ohc) ohc
    let x := cropCoord (at_ 1) (at_ 3) (s % owc) owc
    let bad (p : Nat) := (f32v p).isNan || (f32v p).isInf
    if bad y.1 || bad x.1 then some (none, y.2 ||| x.2 ||| flagIV)
    else
      let a := cropAxis y.1 w.ih near
      let c := cropAxis x.1 w.iw near
      some (some ⟨a.1, a.2.1, a.2.2, c.1, c.2.1, c.2.2⟩, y.2 ||| x.2)

def planCropa (e : BitVec 7) (cw : Opnd) (x : Ctx) : Plan :=
  let reads := [cw.xloc]
  match x.c.win, x.c.box with
  | some (gw, c), some b =>
    let w := winOf gw c
    let f := feedDesc false false e.toNat w.groups (x.c.rd cw)
    let img := (w.ih * w.iw - 1) * f.pitch + pixelBytes f c
    if x.t < b.landed || f.fmt > 5 || f.kl != 0 || f.mmax != 0 then .bad reads 2
    else if x.t < x.c.ports.feedRel then ⟨reads, .error (busyTrap x.g.dbt x.c.ports.feedRel)⟩
    else if !x.g.inCarve f.base img then .bad reads 33 (rangeLo 0 f.base)
    else
      let near := fld b.cw.toNat 33 1 == 1
      let smp := (List.range (f.rows + 1)).map fun r => (r, cropSample b w r)
      let pix (p : CropSample) : List (Nat × Nat) := if near then [(p.ya, p.xa)] else [(p.ya, p.xa), (p.ya, p.xb), (p.yb, p.xa), (p.yb, p.xb)]
      let one (g : Nat) (rs : Nat × Option (Option CropSample × Flags)) : List (Nat × Act) :=
        match rs.2 with
        | some (some p, _) =>
          (((List.range 4).zip (pix p)).map fun q =>
            let at_ := x.t + 2 + 512 * g + 4 * rs.1 + q.1
            let ad := f.base + (q.2.1 * w.iw + q.2.2) * f.pitch
            let sp := groupSpan f c g
            (at_, Act.cropPix f g rs.1 q.1 c ad) :: bankActs at_ x.c.gcore false (linesOf (ad + sp.1) sp.2)).foldr (· ++ ·) []
        | _ => []
      let ws := smp.map fun p => match p.2 with
        | some (some q, _) => some (BitVec.ofNat 32 q.wy, BitVec.ofNat 32 q.wx)
        | _ => none
      let fl := flagsOf (smp.map fun p => match p.2 with | some (_, k) => k | none => 0)
      let acts := ((List.range f.n).map fun g => (smp.map (one g)).foldr (· ++ ·) []).foldr (· ++ ·) []
      let fills := (List.range f.n).map fun g => (x.t + 514 + 512 * g, Act.cropFill f g near ws (if g = 0 then fl else 0))
      let pend := (List.range f.n).map fun g => ((f.e + g) % 128, x.t + 514 + 512 * g)
      ⟨reads, .ok { acts := acts ++ fills
                    core := fun c => { c with box := c.box.map fun b => { b with s0 := b.s0 + 128 } }
                    gang := feedCommit [x.who.rank] false (x.t + 512 * f.n) (x.t + 2 + 512 * f.n) pend x.who.rank }⟩
  | _, _ => .bad reads 2

/-- One pixel read of CROPA: the group's channel patterns, zero at or beyond C (R198). -/
def State.cropPix (s : State) (gid : Nat) (w : Who) (f : FeedDesc) (g row k c addr : Nat) : State :=
  match (aget gid s.gangs).bind (·.coreAt w.rank) with
  | none => s
  | some cr =>
    let sp := groupSpan f c g
    match s.lateBytes gid w.rank cr.gcore w (addr + sp.1) sp.2 true with
    | (s, none) => s
    | (s, some r) =>
      let b := elemBytes f.fmt
      s.addStash gid [.pix w g row k ((List.range 8).map fun i => leNat ((r.bytes.drop (b * i)).take b))
        (s.psnKey (cmKey cr.gcore (addr + sp.1)) sp.2)]

/-- A pixel value converted exactly to FP32 (R198). -/
def toF32 (fmt v : Nat) : FAcc :=
  if fmt ≤ 2 then
    let r := fcvtV (fmtOf 0) 0 ((fmtOf fmt).val v)
    (r.1, r.2)
  else ((icvtF (fmtOf 0) 0 (ext (intSigned fmt) v (fmtBits fmt))).1, 0)

/-- The interpolation of R198. -/
def bilinear (wy wx : Nat) (p : List FAcc) : FAcc :=
  match p with
  | [aa, ab, ba, bb] =>
    let top := fAdd aa (fMul (wx, 0) (fSub ab aa))
    let bot := fAdd ba (fMul (wx, 0) (fSub bb ba))
    fAdd top (fMul (wy, 0) (fSub bot top))
  | a :: _ => a
  | [] => (0, 0)

/-- A crop entry fills (R198). -/
def State.cropFill (s : State) (gid : Nat) (w : Who) (f : FeedDesc) (g : Nat) (near : Bool)
    (ws : List (Option (BitVec 32 × BitVec 32))) (fl : Flags) : State :=
  (s.parityFresh (((aget gid s.gangs).bind (·.coreAt w.rank)).map (·.gcore)).toList (.lat false ((f.e + g) % 128))).modGang gid fun gg =>
    let pix (row : Nat) : List (List Nat × Option Nat) := (List.range 4).filterMap fun k =>
      gg.stash.findSome? fun st => match st with
        | .pix w' g' r' k' v p => if w' == w && g' == g && r' == row && k' == k then some (v, p) else none
        | _ => none
    let one (row : Nat) : KRec × Flags :=
      match ((ws[row]?).getD none) with
      | none => (zeroRec false, 0)
      | some (wy, wx) =>
        let ps := pix row
        let vals := (List.range 8).map fun i =>
          let q := ps.map fun p => toF32 f.fmt (nth p.1 i)
          if near then bilinear 0 0 (q.take 1) else bilinear wy.toNat wx.toNat q
        let r := plainRec 0 (vals.map (·.1)) (ps.findSome? (·.2))
        (r.1, flagsOf (vals.map (·.2)) ||| r.2)
    let rs := (List.range 128).map one
    (gg.modCore w.rank fun c => { c.modLatch false (fun l => l.filled s.tlc ((f.e + g) % 128) (rs.map (·.1))) with
      flags := flagsAfter c.flags 0 (flagsOf (rs.map (·.2)) ||| fl) }).unstash w g

end Sys2Proof.Machine
end

