-- ==== Sys2Proof/Machine/Matrix.lean ====
section
/-! DEFINITION. The array, the accumulator port, drains and pooling of 07_matrix_instructions (R181, R190 to R193, R196, R199). -/
namespace Sys2Proof.Machine

/-- A row of 128 FP32 cells as one value. -/
def rowOfCells (l : List Nat) : Lane := BitVec.ofNat 4096 (l.foldr (fun c n => c % 2 ^ 32 + 2 ^ 32 * n) 0)
/-- The 128 cells of a row. -/
def cellsOfRow (r : Lane) : List Nat := (List.range 128).map fun i => fld r.toNat (32 * i) 32
def Core.accRow (c : Core) (r : Nat) : List Nat := cellsOfRow ((c.acc.toList[r]?).getD 0)
def Core.setAccRow (c : Core) (r : Nat) (v : Lane) : Core := { c with acc := c.acc.setIfInBounds r v }

/-- An array instruction issues on or after the releases of R181. -/
def Ctx.arrayBusy (x : Ctx) : Option Trap :=
  if x.t < x.c.ports.arrRel then some (busyTrap x.g.dbt x.c.ports.arrRel)
  else if x.t < x.c.ports.accRel then some (busyTrap x.g.dbt x.c.ports.accRel)
  else none

/-- An accumulator-port instruction issues on or after the landing and release of R181. -/
def Ctx.portBusy (x : Ctx) : Option Trap :=
  if x.t < x.c.ports.arrLand then some (busyTrap x.g.dbt x.c.ports.arrLand)
  else if x.t < x.c.ports.accRel then some (busyTrap x.g.dbt x.c.ports.accRel)
  else none

def maxNat (a b : Nat) : Nat := if a < b then b else a

/-- The port after an array instruction. -/
def Core.arrayUse (c : Core) (rel land : Nat) : Core :=
  { c with ports := { c.ports with arrRel := rel, arrLand := land, lastLandM := maxNat c.ports.lastLandM land } }
/-- The port after an accumulator-port instruction: rows land up to `land`. -/
def Core.portUse (c : Core) (rel : Nat) : Core :=
  { c with ports := { c.ports with accRel := rel, lastLandM := maxNat c.ports.lastLandM rel } }

/-- Columns a … a + n − 1 of an accumulator row. -/
def colMask (a n : Nat) : Mask := BitVec.ofNat 128 ((2 ^ n - 1) * 2 ^ a)

/-! Multiply (R190). -/

/-- The accumulator cells that a multiply reads: none for MMAZ, those it changes for MMAC. -/
def mmaCells (zero : Bool) (diag : Option Int) : List Loc :=
  if zero then [] else (List.range 128).map fun r => .acc r (match diag with | some d => colMask 0 ((r : Int) + d + 1).toNat | none => BitVec.allOnes 128)

/-- MMA, MMAC and MMAZ. -/
def planMma (zero causal : Bool) (pw : BitVec 6) (cw kn : Opnd) (x : Ctx) : Plan :=
  let w := x.c.rd cw; let n := x.c.rd kn
  let bwc := fld w 2 4
  let bw := if bwc = 15 then 16 else bwc
  let ap := fld w 6 1 + 1
  let p := pw.toNat + 1
  let reads := [cw.xloc, kn.xloc]
  if w / 2 ^ 30 ≠ 0 ∨ (!causal && fld w 21 9 != 0) ∨ !(decide (2 ≤ bwc) && decide (bwc ≤ 8) || bwc == 15) ∨ n = 0 ∨ n > 128 then .bad reads 2
  else
    let ents := (List.range n).map fun j => ((fld w 7 7 + j) % 128, (fld w 14 7 + j) % 128)
    let diag := if causal then some (sext (fld w 21 9) 9) else none
    let reads := reads ++ ents.map (fun e => .lat false e.1) ++ ents.map (fun e => .lat true e.2) ++ mmaCells zero diag
    match x.arrayBusy with
    | some tr => ⟨reads, .error tr⟩
    | none =>
      let acts := ((List.range n).zip ents).map fun q =>
        (x.t + 8 * bw * ap * q.1 + 4 * (q.1 / p), Act.mmaPair q.1 q.2.1 q.2.2 bw (ap == 2) (fld w 0 1 == 1) (fld w 1 1 == 1))
      let rel := x.t + 8 * bw * ap * n + 4 * ((n + p - 1) / p)
      ⟨reads, .ok { acts := acts ++ [(rel + 6, .mmaLand n p (fld w 0 1 == 1) (fld w 1 1 == 1) zero diag)]
                    core := fun c => c.arrayUse rel (rel + 6) }⟩

/-- Cause 16 of an entry that is empty or pending when consumed (R180, R287). -/
def entryTrap (dbt t : Nat) (l : Latch) (qb : Bool) (e : Nat) : Option Trap :=
  match aget e l.entries with
  | none => some { cause := 16, lo := packBits [(8, 7, e), (15, 1, qb.toNat)] }
  | some x => if !x.isFilled t then some { cause := 16, lo := packBits [(8, 7, e), (15, 1, qb.toNat)], due := x.due - dbt } else none

/-- Cause 64 of a record against the control word (R190). -/
def recBad (r : KRec) (sg : Bool) (tooWide : Bool) : Bool :=
  !r.z && ((match r.sn with | .signed => !sg | .unsigned => sg | .described => false) || tooWide)

/-- Cause 65 of a consumed row that holds poison (R180). -/
def psnTrap (k : Nat) : Trap :=
  { cause := 65, key := k, hi := rangeLo 0 ((k % 2 ^ 21 / 32 * 32 : Nat) : Int) }

/-- The consumption of pair j (R180, R190). DESIGN CHOICE (log 97): an i16 record in QB with BW = 15, which R77 has no width for and R190 does not
bar, is multiplied exactly like any other. -/
def State.mmaPair (s : State) (gid : Nat) (w : Who) (j a b bw : Nat) (ap2 sa sb : Bool) : State :=
  match aget gid s.gangs with
  | none => s
  | some g =>
    match g.coreAt w.rank with
    | none => s
    | some c =>
      match lowestTrap ((entryTrap g.dbt s.tlc c.qa false a).toList ++ (entryTrap g.dbt s.tlc c.qb true b).toList) with
      | some tr => s.raiseCut gid s.tlc w tr
      | none =>
        let ra := ((aget a c.qa.entries).map (·.rows)).getD []
        let rb := ((aget b c.qb.entries).map (·.rows)).getD []
        match (ra.filter fun r => recBad r sa (decide (r.w > 8) && !ap2)) ++ rb.filter fun r => recBad r sb (decide (r.w > bw)) with
        | r :: _ => s.raiseCut gid s.tlc w (blkTrap 6 r.blk.1 0 r.blk.2)
        | [] =>
          match (ra ++ rb).findSome? (·.psn) with
          | some k => s.raiseCut gid s.tlc w (psnTrap k)
          | none => s.addStash gid [.pair w j ra rb]

/-- The pairs a word has consumed, in the order of k. -/
def Gang.pairs (g : Gang) (w : Who) (n : Nat) : List (List KRec × List KRec) :=
  (List.range n).filterMap fun j => g.stash.findSome? fun s => match s with
    | .pair w' j' a b => if w' == w && j' == j then some (a, b) else none
    | _ => none

def Gang.dropPairs (g : Gang) (w : Who) : Gang :=
  { g with stash := g.stash.filter fun s => match s with | .pair w' _ _ _ => w' != w | _ => true }

/-- A pair for one cell (R78, R79, R190). -/
def cellPair (a b : KRec) (sa sb : Bool) : CellPair :=
  { live := !a.z && !b.z, inv := a.inv || b.inv, e := a.e + b.e,
    t := ((a.mants sa).zipWith (· * ·) (b.mants sb)).foldl (· + ·) 0 }

/-- The window exponent (R78). -/
def windowExp (ps : List CellPair) : Int :=
  match ps.filter (·.live) with
  | [] => 0
  | p :: l => l.foldl (fun e q => if e < q.e then q.e else e) p.e

/-- The windows of one cell, in order (R79, R80). -/
def cellWindows (p : Nat) : Nat → List CellPair → Nat × Flags → Nat × Flags
  | 0, _, acc => acc
  | k + 1, ps, acc =>
    let w := ps.take p
    let r := windowCell (windowExp w) acc.1 w
    cellWindows p k (ps.drop p) (r.1, acc.2 ||| r.2)

/-- The result of an MMA lands (R79, R190). -/
def State.mmaLand (s : State) (gid : Nat) (w : Who) (n p : Nat) (sa sb zero : Bool) (diag : Option Int) : State :=
  s.modGang gid fun g =>
    let prs := g.pairs w n
    (g.modCore w.rank fun c =>
      let rows := (List.range 128).map fun r =>
        ((List.range 128).zip (c.accRow r)).map fun q =>
          if (match diag with | some d => decide ((q.1 : Int) > (r : Int) + d) | none => false) then (q.2, (0 : Flags))
          else
            let ps := prs.map fun pr => cellPair ((pr.1[r]?).getD (zeroRec false)) ((pr.2[q.1]?).getD (zeroRec false)) sa sb
            cellWindows p ((n + p - 1) / p) ps (if zero then 0 else q.2, 0)
      let c := ((List.range 128).zip rows).foldl (fun (c : Core) q => c.setAccRow q.1 (rowOfCells (q.2.map (·.1)))) c
      { c with flags := flagsAfter c.flags 0 (flagsOf (rows.map fun l => flagsOf (l.map (·.2)))) }).dropPairs w

/-! Pooling (R196). -/

def planPool (mx init fin : Bool) (e : BitVec 7) (cw kn : Opnd) (x : Ctx) : Plan :=
  let w := x.c.rd cw; let n := x.c.rd kn
  let reads := [cw.xloc, kn.xloc]
  if w / 2 ^ 6 ≠ 0 ∨ (mx && fld w 4 1 != 0) ∨ n = 0 ∨ n > 128 then .bad reads 2
  else
    let reads := reads ++ (List.range n).map (fun j => .lat false ((e.toNat + j) % 128)) ++ (if init then [] else (List.range 128).map fun r => .acc r (colMask 0 (8 * (fld w 0 4 + 1))))
    match x.arrayBusy with
    | some tr => ⟨reads, .error tr⟩
    | none =>
      let rel := x.t + n + (if fin then 12 else 4)
      ⟨reads, .ok { acts := (List.range n).map (fun j => (x.t + j, Act.poolEntry j ((e.toNat + j) % 128)))
                      ++ [(rel, .poolLand n (fld w 0 4 + 1) mx init fin (fld w 4 1 == 1) (fld w 5 1 == 1))]
                    core := fun c => c.arrayUse rel rel }⟩

/-- The consumption of one pooled entry. -/
def State.poolEntry (s : State) (gid : Nat) (w : Who) (j e : Nat) : State :=
  match aget gid s.gangs with
  | none => s
  | some g =>
    match g.coreAt w.rank with
    | none => s
    | some c =>
      match entryTrap g.dbt s.tlc c.qa false e with
      | some tr => s.raiseCut gid s.tlc w tr
      | none =>
        let ra := ((aget e c.qa.entries).map (·.rows)).getD []
        match ra.findSome? (·.psn) with
        | some k => s.raiseCut gid s.tlc w (psnTrap k)
        | none => s.addStash gid [.pair w j ra []]

/-- One latch row of one entry taken into a row of cells (R196): cells, count and flags. -/
def poolRow (mx incl sg : Bool) (grp : Nat) (r : KRec) (st : List Nat × Nat × Flags) : List Nat × Nat × Flags :=
  let upd (f : Nat → Nat → Nat × Flags) : List Nat × Flags :=
    let out := ((List.range 128).zip st.1).map fun q =>
      if q.1 / 8 = grp then f (q.1 % 8) q.2 else (q.2, (0 : Flags))
    (out.map (·.1), flagsOf (out.map (·.2)))
  if r.inv then
    let o := upd fun _ _ => ((fmtOf 0).nan, flagIV)
    (o.1, st.2.1, st.2.2 ||| o.2)
  else if mx && r.pd then st
  else
    let ms := r.mants sg
    let v (i : Nat) : Nat × Flags := roundF (fmtOf 0) 0 false ⟨(ms[i]?).getD 0, r.e⟩
    let o := upd fun i c =>
      let x := v i
      let y := if mx then fminmaxV (fmtOf 0) true (f32v c) (f32v x.1) else faddV (fmtOf 0) 0 (f32v c) (f32v x.1)
      (y.1, x.2 ||| y.2)
    let cnt := if !mx && grp == 0 && (!r.pd || incl) then st.2.1 + 1 else st.2.1
    (o.1, cnt, st.2.2 ||| o.2)

/-- The result of a pooling instruction lands (R196). DESIGN CHOICE (log 97): one of n = 1 without FIN on the release cycle of an MMA lands a cycle
before it, so that it acts on the old cells and the MMA on what it leaves. -/
def State.poolLand (s : State) (gid : Nat) (w : Who) (n g : Nat) (mx init fin incl sg : Bool) : State :=
  s.modGang gid fun gg =>
    let prs := gg.pairs w n
    (gg.modCore w.rank fun c =>
      let rows := (List.range 128).map fun r =>
        let c0 := if init then List.replicate 128 (if mx then (fmtOf 0).signed true (fmtOf 0).infBits else 0) else c.accRow r
        let n0 := if init && !mx then 0 else (c.cnt.toList[r]?).getD 0
        let st := ((List.range n).zip prs).foldl (fun st q => poolRow mx incl sg (q.1 % g) ((q.2.1[r]?).getD (zeroRec false)) st) (c0, n0, (0 : Flags))
        if fin && !mx then
          let out := ((List.range 128).zip st.1).map fun q =>
            if 8 * g ≤ q.1 then (q.2, (0 : Flags)) else if st.2.1 = 0 then (0, (0 : Flags)) else fDivN (q.2, 0) st.2.1
          (out.map (·.1), st.2.1, st.2.2 ||| flagsOf (out.map (·.2)))
        else st
      let c := ((List.range 128).zip rows).foldl (fun (c : Core) q =>
        { c.setAccRow q.1 (rowOfCells q.2.1) with cnt := c.cnt.setIfInBounds q.1 q.2.2.1 }) c
      { c with flags := flagsAfter c.flags 0 (flagsOf (rows.map (·.2.2))) }).dropPairs w

/-! Accumulator port (R191). -/

/-- The rows of a port instruction: a count from 1, rows inside the accumulator. -/
def rowsOk (r n lim : Nat) : Bool := decide (1 ≤ n) && decide (n ≤ lim) && decide (r + n ≤ 128)

/-- The accumulator rows that a word of n rows reads, their first `cols` cells; no such word has more than 128 (R191). -/
def accReads (r n : Nat) (cols : Nat := 128) : List Loc := (List.range (Nat.min n 128)).map fun i => .acc (r + i) (colMask 0 cols)

/-- NaN made canonical (R191). -/
def canonNan (v : Nat) : Nat := if (f32v v).isNan then (fmtOf 0).nan else v

/-- The common form of the port instructions: `per i` is what row i does, counted from the issue cycle. -/
def Ctx.portPlan (x : Ctx) (reads : List Loc) (n : Nat) (claims : List (Loc × Nat)) (per : Nat → List (Nat × Act)) : Plan :=
  match x.portBusy with
  | some tr => ⟨reads, .error tr⟩
  | none => ⟨reads, .ok { claims := claims, acts := ((List.range n).map per).foldr (· ++ ·) [], core := fun c => c.portUse (x.t + n + 8) }⟩

def planAclr (r : BitVec 7) (kn : Opnd) (x : Ctx) : Plan :=
  let n := x.c.rd kn
  if !rowsOk r.toNat n 128 then .bad [kn.xloc] 2
  else x.portPlan [kn.xloc] n [] fun i => [(x.t + i + 8, .accWrite (r.toNat + i) 0)]

/-- BASE of ALD and ASAV. -/
def portBase (w : Nat) : Option Nat := if w / 2 ^ 21 != 0 || w % 64 != 0 then none else some w

def planAld (r : BitVec 7) (cw kn : Opnd) (x : Ctx) : Plan :=
  let n := x.c.rd kn
  let reads := [cw.xloc, kn.xloc]
  match portBase (x.c.rd cw) with
  | none => .bad reads 2
  | some b =>
    if !rowsOk r.toNat n 128 then .bad reads 2
    else if !x.g.inCarve b (512 * n) && x.portBusy.isNone then .bad reads 33 (rangeLo 0 b)
    else x.portPlan reads n [] fun i =>
      (x.t + i + 1, .aldRow (r.toNat + i) (b + 512 * i) (x.t + i + 8)) :: bankActs (x.t + i + 1) x.c.gcore false (linesOf (b + 512 * i) 512)

/-- ALD reads one row on its reach cycle (R191). -/
def State.aldRow (s : State) (gid : Nat) (w : Who) (row addr land : Nat) : State :=
  match (aget gid s.gangs).bind (·.coreAt w.rank) with
  | none => s
  | some c =>
    match s.lateBytes gid w.rank c.gcore w addr 512 false with
    | (s, none) => s
    | (s, some r) =>
      let cells := (List.range 128).map fun i => canonNan (leNat ((r.bytes.drop (4 * i)).take 4))
      s.modGang gid fun g => { g with agenda := g.agenda ++ [⟨land, w, .accWrite row (rowOfCells cells)⟩] }

def planAsav (r : BitVec 7) (cw kn : Opnd) (x : Ctx) : Plan :=
  let n := x.c.rd kn
  let reads := [cw.xloc, kn.xloc] ++ accReads r.toNat n
  match portBase (x.c.rd cw) with
  | none => .bad reads 2
  | some b =>
    if !rowsOk r.toNat n 128 then .bad reads 2
    else if !x.g.inCarve b (512 * n) && x.portBusy.isNone then .bad reads 33 (rangeLo 0 b)
    else x.portPlan reads n ((List.range n).map fun i => (.cm (b + 512 * i) 512, x.t + i + 8)) fun i =>
      (x.t + i + 8, .mem (cmKey x.c.gcore (b + 512 * i)) (leBytes 512 ((x.c.acc.toList[r.toNat + i]?).getD 0).toNat) false)
        :: bankActs (x.t + i + 8) x.c.gcore true (linesOf (b + 512 * i) 512)

/-- VS of ARDV, AWRV, ASCL and ABIAS. -/
def portVs (w n : Nat) : Option Nat := if w / 2 ^ 10 != 0 || w + 8 * n > 1024 then none else some w

def planArdv (r : BitVec 7) (cw kn : Opnd) (x : Ctx) : Plan :=
  let n := x.c.rd kn
  let reads := [cw.xloc, kn.xloc] ++ accReads r.toNat n
  match portVs (x.c.rd cw) n with
  | none => .bad reads 2
  | some vs =>
    if !rowsOk r.toNat n 32 then .bad reads 2
    else x.portPlan reads n ((List.range n).map fun i => (.v (vs + 8 * i) 8 (BitVec.allOnes 128), x.t + i + 8)) fun i =>
      [(x.t + i + 8, .wv (vs + 8 * i) 32 (BitVec.allOnes 128) (x.c.accRow (r.toNat + i)))]

def planAwrv (r : BitVec 7) (cw kn : Opnd) (x : Ctx) : Plan :=
  let n := x.c.rd kn
  match portVs (x.c.rd cw) n with
  | none => .bad [cw.xloc, kn.xloc] 2
  | some vs =>
    if !rowsOk r.toNat n 32 then .bad [cw.xloc, kn.xloc] 2
    else x.portPlan [cw.xloc, kn.xloc, .v vs (8 * n) (BitVec.allOnes 128)] n [] fun i =>
      [(x.t + i + 8, .accWrite (r.toNat + i) (rowOfCells (x.c.v.toList.map fun l => canonNan (slices l (vs + 8 * i) 32))))]

/-- ASCL and ABIAS of some rows, each cell with the value of its lane (R191). DESIGN CHOICE (log 82): "VS as ARDV" bounds the one operand they read, VS + 8 ≤ 1024, and not
VS + 8n. -/
def Ctx.cellPlan (x : Ctx) (r : BitVec 7) (cw kn : Opnd) (f : Nat → Nat → Nat × Flags) : Plan :=
  let n := x.c.rd kn
  let reads := [cw.xloc, kn.xloc] ++ accReads r.toNat n
  match portVs (x.c.rd cw) 1 with
  | none => .bad reads 2
  | some vs =>
    if !rowsOk r.toNat n 128 then .bad reads 2
    else
      let sv := x.c.v.toList.map fun l => slices l vs 32
      x.portPlan (reads ++ [.v vs 8 (BitVec.allOnes 128)]) n [] fun i =>
        let out := (x.c.accRow (r.toNat + i)).zipWith f sv
        (x.t + i + 8, .accWrite (r.toNat + i) (rowOfCells (out.map (·.1)))) :: flagActs (x.t + i + 8) (flagsOf (out.map (·.2)))

def planAscl (rnd : BitVec 2) (r : BitVec 7) (cw kn : Opnd) (x : Ctx) : Plan :=
  x.cellPlan r cw kn fun c s => fmulV (fmtOf 0) rnd (f32v c) (f32v s)
def planAbias (rnd : BitVec 2) (r : BitVec 7) (cw kn : Opnd) (x : Ctx) : Plan :=
  x.cellPlan r cw kn fun c s => faddV (fmtOf 0) rnd (f32v c) (f32v s)

/-- ACLMP of one cell (R191): ordered as R163; a NaN cell stays NaN; no flag. -/
def clampCell (lo hi c : Nat) : Nat :=
  if (f32v c).isNan then (fmtOf 0).nan
  else
    let a := (fminmaxV (fmtOf 0) true (f32v lo) (f32v c)).1
    (fminmaxV (fmtOf 0) false (f32v hi) (f32v a)).1

def planAclmp (r : BitVec 7) (cw kn : Opnd) (x : Ctx) : Plan :=
  let n := x.c.rd kn; let w := x.c.rd cw
  let lo := fld w 0 32; let hi := fld w 32 32
  let reads := [cw.xloc, kn.xloc] ++ accReads r.toNat n
  if (f32v lo).isNan || (f32v hi).isNan || (f32v hi).ltV true (f32v lo) || !rowsOk r.toNat n 128 then .bad reads 2
  else x.portPlan reads n [] fun i =>
    [(x.t + i + 8, .accWrite (r.toNat + i) (rowOfCells ((x.c.accRow (r.toNat + i)).map (clampCell lo hi))))]

/-! Drains (R192, R193). -/

def planMcfg (cw : Opnd) (x : Ctx) : Plan :=
  let w := x.c.rd cw
  if w / 2 ^ 48 ≠ 0 then .bad [cw.xloc] 2 else ⟨[cw.xloc], .ok { acts := [(x.t + 1, .outDesc (BitVec.ofNat 64 w))] }⟩

/-- The four drains. -/
inductive Drain where
  | drn | drna | drnf | drnr
  deriving DecidableEq, Repr

/-- The fields of a drain control word with the output descriptor (R192, R193). -/
structure DrainCw where
  clr : Bool
  rnd : BitVec 2
  fmt : Nat
  adapt : Bool
  t : Nat
  mw : Nat
  int : Bool
  sg : Bool
  len : Nat
  mmax : Nat
  pitch : Nat
  base : Nat

def drainCw (k : Drain) (w : Nat) (o : BitVec 64) : DrainCw :=
  { clr := fld w 23 1 == 1, rnd := BitVec.ofNat 2 (fld w 21 2), fmt := fld w 17 4, adapt := k == .drna || fld w 16 1 == 1,
    t := fld w 11 5, mw := fld w 7 4, int := fld w 6 1 == 1, sg := fld w 5 1 == 1,
    len := fld o.toNat 37 7 + 1, mmax := fld o.toNat 44 4, pitch := fld o.toNat 21 16, base := fld o.toNat 0 21 }

/-- A control word holds only the fields its drain uses (R193). -/
def DrainCw.ok (d : DrainCw) (k : Drain) (w : Nat) : Bool :=
  let blk := d.rnd == 0 && decide (2 ≤ d.mw) && decide (d.mw ≤ 8)
  let plain := decide (d.fmt ≤ 8) && fld w 16 1 == 0 && d.t == 0 && d.mw == 0 && !d.int && !d.sg
  w / 2 ^ 24 == 0 && w % 32 == 0 && (match k with
    | .drn => d.fmt == 9 && blk && fld w 16 1 == 0 && d.t == 0
    | .drna => d.fmt == 9 && blk && fld w 16 1 == 0
    | .drnf => plain
    | .drnr => if d.fmt = 9 then blk && (d.adapt || d.t == 0) else plain)

/-- The output descriptor suits a described destination (R192), and the width its slot (R193). -/
def DrainCw.slotOk (d : DrainCw) : Bool :=
  decide (2 ≤ d.mmax) && decide (d.mmax ≤ 8) && d.base % 64 == 0 && d.pitch % 64 == 0 &&
  decide (64 * slotBlocks d.len d.mmax ≤ d.pitch) && decide (d.mw ≤ d.mmax)

/-- Bytes an output row may take. -/
def DrainCw.rowBytes (d : DrainCw) : Nat := if d.fmt = 9 then 64 * slotBlocks d.len d.mmax else d.len * elemBytes d.fmt

/-- One plain output element (R64, R193). -/
def drainElem (fmt : Nat) (rnd : BitVec 2) (v : Nat) : Nat × Flags :=
  if fmt ≤ 2 then fcvtV (fmtOf fmt) rnd (f32v v)
  else
    let r := fcvtI (fmtBits fmt) (intSigned fmt) rnd (f32v v)
    (low r.1 (fmtBits fmt), r.2)

/-- One output row: its bytes and flags, or an adaptive row that passes its slot (R193). -/
def DrainCw.row (d : DrainCw) (src : List Nat) : Except Nat (List Byte × Flags) :=
  let src := src.take d.len
  if d.fmt = 9 then
    let bl := quantRow d.mw d.t d.adapt d.int d.sg 64 (src.map f32v)
    if bl.length > slotBlocks d.len d.mmax then .error (((bl[slotBlocks d.len d.mmax]?).map (·.bits)).getD 0)
    else .ok ((bl.map fun b => leBytes 64 b.bits).foldr (· ++ ·) [], flagsOf (bl.map (·.flags)))
  else
    let o := src.map (drainElem d.fmt d.rnd)
    .ok ((o.map fun p => leBytes (elemBytes d.fmt) p.1).foldr (· ++ ·) [], flagsOf (o.map (·.2)))

/-- The source of output row i (R193). -/
def Core.drainSrc (c : Core) (k : Drain) (i : Nat) : List Nat :=
  if k == .drnr then (List.range 128).map fun r => c.accCell r i else c.accRow i

/-- The accumulator cells that a drain reads (R193). -/
def DrainCw.cells (d : DrainCw) (k : Drain) (r n : Nat) : List Loc :=
  if k == .drnr then (List.range d.len).map fun i => .acc i (colMask r (Nat.min n 128)) else accReads r n d.len

def planDrain (k : Drain) (r : BitVec 7) (cw kn : Opnd) (x : Ctx) : Plan :=
  let n := x.c.rd kn; let w := x.c.rd cw
  let d := drainCw k w x.c.outDesc
  let reads := [cw.xloc, kn.xloc] ++ d.cells k r.toNat n
  if !rowsOk r.toNat n 128 || !d.ok k w || (d.fmt == 9 && !d.slotOk) then .bad reads 2
  else if x.portBusy.isNone && !x.g.inCarve d.base ((n - 1) * d.pitch + d.rowBytes) then .bad reads 33 (rangeLo 0 d.base)
  else if x.portBusy.isNone && d.fmt == 9 && d.adapt && d.int then ⟨reads, .error (blkTrap 5 0)⟩
  else
    let rows := (List.range n).map fun i => (i, d.row (x.c.drainSrc k (r.toNat + i)))
    let claims := rows.filterMap fun p => match p.2 with
      | .ok (bs, _) => some (Loc.cm (d.base + p.1 * d.pitch) bs.length, x.t + p.1 + 8)
      | .error _ => none
    x.portPlan reads n claims fun i =>
      let at_ := x.t + i + 8
      let ad := d.base + i * d.pitch
      (if d.clr then [(at_, Act.accClear (k == .drnr) (r.toNat + i))] else []) ++
      (match aget i rows with
        | some (.ok (bs, fl)) => (at_, .mem (cmKey x.c.gcore ad) bs false) :: bankActs at_ x.c.gcore true (linesOf ad bs.length) ++ flagActs at_ fl
        | some (.error b) => [(at_, .late (blkTrap 4 b 0 (ad + 64 * slotBlocks d.len d.mmax)))]
        | none => [])

/-- CLR of a drained row or column (R193). -/
def Core.accClear (c : Core) (col : Bool) (i : Nat) : Core :=
  if col then
    (List.range 128).foldl (fun c r => c.setAccRow r (setSlices ((c.acc.toList[r]?).getD 0) (8 * i) 32 0)) c
  else c.setAccRow i 0

/-- MSTAT (R199). -/
def planMstat (kn : Opnd) (x : Ctx) : Plan :=
  x.xPlan [] kn (packBits [(0, 21, x.c.ports.arrRel - x.t), (21, 1, (decide (x.t < x.c.ports.accRel)).toNat)]) 1

/-- A HOLD or ENDSTEP of `m` or `l` finds its resources released and its results landed (R181). -/
def Ctx.portsTrap (x : Ctx) : Option Trap :=
  let due := match x.who.strm with
    | .m => maxNat (maxNat x.c.ports.arrRel x.c.ports.accRel) x.c.ports.lastLandM
    | .l => maxNat x.c.ports.feedRel x.c.ports.lastLandL
    | _ => 0
  if x.t < due then some (busyTrap x.g.dbt due) else none

end Sys2Proof.Machine
end

