-- ==== Sys2Proof/Machine/Control.lean ====
section
/-! DEFINITION. Branches, waits, loops and CUE of 05_control_instructions (R93 to R97, R122, R147 to R154) and the system
instructions of 11_system_trap_instructions (R276 to R282). -/
namespace Sys2Proof.Machine

/-- DETAIL kinds of cause 16 (R287). -/
def kindNest : Nat := 3
def kindStruct : Nat := 6

/-- The taken target: it must lie from word 6 to PLANE.LEN (R122), and after every open level's LOOP (R154). -/
def Ctx.branchTrap (x : Ctx) (tgt : Int) : Option Trap :=
  if tgt < 6 ∨ tgt ≥ x.s.progLen x.g x.who.rank x.who.strm then some { cause := 0 }
  else if x.st.loops.any fun l => decide (tgt ≤ l.loopPc) then some { cause := 16, lo := kindNest }
  else none

/-- The stream after a taken branch (R93): the target word issues no earlier than b + 3. -/
def Stream.branch (t : Nat) (tgt : Int) (s : Stream) : Stream := { s with pc := tgt.toNat, base := t + 1, floor := 2 }

/-- A taken branch, with what else the word does. -/
def Ctx.branchPlan (x : Ctx) (reads : List Loc) (tgt : Int) (e : Eff) : Plan :=
  match x.branchTrap tgt with
  | some tr => ⟨reads, .error tr⟩
  | none => ⟨reads, .ok { e with flow := some (Stream.branch x.t tgt) }⟩

/-- The condition of BR (R122, R147). -/
def brTaken (cond : Nat) (v : Int) : Bool :=
  match cond with
  | 0 => true
  | 1 => v == 0
  | 2 => v != 0
  | 3 => decide (v < 0)
  | 4 => decide (0 ≤ v)
  | 5 => decide (0 < v)
  | _ => decide (v ≤ 0)

/-- BR (R147): with COND 0 it reads nothing. -/
def planBr (cond : BitVec 3) (a : Opnd) (off : BitVec 24) (x : Ctx) : Plan :=
  let reads := if cond = 0 then [] else [a.xloc]
  if brTaken cond.toNat (x.c.sx a) then x.branchPlan reads (x.st.pc + off.toInt) {} else ⟨reads, .ok {}⟩

/-- CALL (R148). -/
def planCall (a : Opnd) (off : BitVec 24) (x : Ctx) : Plan :=
  x.branchPlan [] (x.st.pc + off.toInt) { claims := [x.cx a 1], acts := [x.wx a ((x.st.pc + 1) % 2 ^ a.width) 1] }

/-- RET (R148). -/
def planRet (a : Opnd) (x : Ctx) : Plan := x.branchPlan [a.xloc] (x.c.rd a) {}

/-- BRX (R148). -/
def planBrx (a : Opnd) (off : BitVec 24) (x : Ctx) : Plan := x.branchPlan [a.xloc] (x.c.rd a + off.toInt) {}

/-- WAIT (R94). -/
def planWait (n : BitVec 32) (x : Ctx) : Plan :=
  ⟨[], .ok { flow := some fun s => { s with pc := s.pc + 1, base := x.t + n.toNat + 1, floor := 0 } }⟩

/-! Loops (R97, R153, R154). -/

/-- The counts that hold for a stream (R150). -/
def Ctx.counts (x : Ctx) : List Nat := match x.m with | some m => m.counts | none => x.c.counts

/-- The word address of the ENDL of a level at or after pc, skipping continuation words. -/
def findEndl (s : State) (g : Gang) (rank : Nat) (id : StreamId) (lvl : Nat) : Nat → Nat → Option Nat
  | 0, _ => none
  | n + 1, pc =>
    match s.wordAt g rank id pc with
    | none => none
    | some r =>
      if opOf r.word = 0x2B ∧ (r.word.toNat % 4) = lvl then some pc
      else findEndl s g rank id lvl n (pc + wordsOf r.word)

/-- How often a stream has opened a level in the segment. -/
def Stream.opens (s : Stream) (lvl : Nat) : Nat := (aget lvl s.opened).getD 0

/-- LOOP (R153, R154): opens its level on the cycle and with the period of the gang's first stream to do so; with a count
of zero the stream goes on after the level's ENDL (log 28). DESIGN CHOICE (log 97): of two LOOPs of a level on one cycle with different periods
the one later in the order of the gang's streams (c, m, v, l, s, then rank) faults. -/
def planLoop (lvl : BitVec 2) (per : BitVec 20) (x : Ctx) : Plan :=
  let l := lvl.toNat
  let p := per.toNat + 1
  let n := x.st.opens l
  let first := x.g.nest.find? fun e => e.1 == l && e.2.1 == n
  if l ≠ x.st.loops.length then .bad [] 16 kindNest
  else if (match first with | some e => e.2.2.1 != x.t || e.2.2.2 != p | none => false) then .bad [] 16 kindNest
  else
    let cnt := nthNat x.counts l
    let note (g : Gang) : Gang := match first with
      | some _ => g
      | none => { g with nest := g.nest ++ [(l, n, x.t, p)] }
    let opened (s : Stream) : Stream := { s with opened := aset l (n + 1) s.opened }
    if cnt = 0 then
      let e := (findEndl x.s x.g x.who.rank x.who.strm l 16384 (x.st.pc + 1)).getD
        (x.s.progLen x.g x.who.rank x.who.strm - 1)
      ⟨[], .ok { gang := note, flow := some fun s => { opened s with pc := e + 1, base := x.t + 1, floor := 0 } }⟩
    else
      ⟨[], .ok { gang := note
                 flow := some fun s => { opened s with
                   pc := s.pc + 1, base := x.t + 1, floor := 0,
                   loops := ⟨l, x.t + 1, p, cnt, 0, s.pc + 1, s.pc, none⟩ :: s.loops } }⟩
where
  /-- The j-th count. -/
  nthNat (l : List Nat) (i : Nat) : Nat := (l[i]?).getD 0

/-- ENDL (R153, R154): the innermost level's iteration is closed; the next word is the first body word of the next
iteration, or the word after ENDL once the level ends. -/
def planEndl (lvl : BitVec 2) (x : Ctx) : Plan :=
  match x.st.loops with
  | [] => .bad [] 16 kindNest
  | l :: rest =>
    if l.lvl ≠ lvl.toNat ∨ l.endl.isSome then .bad [] 16 kindNest
    else
      let nextIter := l.origin + (l.iter + 1) * l.period
      ⟨[], .ok { flow := some fun s => { s with
        pc := if l.iter + 1 < l.count then l.bodyPc else s.pc + 1
        base := nextIter, floor := 0
        loops := { l with endl := some x.t } :: rest } }⟩

/-! Boundaries and waits (R96, R150 to R152). -/

/-- CUE (R96, R150, R154). -/
def planCue (a : Opnd) (off : BitVec 8) (x : Ctx) : Plan :=
  let v := x.c.rd a
  if off.toNat < (if x.g.twoDies then 104 else 16) then .bad [a.xloc] 2
  else if !x.st.loops.isEmpty then .bad [a.xloc] 16 kindNest
  else
    let rec_ : CueRec := ⟨x.who.rank, x.t + off.toNat, (List.range 4).map fun j => fld v (16 * j) 16, x.who⟩
    ⟨[a.xloc], .ok { gang := fun g => { g with cues := g.cues ++ [rec_] }
                     flow := some fun s => { s with pc := s.pc + 1, st := .cued } }⟩

/-- AWAIT (R151, R152): the stream waits on its tags from its issue cycle on. -/
def planAwait (mask : BitVec 16) (x : Ctx) : Plan :=
  if !x.st.loops.isEmpty then .bad [] 16 kindNest
  else ⟨[], .ok { flow := some fun s => { s with pc := s.pc + 1, st := .wait (.tags mask) x.who } }⟩

/-! System instructions (R276 to R282). -/

def planNop (_x : Ctx) : Plan := ⟨[], .ok {}⟩
def planIll (_body : BitVec 46) (_x : Ctx) : Plan := .bad [] 0
def planUnassigned (_op : BitVec 8) (_x : Ctx) : Plan := .bad [] 0
def planTrap (code : BitVec 10) (_x : Ctx) : Plan := .bad [] 4 code.toNat
def planTrapnz (a : Opnd) (code : BitVec 10) (x : Ctx) : Plan :=
  if x.c.rd a ≠ 0 then .bad [a.xloc] 4 code.toNat (x.c.rd a) else ⟨[a.xloc], .ok {}⟩
/-- BRK (R279): NOP unless the job was launched with breakpoints enabled. -/
def planBrk (code : BitVec 10) (x : Ctx) : Plan := if x.g.brken then .bad [] 5 code.toNat else ⟨[], .ok {}⟩
/-- CKMARK (R282). -/
def planCkmark (code : BitVec 10) (x : Ctx) : Plan :=
  ⟨[], .ok { flow := some fun s => { Stream.next x.t 1 s with mark := code } }⟩

/-- SVC (R280): four entries. -/
def planSvc (d a : Opnd) (code : BitVec 10) (x : Ctx) : Plan :=
  let ok := decide (x.c.svc.length < 4)
  let e : SvcEnt := ⟨code, BitVec.ofNat 64 (x.c.rd a), x.who.rank, x.st.pc⟩
  ⟨[a.xloc], .ok { claims := [x.cx d 1], acts := [x.wx d ok.toNat 1]
                   core := fun c => if ok then { c with svc := c.svc ++ [e] } else c }⟩

/-- The trace entry of EVENT (R281). -/
def Ctx.traceEntry (x : Ctx) (v : Nat) (code : BitVec 10) : BitVec 128 :=
  BitVec.ofNat 128 (packBits [(108, 20, x.g.step.job), (104, 4, if x.g.step.attempt < 15 then x.g.step.attempt else 15),
    (98, 6, x.who.rank), (88, 10, code.toNat), (64, 24, x.t - x.g.dbt), (0, 64, v)])

/-- EVENT (R281): sixteen entries. -/
def planEvent (d a : Opnd) (code : BitVec 10) (x : Ctx) : Plan :=
  let i := x.s.info x.c.gcore
  let ok := decide (i.trace.length < 16)
  ⟨[a.xloc], .ok { claims := [x.cx d 1], acts := [x.wx d ok.toNat 1]
                   dev := fun s => if ok then s.setInfo x.c.gcore { i with trace := i.trace ++ [x.traceEntry (x.c.rd a) code] } else s }⟩

end Sys2Proof.Machine
end

