-- ==== Sys2Proof/Machine/Sync.lean ====
section
/-! DEFINITION. Atomics, gongs and launches from a step, of 09_sync_engine_instructions (R230 to R247), over the places of
R202. -/
namespace Sys2Proof.Machine

/-! Places (R202). -/

/-- An address in its space, as R202 lays it out. -/
inductive Place where
  | cm (a : Nat)
  | im (a : Nat)
  | vt (v : Nat)
  | pc (rank a : Nat)
  | hv (va : Nat)
  deriving DecidableEq, Repr

/-- The layout of R202; none where a bit above it is set or the space code is reserved. -/
def placeOf (sp v : Nat) : Option Place :=
  match sp with
  | 0 => if v < 2 ^ 21 then some (.cm v) else none
  | 1 => if v < 2 ^ 14 then some (.im v) else none
  | 2 => if v < 2 ^ 31 then some (.vt v) else none
  | 3 => if v < 2 ^ 27 then some (.pc (v / 2 ^ 21) (v % 2 ^ 21)) else none
  | 4 => if v < 2 ^ 54 then some (.hv v) else none
  | _ => none

/-- The base value of a place and its space code, as DETAIL reports them (R287). -/
def Place.space : Place → Nat
  | .cm _ => 0 | .im _ => 1 | .vt _ => 2 | .pc _ _ => 3 | .hv _ => 4
def Place.raw : Place → Nat
  | .cm a => a | .im a => a | .vt v => v | .pc r a => r * 2 ^ 21 + a | .hv va => va

/-- A place n bytes further on (words of 8 bytes in `im:`); past the end of a vault no die is named. -/
def Place.plus (p : Place) (n : Nat) : Place :=
  match p with
  | .cm a => .cm (a + n) | .im a => .im (a + n / 8) | .vt v => .vt (if v % 2 ^ 24 + n < 2 ^ 24 then v + n else 2 ^ 31 + n) | .pc r a => .pc r (a + n) | .hv va => .hv (va + n)

/-- The logical die is present and not being substituted (R202, R395, R396). -/
def State.diePresent (s : State) (d : Nat) : Bool := decide (d < 8) && !s.root.absent.contains d && !(s.root.aborted && s.root.substituting == some d)
/-- A die that takes dispatches (R395, R396). -/
def State.dieOpen (s : State) (d : Nat) : Bool := s.diePresent d && s.root.substituting != some d

/-- n bytes from a place lie in range (R202). -/
def Place.inRange (s : State) (g : Gang) (p : Place) (n : Nat) : Bool :=
  match p with
  | .cm a => g.inCarve a n
  | .im a => decide (8 * a + n ≤ 2 ^ 17)
  | .vt v => decide (v % 2 ^ 24 + n ≤ 2 ^ 24) && s.diePresent (v / 2 ^ 28)
  | .pc r a => decide (r < g.cores.length) && g.inCarve a n
  | .hv va => decide (va + n ≤ 2 ^ 54)

/-- The key of a place that needs no translation. -/
def Place.key (s : State) (g : Gang) (c : Core) (p : Place) : Nat :=
  match p with
  | .cm a => cmKey c.gcore a
  | .im a => imKey c.gcore (!(s.info c.gcore).active) (8 * a)
  | .vt v => vtKey v
  | .pc r a => cmKey ((g.coreAt r).map (·.gcore) |>.getD 0) a
  | .hv va => va

/-- Own rank's `pc:` is own core memory (R204, R205). -/
def Place.isOwn (rank : Nat) : Place → Bool
  | .cm _ => true
  | .pc r _ => r == rank
  | _ => false

/-- The logical die that holds a place. -/
def Place.die (g : Gang) (c : Core) (p : Place) : Nat :=
  match p with
  | .vt v => v / 2 ^ 28
  | .pc r _ => ((g.coreAt r).map (·.gcore) |>.getD 0) / 32
  | _ => c.gcore / 32

/-- The latency L of R234. -/
def Place.lat (g : Gang) (c : Core) (p : Place) : Nat :=
  if p.isOwn c.rank then 2 else if p.die g c = c.gcore / 32 then 20 else 48

/-- The fault of a base out of range (R202, R287). -/
def Place.rangeTrap (p : Place) (reason : Nat) : Trap := { cause := 33, lo := rangeLo p.space (p.raw : Int), hi := reason }

/-- SPACE and address of a key, as DETAIL names them for a word of a rank (R202, R287): core memory of another gang core is `pc:`. -/
def Gang.keySpace (g : Gang) (rank k : Nat) : Nat × Nat :=
  match storeOf k with
  | some .vault => (2, k - 2 ^ 48)
  | some .core =>
    let a := (k - 2 ^ 49) % 2 ^ 21
    match g.cores.find? fun c => c.gcore == (k - 2 ^ 49) / 2 ^ 21 with
    | some c => if c.rank = rank then (0, a) else (3, c.rank * 2 ^ 21 + a)
    | none => (0, a)
  | some .plane => (1, (k - 2 ^ 50) % 2 ^ 17 / 8)
  | _ => (4, k)
def State.keySpace (s : State) (gid : Nat) (w : Option Who) (k : Nat) : Nat × Nat :=
  match aget gid s.gangs with
  | some g => g.keySpace ((w.map (·.rank)).getD 0) k
  | none => (0, 0)

/-! Gongs (R237). -/

/-- A gong's fields. -/
structure Gong where
  gen : Nat
  arr : Nat
  inb : Nat
  out : Nat
  rout : Nat
  rin : Nat
  rarr : Nat
  link : Nat
  deriving DecidableEq, Repr

def Gong.ofNat (n : Nat) : Gong :=
  { gen := fld n 0 4, arr := fld n 4 16, inb := fld n 20 16, out := fld n 36 16, rout := fld n 64 10, rin := fld n 74 10,
    rarr := fld n 84 12, link := fld n 96 32 }

def Gong.toNat (g : Gong) : Nat :=
  packBits [(0, 4, g.gen), (4, 16, g.arr), (20, 16, g.inb), (36, 16, g.out), (64, 10, g.rout), (74, 10, g.rin), (84, 12, g.rarr),
    (96, 32, g.link)]

/-- A gong as its fields read; a gong operation that decodes them sees `gongTrap` first. -/
def State.gong (s : State) (key : Nat) : Gong := .ofNat (leNat (s.fetch key 16).bytes)
def State.setGong (s : State) (key : Nat) (g : Gong) : State := s.store key (leBytes 16 g.toNat)

/-- The machine check of an operation on a gong whose bytes are poisoned or cannot be corrected (R386, R387); `det` is the gong's SPACE and
address. -/
def State.gongTrap (s : State) (key : Nat) (det : Nat × Nat) : Option Trap := (s.fetch key 16).trap key 16 det.1 det.2 s.poison

/-- A gong is read for no running step (R45, R243, R290): corrections are recorded, and so is what makes it unreadable, the answer. -/
def State.gongRead (s : State) (g : Option Gang) (key : Nat) : State × Option Nat :=
  let s := s.correctedAll g 0 (s.fetch key 16)
  match s.gongTrap key (0, 0) with
  | none => (s, none)
  | some tr =>
    let r : ErrRec := { cause := tr.cause, key := tr.key, outcome := 1 }
    (s.errRecord (s.describe (match g with | some g => r.ofGang g | none => r)), some tr.cause)

/-- Corrections met in a gong's bytes are recorded (R389). -/
def State.gongFixed (s : State) (gid key : Nat) : State := s.correctedAll (aget gid s.gangs) 0 (s.fetch key 16)

/-- The gong's generation on an earlier cycle, as the device observed it (R244): gong updates and every other write that changes it
are seen (R237). -/
def State.genAt (s : State) (key cyc : Nat) : Nat :=
  let l := s.gongLog.filter fun e => e.key == key
  match (l.filter fun e => decide (e.cyc ≤ cyc)).getLast? with
  | some e => e.after
  | none => match l.head? with | some e => e.before | none => (s.gong key).gen

/-! Dispatch conditions and LINK (R322, R330, R338). -/

/-- The coordinate of step n on a loop level: T levels in increasing number, the lowest varying fastest (R319). -/
def tCoord : List (Nat × Nat) → Nat → Nat → Nat
  | [], _, _ => 0
  | (k, c) :: r, n, l =>
    match l with
    | 0 => if k = 1 then n % c else 0
    | l + 1 => tCoord r (if k = 1 then n / c else n) l

/-- Condition i of a TOB for its step n: the gong and the handle with the expected generation E (R322). -/
def Tob.condition (b : Tob) (n i : Nat) : Option (Nat × BitVec 64) :=
  let w := (b.wadv[i]?).getD 0
  if !w.testBit 7 then none
  else
    let h := ((b.waitg[i]?).getD 0).toNat
    let e := (h / 2 ^ 60 + (if w.testBit 6 then tCoord b.loops n (w % 8) else 0)) % 16
    some (vtKey (fld h 0 31), BitVec.ofNat 64 (h % 2 ^ 60 + e * 2 ^ 60))

/-- Whether a condition holds (R322): the gong has advanced past E by 1 to 8 generations; never on an absent die. The scheduler observes
generations without a bank access, as R244 has the device do, and so meets no correction of R389 (log 97). -/
def State.condHolds (s : State) (c : Nat × BitVec 64) : Bool :=
  let d := ((s.gong c.1).gen + 16 - c.2.toNat / 2 ^ 60) % 16
  s.diePresent ((c.1 - 2 ^ 48) / 2 ^ 28) && decide (1 ≤ d) && decide (d ≤ 8)

/-- The conditions of a step that fail. -/
def State.failing (s : State) (b : Tob) (n : Nat) : List (Nat × BitVec 64) :=
  ((List.range 4).filterMap (b.condition n)).filter fun c => !s.condHolds c

/-- A TOB of a job. -/
def State.tobEnt (s : State) (job i : Nat) : Option TobEnt := (aget job s.sched.jobs).bind fun j => j.tobs[i]?

/-- The head that is QUEUED or HELD (R329): steps at the front are READY, and a head that was HELD before them stays so (log 38). -/
def Queue.heldHead (q : Queue) : Option TobRun := if q.front.isEmpty || q.heldSince != 0 then q.runs.head? else none

/-- Whether a waiter or a held head is linked on a gong (R338). -/
def State.gongLinked (s : State) (key : Nat) : Bool :=
  (s.sched.waiters.any fun w => match w.on with | .gong k _ _ => k == key | _ => false) ||
  (s.gangs.any fun p => match p.2.wait with | some (.gong k _ _) => k == key | _ => false) ||
  s.sched.queues.any fun q => match q.2.heldHead with
    | none => false
    | some r => match s.tobEnt r.job r.tobIdx with
      | none => false
      | some t => (s.failing t.tob r.next).any fun c => c.1 == key

/-- LINK follows what is linked (R237, R338; the entry is free, log 14): its four bytes are written, and the rest of the gong is neither
read nor written, so that no correction is met (R389; log 97). A unit with an error that cannot be corrected is left as it is (R386). -/
def State.relink (s : State) (key : Nat) : State :=
  let g := s.gong key
  if (s.fetch key 16).bad.isSome then s
  else if s.gongLinked key then
    if g.link = 0 then { s.store (key + 12) (leBytes 4 ((Config.waiterEntry s.fresh).toNat + 1)) with fresh := s.fresh + 1 } else s
  else if g.link = 0 then s else s.store (key + 12) (leBytes 4 0)

/-- Waiters linked on a gong that advances are released (R238, R338). -/
def State.releaseGong (s : State) (key : Nat) : State :=
  let ws := s.sched.waiters.map fun w => match w.on with
    | .gong k _ _ => if k = key then { w with on := .now } else w
    | _ => w
  let gs := s.gangs.map fun p => (p.1, match p.2.wait with
    | some (.gong k _ _) => if k = key then { p.2 with wait := some .now } else p.2
    | _ => p.2)
  State.relink { s with gangs := gs, sched := { s.sched with waiters := ws } } key

/-! Updates (R238, R241, R243, R245). -/

/-- What is reported to service firmware while the completion stands (R288). -/
def State.complEvent (s : State) (cause rank waddr : Nat) (h : BitVec 64) : State :=
  { s with sched := { s.sched with events := s.sched.events ++ [(cause, rank, waddr, h)] } }

/-- Count-downs on a gong whose generation closed are not credited back (R45). -/
def State.forgetApplied (s : State) (key : Nat) : State :=
  { s with gangs := s.gangs.map fun p => (p.1, { p.2 with applied := p.2.applied.filter fun a => a.1 != key }) }

/-- A gong has advanced on this cycle already. -/
def State.advancedNow (s : State) (key : Nat) : Bool := s.gongLog.any fun e => e.cyc == s.tlc && e.key == key && e.advance

/-- A fault of a gong update (R238, R241, R245, R386): of its word, whose effect ends there (R41). -/
def State.updRaise (s : State) (u : GongUpd) (tr : Trap) : State :=
  match u.who with
  | some w => s.raiseCut u.gang s.tlc w tr
  | none => s.raise u.gang s.tlc none tr

/-- What is left of an arrival, reported while the completion stands (R243, R288). -/
def State.updEvent (s : State) (u : GongUpd) (cause : Nat) : State :=
  if u.kind = 5 then s else s.complEvent cause ((u.who.map (·.rank)).getD 0) ((u.who.map (·.waddr)).getD 0) u.handle

/-- One update (R238) of a gong that reads well: kind 0 GONG.INIT, 1 inbound and 2 outbound count-down, 3 deferred arrival, 4 the
TOB's arrival, 5 a codec engine's arrival. -/
def State.gongApply (s : State) (u : GongUpd) : State :=
  let g := s.gong u.key
  let stale := s.advancedNow u.key
  match u.kind with
  | 0 =>
    if g.link ≠ 0 then s.updRaise u { cause := 48, lo := u.handle.toNat, hi := g.gen }
    else
      let r := fld u.n 20 12; let i := fld u.n 10 10; let o := fld u.n 0 10
      (s.setGong u.key { gen := 0, arr := r, inb := i, out := o, rout := o, rin := i, rarr := r, link := 0 }).forgetApplied u.key
  | 1 | 2 =>
    let n := if u.kind = 1 then g.inb else g.out
    if stale || g.gen != u.handle.toNat / 2 ^ 60 || n == 0 then
      s.updRaise u { cause := 50, lo := u.handle.toNat, hi := g.gen }
    else
      (s.setGong u.key (if u.kind = 1 then { g with inb := n - 1 } else { g with out := n - 1 })).modGang u.gang fun g =>
        { g with applied := g.applied ++ [(u.key, u.kind == 1)] }
  | _ =>
    let take := if stale || (u.kind == 3 && g.gen != u.handle.toNat / 2 ^ 60) then 0 else if u.n < g.arr then u.n else g.arr
    let s := s.setGong u.key { g with arr := g.arr - take }
    if take < u.n then s.updEvent u 50 else s

/-- A count-down of a handle that has become a replay is discarded (R45, R203): its registration on this cycle, if any, came first. -/
def State.replayed (s : State) (u : GongUpd) : Bool :=
  (u.kind == 1 || u.kind == 2) && (aget u.gang s.gangs).any fun g => u.who.any fun w => g.replays.contains (w.rank, u.handle)

/-- One update of a gong: a machine check of the gong's bytes goes to the running step that issued it (R386, R387), and an arrival,
whose step is complete, is then discarded and reported (log 81). -/
def State.gongUpdate (s : State) (u : GongUpd) : State :=
  if (u.kind = 5 ∧ u.n = 0) ∨ s.replayed u then s
  else if u.kind ≤ 2 then
    match s.gongTrap u.key (s.keySpace u.gang u.who u.key) with
    | some tr => s.updRaise u tr
    | none => (s.gongFixed u.gang u.key).gongApply u
  else match s.gongRead (aget u.gang s.gangs) u.key with
    | (s, some cause) => s.updEvent u cause
    | (s, none) => s.gongApply u

/-- The advance of a gong whose counts are zero (R238). -/
def State.gongAdvance (s : State) (key : Nat) : State :=
  let g := s.gong key
  if g.arr = 0 ∧ g.inb = 0 ∧ g.out = 0 ∧ !s.advancedNow key ∧ (s.gongTrap key (0, 0)).isNone then
    let s := s.setGong key { g with gen := (g.gen + 1) % 16, arr := g.rarr, inb := g.rin, out := g.rout }
    let s := { s with gongLog := s.gongLog ++ [(⟨s.tlc, key, g.gen, (g.gen + 1) % 16, true⟩ : GongLog)] }
    (s.forgetApplied key).releaseGong key
  else s

/-- Lexicographic order of R238. -/
def ordLt (a b : Nat × Nat × Nat × Nat × Nat) : Bool :=
  let (a1, a2, a3, a4, a5) := a; let (b1, b2, b3, b4, b5) := b
  decide (a1 < b1) || (a1 == b1 && (decide (a2 < b2) || (a2 == b2 && (decide (a3 < b3) || (a3 == b3 &&
    (decide (a4 < b4) || (a4 == b4 && decide (a5 < b5))))))))

/-- Insert an update in its place, after those that do not follow it. -/
def insertUpd (u : GongUpd) : List GongUpd → List GongUpd
  | [] => [u]
  | v :: t => if ordLt u.ord v.ord then u :: v :: t else v :: insertUpd u t

/-- Updates of one cycle in the order of R238 (log 29). -/
def State.gongOrdered (s : State) (us : List GongUpd) : State := (us.foldl (fun l u => insertUpd u l) []).foldl State.gongUpdate s

/-- GONG.INITs and count-downs, which R238 puts before the arrivals of completions and codec engines. -/
def GongUpd.counts (u : GongUpd) : Bool := decide (u.kind ≤ 2)

/-- An update that takes nothing: it keeps a gong's advance in sight until the cycle's last updates. -/
def GongUpd.mark (key : Nat) : GongUpd :=
  { key := key, ord := (9, 0, 0, 0, 0), kind := 5, n := 0, handle := 0, gang := 0, who := none }

/-- The GONG.INITs and count-downs of this cycle, those that wait in the queue included; the gongs stay in the queue (R238). -/
def State.gongCounts (s : State) (us : List GongUpd) : State :=
  let us := us ++ s.gongQ.filter GongUpd.counts
  let rest : List GongUpd := s.gongQ.filter fun u => !u.counts
  let marks : List GongUpd := (us.map fun u => u.key).eraseDups.map GongUpd.mark
  ({ s with gongQ := rest ++ marks } : State).gongOrdered us

/-- The arrivals of this cycle, and then every advance (R238). -/
def State.gongUpdates (s : State) (us : List GongUpd) : State :=
  (us.map (·.key)).eraseDups.foldl (fun (s : State) k => s.gongAdvance k) (s.gongOrdered us)

/-- The place of a word's update in the order of R238: class 2, die and core of its issuer, stream, issue cycle. -/
def updOrd (cls gcore : Nat) (w : Who) : Nat × Nat × Nat × Nat × Nat := (cls, gcore / 32, gcore % 32, w.strm.code, w.issue)

/-! Handles (R239, R240). -/

def packHandle (gen sp addr : Nat) : Nat := packBits [(60, 4, gen), (57, 3, sp), (0, 31, addr)]

/-- The place a handle names, or the fault of R239. -/
def Ctx.handle (x : Ctx) (h : Nat) (inCont : Bool) : Except Trap Place :=
  if fld h 31 26 ≠ 0 then .error { cause := 2, inCont := inCont }
  else
    match placeOf (fld h 57 3) (fld h 0 31) with
    | some p =>
      match p with
      | .im _ | .hv _ => .error { cause := 2, inCont := inCont }
      | _ =>
        if !p.inRange x.s x.g 16 then .error (p.rangeTrap 0)
        else if p.raw % 16 ≠ 0 then .error { cause := 36, lo := rangeLo p.space (p.raw : Int), hi := 6 }
        else .ok p
    | none => .error { cause := 2, inCont := inCont }

/-- A gong operation on a `pc:` gong is a requester of the bank that holds it (R234); one on an own gong only as GONG.INIT (R241). -/
def Ctx.peerBank (x : Ctx) (p : Place) (t : Nat) (wr : Bool) : List (Nat × Act) :=
  match p with
  | .pc r a =>
    if r = x.who.rank then []
    else match x.g.coreAt r with
      | some c => bankActs t c.gcore wr (linesOf a 16)
      | none => []
  | _ => []

/-- Cause 83 of an operation whose flit to the target's die is uncorrectable (R385); DETAIL names the target's beat (R287). -/
def State.opFlit (s : State) (gid : Nat) (w : Who) (key : Nat) : Option Trap :=
  let die := (((aget gid s.gangs).bind (·.coreAt w.rank)).map (·.gcore)).getD 0 / 32
  let (sp, ad) := s.keySpace gid (some w) key
  (s.badFlit die (keyStack key)).map fun k => { cause := 83, key := k, hi := packBits [(0, 3, sp), (8, 56, ad / 32 * 32)] }

/-- Registration on t + L (R240). -/
def Ctx.registers (x : Ctx) (h : Nat) (p : Place) : List (Nat × Act) :=
  let t := x.t + p.lat x.g x.c
  (t, .regist (BitVec.ofNat 64 h) (p.key x.s x.g x.c)) :: x.peerBank p t false

/-- Registration lands (R240, log 6): the generation stands, or the first attempt faults with cause 48, or the handle becomes a
replay, whose GONG.ARR records nothing. -/
def State.regist (s : State) (gid : Nat) (w : Who) (h : BitVec 64) (key : Nat) : State :=
  match s.opFlit gid w key with
  | some tr => s.raiseCut gid s.tlc w tr
  | none =>
  match s.gongTrap key (s.keySpace gid (some w) key) with
  | some tr => s.raiseCut gid s.tlc w tr
  | none =>
  let s := s.gongFixed gid key
  let gen := (s.gong key).gen
  if gen = h.toNat / 2 ^ 60 then s
  else
    match aget gid s.gangs with
    | none => s
    | some g =>
      if g.step.attempt ≤ 1 then ({ s with gongQ := s.gongQ.filter fun u => !(u.counts && u.gang == gid && u.who == some w) } : State).raiseCut gid s.tlc w { cause := 48, lo := h.toNat, hi := gen }
      else
        s.modGang gid fun g =>
          ({ g with replays := if g.replays.contains (w.rank, h) then g.replays else g.replays ++ [(w.rank, h)] }).modCore w.rank fun c =>
            { c with compl := c.compl.filter fun e => match e with | .arrive h' _ wa => !(h' == h && wa == w.waddr) | _ => true }

/-- A transfer count-down due on this cycle; a replayed handle applies none (R240). -/
def Gang.countUpd (g : Gang) (gid : Nat) (w : Who) (inb : Bool) (h : BitVec 64) (key : Nat) : Option GongUpd :=
  if g.replays.contains (w.rank, h) then none
  else
    let gc := ((g.coreAt w.rank).map (·.gcore)).getD 0
    some { key := key, ord := updOrd 2 gc w, kind := if inb then 1 else 2, n := 1, handle := h, gang := gid, who := some w }

/-! Gong instructions (R241 to R244) and launches (R247). -/

/-- The gong an address operand names (R239, R241, R242). -/
def Ctx.gongAt (x : Ctx) (sp v : Nat) : Except Trap Place :=
  if v / 2 ^ 31 ≠ 0 then .error { cause := 2 } else x.handle (packHandle 0 sp v) false

def planGongInit (sp : BitVec 3) (a b : Opnd) (x : Ctx) : Plan :=
  let reads := [a.xloc, b.xloc]
  let r := x.c.rd b
  if r = 0 then .bad reads 2
  else
    match x.gongAt sp.toNat (x.c.rd a) with
    | .error tr => ⟨reads, .error tr⟩
    | .ok p =>
      let at_ := x.t + p.lat x.g x.c
      let own := p.isOwn x.who.rank
      let ad := p.raw % 2 ^ 21
      ⟨reads, .ok { claims := if own then [(.cm ad 16, at_)] else []
                    acts := (at_, .gongInit (p.key x.s x.g x.c) (BitVec.ofNat 32 r)) ::
                      if own then bankActs at_ x.c.gcore true (linesOf ad 16) else x.peerBank p at_ true }⟩

def planGongHdl (cur : Bool) (sp : BitVec 3) (d a b : Opnd) (x : Ctx) : Plan :=
  let reads := if cur then [a.xloc] else [a.xloc, b.xloc]
  match x.gongAt sp.toNat (x.c.rd a) with
  | .error tr => ⟨reads, .error tr⟩
  | .ok p =>
    if !cur then x.xPlan reads d (packHandle (x.c.rd b % 16) sp.toNat p.raw) 1
    else
      let l := p.lat x.g x.c
      ⟨reads, .ok { claims := [x.cx d (2 * l)]
                    acts := (x.t + l, .gongHdl (BitVec.ofNat 64 (packHandle 0 sp.toNat p.raw)) (p.key x.s x.g x.c) d.start.toNat (x.t + 2 * l))
                      :: x.peerBank p (x.t + l) false }⟩

/-- GONG.HDL.cur on its reach cycle (R242). -/
def State.gongHdl (s : State) (gid : Nat) (w : Who) (h : BitVec 64) (key d land : Nat) : State :=
  match s.gongTrap key (s.keySpace gid (some w) key) with
  | some tr => s.raiseCut gid s.tlc w tr
  | none =>
  (s.gongFixed gid key).modGang gid fun g => { g with agenda := g.agenda ++ [⟨land, w, .wx d 64 (h.toNat + (s.gong key).gen * 2 ^ 60)⟩] }

def planGongArr (d a : Opnd) (n : BitVec 12) (x : Ctx) : Plan :=
  let h := x.c.rd a
  match x.handle h false with
  | .error tr => ⟨[a.xloc], .error tr⟩
  | .ok p =>
    if x.c.compl.length < 8 then
      ⟨[a.xloc], .ok { claims := [x.cx d 1], acts := x.wx d 1 1 :: x.registers h p
                       core := fun c => { c with compl := c.compl ++ [.arrive (BitVec.ofNat 64 h) n.toNat x.st.pc] } }⟩
    else x.xPlan [a.xloc] d 0 1

def planGongWait (a : Opnd) (x : Ctx) : Plan :=
  let h := x.c.rd a
  let nest : List Trap := if x.st.loops.isEmpty then [] else [{ cause := 16, lo := 3 }]
  match lowestTrap (nest ++ (match x.handle h false with | .error tr => [tr] | .ok _ => [])), x.handle h false with
  | none, .ok p => ⟨[a.xloc], .ok { flow := some fun s =>
      { s with pc := s.pc + 1, st := .wait (.gong (BitVec.ofNat 64 h) (p.lat x.g x.c)) x.who } }⟩
  | some tr, _ => ⟨[a.xloc], .error tr⟩
  | none, .error tr => ⟨[a.xloc], .error tr⟩

/-- Whether the condition of a GONG.WAIT issued on cycle t holds on this cycle (R244). -/
def State.gongWaitEnds (s : State) (key : Nat) (h : BitVec 64) (lat t : Nat) : Bool :=
  s.genAt key (s.tlc - lat) != h.toNat / 2 ^ 60 ||
  s.gongLog.any fun e => e.key == key && e.advance && decide (t ≤ e.cyc + lat) && decide (e.cyc + lat ≤ s.tlc)

/-- LSTEP and LGRAPH (R247). -/
def planLaunch (bad : Nat → Bool) (entry : Nat → Nat → Compl) (lead : Bool) (d a b : Opnd) (x : Ctx) : Plan :=
  let reads := [a.xloc, b.xloc]
  let q := x.c.rd b; let v := x.c.rd a
  if q ≥ 1024 ∨ bad v then .bad reads 2
  else if lead ∧ x.who.rank ≠ 0 then x.xPlan reads d 2 1
  else if x.c.compl.length < 8 then
    ⟨reads, .ok { claims := [x.cx d 1], acts := [x.wx d 1 1]
                  core := fun c => { c with compl := c.compl ++ [entry v q] } }⟩
  else x.xPlan reads d 0 1

def planLstep (lead : Bool) (d a b : Opnd) (x : Ctx) : Plan :=
  planLaunch (fun v => v % 256 != 0) (fun v q => .lstep v q x.st.pc) lead d a b x
def planLgraph (lead : Bool) (d a b : Opnd) (x : Ctx) : Plan :=
  planLaunch (fun v => v / 2 ^ 28 != 0) (fun v q => .lgraph v q x.st.pc) lead d a b x

/-! Atomics (R230 to R236). -/

/-- The format of a float atomic (R230, R233). -/
def atFmt (w : Nat) (bf : Bool) : Fmt := fmtOf (if w = 32 then 0 else if bf then 2 else 1)

/-- The new value of the word and the flags (R232, R233). -/
def AtOp.apply (op : AtOp) (flag : Bool) (w old b c : Nat) : Nat × Flags :=
  let x := ext flag old w; let y := ext flag b w
  let f := atFmt w flag
  match op with
  | .add => ((old + b) % 2 ^ w, 0)
  | .min => (low (if x ≤ y then x else y) w, 0)
  | .max => (low (if x ≤ y then y else x) w, 0)
  | .and => (old &&& b, 0)
  | .or => (old ||| b, 0)
  | .xor => (old ^^^ b, 0)
  | .swp => (b, 0)
  | .cas => (if old = c then b else old, 0)
  | .fmin => fminmaxV f false (f.val old) (f.val b)
  | .fmax => fminmaxV f true (f.val old) (f.val b)
  | .fadd => faddV f 0 (f.val old) (f.val b)

/-- The first wheel position of the issuer's window (R235). -/
def wheelFirst (gcore die : Nat) : Nat := if die = gcore / 32 then 3 * (gcore % 32) else 96 + 3 * (gcore / 32)

/-- Atomics: checks of R230, R231 and R235, then the reach and the result of R234. -/
def planAt (op : AtOp) (flag : Bool) (sp : BitVec 3) (d a b : Opnd) (c : Option Opnd) (x : Ctx) : Plan :=
  let reads := [a.xloc, b.xloc] ++ (c.toList.map Opnd.xloc)
  match placeOf sp.toNat (x.c.rd a) with
  | none => .bad reads 2
  | some p =>
    let n := b.width / 8
    let l := p.lat x.g x.c
    let r := x.t + l
    let die := p.die x.g x.c
    let first := wheelFirst x.c.gcore die
    let own := p.isOwn x.who.rank
    if !own ∧ !(decide (first ≤ r % 128) && decide (r % 128 ≤ first + 2)) then
      .bad reads 21 (packBits [(0, 7, r % 128), (8, 7, first), (15, 1, (die != x.c.gcore / 32).toNat)])
    else if !p.inRange x.s x.g n then ⟨reads, .error (p.rangeTrap 0)⟩
    else if p.raw % n ≠ 0 then .bad reads 36 (rangeLo p.space (p.raw : Int)) 6
    else
      let bank := if own then bankActs r x.c.gcore true (linesOf p.raw n)
        else [(r, Act.vbank die (fld p.raw 24 4) (vtBank (p.raw % 2 ^ 24)) .rmw true)]
      ⟨reads, .ok { claims := (if own then [(.cm p.raw n, r)] else []) ++ [x.cx d (2 * l)]
                    acts := (r, .atomic op flag (p.key x.s x.g x.c) b.width (x.c.rd b) ((c.map x.c.rd).getD 0) d.start.toNat (x.t + 2 * l)) :: bank }⟩

/-- An atomic on its reach cycle (R231, R232): the word is updated; the old value and the flags land later. -/
def State.atomic (s : State) (gid : Nat) (w : Who) (op : AtOp) (flag : Bool) (key wd b c d land : Nat) : State :=
  let r := s.fetch key (wd / 8)
  let (sp, addr) := s.keySpace gid (some w) key
  match lowestTrap ((s.opFlit gid w key).toList ++ (r.trap key (wd / 8) sp addr s.poison).toList) with
  | some tr => s.raiseCut gid s.tlc w tr
  | none =>
    let s := s.correctedAll (aget gid s.gangs) 0 r
    let old := leNat r.bytes
    let v := op.apply flag wd old b c
    (s.store key (leBytes (wd / 8) v.1)).modGang gid fun g =>
      { g with agenda := g.agenda ++ ((land, Act.wx d wd old) :: flagActs land v.2).map fun p => (⟨p.1, w, p.2⟩ : Timed) }

end Sys2Proof.Machine
end

