-- ==== Sys2Proof/Machine/Movement.lean ====
section
/-! DEFINITION. Timed copies, the affine sequencer and in-bank transforms of 08_movement_instructions (R201 to R212,
R226 to R229). -/
namespace Sys2Proof.Machine

/-! Paths (R204, R205). -/

/-- The path of a timed copy. -/
inductive Path where
  | loc | vert | lat | inter
  deriving DecidableEq, Repr

/-- A `vt:` address lies in a home vault of a core: on its die, v = 4 × row + column div 2 (R4, R205). -/
def isHome (gcore v : Nat) : Bool := v / 2 ^ 28 == gcore / 32 && fld v 24 4 == 4 * (gcore % 32 / 8) + gcore % 8 / 2

/-- The path between own core memory and a far place. -/
def Ctx.pathTo (x : Ctx) (p : Place) : Path :=
  match p with
  | .cm _ | .im _ | .hv _ => .loc
  | .pc r _ => if r = x.who.rank then .loc else if p.die x.g x.c = x.c.gcore / 32 then .lat else .inter
  | .vt v => if isHome x.c.gcore v then .vert else if p.die x.g x.c = x.c.gcore / 32 then .lat else .inter

/-- First reach, first landing and step of the lines (R205). -/
def Path.times (p : Path) (push : Bool) : Nat × Nat × Nat :=
  match p with
  | .loc => (1, 6, 1)
  | .vert => (1, 12, 1)
  | .lat => (if push then 1 else 20, 40, 8)
  | .inter => (if push then 1 else 48, 96, 8)

/-- The port of a path: its release now, and its release after a copy of n lines (R204). -/
def Ports.rel (q : Ports) : Path → Nat
  | .loc => q.loc | .vert => q.vert | .lat => q.net | .inter => q.net
def Ports.take (q : Ports) (p : Path) (t n extra : Nat) : Ports :=
  match p with
  | .loc => { q with loc := t + n + extra }
  | .vert => { q with vert := t + n }
  | .lat | .inter => { q with net := t + 8 * n }

/-- The side through which a core reaches a vault bank on a path (R294). -/
def vaultSide (gcore : Nat) (p : Path) : Side :=
  match p with
  | .vert => .vertical (gcore % 2 == 1)
  | .inter => .fabric (gcore / 32)
  | _ => .lateral (gcore % 32 / 8)

/-- The order in which sides are applied on one cycle (R295). -/
def Side.ord : Side → Nat
  | .vertical odd => odd.toNat
  | .lateral row => 2 + row
  | .fabric die => 6 + die
  | .rmw => 15

/-- A place moved by a signed number of bytes (R212); none below 0 or beyond its layout. -/
def Place.move (p : Place) (d : Int) : Option Place :=
  let m (a : Nat) (per : Int) : Option Nat := if 0 ≤ (a : Int) + d / per then some ((a : Int) + d / per).toNat else none
  match p with
  | .cm a => (m a 1).map .cm
  | .im a => (m a 8).map .im
  | .vt v => (m (v % 2 ^ 24) 1).bind fun o => if o < 2 ^ 24 then some (.vt (v / 2 ^ 24 * 2 ^ 24 + o)) else none
  | .pc r a => (m a 1).map (.pc r)
  | .hv va => (m va 1).map .hv

/-- The requests of one line of a place. -/
def Ctx.lineReq (x : Ctx) (p : Place) (path : Path) (t : Nat) (wr : Bool) : List (Nat × Act) :=
  match p with
  | .cm a => bankActs t x.c.gcore wr [a / 64]
  | .pc r a => match x.g.coreAt r with | some c => bankActs t c.gcore wr [a / 64] | none => []
  | .vt v => [(t, .vbank (v / 2 ^ 28) (fld v 24 4) (vtBank (v % 2 ^ 24)) (vaultSide x.c.gcore path) wr)]
  | _ => []

/-- What a landing line makes pending: on the own core, or as a delivery to a peer (R104, R106). -/
def Ctx.lineClaim (x : Ctx) (p : Place) (t : Nat) : List (Loc × Nat) × List (Nat × Loc × Nat) :=
  match p with
  | .cm a => ([(.cm a 64, t)], [])
  | .pc r a => if r = x.who.rank then ([(.cm a 64, t)], []) else ([], [(r, .cm a 64, t)])
  | _ => ([], [])

/-! Operands of FC instructions (R201 to R203). -/

/-- The first fault among some, by R108. -/
def firstTrap (l : List (Option Trap)) : Option Trap := lowestTrap (l.filterMap id)

def trapIf (b : Bool) (t : Trap) : Option Trap := if b then some t else none

/-- Timed alignment of a base (R202). -/
def Place.aligned (p : Place) (timed : Bool) (unit : Nat) : Bool :=
  match p with
  | .im a => a % 8 == 0
  | p => p.raw % (if timed then 64 else unit) == 0

/-- HD, where it supplies a handle (R203). -/
def Ctx.hdl (x : Ctx) (f : FcArgs) : Option (Nat × Except Trap Place) :=
  if f.hv then let h := x.c.rd f.hd; some (h, x.handle h true) else none

/-- The fault of a handle operand. -/
def hdlTrap (h : Option (Nat × Except Trap Place)) : Option Trap :=
  match h with
  | some (_, .error tr) => some tr
  | _ => none

/-- The registration and the count-downs of a timed copy (R203, R240); what of them falls on one cycle is one request of a peer's bank
(R234, log 29). DESIGN CHOICE (log 97): a count-down of a gong in the core's own memory is no pending write of the Clave. -/
def Ctx.hdlActs (x : Ctx) (f : FcArgs) (h : Option (Nat × Except Trap Place)) (lastReach lastLand : Nat) : List (Nat × Act) :=
  match h with
  | some (v, .ok p) =>
    let r := x.t + p.lat x.g x.c
    let key := p.key x.s x.g x.c
    let cd (on inb : Bool) (t : Nat) : List (Nat × Act) :=
      if on then [(if t < r then r else t, .count inb (BitVec.ofNat 64 v) key)] else []
    let cs := cd (f.mod.getLsbD 0) true lastLand ++ cd (f.mod.getLsbD 1) false lastReach
    x.registers v p ++ cs ++ (((cs.map (·.1)).filter (· != r)).eraseDups.map fun t => x.peerBank p t true).flatten
  | _ => []

/-- The locations an FC instruction reads at issue. -/
def fcReads (f : FcArgs) (ln : Bool) : List Loc :=
  [f.da.xloc, f.sa.xloc] ++ (if ln then [f.ln.xloc] else []) ++ (if f.hv then [f.hd.xloc] else [])

/-! Copies (R205 to R209, R212). -/

/-- The faults a timed copy between two places may meet at issue, but for its lines' range. -/
def Ctx.copyTraps (x : Ctx) (d : Place) (path : Path) (h : Option (Nat × Except Trap Place)) : List (Option Trap) :=
  [hdlTrap h,
   trapIf (decide (x.t < x.c.ports.rel path)) (busyTrap x.g.dbt (x.c.ports.rel path)),
   trapIf ((path == .lat || path == .inter) && (x.t - x.g.dbt) % 8 != x.c.gcore % 8) { cause := 16, lo := 6 },
   trapIf (d.space == 1 && !decide (x.g.tob.flags / 4 % 2 = 1)) (d.rangeTrap 3)]

/-- The changes of the issuing core for a copy: port, and the plane marks for `im:` (R204, R209). -/
def Ctx.copyEff (x : Ctx) (d : Place) (path : Path) (n extra lastLand : Nat) (claims : List (Loc × Nat))
    (deliver : List (Nat × Loc × Nat)) (acts : List (Nat × Act)) : Eff :=
  let im := d.space == 1
  { claims := claims, deliver := deliver, acts := acts
    core := fun c => { c with ports := { c.ports.take path x.t n extra with
      imBusy := if im && decide (c.ports.imBusy ≤ lastLand) then lastLand + 1 else c.ports.imBusy } }
    dev := fun s => if im then s.setInfo x.c.gcore { s.info x.c.gcore with valid := false } else s }

/-- A MOVE of lines given by their byte offsets (R205, R206). -/
def Ctx.movePlan (x : Ctx) (f : FcArgs) (reads : List Loc) (d s : Place) (offs : List (Int × Int)) (pre : List (Option Trap)) : Plan :=
  let far := if s.isOwn x.who.rank then d else s
  let path := x.pathTo far
  let (r0, l0, st) := path.times (s.isOwn x.who.rank)
  let n := offs.length
  let h := x.hdl f
  let lines := (List.range n).zip (offs.map fun o => (d.move o.1, s.move o.2))
  let badLine := lines.findSome? fun q =>
    match q.2.2, q.2.1 with
    | none, _ => some (s.rangeTrap 0)
    | some b, none => if !b.inRange x.s x.g 64 then some (b.rangeTrap 0) else some (d.rangeTrap 0)
    | some b, some a => if !b.inRange x.s x.g 64 then some (b.rangeTrap 0) else if !a.inRange x.s x.g 64 then some (a.rangeTrap 0) else none
  match firstTrap (pre ++ x.copyTraps d path h ++ [badLine]) with
  | some tr => ⟨reads, .error tr⟩
  | none =>
    let ls := lines.filterMap fun q => match q.2 with | (some a, some b) => some (q.1, a, b) | _ => none
    let acts := (ls.map fun (k, a, b) =>
      let r := x.t + r0 + st * k; let l := x.t + l0 + st * k
      (r, Act.lineCopy (b.key x.s x.g x.c) (a.key x.s x.g x.c) l) :: (x.lineReq b path r false ++ x.lineReq a path l true)).foldr (· ++ ·) []
    let cl := ls.map fun (k, a, _) => x.lineClaim a (x.t + l0 + st * k)
    let lastReach := x.t + r0 + st * (n - 1); let lastLand := x.t + l0 + st * (n - 1)
    ⟨reads, .ok (x.copyEff d path n 0 lastLand (cl.map (·.1)).flatten (cl.map (·.2)).flatten
      (acts ++ x.hdlActs f h lastReach lastLand))⟩

/-- Whether two byte ranges meet (R208). -/
def meet (a n b m : Nat) : Bool := decide (a < b + m) && decide (b < a + n)

/-- A converting COPY (R207, R208): own core memory to own core memory. -/
def Ctx.convPlan (x : Ctx) (f : FcArgs) (reads : List Loc) (da sa n : Nat) : Plan :=
  let var := f.var.toNat
  let es := 2 ^ f.es
  let lw := 64 / es
  let src := match var with | 1 => 32 * n | 2 => 128 * n | 3 => 16 * n | _ => 64 * n
  let h := x.hdl f
  let bad := (var == 3 && n % 4 != 0) || (var == 4 && n % lw != 0)
  match firstTrap ([trapIf bad { cause := 2, inCont := true }] ++ x.copyTraps (.cm da) .loc h ++
      [trapIf (!x.g.inCarve sa src) ((Place.cm sa).rangeTrap 0), trapIf (!x.g.inCarve da (64 * n)) ((Place.cm da).rangeTrap 0),
       trapIf (meet da (64 * n) sa src) { cause := 35, lo := sa, hi := da }]) with
  | some tr => ⟨reads, .error tr⟩
  | none =>
    let extra := if var = 4 then lw else 0
    let land (k : Nat) := x.t + 6 + extra + k
    let key (a : Nat) := cmKey x.c.gcore a
    let one (off srcOff len k m : Nat) : List (Nat × Act) :=
      (x.t + off, Act.conv var f.fmts f.fmtd f.rnd (key (sa + srcOff)) (key (da + 64 * k)) m (land k)) ::
        bankActs (x.t + off) x.c.gcore false (linesOf (sa + srcOff) len)
    let rd := match var with
      | 1 => (List.range ((n + 1) / 2)).map fun j => one (1 + 2 * j) (64 * j) 64 (2 * j) (if n < 2 * j + 2 then 1 else 2)
      | 2 => (List.range n).map fun k => one (1 + k) (128 * k) 128 k 1
      | 3 => (List.range (n / 4)).map fun j => one (1 + 4 * j) (64 * j) 64 (4 * j) 4
      | _ => (List.range n).map fun k =>
          (x.t + 1 + k, Act.trnRead (key (sa + 64 * k)) k) :: (land k, Act.trnLand (key (da + 64 * k)) es k) ::
            bankActs (x.t + 1 + k) x.c.gcore false [(sa + 64 * k) / 64]
    let wr := (List.range n).map fun k => bankActs (land k) x.c.gcore true [(da + 64 * k) / 64]
    let lastReach := match var with
      | 1 => x.t + 1 + 2 * ((n + 1) / 2 - 1) | 3 => x.t + 1 + 4 * (n / 4 - 1) | _ => x.t + n
    ⟨reads, .ok (x.copyEff (.cm da) .loc n extra (land (n - 1))
      ((List.range n).map fun k => (.cm (da + 64 * k) 64, land k)) [] (rd.flatten ++ wr.flatten ++ x.hdlActs f h lastReach (land (n - 1))))⟩

/-- COPY (R207). -/
def planCopy (f : FcArgs) (x : Ctx) : Plan :=
  let reads := fcReads f true
  let n := x.c.rd f.ln
  match placeOf f.dsp.toNat (x.c.rd f.da), placeOf f.ssp.toNat (x.c.rd f.sa) with
  | some d, some s =>
    if !d.aligned true 64 || !s.aligned true 64 then .bad reads 2
    else if n = 0 ∨ n > 32768 then .bad reads 2 (inCont := true)
    else if f.var = 0 then
      x.movePlan f reads d s ((List.range n).map fun k => (((64 * k : Nat) : Int), ((64 * k : Nat) : Int))) []
    else x.convPlan f reads d.raw s.raw n
  | _, _ => .bad reads 2

/-! The sequencer (R210 to R212). -/

/-- The bytes of a slot (R210): zeros until one lands. -/
def Core.slot (c : Core) (i : Nat) : List Byte := (aget i c.slots).getD (List.replicate 64 0)

/-- Field of some bytes, little-endian. -/
def bfld (bs : List Byte) (at_ n : Nat) : Nat := leNat ((bs.drop at_).take n)

/-- The affine levels of a slot (R211): counts and strides; none where the slot breaks its layout. `unit` is what
destination strides must be a multiple of, `per` the bytes one of its units names. -/
def affineOf (bs : List Byte) (unit per : Int) : Option (List (Nat × Int × Int)) :=
  let k := bfld bs 0 1
  if k = 0 ∨ k > 6 then none
  else
    let ls := (List.range k).map fun l =>
      (bfld bs (4 + 10 * l) 2 + 1, sext (bfld bs (6 + 10 * l) 4) 32, sext (bfld bs (10 + 10 * l) 4) 32)
    let clean := bfld bs 1 3 == 0 && ((bs.drop (4 + 10 * k)).all fun b => b == 0)
    if clean && (ls.all fun l => l.2.1 % 64 == 0 && l.2.2 % unit == 0) && decide ((ls.foldl (fun n l => n * l.1) 1) ≤ 2 ^ 20) then
      some (ls.map fun l => (l.1, l.2.1, l.2.2 * per)) else none

/-- The offsets of line k, destination and source (R212): level 0 varies fastest. -/
def affineLine : List (Nat × Int × Int) → Nat → Int × Int
  | [], _ => (0, 0)
  | (c, ss, ds) :: r, k =>
    let q := affineLine r (k / c)
    (q.1 + (k % c : Nat) * ds, q.2 + (k % c : Nat) * ss)

/-- Whether a SEQCFG reads its descriptor at an address (R210). -/
def Gang.seqOk (g : Gang) (ad : Nat) : Bool := ad % 64 == 0 && g.inCarve ad 64

/-- The core's other stream issues a SEQCFG on the slot on this very cycle. -/
def Ctx.slotAhead (x : Ctx) (i : Nat) : Bool :=
  x.g.streams.any fun p => p.1 == x.who.rank && p.2.id != x.who.strm && x.s.isDue x.g p.1 p.2 &&
    match x.s.wordAt x.g p.1 p.2.id p.2.pc with
    | none => false
    | some r => match decode p.2.id r.word none with
      | .ok (.seqcfg slot off a) => slot.toNat == i && x.g.seqOk (x.c.rd a + 64 * off.toNat)
      | _ => false

/-- A slot whose SEQCFG has not landed (R210). -/
def Ctx.slotTrap (x : Ctx) (i : Nat) : Option Trap :=
  let wait (t : Nat) : Option Trap := trapIf (decide (x.t < t)) { cause := 16, lo := 6, due := t - x.g.dbt }
  if x.slotAhead i then wait (x.t + 4) else (aget i x.c.slotAt).bind wait

/-- COPYA (R212). DESIGN CHOICE (log 84): the contents of a slot whose SEQCFG is pending are not judged by R211; the trap is cause 16, or a
lower one of the other operands (R108). -/
def planCopya (f : FcArgs) (x : Ctx) : Plan :=
  let reads := fcReads f false
  let i := f.aux.toNat % 8
  match placeOf f.dsp.toNat (x.c.rd f.da), placeOf f.ssp.toNat (x.c.rd f.sa) with
  | some d, some s =>
    if !d.aligned true 64 || !s.aligned true 64 then .bad reads 2
    else
      match x.slotTrap i, (if d.space = 1 then affineOf (x.c.slot i) 8 8 else affineOf (x.c.slot i) 64 1) with
      | some tr, _ => x.movePlan f reads d s [] [some tr]
      | none, none => .bad reads 2
      | none, some ls => x.movePlan f reads d s ((List.range (ls.foldl (fun n l => n * l.1) 1)).map (affineLine ls)) []
  | _, _ => .bad reads 2

/-- SEQCFG (R210). -/
def planSeqcfg (slot : BitVec 3) (off : BitVec 15) (a : Opnd) (x : Ctx) : Plan :=
  let ad := x.c.rd a + 64 * off.toNat
  if ad % 64 ≠ 0 then .bad [a.xloc] 2
  else if !x.g.seqOk ad then .bad [a.xloc] 33 (rangeLo 0 (ad : Int))
  else
    ⟨[a.xloc], .ok { acts := (x.t + 1, .slotRead slot.toNat ad) :: bankActs (x.t + 1) x.c.gcore false [ad / 64]
                     core := fun c => { c with slotAt := aset slot.toNat (x.t + 4) c.slotAt } }⟩

/-! Transforms (R226 to R228). -/

/-- A `par` the operation accepts (R226). -/
def xformPar (var par : Nat) : Bool :=
  match var with
  | 0 | 1 => true
  | 5 => par / 2 ^ 32 == 0 && fld par 21 3 == 0
  | _ => par == 0

/-- What XFORM and XFORMV share: the checks of R201, R202 and R226 that cause 2 covers. -/
def Ctx.xformBad (x : Ctx) (f : FcArgs) (lim : Nat) : Option Trap :=
  let n := x.c.rd f.ln
  match placeOf f.dsp.toNat (x.c.rd f.da) with
  | none => some { cause := 2 }
  | some d =>
    if !d.aligned true 64 || !xformPar f.var.toNat (x.c.rd f.sa) then some { cause := 2 }
    else if n = 0 || n > lim then some { cause := 2, inCont := true }
    else trapIf (decide (x.t < x.c.ports.xf)) (busyTrap x.g.dbt x.c.ports.xf)

def Ctx.xformAct (x : Ctx) (f : FcArgs) (t key : Nat) : Nat × Act :=
  (t, .xformLine f.var.toNat (f.mod.getLsbD 3) f.fmts (BitVec.ofNat 64 (x.c.rd f.sa)) key)

/-- XFORM (R226, R227). -/
def planXform (f : FcArgs) (x : Ctx) : Plan :=
  let reads := fcReads f true
  let n := x.c.rd f.ln; let a := x.c.rd f.da
  match x.xformBad f 32768 with
  | some tr => ⟨reads, .error tr⟩
  | none =>
    if !x.g.inCarve a (64 * n) then .bad reads 33 (rangeLo 0 (a : Int))
    else
      let ks := List.range n
      ⟨reads, .ok { claims := ks.map fun k => (.cm (a + 64 * k) 64, x.t + 3 + k)
                    acts := (ks.map fun k => x.xformAct f (x.t + 3 + k) (cmKey x.c.gcore (a + 64 * k)) ::
                      bankActs (x.t + 3 + k) x.c.gcore true [a / 64 + k]).flatten
                    core := fun c => { c with ports := { c.ports with xf := x.t + n } } }⟩

/-- The k-th cycle from `from_` on among the four wheel cycles that start at position `pos` (R228). -/
def wheelCycle (from_ pos k : Nat) : Nat :=
  let q := from_ % 128
  let turn := if q ≤ pos + 3 then from_ - q else from_ - q + 128
  let i := if pos < q && q ≤ pos + 3 then q - pos else 0
  turn + 128 * ((k + i) / 4) + pos + (k + i) % 4

/-- XFORMV (R228). -/
def planXformv (f : FcArgs) (x : Ctx) : Plan :=
  let reads := fcReads f true
  let n := x.c.rd f.ln; let v := x.c.rd f.da
  match x.xformBad f 4096 with
  | some tr => ⟨reads, .error tr⟩
  | none =>
    if !isHome x.c.gcore v then ⟨reads, .error ((Place.vt v).rangeTrap 4)⟩
    else if !(Place.vt v).inRange x.s x.g (64 * n) then ⟨reads, .error ((Place.vt v).rangeTrap 0)⟩
    else
      let at_ (k : Nat) := wheelCycle (x.t + 3) (if x.c.gcore % 2 = 0 then 120 else 124) k
      ⟨reads, .ok { acts := ((List.range n).map fun k =>
                      [x.xformAct f (at_ k) (vtKey (v + 64 * k)),
                       (at_ k, .vbank (v / 2 ^ 28) (fld v 24 4) (vtBank ((v + 64 * k) % 2 ^ 24)) .rmw true)]).flatten
                    core := fun c => { c with ports := { c.ports with xf := at_ (n - 1) + 1 } } }⟩

/-- XSTAT (R229): the tag's state is taken once the cycle's other words have issued. -/
def planXstat (d a : Opnd) (x : Ctx) : Plan :=
  let n := x.c.rd a
  if n > 15 then .bad [a.xloc] 2
  else ⟨[a.xloc], .ok { claims := [x.cx d 1], acts := [(x.t, .readTag n d.start.toNat d.width)] }⟩

/-- What XSTAT reads of a tag (R229). -/
def Core.tagStat (c : Core) (n : Nat) : Nat :=
  let st := (aget n c.tags).getD ⟨false, 0⟩
  packBits [(31, 1, st.drop.toNat), (0, 24, st.items)]

/-! What copies and transforms do on their cycles. -/

def State.addAgenda (s : State) (gid : Nat) (l : List Timed) : State := s.modGang gid fun g => { g with agenda := g.agenda ++ l }

/-- Whether a key lies in the issuing core's own memory. -/
def ownKey (gcore k : Nat) : Bool := storeOf k == some .core && (k - 2 ^ 49) / 2 ^ 21 == gcore

/-- The core that issued a word. -/
def State.coreOf (s : State) (gid : Nat) (w : Who) : Option Core := (aget gid s.gangs).bind (·.coreAt w.rank)

/-- A ring delivery still to land on bytes that another gang core reads (R257). -/
def Gang.ringEarly (g : Gang) (t key n : Nat) : Option Hazard :=
  (g.cores.find? fun c => ownKey c.gcore key).bind fun c =>
    hazardOf t true (c.claims.filter fun k => k.who.strm.isMem) (.cm ((key - 2 ^ 49) % 2 ^ 21) n)

/-- A source read on its reach cycle: under R104 where it reads own core memory, under R257 where it reads a peer's. -/
def State.srcRead (s : State) (gid : Nat) (w : Who) (key n : Nat) : State × Bool :=
  match aget gid s.gangs, s.coreOf gid w with
  | some g, some c =>
    if ownKey c.gcore key then s.lateRead gid w.rank w ((key - 2 ^ 49) % 2 ^ 21) n
    else match g.ringEarly s.tlc key n with
      | some h => (s.raiseCut gid s.tlc w (missTrap g.dbt h), false)
      | none => (s, true)
  | _, _ => (s, false)

/-- A read that decodes: poison and uncorrectable data trap on this cycle (R206, R386, R387). -/
def State.srcDecode (s : State) (gid : Nat) (w : Who) (key n : Nat) : State × Option Read :=
  match s.srcRead gid w key n with
  | (s, false) => (s, none)
  | (s, true) =>
    let r := s.fetch key n
    let (sp, ad) := s.keySpace gid (some w) key
    match r.trap key n sp ad s.poison with
    | some tr => (s.raiseCut gid s.tlc w tr, none)
    | none => (s.correctedAll (aget gid s.gangs) 0 r, some r)

/-- One beat of a MOVE: what it delivers, poisoned where it cannot be corrected (R206, R386). -/
def State.moveBeat (s : State) (gid : Nat) (w : Who) (src dst land : Nat) : State :=
  let r := s.fetch src 32
  let s := (s.correctedAll (aget gid s.gangs) 0 r).movedBad (aget gid s.gangs) 0 r (some dst)
  s.addAgenda gid [⟨land, w, .mem dst r.bytes (r.psn || r.bad.isSome)⟩]

/-- A flit of the line is uncorrectable (R385): the data it carries arrive poisoned, with a record of cause 83. -/
def State.lineFlit (s : State) (gid src dst : Nat) : State × Bool :=
  match s.badFlit (keyStack src) (keyStack dst) with
  | some k =>
    let r : ErrRec := { cause := 83, key := k, outcome := 1, synd := 0xFF }
    let s := s.errRecord (match aget gid s.gangs with | some g => r.ofGang g | none => r)
    let u := mcUnit 83 k
    ({ s with err := { s.err with origins := aset (dst / 32) u (aset (dst / 32 + 1) u s.err.origins) } }, true)
  | none => (s, false)

/-- A line of a MOVE on its reach cycle (R205, R206). -/
def State.lineCopy (s : State) (gid : Nat) (w : Who) (src dst land : Nat) : State :=
  match s.srcRead gid w src 64 with
  | (s, false) => s
  | (s, true) =>
    let (s, bad) := s.lineFlit gid src dst
    if bad then
      s.addAgenda gid [⟨land, w, .mem dst (s.mem.bytes src 32) true⟩, ⟨land, w, .mem (dst + 32) (s.mem.bytes (src + 32) 32) true⟩]
    else (s.moveBeat gid w src dst land).moveBeat gid w (src + 32) (dst + 32) land

/-- Elements of some bytes, n bytes each. -/
def elemsOf (n : Nat) (bs : List Byte) : List Nat := (List.range (bs.length / n)).map fun i => leNat ((bs.drop (n * i)).take n)

/-- One element through `.wid` or `.nar` (R64, R207). -/
def convElem (fmts fmtd : Nat) (rnd : BitVec 2) (v : Nat) : Nat × Flags :=
  if fmts ≤ 2 then fcvtV (fmtOf fmtd) rnd ((fmtOf fmts).val v)
  else
    let e := ext (intSigned fmts) v (fmtBits fmts)
    let r := sat e (fmtBits fmtd) (intSigned fmtd)
    (low r (fmtBits fmtd), 0)

/-- The 256-byte record of a described block (R207). -/
def expandBlock (b fmtd : Nat) : List Byte :=
  let n := count (blkMw b)
  let ms := (List.range n).map fun i => if blkKind b = 2 then (0 : Int) else blkMant b (fmtd == 3) i
  ms.map (fun m => BitVec.ofInt 8 m) ++ List.replicate (253 - n) 0 ++
    [BitVec.ofNat 8 (blkKind b), BitVec.ofNat 8 (blkMw b), BitVec.ofNat 8 (blkScale b)]

/-- Lines of 64 bytes. -/
def lines64 (bs : List Byte) : List (List Byte) := (List.range (bs.length / 64)).map fun i => (bs.drop (64 * i)).take 64

/-- A converting source read (R207): m destination lines land from `land` on. -/
def State.conv (s : State) (gid : Nat) (w : Who) (var fmts fmtd : Nat) (rnd : BitVec 2) (src dst m land : Nat) : State :=
  let len := match var with | 1 => 32 * m | 2 => 128 | _ => 64
  match s.srcDecode gid w src len with
  | (s, none) => s
  | (s, some r) =>
    let put (s : State) (bs : List Byte) (fl : List Flags) : State :=
      s.addAgenda gid (((List.range m).map fun i =>
        (⟨land + i, w, .mem (dst + 64 * i) ((bs.drop (64 * i)).take 64) false⟩ : Timed) ::
          ((flagActs (land + i) ((fl[i]?).getD 0)).map fun p => (⟨p.1, w, p.2⟩ : Timed))).flatten)
    if var = 3 then
      let b := leNat r.bytes
      match blkBad b with
      | some why => s.raiseCut gid s.tlc w (blkTrap why b 0 (s.keySpace gid (some w) src).2)
      | none => put s (expandBlock b fmtd) (List.replicate m (flagIf (blkFM b) flagFM))
    else
      let es := (elemsOf (fmtBits fmts / 8) r.bytes).map (convElem fmts fmtd rnd)
      let per := 512 / fmtBits fmtd
      put s (es.map fun e => leBytes (fmtBits fmtd / 8) e.1).flatten
        ((List.range m).map fun i => flagsOf (((es.drop (per * i)).take per).map (·.2)))

/-- A transposing copy reads line k (R208). -/
def State.trnRead (s : State) (gid : Nat) (w : Who) (src k : Nat) : State :=
  match s.srcDecode gid w src 64 with
  | (s, none) => s
  | (s, some r) => s.addStash gid [.line w k r.bytes false]

/-- The bytes of line k of a transposing copy (R208). -/
def Gang.trnLine (g : Gang) (w : Who) (es k : Nat) : List Byte :=
  let lw := 64 / es
  let line (j : Nat) : List Byte := (g.stash.findSome? fun q => match q with
    | .line w' j' bs _ => if w' == w && j' == j then some bs else none
    | _ => none).getD []
  ((List.range lw).map fun j => ((line (k / lw * lw + j)).drop (es * (k % lw))).take es).flatten

/-- After the last line of a square its source lines are not needed any more. -/
def State.trnDone (s : State) (gid : Nat) (w : Who) (es k : Nat) : State :=
  let lw := 64 / es
  if k % lw ≠ lw - 1 then s
  else s.modGang gid fun g => { g with stash := g.stash.filter fun q => match q with
    | .line w' j' _ _ => !(w' == w && j' / lw == k / lw)
    | _ => true }

/-- A SEQCFG reads its descriptor (R210) and the slot takes it three cycles later. -/
def State.slotRead (s : State) (gid : Nat) (w : Who) (slot addr : Nat) : State :=
  match s.coreOf gid w with
  | none => s
  | some c =>
    match s.srcDecode gid w (cmKey c.gcore addr) 64 with
    | (s, none) => s
    | (s, some r) => s.addAgenda gid [⟨s.tlc + 3, w, .slotLand slot r.bytes⟩]

/-- One line through an in-bank operation (R226). -/
def xformBytes (var : Nat) (sg : Bool) (fmt : Nat) (par : Nat) (old : List Byte) : List Byte × Flags :=
  let byte (i : Nat) : Nat := ((old[i]?).getD 0).toNat
  let out (f : Nat → Nat) : List Byte := (List.range 64).map fun i => BitVec.ofNat 8 (f i)
  match var with
  | 0 => ((List.replicate 8 (leBytes 8 par)).flatten, 0)
  | 1 =>
    let w := fmtBits fmt
    let rs := (elemsOf (w / 8) old).map fun e =>
      if fmt = 0 then faddV (fmtOf 0) 0 ((fmtOf 0).val e) ((fmtOf 0).val (par % 2 ^ 32))
      else (low (sat (sext e w + sext par w) w true) w, (0 : Flags))
    ((rs.map fun r => leBytes (w / 8) r.1).flatten, flagsOf (rs.map (·.2)))
  | 2 => (out fun i => byte (8 * (i % 8) + i / 8), 0)
  | 3 => (out fun i => if i < 32 then byte (2 * i) % 16 + 16 * (byte (2 * i + 1) % 16) else 0, 0)
  | 4 => (out fun j => low (ext sg (byte (j / 2) / 16 ^ (j % 2)) 4) 8, 0)
  | _ =>
    let rs := (List.range 64).map fun i =>
      let v := roundNE ⟨ext sg (byte i) 8 * sext par 16, -((fld par 16 5 : Nat) : Int)⟩ + sext (fld par 24 8) 8
      let r := sat v 8 sg
      (BitVec.ofNat 8 (low r 8), flagIf (decide (r ≠ v)) flagQS)
    (rs.map (·.1), flagsOf (rs.map (·.2)))

/-- A transform reaches a line (R227, R228). -/
def State.xformLine (s : State) (gid : Nat) (w : Who) (var : Nat) (sg : Bool) (fmt : Nat) (par : BitVec 64) (key : Nat) : State :=
  match s.srcDecode gid w key 64 with
  | (s, none) => s
  | (s, some r) =>
    let v := xformBytes var sg fmt par.toNat r.bytes
    (s.store key v.1).modCore gid w.rank fun c => { c with flags := flagsAfter c.flags 0 v.2 }

end Sys2Proof.Machine
end

