-- ==== Sys2Proof/Machine/Untimed.lean ====
section
/-! DEFINITION. The untimed path of 08_movement_instructions (R213 to R225): requests, their beats and their completion; the
translation of R302 to R307 and the peer aperture of R414; the row cache's pins (R220). -/
namespace Sys2Proof.Machine

/-! Physical addresses (R300, R302, R414). -/

/-- Bytes of a pseudo-channel, and where a physical address lies in it (R302). -/
def pchBytes : Nat := 768 * 2 ^ 20
def paPch (k : Nat) : Nat := k / pchBytes
def paRow (k : Nat) : Nat := k % pchBytes / 16384
def paBank (k : Nat) : Nat := fld (k % pchBytes) 10 4
def paCol (k : Nat) : Nat := fld (k % pchBytes) 5 5

/-- The bus address behind the peer aperture, where the window forwards it (R414). -/
def State.peerBus (s : State) (pa : Nat) : Option Nat :=
  let off := (pa - 2 ^ 47) % 2 ^ 43
  match aget ((pa - 2 ^ 47) / 2 ^ 43) s.host.pwin with
  | some w => if w.getLsbD 0 && decide (off < fld w.toNat 12 21 * 4096) then some (fld w.toNat 76 52 * 4096 + off) else none
  | none => none

/-- The reason a physical address cannot be reached by an untimed access (R300, R302, R414). -/
def State.paBad (s : State) (pa : Nat) : Option Nat :=
  if pa < 0x6000000000 then (if (s.pch (paPch pa)).mode = .pooled then none else some 5)
  else if pa < 2 ^ 47 then some 0
  else if pa < 2 ^ 48 then (match s.peerBus pa with | some _ => none | none => some 0)
  else none

/-- Bytes at a key on the untimed path; the aperture reads the bus, and a read that ends with an error status, which is the bus's
business, is a poisoned beat (R414). -/
def State.physRead (s : State) (k n : Nat) : Read :=
  if 2 ^ 47 ≤ k ∧ k < 2 ^ 48 then
    match s.peerBus k with
    | some b => { bytes := s.host.bus.bytes b n, psn := n != 0 && Config.peerReadFails s.tlc (b / 32) }
    | none => { bytes := List.replicate n 0 }
  else s.fetch k n

/-- A write on the untimed path. -/
def State.physWrite (s : State) (k : Nat) (bs : List Byte) (psn : Bool) : State :=
  if 2 ^ 47 ≤ k ∧ k < 2 ^ 48 then
    match s.peerBus k with
    | some b => { s with host := { s.host with bus := s.host.bus.put b bs } }
    | none => s
  else s.store k bs psn

/-! Pooled traffic (R301). -/

/-- A pooled request's entry for the row and direction of a beat. -/
def PoolReq.is (q : PoolReq) (own : Option Nat) (lead : Bool) (k : Nat) (wr : Bool) : Bool :=
  q.req == own && q.lead == lead && q.row == paRow k && q.bank == paBank k && q.wr == wr

/-- A beat waits at its pooled controller, with others of the request in its row that wait yet. -/
def Pch.poolPut (p : Pch) (own : Option Nat) (lead : Bool) (k : Nat) (wr : Bool) : Pch :=
  if p.pool.any fun q => q.is own lead k wr && q.start.isNone then
    { p with pool := p.pool.map fun q => if q.is own lead k wr && q.start.isNone then { q with cols := insertNat (paCol k) q.cols } else q }
  else { p with pool := p.pool ++ [⟨own, lead, paRow k, paBank k, [paCol k], wr, none⟩] }
def State.poolBeat (s : State) (own : Option Nat) (lead : Bool) (k : Nat) (wr : Bool) : State :=
  if storeOf k == some .hbm then s.modPch (paPch k) fun p => p.poolPut own lead k wr else s

/-- Bytes read or written at once by an agent that does not wait for the controller (log 89): their beats take slots and columns. -/
def State.poolSpan (s : State) (own : Option Nat) (k n : Nat) (wr : Bool) : State :=
  if n = 0 then s
  else (List.range ((k + n - 1) / 32 + 1 - k / 32)).foldl (fun (s : State) i => s.poolBeat own true (32 * (k / 32 + i)) wr) s

/-- Every beat of the entry has had its column. -/
def PoolReq.over (q : PoolReq) (t : Nat) : Bool := match q.start with
  | none => false
  | some u => decide (u + 2 * (q.cols.length - 1) ≤ t)

/-- A request whose translations, descriptors and lists have not all had their slots: its beats wait for them. -/
def State.leadWaits (s : State) (id : Nat) : Bool := s.pchs.any fun p => p.2.pool.any fun q => q.req == some id && q.lead && !q.over s.tlc

/-! Translation (R304 to R307). -/

def State.modReq (s : State) (id : Nat) (f : Req → Req) : State :=
  { s with gangs := s.gangs.map fun p => (p.1, { p.2 with reqs := p.2.reqs.map fun r => if r.id == id then f r else r }) }

/-- A request translates a page (R415). -/
def State.notePage (s : State) (own : Option Nat) (page : Nat) : State :=
  match own with
  | some id => s.modReq id fun r => if r.pages.contains page then r else { r with pages := r.pages ++ [page] }
  | none => s

/-- Index bits, and the size a leaf of a level maps without RUN (R304). -/
def levelIndex (lvl va : Nat) : Nat :=
  match lvl with
  | 0 => fld va 43 11 | 1 => fld va 34 9 | 2 => fld va 25 9 | 3 => fld va 16 9 | _ => fld va 12 4
def levelUnit : Nat → Nat
  | 0 => 2 ^ 43 | 1 => 2 ^ 34 | 2 => 2 ^ 25 | 3 => 2 ^ 16 | _ => 2 ^ 12
def tableSize : Nat → Nat
  | 0 => 2 ^ 14 | 4 => 128 | _ => 2 ^ 12

/-- Causes 32 and 33 at a virtual address (R287, R306); `key` is 1 for a pager-owned future. -/
def pageTrap (cause va reason : Nat) (future : Bool) : Trap :=
  { cause := cause, lo := rangeLo 4 (va : Int), hi := reason, key := future.toNat }

/-- A table entry read by a walk (R274, R300, R302, R306): pooled traffic, or through a peer window; the fault where its address cannot
be reached. -/
def State.tableRead (s : State) (va k : Nat) : Except Trap Read :=
  match s.paBad k with
  | some why => .error (pageTrap 33 va why false)
  | none => .ok (s.physRead k 8)

/-- The walk of R306: the physical address and the rights of the entry. -/
def State.walk (s : State) (va : Nat) : Nat → Nat → Nat → Except Trap (Nat × Bool × Bool)
  | 0, _, _ => .error (pageTrap 33 va 1 false)
  | fuel + 1, lvl, tab =>
    let ix := levelIndex lvl va
    let k := tab + 8 * ix
    match s.tableRead va k with
    | .error tr => .error tr
    | .ok r =>
    match r.trap k 8 4 va s.poison with
    | some tr => .error tr
    | none =>
      let e := leNat r.bytes
      let leaf := e.testBit 1; let run := e.testBit 6
      let unit := levelUnit lvl
      let addr := fld e 7 41 * 128
      if !e.testBit 0 then .error (pageTrap 32 va 0 (e.testBit 5))
      else if fld e 48 16 ≠ 0 ∨ e.testBit 4 ∨ (leaf ∧ lvl = 0) ∨ (!leaf ∧ lvl = 4) ∨ (run ∧ !(leaf ∧ (lvl = 2 ∨ lvl = 3)))
          ∨ addr % (if leaf then unit else tableSize (lvl + 1)) ≠ 0
          ∨ (run ∧ addr % (32 * unit) ≠ ix % 32 * unit) then .error (pageTrap 33 va 1 false)
      else if leaf then .ok (addr + va % unit, e.testBit 2, e.testBit 3)
      else s.walk va fuel (lvl + 1) addr

/-- The table entries that a walk reads, as far as it goes (R306). -/
def State.walkKeys (s : State) (va : Nat) : Nat → Nat → Nat → List Nat
  | 0, _, _ => []
  | fuel + 1, lvl, tab =>
    let k := tab + 8 * levelIndex lvl va
    match s.tableRead va k with
    | .error _ => []
    | .ok r =>
    let e := leNat r.bytes
    k :: if r.psn || r.bad.isSome || !e.testBit 0 || e.testBit 1 then [] else s.walkKeys va fuel (lvl + 1) (fld e 7 41 * 128)

/-- The reads of a walk are pooled traffic (R303), and their corrections are recorded. -/
def State.walkNote (s : State) (own : Option Nat) (keys : List Nat) : State :=
  keys.foldl (fun (s : State) k => (s.poolSpan own k 8 false).correctedAll none 0 (s.physRead k 8)) s

/-- The page of the Belfry's pool that the pool window maps at a virtual address, in the space of every job (R368). DESIGN CHOICE (log 67):
the mapping is not held in the tables of the roots. -/
def State.poolPage (s : State) (va : Nat) : Option Nat :=
  s.belfry.pool.bind fun p =>
    if s.belfry.window ≤ va ∧ va < s.belfry.window + (p.2 - 4 * 2 ^ 20) then some ((p.1 + 4 * 2 ^ 20 + (va - s.belfry.window)) / 4096) else none

/-- A translation of one page by the pool window, by a cached entry or by the table (R306, R307; which of the two is free, for each request and page, log
16): `fresh` stands still while one request is worked on. `own` is the request, where there is one. -/
def State.translate (s : State) (own : Option Nat) (die root va : Nat) (wr : Bool) : State × Except Trap Nat :=
  let page := va / 4096
  let s := s.notePage own page
  let finish (s : State) (e : TlbEnt) : State × Except Trap Nat :=
    let pa := e.pa * 4096 + va % 4096
    if !(if wr then e.write else e.read) then (s, .error (pageTrap 33 va 1 false))
    else match s.paBad pa with
      | some why => (s, .error (pageTrap 33 va why false))
      | none => (s, .ok pa)
  match s.poolPage va with
  | some p => finish s { die := die, root := root, page := page, pa := p, read := true, write := false }
  | none =>
  match s.tlb.find? fun e => e.die == die && e.root == root && e.page == page with
  | some e => if Config.useCached (s.fresh * 2 ^ 48 + page) then finish s e else walked s finish
  | none => walked s finish
where
  walked (s : State) (finish : State → TlbEnt → State × Except Trap Nat) : State × Except Trap Nat :=
    let res := s.walk va 5 0 root
    let s := s.walkNote own (s.walkKeys va 5 0 root)
    match res with
    | .error tr => (s, .error tr)
    | .ok (pa, rd, w) =>
      let e : TlbEnt := { die := die, root := root, page := va / 4096, pa := pa / 4096, read := rd, write := w }
      finish { s with tlb := (s.tlb.filter fun x => !(x.die == die && x.root == root && x.page == va / 4096)) ++ [e] } e

/-- The next request's choices of R307 are its own. -/
def State.nextDraw (s : State) : State := { s with fresh := s.fresh + 1 }

/-- The key of n bytes at a place, inside one page (R202, R306). -/
def State.placeKey (s : State) (own : Option Nat) (g : Gang) (c : Core) (p : Place) (n : Nat) (wr : Bool) : State × Except Trap Nat :=
  if !p.inRange s g n then (s, .error (p.rangeTrap 0))
  else match p with
    | .hv va => s.translate own (c.gcore / 32) g.root va wr
    | p => (s, .ok (p.key s g c))

/-- The next piece of a span: up to the next 32-byte beat. -/
def beatLen (a n : Nat) : Nat := if n < 32 - a % 32 then n else 32 - a % 32

/-- Bytes at a key for a reader that decodes them (R206, R214, R386): the bytes or the fault, which names the place. -/
def State.readKey (s : State) (own : Option Nat) (g : Option Gang) (src : Nat) (k n sp ad : Nat) (flit : Bool) : State × Except Trap (List Byte) :=
  let s := s.poolSpan own k n false
  let r := s.physRead k n
  match ({ r with psn := r.psn || flit }).trap k n sp ad s.poison with
  | some tr => (s, .error tr)
  | none => (s.correctedAll g src r, .ok r.bytes)

/-- Bytes of a span, beat by beat, for an engine. -/
def State.readPlace (s : State) (id : Nat) (g : Gang) (c : Core) : Nat → Place → Nat → State × Except Trap (List Byte)
  | 0, _, _ => (s, .ok [])
  | fuel + 1, p, n =>
    if n = 0 then (s, .ok [])
    else
      let m := beatLen p.raw n
      match s.placeKey (some id) g c p m false with
      | (s, .error tr) => (s, .error tr)
      | (s, .ok k) =>
        match s.readKey (some id) (some g) 0 k m p.space p.raw false with
        | (s, .error tr) => (s, .error tr)
        | (s, .ok bs) =>
          match s.readPlace id g c fuel (p.plus m) (n - m) with
          | (s, .error tr) => (s, .error tr)
          | (s, .ok l) => (s, .ok (bs ++ l))

/-- A decoded read of n bytes by the engine that serves a request. -/
def State.readAt (s : State) (id : Nat) (g : Gang) (c : Core) (p : Place) (n : Nat) : State × Except Trap (List Byte) :=
  s.readPlace id g c (n / 32 + 2) p n

/-! Banks (R215, R291, R294). -/

/-- The banks a key lies in, as `used` names them (R215, R294). -/
def bankOf (k : Nat) : Option (Nat × Nat) :=
  match storeOf k with
  | some .core => some (0, (k - 2 ^ 49) / 2 ^ 21 * 32 + cmBank ((k - 2 ^ 49) % 2 ^ 21))
  | some .vault => some (1, (k - 2 ^ 48) / 2 ^ 24 * 16 + vtBank ((k - 2 ^ 48) % 2 ^ 24))
  | _ => none

/-- An untimed beat may reach a key's bank on a cycle on which these banks are in use (R215, R291, R294). -/
def bankFree (used : List (Nat × Nat)) (k : Nat) : Bool := match bankOf k with | some b => !used.contains b | none => true

/-- The marks that an untimed beat leaves: its bank of core memory is then in use, a bank of a vault reached. -/
def bankMark (k : Nat) : List (Nat × Nat) :=
  match bankOf k with
  | some (0, b) => [(0, b)]
  | some (_, b) => [(2, b)]
  | none => []

/-! What a request reads before it has its work (R206, R217, R225, R252). -/

/-- A request at work: `got` are the beats it has read on earlier cycles, still to be taken, `new` those of this cycle. -/
structure Lead where
  s : State
  gid : Nat
  id : Nat
  got : List (List Byte)
  new : List (List Byte) := []

/-- Why a request has no bytes: its bank is in use on this cycle, or it faults. -/
inductive Stop where
  | wait
  | trap (tr : Trap)

/-- One beat (R215, R291, R294): on a cycle on which its bank is free. -/
def Lead.beat (l : Lead) (g : Gang) (c : Core) (p : Place) (n : Nat) : Lead × Except Stop (List Byte) :=
  match l.got with
  | b :: t => ({ l with got := t }, .ok b)
  | [] =>
    match l.s.placeKey (some l.id) g c p n false with
    | (s, .error tr) => ({ l with s := s }, .error (.trap tr))
    | (s, .ok k) =>
      if !bankFree s.used k then ({ l with s := s }, .error .wait)
      else
        let q := s.flitBetween l.gid (keyStack k) (c.gcore / 32) k
        match ({ q.1 with used := bankMark k ++ q.1.used } : State).readKey (some l.id) (some g) 0 k n p.space p.raw q.2 with
        | (s, .error tr) => ({ l with s := s }, .error (.trap tr))
        | (s, .ok bs) => ({ l with s := s, new := l.new ++ [bs] }, .ok bs)

/-- Bytes of a span. -/
def Lead.span (l : Lead) (g : Gang) (c : Core) : Nat → Place → Nat → Lead × Except Stop (List Byte)
  | 0, _, _ => (l, .ok [])
  | fuel + 1, p, n =>
    if n = 0 then (l, .ok [])
    else
      let m := beatLen p.raw n
      match l.beat g c p m with
      | (l, .error e) => (l, .error e)
      | (l, .ok bs) =>
        match l.span g c fuel (p.plus m) (n - m) with
        | (l, .error e) => (l, .error e)
        | (l, .ok t) => (l, .ok (bs ++ t))
def Lead.read (l : Lead) (g : Gang) (c : Core) (p : Place) (n : Nat) : Lead × Except Stop (List Byte) := l.span g c (n / 32 + 2) p n

/-! Work items (R216 to R225): what a request moves, before translation. -/

/-- One piece of work: bytes from a place to a place, given bytes to a place, or one beat of eight combined FP32 elements. -/
inductive Work where
  | copy (dst src : Place) (n : Nat)
  | load (dst src : Place) (n : Nat)
  | put (dst : Place) (bytes : List Byte)
  | fma (dst src : Place) (w : BitVec 32)

/-- The places of a piece of work: what it reads, what it writes, and how many bytes. -/
def Work.src : Work → Option Place
  | .copy _ p _ => some p
  | .load _ p _ => some p
  | .put _ _ => none
  | .fma _ p _ => some p
def Work.dst : Work → Place
  | .copy d _ _ => d
  | .load d _ _ => d
  | .put d _ => d
  | .fma d _ _ => d
def Work.len : Work → Nat
  | .copy _ _ n => n
  | .load _ _ n => n
  | .put _ bs => bs.length
  | .fma _ _ _ => 32

/-- A piece of work on the keys of its places. -/
def Work.move (w : Work) (kd ks : Nat) : Move :=
  match w with
  | .copy _ _ n => .copy kd ks n
  | .load _ p n => .load kd ks n p.space p.raw
  | .put _ bs => .put kd bs
  | .fma _ p f => .fma kd ks f p.space p.raw

/-- Work translated: the moves up to the first beat that fails, and the fault of every one that does (R429). -/
def State.resolve (s : State) (id : Nat) (g : Gang) (c : Core) : List Work → State × List Move × List Trap
  | [] => (s, [], [])
  | w :: t =>
    let a := match w.src with
      | some p => let q := s.placeKey (some id) g c p w.len false; (q.1, some q.2)
      | none => (s, none)
    let b := a.1.placeKey (some id) g c w.dst w.len true
    let r := b.1.resolve id g c t
    match a.2, b.2 with
    | some (.error e), .error e' => (r.1, [], e :: e' :: r.2.2)
    | some (.error e), .ok _ => (r.1, [], e :: r.2.2)
    | _, .error e => (r.1, [], e :: r.2.2)
    | some (.ok ks), .ok kd => (r.1, w.move kd ks :: r.2.1, r.2.2)
    | none, .ok kd => (r.1, w.move kd 0 :: r.2.1, r.2.2)

/-- A fault of translation or access at a virtual address (R306). -/
def Trap.onPage (t : Trap) : Bool := (t.cause == 32 || t.cause == 33) && t.lo % 8 == 4

/-- The fault among those of a request's beats (R108, R429): the lowest cause, and of causes 32 and 33 the lowest virtual address of them
all. DESIGN CHOICE (log 97): where both causes arise, the reason is that of the lowest beat of cause 32. -/
def beatFault (l : List Trap) : Option Trap :=
  let low (q : List Trap) : Option Trap := q.foldl (fun b t => match b with
    | none => some t
    | some m => if t.lo < m.lo then some t else some m) none
  match lowestTrap l, low (l.filter Trap.onPage) with
  | some a, some p => if a.cause = 32 ∨ a.cause = 33 then (low (l.filter fun t => t.onPage && t.cause == a.cause)).map fun t => { t with lo := p.lo } else some a
  | a, _ => a

/-- The byte number of a place in its space. -/
def Place.byte : Place → Nat
  | .im a => 8 * a
  | p => p.raw

/-- Bytes as copies, none across a 32-byte beat of either side (R211 gives ROWP no alignment). -/
def copyWork : Nat → Place → Place → Nat → List Work
  | 0, _, _, _ => []
  | fuel + 1, d, p, n => if n = 0 then [] else
    let m := beatLen p.byte (beatLen d.byte n)
    .copy d p m :: copyWork fuel (d.plus m) (p.plus m) (n - m)
def rowWork (d s : Place) (n : Nat) : List Work := copyWork (n / 16 + 2) d s n

/-- Bytes as loads of at most 32 bytes, aligned as the source's beats lie. -/
def loadWork : Nat → Place → Place → Nat → List Work
  | 0, _, _, _ => []
  | fuel + 1, d, p, n => if n = 0 then [] else
    let m := beatLen p.raw n
    .load d p m :: loadWork fuel (d.plus m) (p.plus m) (n - m)

/-- Bytes as puts of at most 32 bytes, aligned as beats lie. -/
def putWork : Nat → Place → List Byte → List Work
  | 0, _, _ => []
  | fuel + 1, p, bs => if bs.isEmpty then [] else
    let m := beatLen p.raw bs.length
    .put p (bs.take m) :: putWork fuel (p.plus m) (bs.drop m)
def putAt (p : Place) (bs : List Byte) : List Work := putWork (bs.length / 32 + 2) p bs

/-- What a request turns into. -/
structure Job0 where
  work : List Work
  items : Nat
  drop : Bool := false
  ordered : Bool := false
  late : Option Trap := none

/-- A request that faults (R214). -/
def Job0.fault (tr : Trap) : Job0 := { work := [], items := 0, late := some tr }

/-- The descriptor of R217. -/
structure Dsc where
  nidx : Nat
  idxa : Nat
  rowb : Nat
  dpitch : Nat
  spitch : Nat
  ne : Nat
  mapa : Nat

def dscOf (bs : List Byte) (gaths : Bool) : Dsc :=
  { nidx := bfld bs 0 4, idxa := bfld bs 4 4, rowb := bfld bs 8 4, dpitch := bfld bs 12 4
    spitch := if gaths then bfld bs 16 4 else bfld bs 16 8, ne := bfld bs 20 4, mapa := bfld bs 24 4 }

def noMap : Nat := 0xFFFFFFFF

/-- Fields in range (R217); `kind` 0 GATH, 1 GATHS, 2 SCAT, 3 SCATW. DESIGN CHOICE (log 97): IDXA is a multiple of 4 for GATHS too. -/
def Dsc.ok (d : Dsc) (kind : Nat) : Bool :=
  decide (1 ≤ d.nidx) && decide (d.nidx ≤ 65536) && d.idxa % 4 == 0 && d.rowb % 32 == 0 && decide (32 ≤ d.rowb) && decide (d.rowb ≤ 65536)
    && d.spitch % 32 == 0 &&
  match kind with
  | 1 => d.dpitch == 0 && decide (1 ≤ d.ne) && decide (d.ne ≤ 1024)
  | 2 => d.dpitch % 32 == 0 && decide (d.rowb ≤ d.dpitch) && d.mapa == noMap
  | _ => d.dpitch % 32 == 0 && decide (d.rowb ≤ d.dpitch)

/-- A request reads n bytes and goes on with them; a fault ends its work, and none says that it waits. -/
def Lead.then (l : Lead) (g : Gang) (c : Core) (p : Place) (n : Nat) (k : Lead → List Byte → Lead × Option Job0) : Lead × Option Job0 :=
  match l.read g c p n with
  | (l, .error .wait) => (l, none)
  | (l, .error (.trap tr)) => (l, some (.fault tr))
  | (l, .ok bs) => k l bs

/-- The map of a gather (R218, R221) as work, where there is one. -/
def mapWork (mapa : Nat) (m : List Nat) : List Work := if mapa = noMap then [] else putAt (.cm mapa) (m.map (leBytes 4)).flatten

/-- The assignment of destination rows by GATH (R218): map values, and the source row of each destination row. -/
def gathRows (dd : Bool) : List Nat → List (Nat × Nat) → Nat → List Nat × List Nat
  | [], _, _ => ([], [])
  | i :: t, seen, u =>
    if i = noMap then let r := gathRows dd t seen u; (noMap :: r.1, r.2)
    else
      match (if dd then seen.find? fun p => p.1 == i else none) with
      | some p => let r := gathRows dd t seen u; (p.2 :: r.1, r.2)
      | none => let r := gathRows dd t ((i, u) :: seen) (u + 1); (u :: r.1, i :: r.2)

def jobGath (dd : Bool) (da : Nat) (src : Place) (dsc : Nat) (d : Dsc) (ix : List Nat) : Job0 :=
  let (map, rows) := gathRows dd ix [] 0
  { work := (((List.range rows.length).zip rows).map fun p =>
              rowWork (.cm (da + p.1 * d.dpitch)) (src.plus (p.2 * d.spitch)) d.rowb).flatten
            ++ mapWork d.mapa map ++ putAt (.cm (dsc + 28)) (leBytes 4 rows.length)
    items := rows.length }

/-- The placement of rows by GATHS (R221): per index the expert and position, CUR afterwards, rows dropped. -/
def gathsRows (ne : Nat) (cap : Nat → Nat) : List Nat → (Nat → Nat) → List (Option (Nat × Nat)) × List (Nat × Nat) × Nat
  | [], _ => ([], [], 0)
  | e :: t, cur =>
    if e = noMap then let r := gathsRows ne cap t cur; (none :: r.1, r.2)
    else if e ≥ ne ∨ cur e ≥ cap e then let r := gathsRows ne cap t cur; (none :: r.1, r.2.1, r.2.2 + 1)
    else
      let r := gathsRows ne cap t (fun k => if k = e then cur e + 1 else cur k)
      (some (e, cur e) :: r.1, r.2)

/-- Rows of `src` to `dst` with rows named by an index list, skips left out (R222, R223). -/
def scatRows (ix : List Nat) : List (Nat × Nat) := ((List.range ix.length).zip ix).filter fun p => p.2 != noMap

/-- GATHS with its table read (R221). -/
def jobGaths (dsp tab sa dsc : Nat) (d : Dsc) (tb : List Byte) (ex : List Nat) : Job0 :=
  let cap (e : Nat) := bfld tb (16 * e + 8) 4
  let cur (e : Nat) := bfld tb (16 * e + 12) 4
  let (rows, _, dropped) := gathsRows d.ne cap ex cur
  let used := ((List.range rows.length).zip rows).filterMap fun p => p.2.map fun q => (p.1, q)
  let base (e : Nat) := placeOf dsp (bfld tb (16 * e) 8)
  let bad := used.any fun p => match base p.2.1 with | some b => b.raw % 32 != 0 | none => true
  if bad then .fault { cause := 2 }
  else
    let last (e : Nat) : Nat := cur e + (used.filter fun p => p.2.1 == e).length
    { work := (used.map fun p => match base p.2.1 with
                | some b => rowWork (b.plus (p.2.2 * d.rowb)) (.cm (sa + p.1 * d.spitch)) d.rowb
                | none => []).flatten
              ++ mapWork d.mapa (rows.map fun r => match r with | some q => q.2 | none => noMap)
              ++ ((List.range d.ne).map fun e => putAt (.cm (tab + 16 * e + 12)) (leBytes 4 (last e))).flatten
              ++ putAt (.cm (dsc + 28)) (leBytes 4 dropped)
      items := used.length, drop := dropped != 0 }

/-- The tile copy of MCOPY (R224): pixels of a tile inside the layer, destination and source offsets. -/
structure Tile where
  tw : Nat
  th : Nat
  lw : Nat
  lh : Nat
  pb : Nat
  rowp : Nat

/-- Tile geometry of a slot (R211). -/
def tileOf (bs : List Byte) : Option Tile :=
  let t : Tile := ⟨bfld bs 4 2, bfld bs 6 2, bfld bs 8 4, bfld bs 12 4, bfld bs 16 4, bfld bs 20 8⟩
  let clean := bfld bs 1 3 == 0 && (bs.drop 28).all fun b => b == 0
  if bfld bs 0 1 = 0x10 ∧ clean ∧ 1 ≤ t.tw ∧ t.tw ≤ 256 ∧ 1 ≤ t.th ∧ t.th ≤ 256 ∧ t.pb % 32 = 0 ∧ 32 ≤ t.pb ∧ t.pb ≤ 4096
  then some t else none

/-- The pairs (destination offset, source offset) of the pixels of an entry's tile. -/
def Tile.pixels (t : Tile) (ent : Nat) : List (Nat × Nat) :=
  let tx := fld ent 0 16; let ty := fld ent 16 16
  let dx := sext (fld ent 40 12) 12; let dy := sext (fld ent 52 12) 12
  ((List.range t.th).map fun y => (List.range t.tw).filterMap fun x =>
    let px := tx * t.tw + x; let py := ty * t.th + y
    if px < t.lw ∧ py < t.lh then
      some (py * t.rowp + px * t.pb, clampTo (py - dy) t.lh * t.rowp + clampTo (px - dx) t.lw * t.pb)
    else none).flatten

/-- MCOPY's work (R224). DESIGN CHOICE (log 83): ITEMS counts an MCOPY as one entry, also where nothing is transferred. -/
def jobMcopy (dst src : Place) (t : Tile) (ent : Nat) : Job0 :=
  { work := ((t.pixels ent).map fun p => rowWork (dst.plus p.1) (src.plus p.2) t.pb).flatten, items := 1 }

/-- TLFETCH with its list read (R225). -/
def jobTlfetch (rk : Bool) (ranks rank da lim : Nat) (hdr : List Byte) (ents : List (List Byte)) : Job0 :=
  let sel := ((List.range ents.length).zip ents).filter fun p => !rk || p.1 % ranks == rank
  let c := if sel.length < lim then sel.length else lim
  { work := putAt (.cm da) (leBytes 4 c ++ hdr.drop 4)
            ++ putAt (.cm (da + 32)) ((sel.take c).map (·.2)).flatten
    items := c }

/-- MPB (R252) from its command block. -/
def jobMpb (c : Core) (rows cols : Nat) (b : List Byte) (segq segk : List Nat) (addr : Nat) : Job0 :=
  let out := bfld b 0 4; let pitch := bfld b 4 4; let q0 := bfld b 12 4; let k0 := bfld b 16 4; let fl := bfld b 20 1
  let win := bfld b 24 4; let klen := bfld b 28 4
  let ok (i j : Nat) : Bool :=
    let q := q0 + i; let k := k0 + j
    (!fl.testBit 0 || decide (k ≤ q)) && (!fl.testBit 1 || decide (((q : Int) - k).natAbs < win))
      && (!fl.testBit 3 || decide (k < klen)) && (!fl.testBit 2 || segq[i]? == segk[j]?)
  let row (i : Nat) : List Byte := (List.range ((cols + 7) / 8)).map fun m =>
    BitVec.ofNat 8 ((List.range 8).foldl (fun v t => if 8 * m + t < cols && ok i (8 * m + t) then v + 2 ^ t else v) 0)
  let _ := c
  { work := ((List.range rows).map fun i => putAt (.cm (out + i * pitch)) (row i)).flatten
            ++ putAt (.cm (addr + 48)) (leBytes 16 (rows * 2 ^ 32))
    items := 0, ordered := true }

/-- Bytes of a command block that its table does not name must be zero (R250): the named spans in order. -/
def blockClean (b : List Byte) (named : List (Nat × Nat)) : Bool :=
  (List.range 48).all fun i => (named.any fun p => decide (p.1 ≤ i) && decide (i ≤ p.2)) || bfld b i 1 == 0

/-- MPB's fields (R250, R252): cause 2, then the ranges, then the mask. -/
def Lead.workMpb (l : Lead) (g : Gang) (c : Core) (r : Req) (addr : Nat) : Lead × Option Job0 :=
  let b := r.block
  let rows := bfld b 8 2; let cols := bfld b 10 2
  let out := bfld b 0 4; let pitch := bfld b 4 4; let fl := bfld b 20 1
  let ok := blockClean b [(0, 20), (24, 39)] && decide (fl < 16) && out % 16 == 0 && pitch % 16 == 0 && decide (1 ≤ rows) &&
    decide (rows ≤ 4096) && decide (1 ≤ cols) && decide (cols ≤ 4096) && decide ((cols + 7) / 8 ≤ pitch)
  if !ok then (l, some (.fault { cause := 2 }))
  else if !g.inCarve out ((rows - 1) * pitch + (cols + 7) / 8) then (l, some (.fault ((Place.cm out).rangeTrap 0)))
  else if !fl.testBit 2 then (l, some (jobMpb c rows cols b [] [] addr))
  else
    l.then g c (.cm (bfld b 32 4)) (2 * rows) fun l q =>
      l.then g c (.cm (bfld b 36 4)) (2 * cols) fun l k => (l, some (jobMpb c rows cols b (elemsOf 2 q) (elemsOf 2 k) addr))

/-- A place from a request's resolved base. -/
def basePlace (sp v : Nat) : Place := (placeOf sp v).getD (.cm v)

/-- The descriptor and index list of a gather or scatter, then its work (R217). -/
def Lead.withDsc (l : Lead) (g : Gang) (c : Core) (dsc kind : Nat) (k : Lead → Dsc → List Nat → Lead × Option Job0) : Lead × Option Job0 :=
  l.then g c (.cm dsc) 32 fun l bs =>
    let d := dscOf bs (kind == 1)
    if !d.ok kind then (l, some (.fault { cause := 2 }))
    else l.then g c (.cm d.idxa) (4 * d.nidx) fun l ix => k l d (elemsOf 4 ix)

/-- What the device makes of a request when it first works on it (R216 to R225, R252; log 16). DESIGN CHOICE (log 83): a TLFETCH reads
all N entries of its list, those beyond LIM or not selected too, so that a fault on one of them is the request's. -/
def Lead.work (l : Lead) (g : Gang) (c : Core) (r : Req) : Lead × Option Job0 :=
  match r.kind with
  | .ucopy dsp ssp dst src n =>
    (l, some { work := ((List.range n).map fun k => rowWork ((basePlace dsp dst).plus (64 * k)) ((basePlace ssp src).plus (64 * k)) 64).flatten
               items := n })
  | .ufill dsp dst pat n =>
    (l, some { work := (List.range (2 * n)).map fun k => .put ((basePlace dsp dst).plus (32 * k)) (List.replicate 4 (leBytes 8 pat.toNat)).flatten
               items := n })
  | .gath dd ssp da sa dsc => l.withDsc g c dsc 0 fun l d ix => (l, some (jobGath dd da (basePlace ssp sa) dsc d ix))
  | .gaths dsp tab sa dsc => l.withDsc g c dsc 1 fun l d ex =>
      l.then g c (.cm tab) (16 * d.ne) fun l tb => (l, some (jobGaths dsp tab sa dsc d tb ex))
  | .scat dsp da sa dsc => l.withDsc g c dsc 2 fun l d ix =>
      let rows := scatRows ix
      (l, some { work := (rows.map fun p => rowWork ((basePlace dsp da).plus (p.2 * d.dpitch)) (.cm (sa + p.1 * d.spitch)) d.rowb).flatten
                   ++ putAt (.cm (dsc + 28)) (leBytes 4 rows.length)
                 items := rows.length, ordered := true })
  | .scatw ssp da sa dsc => l.withDsc g c dsc 3 fun l d ix =>
      l.then g c (.cm d.mapa) (4 * d.nidx) fun l wb =>
        let ws := elemsOf 4 wb
        let rows := scatRows ix
        (l, some { work := (rows.map fun p => (List.range (d.rowb / 32)).map fun b =>
                     Work.fma (.cm (da + p.2 * d.dpitch + 32 * b)) ((basePlace ssp sa).plus (p.1 * d.spitch + 32 * b)) (BitVec.ofNat 32 ((ws[p.1]?).getD 0))).flatten
                     ++ putAt (.cm (dsc + 28)) (leBytes 4 rows.length)
                   items := rows.length, ordered := true })
  | .mcopy dsp ssp da sa ent slot =>
    match tileOf slot with
    | none => (l, some { work := [], items := 1 })
    | some t => (l, some (if fld ent.toNat 32 4 = 1 then jobMcopy (basePlace dsp da) (basePlace ssp sa) t ent.toNat else { work := [], items := 1 }))
  | .tlfetch rk ssp da sa lim =>
    let p := basePlace ssp sa
    l.then g c p 32 fun l hdr =>
      l.then g c (p.plus 32) (8 * bfld hdr 0 4) fun l bs =>
        (l, some (jobTlfetch rk (g.tob.grows * g.tob.gcols) r.who.rank da lim hdr
          ((List.range (bfld hdr 0 4)).map fun i => (bs.drop (8 * i)).take 8)))
  | .engine _ addr => l.workMpb g c r addr

/-! Where moves read and write, and their pooled traffic (R301). -/

def Move.src : Move → Option Nat
  | .copy _ k _ => some k
  | .load _ k _ _ _ => some k
  | .put _ _ => none
  | .fma _ k _ _ _ => some k
def Move.dst : Move → Nat
  | .copy d _ _ => d
  | .load d _ _ _ _ => d
  | .put d _ => d
  | .fma d _ _ _ _ => d

/-- The HBM beats that moves read and write wait at their pooled controllers, one entry for each row and direction (R301). -/
def State.poolAdd (s : State) (req : Nat) (ms : List Move) : State :=
  let keys := (ms.map fun m => (m.src.toList.map fun k => (k, false)) ++ [(m.dst, true)]).flatten
  keys.foldl (fun (s : State) k => s.poolBeat (some req) false k.1 k.2) s

/-- A beat whose row the controller has not opened, or whose column command is still to come (R301). -/
def State.poolWaits (s : State) (req k : Nat) (wr : Bool) : Bool :=
  storeOf k == some .hbm && (s.pch (paPch k)).pool.any fun q => q.is (some req) false k wr && q.cols.contains (paCol k) &&
    (match q.start with | none => true | some u => decide (s.tlc < u + 2 * q.cols.idxOf (paCol k)))

/-- A request's beats leave the controllers. -/
def State.poolDrop (s : State) (req : Nat) : State :=
  { s with pchs := s.pchs.map fun p => (p.1, { p.2 with pool := p.2.pool.filter fun q => q.req != some req }) }

/-! Requests (R213). -/

/-- The gang and request of an id. -/
def State.reqAt (s : State) (id : Nat) : Option (Nat × Gang × Req) :=
  s.gangs.findSome? fun p => (p.2.reqs.find? fun r => r.id == id).map fun r => (p.1, p.2, r)

/-- What a request is given to move: its moves, and the fault at which they end. -/
def State.setWork (s : State) (id : Nat) (g : Gang) (c : Core) (j : Job0) : State :=
  let (s, ms, trs) := s.resolve id g c j.work
  let s := s.poolAdd id ms
  s.modReq id fun r => { r with
    moves := some ms, ordered := j.ordered, items := j.items, drop := j.drop
    late := (match r.late with | some t => some t | none => match j.late with | some t => some t | none => beatFault trs) }

/-- A request has not had its work and has nothing left to wait for but the device. -/
def Req.unstarted (r : Req) : Bool := r.moves.isNone && r.late.isNone && match r.kind with
  | .engine op _ => op == 0xC3 && !r.block.isEmpty
  | _ => true

/-- The device works on a request that has no moves yet: it reads what it needs to know them, as far as the banks allow on this cycle, and
goes on on the next one (R215). -/
def State.startReq (s : State) (id : Nat) : State :=
  match s.reqAt id with
  | none => s
  | some (gid, g, r) =>
    match r.unstarted, g.coreAt r.who.rank with
    | true, some c =>
      let (s, d) : State × Nat := match r.draw with
        | some d => (s, d)
        | none => (s.nextDraw.modReq id fun r => { r with draw := some (s.fresh + 1) }, s.fresh + 1)
      let n := s.fresh
      match ({ s := { s with fresh := d }, gid := gid, id := id, got := r.got : Lead }).work g c r with
      | (l, some j) => { l.s.setWork id g c j with fresh := n }
      | (l, none) =>
        let s : State := l.s.modReq id fun r => { r with got := r.got ++ l.new }
        let next : Nat × Instr := (s.tlc + 1, .untimedBeatLanding id 0)
        { s with fresh := n, inbox := if s.inbox.contains next then s.inbox else s.inbox ++ [next] }
    | _, _ => s

/-- Status of a tag after a request issued with it (R229) or ended. -/
def TagStat.add (t : TagStat) (items : Nat) (drop : Bool) : TagStat :=
  { drop := t.drop || drop, items := if t.items + items < 2 ^ 24 then t.items + items else 2 ^ 24 - 1 }

/-- An untimed request issues (R213, R214): the queue limit, its tag's bits, its registration. `due` is the completion cycle of a
request that transfers nothing (R224). -/
def Ctx.request (x : Ctx) (reads : List Loc) (tag : BitVec 4) (kind : ReqKind) (io : BitVec 2) (h : Option (Nat × Except Trap Place))
    (traps : List (Option Trap)) (im : Bool) (due : Option Nat) (slotActs : Nat → List (Nat × Act)) : Plan :=
  let mine := x.g.reqs.filter fun r => r.who.rank == x.who.rank
  match firstTrap ([hdlTrap h, trapIf (decide (32 ≤ mine.length)) { cause := 16, lo := 5 }] ++ traps) with
  | some tr => ⟨reads, .error tr⟩
  | none =>
    let id := x.s.reqSeq
    let bit : BitVec 16 := 1#16 <<< tag.toNat
    let hd := match h with | some (v, .ok p) => some (v, p) | _ => none
    let r : Req := { id := id, who := x.who, tag := tag.toNat, kind := kind, io := io, handle := hd.map fun q => BitVec.ofNat 64 q.1
                     block := [], seq := id, moves := due.map fun _ => [], ordered := false, items := due.toList.length, drop := false, late := none, flags := 0
                     status := none, lastBeat := x.t, due := due, pages := [], draw := none, got := [], node := none }
    ⟨reads, .ok {
      acts := slotActs id ++ (match hd with | some (v, p) => x.registers v p | none => [])
      core := fun c => { c with
        tags := if c.pend &&& bit = 0 then aset tag.toNat ⟨false, 0⟩ c.tags else c.tags
        pend := c.pend ||| bit, done := c.done &&& ~~~bit, imOut := if im then c.imOut + 1 else c.imOut }
      gang := fun g => { g with reqs := g.reqs ++ [r] }
      dev := fun s =>
        let s := { s with reqSeq := s.reqSeq + 1 }
        if im then s.setInfo x.c.gcore { s.info x.c.gcore with valid := false } else s }⟩

/-! The instructions (R201, R216 to R225). -/

/-- Both bases of an FC instruction, aligned to `unit` (R202). -/
def Ctx.bases (x : Ctx) (f : FcArgs) (ud us : Nat) : Option (Place × Place) :=
  match placeOf f.dsp.toNat (x.c.rd f.da), placeOf f.ssp.toNat (x.c.rd f.sa) with
  | some d, some s => if d.aligned false ud && s.aligned false us then some (d, s) else none
  | _, _ => none

/-- The range check of a base made at issue; `hv:` addresses are translated later (R202, R214). -/
def Ctx.baseTrap (x : Ctx) (p : Place) (n : Nat) : Option Trap := trapIf (!p.inRange x.s x.g n) (p.rangeTrap 0)

def Ctx.imTrap (x : Ctx) (d : Place) : Option Trap := trapIf (d.space == 1 && !decide (x.g.tob.flags / 4 % 2 = 1)) (d.rangeTrap 3)

def planUcopy (f : FcArgs) (x : Ctx) : Plan :=
  let n := x.c.rd f.ln
  let reads := fcReads f true
  match x.bases f 64 64 with
  | none => .bad reads 2
  | some (d, s) =>
    x.request reads f.tag (.ucopy d.space s.space d.raw s.raw n) (f.mod.extractLsb' 0 2) (x.hdl f)
      [trapIf (n == 0 || decide (n > 2 ^ 24)) { cause := 2, inCont := true }, x.imTrap d, x.baseTrap s (64 * n), x.baseTrap d (64 * n)]
      (d.space == 1) none fun _ => []

def planUfill (f : FcArgs) (x : Ctx) : Plan :=
  let n := x.c.rd f.ln
  let reads := fcReads f true
  match placeOf f.dsp.toNat (x.c.rd f.da) with
  | none => .bad reads 2
  | some d =>
    if !d.aligned false 64 then .bad reads 2
    else
      x.request reads f.tag (.ufill d.space d.raw (BitVec.ofNat 64 (x.c.rd f.sa)) n) (f.mod.extractLsb' 0 2) (x.hdl f)
        [trapIf (n == 0 || decide (n > 2 ^ 24)) { cause := 2, inCont := true }, x.baseTrap d (64 * n)] false none fun _ => []

/-- The descriptor operand (R217): a multiple of 32 inside the carve-out. -/
def Ctx.dscTraps (x : Ctx) (a : Nat) : List (Option Trap) :=
  [trapIf (a % 32 != 0 || decide (a ≥ 2 ^ 21)) { cause := 2, inCont := true }, x.baseTrap (.cm a) 32]

/-- GATH, SCAT and SCATW (R217, R218, R222, R223). -/
def planGather (mk : Place → Place → Nat → ReqKind) (f : FcArgs) (x : Ctx) : Plan :=
  let reads := fcReads f true
  let a := x.c.rd f.ln
  match x.bases f 32 32 with
  | none => .bad reads 2
  | some (d, s) =>
    x.request reads f.tag (mk d s a) (f.mod.extractLsb' 0 2) (x.hdl f) (x.dscTraps a ++ [x.baseTrap s 1, x.baseTrap d 1]) false none fun _ => []

def planGath (f : FcArgs) (x : Ctx) : Plan := planGather (fun d s a => .gath (f.var.getLsbD 0) s.space d.raw s.raw a) f x
def planScat (f : FcArgs) (x : Ctx) : Plan := planGather (fun d s a => .scat d.space d.raw s.raw a) f x
def planScatw (f : FcArgs) (x : Ctx) : Plan := planGather (fun d s a => .scatw s.space d.raw s.raw a) f x

/-- GATHS (R221): DA names the expert table in core memory, a multiple of 16. -/
def planGaths (f : FcArgs) (x : Ctx) : Plan :=
  let reads := fcReads f true
  let a := x.c.rd f.ln; let tab := x.c.rd f.da
  match placeOf 0 (x.c.rd f.sa) with
  | none => .bad reads 2
  | some s =>
    if !s.aligned false 32 || tab % 16 ≠ 0 || tab ≥ 2 ^ 21 then .bad reads 2
    else
      x.request reads f.tag (.gaths f.dsp.toNat tab s.raw a) (f.mod.extractLsb' 0 2) (x.hdl f)
        (x.dscTraps a ++ [x.baseTrap s 1, x.baseTrap (.cm tab) 16]) false none fun _ => []

/-- Whether two tile images meet: some destination beat is a beat a pixel of the tile may read (R224). -/
def tileOverlap (t : Tile) (ent : Nat) (d s : Place) : Bool :=
  d.space == s.space && (t.pixels ent).any fun p => (t.pixels ent).any fun q => meet (d.raw + p.1) t.pb (s.raw + q.2) t.pb

/-- MCOPY (R224). DESIGN CHOICE (log 84): the contents of a slot whose SEQCFG is pending are not judged by R211; the trap is cause 16, or
a lower one of the other operands (R108). -/
def planMcopy (f : FcArgs) (x : Ctx) : Plan :=
  let reads := fcReads f true
  let ent := x.c.rd f.ln
  let i := f.aux.toNat % 8
  match x.bases f 32 32 with
  | none => .bad reads 2
  | some (d, s) =>
    match x.slotTrap i, tileOf (x.c.slot i) with
    | some tr, _ => x.request reads f.tag (.mcopy d.space s.space d.raw s.raw (BitVec.ofNat 64 ent) (x.c.slot i)) (f.mod.extractLsb' 0 2) (x.hdl f)
        [some tr, x.baseTrap s 1, x.baseTrap d 1] false none fun _ => []
    | none, none => .bad reads 2
    | none, some t =>
      let act := fld ent 32 4 = 1
      let px := if act then t.pixels ent else []
      let vtBad (p : Place) (offs : List Nat) : Option Trap := match p with
        | .vt _ => trapIf (offs.any fun o => !((p.move (o : Int)).any fun q => q.inRange x.s x.g t.pb)) (p.rangeTrap 0)
        | _ => none
      x.request reads f.tag (.mcopy d.space s.space d.raw s.raw (BitVec.ofNat 64 ent) (x.c.slot i)) (f.mod.extractLsb' 0 2) (x.hdl f)
        [x.baseTrap s 1, x.baseTrap d 1, vtBad s (px.map (·.2)), vtBad d (px.map (·.1)),
         trapIf (decide act && tileOverlap t ent d s) { cause := 35, lo := s.raw, hi := d.raw }]
        false (if px.isEmpty then some (x.t + 2) else none) fun _ => []

/-- TLFETCH (R225). -/
def planTlfetch (f : FcArgs) (x : Ctx) : Plan :=
  let reads := fcReads f true
  let lim := x.c.rd f.ln
  match x.bases f 32 32 with
  | none => .bad reads 2
  | some (d, s) =>
    x.request reads f.tag (.tlfetch (f.var.getLsbD 0) s.space d.raw s.raw lim) (f.mod.extractLsb' 0 2) (x.hdl f)
      [trapIf (lim == 0 || decide (lim > 65536)) { cause := 2, inCont := true }, x.baseTrap s 1, x.baseTrap d (32 + 8 * lim)]
      false none fun _ => []

/-- The engine commands (R248): the block's bytes are read on t + 1. -/
def planEngine (op : Nat) (a : Opnd) (tag : BitVec 4) (x : Ctx) : Plan :=
  let ad := x.c.rd a
  if ad % 64 ≠ 0 ∨ ad ≥ 2 ^ 21 then .bad [a.xloc] 2
  else
    x.request [a.xloc] tag (.engine op ad) 0 none [x.baseTrap (.cm ad) 64] false none
      fun id => (x.t + 1, .blockRead id ad) :: bankActs (x.t + 1) x.c.gcore false [ad / 64]

/-- PIN (R220). -/
def planPin (d a : Opnd) (beats : BitVec 12) (x : Ctx) : Plan :=
  let va := x.c.rd a
  let n := beats.toNat + 1
  let die := x.c.gcore / 32
  let job := x.g.step.job
  let mine := x.s.pins.filter fun p => p.die == die
  if va % 32 ≠ 0 ∨ va ≥ 2 ^ 54 then .bad [a.xloc] 2
  else if mine.any fun p => p.job == job && p.va == va && p.beats == n then x.xPlan [a.xloc] d 1 4
  else if mine.length ≥ 64 ∨ (mine.map (·.beats)).foldl (· + ·) 0 + n > 32768 then x.xPlan [a.xloc] d 0 4
  else
    ⟨[a.xloc], .ok { claims := [x.cx d 4], acts := [x.wx d 1 4]
                     dev := fun s => { s with pins := s.pins ++ [⟨die, job, va, n⟩] } }⟩

/-- UNPIN (R220). DESIGN CHOICE (log 97): where the job holds pins of several lengths at the address, it removes them all. -/
def planUnpin (d a : Opnd) (x : Ctx) : Plan :=
  let va := x.c.rd a
  let hit (p : PinEnt) : Bool := p.die == x.c.gcore / 32 && p.job == x.g.step.job && p.va == va
  ⟨[a.xloc], .ok { claims := [x.cx d 4], acts := [x.wx d (x.s.pins.any hit).toNat 4]
                   dev := fun s => { s with pins := s.pins.filter fun p => !hit p } }⟩

/-! Beats and completion (R213 to R215). -/

/-- The command block is read (R248): a late read of 48 bytes; poison is a fault of completion. -/
def State.blockRead (s : State) (gid : Nat) (w : Who) (req addr : Nat) : State :=
  match s.coreOf gid w with
  | none => s
  | some c =>
    match s.srcRead gid w (cmKey c.gcore addr) 48 with
    | (s, false) => s
    | (s, true) =>
      let r := s.fetch (cmKey c.gcore addr) 48
      let s := s.correctedAll (aget gid s.gangs) 0 r
      match r.trap (cmKey c.gcore addr) 48 0 addr s.poison with
      | some tr =>
        if tr.cause = 65 then s.modReq req fun q => { q with block := r.bytes, late := some tr } else s.raiseCut gid s.tlc w tr
      | none => s.modReq req fun q => { q with block := r.bytes }

/-- A beat that still waits at a controller (R301), or for what its request reads before it, or whose banks are in use on the cycles of its read and its landing. -/
def State.moveWaits (s : State) (prev : List (Nat × Nat)) (id : Nat) (m : Move) : Bool :=
  !bankFree s.used m.dst || s.leadWaits id || s.poolWaits id m.dst true || (match m.src with | some k => !bankFree prev k || s.poolWaits id k false | none => false)

/-- The elements of a beat of SCATW, each rounded once, with their flags (R223). -/
def fmaBeat (w : BitVec 32) (src dst : List Byte) : List (Nat × Flags) :=
  let f := fmtOf 0
  List.zipWith (fun a b => fmaV f 0 (f.val w.toNat) (f.val a) (f.val b)) (elemsOf 4 src) (elemsOf 4 dst)

/-- A node leaves STATE 1: deposits that wait for it are to be served again (R373). -/
def State.settled (s : State) (n : Nat) : State :=
  s.belfry.waiting.foldl (fun (s : State) w => s.modReq w.id fun r => if r.node = some n then { r with node := none } else r) s

/-- A node is spoiled (R379). -/
def State.spoilNode (s : State) (n : Nat) : State :=
  ({ s with belfry := { s.belfry with nodes := amod n (fun v => { v with state := 3 }) s.belfry.nodes } } : State).settled n

/-- A beat of the pool that a command of the Belfry cannot read is cause 65 for it, and the node whose run holds the beat is spoiled
(R379). -/
def State.spoil (s : State) (tr : Trap) : State × Trap :=
  match s.belfry.pool with
  | none => (s, tr)
  | some (base, size) =>
    if (tr.cause = 80 ∨ tr.cause = 65) ∧ base + 4 * 2 ^ 20 ≤ tr.key ∧ tr.key < base + size then
      let gr := (tr.key - base - 4 * 2 ^ 20) / 4096
      let s := if tr.cause = 80 then s.errRecord (s.describe { cause := 80, key := tr.key, outcome := 1, src := 3 }) else s
      ((s.belfry.nodes.filter fun p => decide (p.2.rung ≤ gr) && decide (gr < p.2.rung + p.2.runl)).foldl (fun (s : State) p => s.spoilNode p.1) s,
       { cause := 65, key := tr.key, hi := if tr.cause = 80 then tr.lo else tr.hi })
    else (s, tr)

/-- A command of the Belfry. -/
def ReqKind.belfry : ReqKind → Bool
  | .engine op _ => decide (0xC4 ≤ op) && decide (op ≤ 0xC7)
  | _ => false

/-- A fault that data bring on ends a request's work and is raised on its completion (R214). -/
def State.reqFault (s : State) (id : Nat) (tr : Trap) : State := s.modReq id fun q => { q with late := some (q.late.getD tr), moves := some [] }

/-- The flit of a move's beat (R298, R385). -/
def State.beatFlit (s : State) (gid die : Nat) (src : Option Nat) (dst : Nat) : State × Bool :=
  s.flitBetween gid ((src.map keyStack).getD die) (keyStack dst) dst

/-- One move lands (R215 to R223, R387); `old` is the device as its source is read. -/
def State.landMove (s old : State) (gid : Nat) (r : Req) (m : Move) : State :=
  let die := (((aget gid s.gangs).bind (·.coreAt r.who.rank)).map (·.gcore)).getD 0 / 32
  let (s, flit) := s.beatFlit gid die m.src m.dst
  let g := aget gid s.gangs
  match m with
  | .copy d k n =>
    let rd := old.physRead k n
    let s := (s.correctedAll g 0 rd).movedBad g 0 rd (some d)
    s.physWrite d rd.bytes (rd.psn || rd.bad.isSome || flit)
  | .load d k n sp ad =>
    let rd := old.physRead k n
    match rd.trap k n sp ad old.poison with
    | some tr => if r.kind.belfry then let q := s.spoil tr; q.1.reqFault r.id q.2 else s.reqFault r.id tr
    | none => (s.correctedAll g 0 rd).physWrite d rd.bytes flit
  | .put d bs => s.physWrite d bs flit
  | .fma d k w sp ad =>
    let a := old.physRead k 32; let b := s.physRead d 32
    let det := s.keySpace gid (some r.who) d
    match lowestTrap ((({ a with psn := a.psn || flit }).trap k 32 sp ad old.poison).toList ++ (b.trap d 32 det.1 det.2 s.poison).toList) with
    | some tr => s.reqFault r.id tr
    | none =>
      let l := fmaBeat w a.bytes b.bytes
      let s := (s.correctedAll g 0 a).correctedAll g 0 b
      (s.physWrite d (l.map (leBytes 4 ·.1)).flatten false).modReq r.id fun q => { q with flags := l.foldl (fun f v => f ||| v.2) q.flags }

/-- Whether a step may still move untimed beats. -/
def Gang.moves (g : Gang) : Bool := g.live

/-- Which of the moves left goes now: the first where the request orders them, else the one named, but no move goes before an earlier
one of its own beat (R215). -/
def Req.pick (r : Req) (ms : List Move) (mv : Nat) : Nat :=
  if r.ordered then 0
  else match ms[mv]? with
    | none => mv
    | some m => ms.findIdx fun q => q.dst / 32 == m.dst / 32

/-- A beat that is due lands, or waits a cycle: its source was read as `old` stands, when the banks `prev` were in use (R215, R309). The
answer is `prev` with the banks of its read. -/
def State.landBeat (s old : State) (prev : List (Nat × Nat)) (id mv : Nat) : State × List (Nat × Nat) :=
  match s.reqAt id with
  | none => (s, prev)
  | some (gid, g, r) =>
    if !g.moves then (s, prev)
    else match r.moves with
      | none => (s, prev)
      | some ms =>
        let i := r.pick ms mv
        match ms[i]? with
        | none => (s, prev)
        | some m =>
          if s.moveWaits prev id m then ({ s with inbox := (s.tlc + 1, .untimedBeatLanding id mv) :: s.inbox }, prev)
          else
            let s := s.modReq id fun q => { q with moves := some (ms.eraseIdx i), lastBeat := s.tlc }
            let s := s.landMove old gid r m
            ({ s with used := bankMark m.dst ++ s.used }, ((m.src.map bankMark).getD []) ++ prev)

/-- UNTIMED_BEAT_LANDING: one of the beats left, or the next one where the request orders them; it waits a cycle while a bank it needs
is in use. -/
def State.beatLanding (s : State) (id mv : Nat) : State :=
  let s := s.startReq id
  (s.landBeat s s.used id mv).1

/-- The request leaves its core's list; its tag completes with the last of them (R213). -/
def Gang.dropReq (g : Gang) (r : Req) : Gang :=
  let rest := g.reqs.filter fun q => q.id != r.id
  let last := !(rest.any fun q => q.who.rank == r.who.rank && q.tag == r.tag)
  let bit : BitVec 16 := 1#16 <<< r.tag
  let im := match r.kind with | .ucopy 1 _ _ _ _ => true | _ => false
  ({ g with reqs := rest }).modCore r.who.rank fun c => { c with
    pend := if last then c.pend &&& ~~~bit else c.pend
    done := if last then c.done ||| bit else c.done
    imOut := if im then c.imOut - 1 else c.imOut
    tags := aset r.tag (((aget r.tag c.tags).getD ⟨false, 0⟩).add r.items r.drop) c.tags
    flags := flagsAfter c.flags 0 r.flags }

/-- Both count-downs of a request on its completion cycle, or when its handle registers (R203). -/
def State.reqCounts (s : State) (gid : Nat) (g : Gang) (r : Req) : State :=
  match r.handle, g.coreAt r.who.rank with
  | some h, some c =>
    match placeOf (fld h.toNat 57 3) (fld h.toNat 0 31) with
    | none => s
    | some p =>
      let key := p.key s g c
      let reg := r.who.issue + p.lat g c
      let one (s : State) (inb : Bool) : State :=
        if s.tlc < reg then s.addAgenda gid [⟨reg, r.who, .count inb h key⟩]
        else match s.opFlit gid r.who key with
          | some tr => s.raise gid s.tlc (some r.who) tr
          | none => { s with gongQ := s.gongQ ++ (g.countUpd gid r.who inb h key).toList }
      let s := if r.io.getLsbD 0 then one s true else s
      if r.io.getLsbD 1 then one s false else s
  | _, _ => s

/-- A request may complete: every effect landed before this cycle, or a fault it met is raised now, or R41 cancels it. -/
def Req.mayComplete (r : Req) (t : Nat) : Bool :=
  r.late.isSome || (r.moves == some [] && (match r.due with | some d => decide (d ≤ t) | none => decide (r.lastBeat < t)))

/-- UNTIMED_COMPLETION (R213, R214, R41). -/
def State.completeReq (s : State) (id : Nat) (cancelled : Bool) : State :=
  let s := if cancelled then s else s.startReq id
  match s.reqAt id with
  | none => s
  | some (gid, g, r) =>
    if cancelled then
      if g.phase = .ending then (s.poolDrop id).modGang gid fun g => { g with reqs := g.reqs.filter fun q => q.id != id } else s
    else if !(g.live && r.mayComplete s.tlc) then s
    else
      let s := s.poolDrop id
      match r.late with
      | some tr => (s.raise gid s.tlc (some r.who) tr).modGang gid fun g => { g with reqs := g.reqs.filter fun q => q.id != id }
      | none => (s.modGang gid fun g => g.dropReq r).reqCounts gid g r

end Sys2Proof.Machine
end

