-- ==== Sys2Proof/Machine/MemStream.lean ====
section
/-! DEFINITION. Memory streams of 10_memory_stream_instructions: bank states and the timing table (R258 to R260), the
commands (R261 to R269), rings (R256, R257), refresh debt (R270, R271) and the cause detail (R275). -/
namespace Sys2Proof.Machine

/-! Command classes (R258). -/

def opAct : Nat := 0xC8
def opRd : Nat := 0xC9
def opWr : Nat := 0xCA
def opPre : Nat := 0xCB
def opPrea : Nat := 0xCC
def opRefpb : Nat := 0xCD
def opRda : Nat := 0xCE
def opWra : Nat := 0xCF
def opWrm : Nat := 0xD4
def opRdz : Nat := 0xD5
def opWrz : Nat := 0xD6

def isReadOp (o : Nat) : Bool := o == opRd || o == opRda || o == opRdz || o == opWrm
def isWriteOp (o : Nat) : Bool := o == opWr || o == opWra || o == opWrz || o == opWrm
def isColOp (o : Nat) : Bool := isReadOp o || isWriteOp o
def isRowOp (o : Nat) : Bool := o == opAct || o == opRefpb
def isPreOp (o : Nat) : Bool := o == opPre || o == opPrea

/-- The precharges among the history: PRE and PREA, and implicit ones. -/
def HbmCmd.isPre (e : HbmCmd) : Bool := e.implicit || isPreOp e.op
/-- Commands other than implicit precharges. -/
def HbmCmd.is (e : HbmCmd) (f : Nat → Bool) : Bool := !e.implicit && f e.op

/-- The cycles a row of R259 demands from an earlier command to a command, where the row applies; tFAW apart. -/
def param (i : Nat) (e : HbmCmd) (op bank : Nat) : Option Nat :=
  let same := e.bank == bank
  let grp := e.bank / 4 == bank / 4
  let when_ (b : Bool) (n : Nat) : Option Nat := if b then some n else none
  match i with
  | 0 => when_ (e.is (· == opAct) && isColOp op && same) 21
  | 1 => when_ (e.isPre && isRowOp op && same) 21
  | 2 => when_ (e.is (· == opAct) && isPreOp op && same) 42
  | 3 => when_ (e.is (· == opAct) && op == opAct && same) 63
  | 4 => when_ (e.is isRowOp && isRowOp op && !grp) 3
  | 5 => when_ (e.is isRowOp && isRowOp op && grp && !same) 5
  | 7 => when_ (e.is isColOp && isColOp op && !grp) 1
  | 8 => when_ (e.is isColOp && isColOp op && grp) 2
  | 9 => when_ (e.is isWriteOp && isPreOp op && same) 24
  | 10 => when_ (e.is isReadOp && isPreOp op && same) 6
  | 11 => when_ (e.is isWriteOp && isReadOp op && !grp) 6
  | 12 => when_ (e.is isWriteOp && isReadOp op && grp) 12
  | 13 => when_ (e.is isReadOp && isWriteOp op) 10
  | 14 => when_ (e.is (· == opRefpb) && isRowOp op && same) 300
  | 15 => when_ (e.is (· == opRefpb) && isRowOp op && !same) 12
  | _ => none

/-- One rule that bounds a command: PCODE, the first cycle it allows (none: no cycle), the earlier command, the bank. -/
structure Limit where
  pcode : Nat
  legal : Option Nat
  prior : Option HbmCmd
  bank : Nat

/-- A bank's state on a cycle (R258, R263). -/
def Pch.bankAt (p : Pch) (b t : Nat) : BankSt :=
  match p.banks[b]? with
  | some (.closing u) => if u ≤ t then .idle else .closing u
  | some s => s
  | none => .idle

def BankSt.isIdle : BankSt → Bool
  | .idle => true
  | _ => false

/-- The row open in a bank. -/
def BankSt.row : BankSt → Option Nat
  | .active r => some r
  | _ => none

/-- The bank's last ACT. -/
def Pch.lastAct (p : Pch) (b : Nat) : Nat :=
  ((p.hist.filter fun e => e.is (· == opAct) && e.bank == b).getLast?.map (·.cyc)).getD 0

/-- tWR bounds the implicit precharge of an RDA too (R259): it falls on issue + 6, or on the ACT + 42 where that is later, and must be 24
cycles past every write-class command of the bank. DEDUCED (log 90). -/
def Pch.lateWrite (p : Pch) (op b : Nat) (h : List HbmCmd) : List Limit :=
  if op ≠ opRda then [] else
  h.filterMap fun e => if e.is isWriteOp && e.bank == b && decide (p.lastAct b + 42 < e.cyc + 24) then some ⟨9, some (e.cyc + 18), some e, b⟩ else none

/-- Every limit of R259 on a command to a bank, from the commands issued on or before the cycle. -/
def Pch.timing (p : Pch) (op b t : Nat) : List Limit :=
  let h := p.hist.filter fun e => decide (e.cyc ≤ t)
  let rows := ((List.range 16).map fun i => h.filterMap fun e => (param i e op b).map fun n => (⟨i, some (e.cyc + n), some e, b⟩ : Limit)).flatten
  let faw := if isRowOp op then
      match ((h.filter fun e => e.is isRowOp).reverse)[3]? with
      | some e => [(⟨6, some (e.cyc + 24), some e, b⟩ : Limit)]
      | none => []
    else []
  rows ++ faw ++ p.lateWrite op b h

/-- The state rule of R258 and R260 that a command breaks. -/
def Pch.stateLimit (p : Pch) (op b t : Nat) : List Limit :=
  match p.bankAt b t with
  | .idle => if isColOp op then [⟨17, none, none, b⟩] else []
  | .active _ => if isRowOp op then [⟨16, none, none, b⟩] else []
  | .closing u =>
    if isColOp op then [⟨17, none, none, b⟩]
    else if isRowOp op then [⟨16, some (u + 21), p.hist.find? fun e => e.implicit && e.bank == b && e.cyc == u, b⟩] else []

/-- Every rule a command breaks on a cycle. -/
def Pch.broken (p : Pch) (op b t : Nat) : List Limit :=
  (p.timing op b t ++ p.stateLimit op b t).filter fun l => match l.legal with | some n => decide (t < n) | none => true

/-- The broken rule that is reported: the lowest PCODE, and of its limits the one that sets it (R275). -/
def worst : List Limit → Option Limit
  | [] => none
  | l :: t => match worst t with
    | none => some l
    | some m => if m.pcode < l.pcode || (m.pcode == l.pcode && decide (l.legal.getD 0 < m.legal.getD 0)) then some m else some l

/-- The first cycle that satisfies all broken rules; none if no cycle does. -/
def earliest : List Limit → Option Nat
  | [] => some 0
  | l :: t => match l.legal, earliest t with
    | some a, some b => some (if a < b then b else a)
    | _, _ => none

/-- A bank accrues on this cycle (R270). -/
def accrues (b t : Nat) : Bool := t % 5850 == 365 * b
/-- The bank's debt after the accrual of a cycle. -/
def Pch.debtOf (p : Pch) (b : Nat) : Int := (p.debt[b]?).getD 0
def Pch.debtAfter (p : Pch) (b t : Nat) : Int := p.debtOf b + (if accrues b t then 1 else 0)

/-- The bank's next accrual after a cycle. -/
def nextAccrual (b t : Nat) : Nat := t + 1 + (365 * b + 5850 - (t + 1) % 5850) % 5850

/-- The 128-bit detail of R275 as a trap. -/
def hbmTrap (cause dbt pcode : Nat) (prior early : Option Nat) (priorop op bank dstr : Nat) (debt : Int) (waddr pch : Nat) : Trap :=
  let rel (c : Option Nat) : Nat := match c with | some c => low ((c : Int) - dbt) 32 | none => 2 ^ 32 - 1
  { cause := cause
    lo := packBits [(52, 6, pcode), (44, 8, priorop), (36, 8, op), (32, 4, bank), (28, 4, dstr), (23, 5, low debt 5), (9, 14, waddr), (0, 9, pch)]
    hi := packBits [(32, 32, rel prior), (0, 32, rel early)] }

/-- The trap of some broken rules (R260, R275). -/
def Ctx.timingTrap (x : Ctx) (m : MStream) (op : Nat) (ls : List Limit) : Option Trap :=
  (worst ls).map fun l =>
    hbmTrap 19 x.g.dbt l.pcode (l.prior.map (·.cyc)) (earliest ls) ((l.prior.map (·.op)).getD 0) op l.bank m.n
      ((x.s.pch m.pch).debtAfter l.bank x.t) x.st.pc m.pch

/-! History. -/

/-- A command enters the history; what no parameter can still reach leaves it. -/
def Pch.record (p : Pch) (t op bank : Nat) : Pch :=
  { p with hist := (p.hist.filter fun e => decide (t < e.cyc + 320)) ++ [⟨t, op, bank, false⟩] }
def Pch.setBank (p : Pch) (b : Nat) (s : BankSt) : Pch := { p with banks := p.banks.set b s }

/-- The implicit precharge of RDA and WRA (R263). -/
def Pch.autoPre (p : Pch) (t op b : Nat) : Pch :=
  let u := t + (if op = opRda then 6 else 24)
  let a := p.lastAct b + 42
  let q := if u < a then a else u
  let p := p.setBank b (.closing q)
  { p with hist := p.hist ++ [⟨q, op, b, true⟩] }

def Pch.activate (p : Pch) (t b row : Nat) : Pch := (p.record t opAct b).setBank b (.active row)
/-- A precharge of an active bank; another is unaffected (R265). -/
def Pch.precharge (p : Pch) (t op b : Nat) : Pch :=
  match p.bankAt b t with
  | .active _ => (p.record t op b).setBank b .idle
  | _ => p
def Pch.refresh (p : Pch) (t b : Nat) : Pch := { p.record t opRefpb b with debt := p.debt.set b (p.debtOf b - 1) }
/-- A column command. -/
def Pch.column (p : Pch) (t op b : Nat) : Pch :=
  let p := p.record t op b
  if op = opRda ∨ op = opWra then p.autoPre t op b else p

/-! Rings (R256, R257). -/

/-- The byte address of a ring beat, where the command may use the ring. -/
def MStream.beat (m : MStream) (b : Nat) : Option Nat :=
  if m.lines = 0 ∨ b ≥ 2 * m.lines then none else some (64 * m.base + 32 * ((m.cur + b) % (2 * m.lines)))

/-- The fetch of a ring beat on issue − 20 (R257, R264): what it read, poisoned where the beat cannot be corrected or its flit cannot, and
the record-mode hazard. -/
structure RingRead where
  rd : Read
  hit : Option Hazard
  flit : Bool := false

def RingRead.psn (r : RingRead) : Bool := r.rd.psn || r.rd.bad.isSome || r.flit

/-- The die of a memory stream's stack, and the one of its ring (R298). -/
def Ctx.ringDies (x : Ctx) (m : MStream) : Nat × Nat := (stackDie m.pch, ((x.g.coreAt m.rank).map (·.gcore)).getD 0 / 32)

/-- The faults of a ring fetch and what it reads (R257). -/
def Ctx.ringFetch (x : Ctx) (m : MStream) (addr : Nat) : Except Trap RingRead :=
  if x.t < x.g.segStart + 20 then .error { cause := 16, lo := 6 }
  else
    match x.g.coreAt m.rank with
    | none => .error { cause := 2 }
    | some c =>
      let l : Loc := .cm addr 32
      match hazardOf (x.t - 20) true c.claims l with
      | some h => .error (missTrap x.g.dbt h)
      | none =>
        let k := cmKey c.gcore addr
        let d := x.ringDies m
        let r : RingRead := ⟨(x.s.asAt (x.t - 20) k 32).fetch k 32, none, (x.s.badFlit d.2 d.1).isSome⟩
        match hazardOf (x.t - 20) false c.claims l with
        | none => .ok r
        | some h => if c.mode = 2 then .error (hazTrap x.g.dbt h) else .ok { r with hit := if c.mode = 1 then some h else none }

/-- The record-log entry of a ring fetch: SEGT from the issue cycle, EARLY from the fetch cycle (R257). -/
def Ctx.ringLog (x : Ctx) (m : MStream) (r : RingRead) (g : Gang) : Gang :=
  match r.hit with
  | none => g
  | some h => g.modCore m.rank fun c =>
      let e := BitVec.ofNat 128 (packBits [(64, 21, x.t - x.g.dbt), (50, 14, x.st.pc), (45, 5, x.who.strm.code), (42, 3, h.space),
        (21, 21, h.index), (0, 21, h.claim.land - (x.t - 20))])
      { c with hits := if c.hits < 65535 then c.hits + 1 else 65535, log := (c.log ++ [e]).take 32 }

/-- What a ring fetch met is recorded (R385, R386, R389); a beat it writes to remembers the unit. -/
def Ctx.ringNote (x : Ctx) (m : MStream) (r : RingRead) (dst : Nat) (s : State) : State :=
  let d := x.ringDies m
  (((s.correctedAll (some x.g) 0 r.rd).movedBad (some x.g) 0 r.rd (some dst)).flitBetween x.gid d.2 d.1 dst).1

/-- A delivery of 32 bytes into a ring beat on u + 136 (R257), poisoned where its flit cannot be corrected (R298, R385). -/
def Ctx.deliverRing (x : Ctx) (m : MStream) (addr : Nat) (bs : List Byte) (psn : Bool) : List (Nat × Loc × Nat) × List (Nat × Act) :=
  match x.g.coreAt m.rank with
  | none => ([], [])
  | some c =>
    let t := x.t + 136
    let d := x.ringDies m
    ([(m.rank, .cm addr 32, t)], (t, .mem (cmKey c.gcore addr) bs (psn || (x.s.badFlit d.1 d.2).isSome)) :: bankActs t c.gcore true [addr / 64])

/-- The beat of a ring. -/
def Ctx.ringKey (x : Ctx) (m : MStream) (addr : Nat) : Nat := cmKey (((x.g.coreAt m.rank).map (·.gcore)).getD 0) addr

/-- The record of a delivery's flit. -/
def Ctx.deliverNote (x : Ctx) (m : MStream) (addr : Nat) (s : State) : State :=
  let d := x.ringDies m
  (s.flitBetween x.gid d.1 d.2 (x.ringKey m addr)).1

/-! Plans. -/

/-- A memory-stream command: its stream, or cause 1 elsewhere (R128, R255). -/
def Ctx.withMem (x : Ctx) (k : MStream → Pch → Plan) : Plan :=
  match x.m with
  | some m => k m (x.s.pch m.pch)
  | none => .bad [] 1

/-- A plan that changes the pseudo-channel. -/
def pchPlan (m : MStream) (f : Pch → Pch) : Plan := ⟨[], .ok { dev := fun s => s.modPch m.pch f }⟩

/-- ACT (R262). -/
def planAct (bank : BitVec 4) (row : BitVec 16) (x : Ctx) : Plan := x.withMem fun m p =>
  let b := bank.toNat
  let r := m.rb + row.toNat
  match x.timingTrap m opAct (p.broken opAct b x.t) with
  | some tr => ⟨[], .error tr⟩
  | none =>
    match m.rows[r]? with
    | none => ⟨[], .error (hbmTrap 33 x.g.dbt 22 none none 0 opAct b m.n (p.debtAfter b x.t) x.st.pc m.pch)⟩
    | some phys => pchPlan m fun p => p.activate x.t b phys

/-- PRE (R265). -/
def planPre (bank : BitVec 4) (x : Ctx) : Plan := x.withMem fun m p =>
  let b := bank.toNat
  let ls := if (p.bankAt b x.t).row.isSome then p.broken opPre b x.t else []
  match x.timingTrap m opPre ls with
  | some tr => ⟨[], .error tr⟩
  | none => pchPlan m fun p => p.precharge x.t opPre b

/-- PREA (R265): every active bank, each checked. -/
def planPrea (x : Ctx) : Plan := x.withMem fun m p =>
  let act := (List.range 16).filter fun b => (p.bankAt b x.t).row.isSome
  match x.timingTrap m opPrea (act.map fun b => p.broken opPrea b x.t).flatten with
  | some tr => ⟨[], .error tr⟩
  | none => pchPlan m fun p => act.foldl (fun p b => p.precharge x.t opPrea b) p

/-- REFPB (R266, R270). -/
def planRefpb (bank : BitVec 4) (x : Ctx) : Plan := x.withMem fun m p =>
  let b := bank.toNat
  let pull := if p.debtAfter b x.t - 1 < -8 then [(⟨19, some (nextAccrual b x.t), none, b⟩ : Limit)] else []
  match x.timingTrap m opRefpb (p.broken opRefpb b x.t ++ pull) with
  | some tr => ⟨[], .error tr⟩
  | none => pchPlan m fun p => p.refresh x.t b

/-- The key of a column of an open row. -/
def colKey (pch row bank col : Nat) : Nat := pch * pchBytes + row * 16384 + bank * 1024 + col * 32

/-- The column a command names, or the fault of R258 to R260. -/
def Ctx.column (x : Ctx) (m : MStream) (p : Pch) (op b col : Nat) : Except Trap Nat :=
  match x.timingTrap m op (p.broken op b x.t) with
  | some tr => .error tr
  | none =>
    match (p.bankAt b x.t).row with
    | some r => .ok (colKey m.pch r b col)
    | none => .error { cause := 19 }

/-- A corrected or uncorrectable column read is recorded by the base die (R264, R389, R397). -/
def State.colNote (s : State) (gid : Nat) (r : Read) (dst : Option Nat) : State :=
  (s.correctedAll (aget gid s.gangs) 2 r).movedBad (aget gid s.gangs) 2 r dst

/-- RD, RDA (R263, R264). -/
def planRd (auto : Bool) (bank : BitVec 4) (col : BitVec 5) (beat : BitVec 13) (x : Ctx) : Plan := x.withMem fun m p =>
  let b := bank.toNat
  let op := if auto then opRda else opRd
  match m.beat beat.toNat with
  | none => .bad [] 2
  | some addr =>
    match x.column m p op b col.toNat with
    | .error tr => ⟨[], .error tr⟩
    | .ok k =>
      let r := x.s.fetch k 32
      let d := x.deliverRing m addr r.bytes (r.psn || r.bad.isSome)
      ⟨[], .ok { deliver := d.1, acts := d.2
                 dev := fun s => x.deliverNote m addr ((s.modPch m.pch fun p => p.column x.t op b).colNote x.gid r (some (x.ringKey m addr))) }⟩

/-- RDZ (R263, R264). -/
def planRdz (bank : BitVec 4) (col : BitVec 5) (x : Ctx) : Plan := x.withMem fun m p =>
  match x.column m p opRdz bank.toNat col.toNat with
  | .error tr => ⟨[], .error tr⟩
  | .ok k =>
    let r := x.s.fetch k 32
    ⟨[], .ok { dev := fun s => (s.modPch m.pch fun p => p.column x.t opRdz bank.toNat).colNote x.gid r none }⟩

/-- WR, WRA and WRM (R263, R264): `mask` picks the 4-byte groups written. -/
def planWrite (op : Nat) (mask : BitVec 8) (bank : BitVec 4) (col : BitVec 5) (beat : BitVec 13) (x : Ctx) : Plan := x.withMem fun m p =>
  match m.beat beat.toNat with
  | none => .bad [] 2
  | some addr =>
    match x.column m p op bank.toNat col.toNat, x.ringFetch m addr with
    | .error t1, .error t2 => ⟨[], .error (if t2.cause < t1.cause then t2 else t1)⟩
    | .error tr, .ok _ => ⟨[], .error tr⟩
    | .ok _, .error tr => ⟨[], .error tr⟩
    | .ok k, .ok r =>
      let old := x.s.fetch k 32
      let all := mask = BitVec.allOnes 8
      let bs := ((List.range 32).zip (r.rd.bytes.zip old.bytes)).map fun q => if mask.getLsbD (q.1 / 4) then q.2.1 else q.2.2
      let psn := r.psn || (op == opWrm && !decide all && (old.psn || old.bad.isSome))
      ⟨[], .ok { gang := x.ringLog m r
                 dev := fun s =>
                   let s := s.modPch m.pch fun p => p.column x.t op bank.toNat
                   let s := if op = opWrm then s.colNote x.gid old (if all then none else some k) else s
                   (x.ringNote m r k s).store k bs psn }⟩

def planWr (bank : BitVec 4) (col : BitVec 5) (beat : BitVec 13) (x : Ctx) : Plan := planWrite opWr (BitVec.allOnes 8) bank col beat x
def planWra (bank : BitVec 4) (col : BitVec 5) (beat : BitVec 13) (x : Ctx) : Plan := planWrite opWra (BitVec.allOnes 8) bank col beat x
def planWrm (bank : BitVec 4) (col : BitVec 5) (beat : BitVec 13) (mask : BitVec 8) (x : Ctx) : Plan := planWrite opWrm mask bank col beat x

/-- WRZ (R263). -/
def planWrz (bank : BitVec 4) (col : BitVec 5) (x : Ctx) : Plan := x.withMem fun m p =>
  match x.column m p opWrz bank.toNat col.toNat with
  | .error tr => ⟨[], .error tr⟩
  | .ok k => ⟨[], .ok { dev := fun s => (s.modPch m.pch fun p => p.column x.t opWrz bank.toNat).store k (List.replicate 32 0) }⟩

/-- A change of the stream's ring, in place for every later command (R267). -/
def ringPlan (m : MStream) (f : MStream → MStream) : Plan := ⟨[], .ok { gang := fun g => g.modMem m.n f }⟩

/-- RING.SET (R267). -/
def planRingSet (base : BitVec 16) (lines : BitVec 13) (rank : BitVec 6) (x : Ctx) : Plan := x.withMem fun m _ =>
  let n := lines.toNat + 1
  if rank.toNat ≥ x.g.cores.length then .bad [] 2
  else if !x.g.inCarve ((64 * base.toNat : Nat) : Int) (64 * n) then .bad [] 33 (rangeLo 0 ((64 * base.toNat : Nat) : Int))
  else ringPlan m fun m => { m with rank := rank.toNat, base := base.toNat, lines := n, cur := 0 }

/-- RING.SEEK (R267). -/
def planRingSeek (rows : BitVec 16) (beat : BitVec 13) (x : Ctx) : Plan := x.withMem fun m _ =>
  if beat.toNat ≥ 2 * m.lines then .bad [] 2 else ringPlan m fun m => { m with cur := beat.toNat, rb := rows.toNat }

/-- RING.ADV (R267). -/
def planRingAdv (rows : BitVec 16) (beat : BitVec 13) (x : Ctx) : Plan := x.withMem fun m _ =>
  let rb := (m.rb : Int) + rows.toInt
  if m.lines = 0 ∨ rb < 0 ∨ 49151 < rb then .bad [] 2
  else ringPlan m fun m => { m with cur := (m.cur + beat.toNat) % (2 * m.lines), rb := rb.toNat }

/-- RING.GONG (R268): the handle is fetched on u − 20 and used on u + 136; a handle that cannot be read is recorded as a fetch before it is
consumed on u (R386, R387). -/
def planRingGong (beat : BitVec 13) (x : Ctx) : Plan := x.withMem fun m _ =>
  match m.beat beat.toNat with
  | none => .bad [] 2
  | some addr =>
    match x.ringFetch m addr with
    | .error tr => ⟨[], .error tr⟩
    | .ok r =>
      let h := leNat (r.rd.bytes.take 8)
      let k := x.ringKey m addr
      if r.psn then
        ⟨[], .ok { acts := [(x.t, .late { cause := 65, key := k, hi := rangeLo 0 (addr : Int) })], dev := x.ringNote m r k }⟩
      else
        let peer := match x.handle h false with | .ok p => x.peerBank p (x.t + 136) true | .error _ => []
        ⟨[], .ok { gang := x.ringLog m r, acts := (x.t + 136, .ringRegist (BitVec.ofNat 64 h)) :: peer, dev := x.ringNote m r k }⟩

/-- The mark of DMARK (R269). -/
def Pch.mark (p : Pch) (t n : Nat) (code : BitVec 8) : List Byte :=
  leBytes 8 t ++ [BitVec.ofNat 8 n, code] ++ ((List.range 16).map fun b => BitVec.ofInt 8 (p.debtAfter b t)) ++
    leBytes 2 ((List.range 16).foldl (fun v b => if (p.bankAt b t).isIdle then v else v + 2 ^ b) 0) ++ leBytes 4 0

def planDmark (beat : BitVec 13) (code : BitVec 8) (x : Ctx) : Plan := x.withMem fun m p =>
  match m.beat beat.toNat with
  | none => .bad [] 2
  | some addr =>
    let d := x.deliverRing m addr (p.mark x.t m.n code) false
    ⟨[], .ok { deliver := d.1, acts := d.2, dev := x.deliverNote m addr }⟩

/-- The handle of a RING.GONG is checked, registered and counted on u + 136 (R268). The answer is the count-down left to
apply; none where its request of a bank met another one (R107). -/
def State.ringRegist (s : State) (lost : Nat → Bool) (gid : Nat) (w : Who) (h : BitVec 64) : State × List GongUpd :=
  match aget gid s.gangs with
  | none => (s, [])
  | some g =>
    match g.coreAt w.rank with
    | none => (s, [])
    | some c =>
      let st : Stream := { id := w.strm, pc := w.waddr, base := 0, floor := 0, st := .run, mark := 0, loops := [], opened := [], stopAt := none }
      let x : Ctx := { s := s, gid := gid, g := g, c := c, st := st, m := none, who := w, words := 1 }
      match x.handle h.toNat false with
      | .error tr => (s.raiseCut gid s.tlc w tr, [])
      | .ok p =>
        let key := p.key s g c
        let s' := s.regist gid w h key
        match aget gid s'.gangs with
        | some g' =>
          if (s.gongTrap key (0, 0)).isNone && (s.gong key).gen == h.toNat / 2 ^ 60 && !lost key then (s', (g'.countUpd gid w true h key).toList)
          else (s', [])
        | none => (s', [])

/-! Fetches to come (R257): the words a memory stream will issue are fixed, so a requester of cycle u − 20 is known then. -/

/-- A memory stream's course: where it is, its levels and its ring. -/
structure Peek where
  pc : Nat
  base : Nat
  floor : Nat
  loops : List LoopLv
  m : MStream

/-- The word address of the command that issues on `target`, the address of the ring beat that it fetches, and the rank of its ring. -/
def State.peek (s : State) (g : Gang) (target : Nat) : Nat → Peek → Option (Nat × Nat × Nat)
  | 0, _ => none
  | fuel + 1, k =>
    match s.wordAt g 0 k.m.strm.id k.pc with
    | none => none
    | some r =>
      let t := k.base + (if idleOf r.word < k.floor then k.floor else idleOf r.word)
      if target < t then none
      else
        let nx : Peek := { k with pc := k.pc + 1, base := t + 1, floor := 0 }
        let use (b : BitVec 13) : Option (Nat × Nat × Nat) := if t = target then (k.m.beat b.toNat).map fun a => (k.pc, a, k.m.rank) else s.peek g target fuel nx
        match decode k.m.strm.id r.word none with
        | .ok i =>
          match i with
          | .wr _ _ b => use b
          | .wra _ _ b => use b
          | .wrm _ _ b _ => use b
          | .ringGong b => use b
          | .wait n => s.peek g target fuel { nx with base := t + n.toNat + 1 }
          | .loop l per =>
            let c := (k.m.counts[l.toNat]?).getD 0
            if c = 0 then
              s.peek g target fuel { nx with pc := (findEndl s g 0 k.m.strm.id l.toNat 4096 (k.pc + 1)).getD (k.m.entry + k.m.len) + 1 }
            else s.peek g target fuel { nx with loops := ⟨l.toNat, t + 1, per.toNat + 1, c, 0, k.pc + 1, k.pc, none⟩ :: k.loops }
          | .endl _ =>
            match k.loops with
            | [] => none
            | l :: rest =>
              let b := l.origin + (l.iter + 1) * l.period
              if l.iter + 1 < l.count then s.peek g target fuel { nx with pc := l.bodyPc, base := b, loops := { l with iter := l.iter + 1 } :: rest }
              else s.peek g target fuel { nx with base := b, loops := rest }
          | .ringSet ba li ra => s.peek g target fuel { nx with m := { k.m with rank := ra.toNat, base := ba.toNat, lines := li.toNat + 1, cur := 0 } }
          | .ringSeek _ b => s.peek g target fuel { nx with m := { k.m with cur := b.toNat } }
          | .ringAdv _ b => s.peek g target fuel { nx with m := { k.m with cur := (k.m.cur + b.toNat) % (2 * k.m.lines) } }
          | .hold => none
          | .endstep => none
          | .trap _ => none
          | _ => s.peek g target fuel nx
        | .error _ => none

/-- The levels a stream is in once the iteration that has closed is counted. -/
def loopsNow : List LoopLv → List LoopLv
  | [] => []
  | l :: rest =>
    if l.endl.isSome then (if l.iter + 1 < l.count then { l with iter := l.iter + 1, endl := none } :: rest else rest) else l :: rest

/-- The ring fetch of a memory stream that reaches a bank on this cycle. -/
def State.fetchNow (s : State) (g : Gang) (m : MStream) : Option (Timed) :=
  if m.strm.st != .run then none
  else
    let k : Peek := ⟨m.strm.pc, m.strm.base, m.strm.floor, loopsNow m.strm.loops, m⟩
    match s.peek g (s.tlc + 20) 64 k with
    | some (pc, a, rank) =>
      if s.tlc < g.segStart then none
      else (g.coreAt rank).map fun c => ⟨s.tlc, ⟨0, m.strm.id, pc, s.tlc + 20⟩, .bank c.gcore (cmBank a) (a / 2048) false⟩
    | none => none

/-! Refresh and precharge outside the streams (R270, R271, R273). -/

/-- A lease is active while its step runs or ends (R254). -/
def State.leaseActive (s : State) (p : Pch) : Option (Nat × Gang) :=
  p.lease.bind fun gid => (aget gid s.gangs).bind fun g => if g.live then some (gid, g) else none

/-- An event of a fixed cycle takes place once. -/
def State.tickOnce (s : State) (kind key : Nat) : State := { s with ticked := (kind, key) :: s.ticked }

/-- REFRESH_ACCRUAL (R270): debt rises by one on the bank's own cycles; a leased bank above 8 faults; a pooled controller
pays at once (R300). -/
def State.accrue (s : State) (n b : Nat) : State :=
  let p := s.pch n
  if !accrues b s.tlc ∨ b ≥ 16 ∨ s.ticked.contains (2, n * 16 + b) then s
  else
    let s := s.tickOnce 2 (n * 16 + b)
    let d := p.debtOf b + 1
    let set_ (v : Int) : State := s.modPch n fun p => { p with debt := p.debt.set b v }
    match s.leaseActive p with
    | some (gid, g) =>
      let s' := set_ d
      if 8 < d then
        match g.mems.find? fun m => m.pch == n with
        | some m => s'.raise gid s.tlc (some ⟨0, m.strm.id, 0, s.tlc⟩) (hbmTrap 20 g.dbt 20 none none 0 0xFF b m.n d 0 n)
        | none => s'
      else s'
    | none => if p.mode = .pooled ∧ (p.bankAt b s.tlc).isIdle ∧ (p.broken opRefpb b s.tlc).isEmpty then
        (set_ d).modPch n fun p => p.refresh s.tlc b else set_ d

/-- A refresh the base die may issue now (R271): no active lease, positive debt, an idle bank, every parameter met. -/
def State.baseMayRefresh (s : State) (n b : Nat) : Bool :=
  let p := s.pch n
  (s.leaseActive p).isNone && !p.quiet && p.mode != .retired && decide (0 < p.debtOf b) && (p.broken opRefpb b s.tlc).isEmpty

def State.baseRefresh (s : State) (n b : Nat) : State := if s.baseMayRefresh n b then s.modPch n fun p => p.refresh s.tlc b else s

/-- A stream that issues no more word of this attempt. -/
def Stream.over (s : Stream) : Bool := s.st == .ended || s.st == .stopped

/-- The memory stream of an ending attempt on a pseudo-channel has issued its last command (R41, R273): it stopped, or cycle f + 32 has
passed. -/
def State.streamOver (s : State) (g : Gang) (n : Nat) : Bool :=
  match g.phase, g.fault with
  | .ending, some f => decide (f.f + 32 < s.tlc) || (decide (f.f < s.tlc) && g.mems.any fun m => m.pch == n && m.strm.over)
  | _, _ => false

/-- A precharge by the sequencer of an ending attempt (R273). -/
def State.mayAbandonPre (s : State) (n b : Nat) : Bool :=
  let p := s.pch n
  (p.bankAt b s.tlc).row.isSome && (p.broken opPre b s.tlc).isEmpty &&
  match p.lease.bind fun gid => aget gid s.gangs with
  | some g => s.streamOver g n
  | none => false

def State.abandonPre (s : State) (n b : Nat) : State := if s.mayAbandonPre n b then s.modPch n fun p => p.precharge s.tlc opPre b else s

/-- The first cycle from `t` on for a column command after every command recorded and planned (R259). -/
def Pch.columnFrom (p : Pch) (op b t : Nat) : Nat :=
  (p.hist.map fun e => ((List.range 16).filterMap fun i => (param i e op b).map fun n => e.cyc + n)).flatten.foldl Nat.max
    ((p.hist.filter fun e => e.is isColOp).foldl (fun n e => Nat.max n (e.cyc + 1)) t)

/-- A pooled row (R301): opened on cycle t, its columns two cycles apart behind those planned already, and its implicit precharge by
R263. Rows of agents that do not wait are forgotten once their columns are over (log 89). -/
def Pch.serveRow (p : Pch) (t : Nat) (q : PoolReq) : Pch :=
  let op := if q.wr then opWr else opRd
  let p := p.record t opAct q.bank
  let u := p.columnFrom op q.bank (t + 21)
  let last := u + 2 * (q.cols.length - 1)
  let close := Nat.max (last + (if q.wr then 24 else 6)) (t + 42)
  { p.setBank q.bank (.closing close) with
    hist := p.hist ++ ((List.range q.cols.length).map fun i => (⟨u + 2 * i, op, q.bank, false⟩ : HbmCmd)) ++
      [⟨close, if q.wr then opWra else opRda, q.bank, true⟩]
    pool := (p.pool.map fun r => if r == q then { q with start := some u } else r).filter fun r => r.req.isSome || !r.over t }

/-- POOLED_SLOT (R301; log 89): on a cycle with TLC mod 6 = 0 the oldest waiting request whose bank has met every parameter opens its
row. -/
def State.pooledSlot (s : State) (n : Nat) : State :=
  let p := s.pch n
  if s.tlc % 6 ≠ 0 ∨ p.mode ≠ .pooled ∨ s.ticked.contains (1, n) then s
  else
    let s := s.tickOnce 1 n
    match p.pool.find? fun q => q.start.isNone && (p.broken opAct q.bank s.tlc).isEmpty with
    | none => s
    | some q => s.modPch n fun p => p.serveRow s.tlc q

end Sys2Proof.Machine
end

