-- ==== Sys2Proof/Machine/System.lean ====
section
/-! DEFINITION. HOLD and ENDSTEP, and the events of segments, loops and dynamic waits: 03 R96 and R97, 05 R149 to R155. -/
namespace Sys2Proof.Machine

/-- HOLD (R149, R154, R181). -/
def planHold (x : Ctx) : Plan :=
  if !x.st.loops.isEmpty then .bad [] 16 kindNest
  else match x.portsTrap with
    | some tr => ⟨[], .error tr⟩
    | none => ⟨[], .ok { flow := some fun s => { s with pc := s.pc + 1, st := .hold } }⟩

/-- Streams of a core that sit on HOLD; memory streams count as streams of rank 0 (R155). DESIGN CHOICE (log 82): a stream that issues HOLD
on the cycle of `c`'s ENDSTEP is not held yet, since `c` issues first, so that ENDSTEP does not trap. -/
def Ctx.held (x : Ctx) : Bool :=
  (x.c.streams.any fun s => s.st == .hold) || (x.who.rank == 0 && x.g.mems.any fun m => m.strm.st == .hold)

/-- The bank that is still active at a memory stream's ENDSTEP (R272). -/
def Ctx.openBank (x : Ctx) : Option Trap :=
  match x.m with
  | none => none
  | some m =>
    let p := x.s.pch m.pch
    ((List.range 16).find? fun b => (p.bankAt b x.t).row.isSome).map fun b =>
      hbmTrap 22 x.g.dbt 21 none none 0 0x30 b m.n (p.debtAfter b x.t) x.st.pc m.pch

/-- ENDSTEP (R154, R155, R181, R272). -/
def planEndstep (x : Ctx) : Plan :=
  if !x.st.loops.isEmpty then .bad [] 16 kindNest
  else if x.who.strm = .c ∧ x.held then .bad [] 16 kindStruct
  else match firstTrap [x.portsTrap, x.openBank] with
    | some tr => ⟨[], .error tr⟩
    | none => ⟨[], .ok { flow := some fun s => { s with st := .ended } }⟩

/-! Release (R96, R150, R154, R155). -/

/-- Every gang core's `c` stream has issued its CUE, or is absent. -/
def Gang.allCued (g : Gang) : Bool :=
  !g.cues.isEmpty && g.cores.all fun c => match c.strm .c with | some s => s.st == .cued | none => true

/-- The release cycle: the latest of the CUEs. -/
def Gang.releaseAt (g : Gang) : Nat := g.cues.foldl (fun t q => if t < q.rel then q.rel else t) 0

/-- A stream enters the new segment (R96). -/
def Stream.release (t : Nat) (s : Stream) : Stream :=
  match s.st with
  | .hold | .cued => { s with st := .run, base := t, floor := 0, opened := [] }
  | _ => s

/-- A stream that has not issued HOLD in time, or issued ENDSTEP (R96, R155). -/
def Stream.missed (s : Stream) : Bool :=
  s.id != .c && (match s.st with | .run | .ended => true | .wait _ _ => true | _ => false)

/-- The faults of a release: streams without HOLD, and CUEs whose counts differ from rank 0's (R96). -/
def Gang.releaseFaults (g : Gang) (t : Nat) : List (Who × Trap) :=
  let cue (r : Nat) : Option Who := (g.cues.find? fun q => q.rank == r).map (·.who)
  let miss (r : Nat) (s : Stream) : List (Who × Trap) :=
    if s.missed then [(⟨r, s.id, s.pc, t⟩, { cause := 16, lo := 2, due := t - g.dbt, other := cue r })] else []
  let counts := match g.cues.find? fun q => q.rank == 0 with
    | none => []
    | some z => g.cues.filterMap fun q => if q.counts == z.counts then none else
        some (q.who, ({ cause := 16, lo := kindStruct, due := t - g.dbt, other := some z.who } : Trap))
  ((List.range g.cores.length).zip g.cores).foldl (fun l q => l ++ (q.2.streams.map (miss q.1)).flatten) [] ++
    (g.mems.map fun m => miss 0 m.strm).flatten ++ counts

/-- SEGMENT_RELEASE: on the release cycle the streams go on with the counts of their CUE. -/
def State.segmentRelease (s : State) (gid : Nat) : State :=
  match aget gid s.gangs with
  | none => s
  | some g =>
    if !(g.live && g.allCued && g.releaseAt == s.tlc) then s
    else
      let counts (r : Nat) (old : List Nat) : List Nat := match g.cues.find? fun q => q.rank == r with | some q => q.counts | none => old
      let g' : Gang := { g with
        segStart := s.tlc, cues := [], nest := []
        cores := g.cores.map fun c => { c with counts := counts c.rank c.counts, streams := c.streams.map (Stream.release s.tlc) }
        mems := g.mems.map fun m => { m with counts := counts 0 m.counts, strm := m.strm.release s.tlc } }
      (g.releaseFaults s.tlc).foldl (fun s f => s.raise gid s.tlc (some f.1) f.2) { s with gangs := aset gid g' s.gangs }

/-! Iterations (R97, R153, R154). -/

/-- The cycle on which a level's next iteration begins, or the level ends. -/
def LoopLv.boundary (l : LoopLv) : Nat := l.origin + (l.iter + 1) * l.period

/-- The innermost level that reaches its boundary on a cycle. -/
def boundaryLevel (t : Nat) : List LoopLv → Option LoopLv
  | [] => none
  | l :: r => if l.boundary = t then some l else boundaryLevel t r

/-- A stream whose level reaches a boundary now. -/
def Stream.boundaryNow (s : Stream) (t : Nat) : Bool :=
  (match s.st with | .run => true | _ => false) && (boundaryLevel t s.loops).isSome

/-- The innermost level begins its next iteration or ends. -/
def Stream.iterate (s : Stream) : Stream :=
  match s.loops with
  | [] => s
  | l :: r => { s with loops := if l.iter + 1 < l.count then { l with iter := l.iter + 1, endl := none } :: r else r }

/-- LOOP_ITERATION_START. -/
def State.iteration (s : State) (gid rank : Nat) (id : StreamId) : State :=
  match (aget gid s.gangs).bind fun g => (g.strm rank id).map fun st => (g, st) with
  | none => s
  | some (g, st) =>
    if !(g.live && st.boundaryNow s.tlc) then s
    else
      match st.loops, boundaryLevel s.tlc st.loops with
      | h :: _, some l =>
        if l.lvl = h.lvl ∧ h.endl.isSome then s.modGang gid fun g => g.modStrm rank id Stream.iterate
        else s.raise gid s.tlc (some ⟨rank, id, st.pc, s.tlc⟩) { cause := 16, lo := kindNest, due := s.tlc - g.dbt }
      | _, _ => s

/-! Dynamic waits (R151, R152, R244). -/

/-- The wait of a core's `c` stream. -/
def Gang.waitOf (g : Gang) (rank : Nat) : Option (Core × WaitCond × Who) :=
  (g.coreAt rank).bind fun c => (c.strm .c).bind fun s => match s.st with | .wait w who => some (c, w, who) | _ => none

/-- The place key of a handle as a core names it. -/
def State.handleKey (s : State) (g : Gang) (c : Core) (h : BitVec 64) : Nat :=
  match placeOf (fld h.toNat 57 3) (fld h.toNat 0 31) with | some p => p.key s g c | none => 0

/-- Whether a wait's condition holds on this cycle. -/
def State.waitHolds (s : State) (g : Gang) (c : Core) (w : WaitCond) (who : Who) : Bool :=
  match w with
  | .tags m => c.pend &&& m == 0
  | .gong h lat => s.gongWaitEnds (s.handleKey g c h) h lat who.issue

/-- DYNAMIC_WAIT_END: the next word issues at e + 1 + IDLE; DONE bits of an AWAIT clear on e + 1. -/
def State.waitEnd (s : State) (gid rank : Nat) : State :=
  match (aget gid s.gangs).bind fun g => (g.waitOf rank).map fun w => (g, w) with
  | none => s
  | some (g, c, w, who) =>
    if !(g.live && s.waitHolds g c w who) then s
    else
      let s := s.modGang gid fun g => g.modStrm rank .c fun st => { st with st := .run, base := s.tlc + 1, floor := 0 }
      match w with
      | .tags m => s.addAgenda gid [⟨s.tlc + 1, who, .clrDone m⟩]
      | .gong _ _ => s

/-- WAIT_BUDGET_EXHAUSTED: a wait whose condition does not hold and whose budget is 0 makes the step a waiter (R37, R151). The fault is a
candidate of its cycle beside others of the stream's words that are met on it (R108). -/
def State.budgetOut (s : State) (gid rank : Nat) : State :=
  match (aget gid s.gangs).bind fun g => (g.waitOf rank).map fun w => (g, w) with
  | none => s
  | some (g, c, w, who) =>
    if !g.live || s.waitHolds g c w who || c.budget != 0 then s
    else
      let (lo, hi) := match w with | .tags m => (m.toNat, 0) | .gong h _ => (h.toNat, 1)
      let on := match w with | .tags _ => WaitOn.now | .gong h _ => .gong (s.handleKey g c h) h s.tlc
      (s.raise gid s.tlc (some who) { cause := 49, lo := lo, hi := hi }).modGang gid fun g =>
        { g.modStrm rank .c (fun st => { st with st := .stopped }) with wait := if g.fault.any fun f => f.who == some who && f.trap.cause == 49 then some on else g.wait }

/-- BUDGET falls by one for each cycle a core waits (R37, R151). -/
def Gang.spendBudget (g : Gang) : Gang :=
  { g with cores := g.cores.map fun c => match c.strm .c with
      | some st => (match st.st with | .wait _ _ => { c with budget := c.budget - 1 } | _ => c)
      | none => c }

end Sys2Proof.Machine
end

