-- ==== Sys2Proof/Machine/VectorMem.lean ====
section
/-! DEFINITION. Vector loads and stores of 06_vector_instructions (R175 to R177). -/
namespace Sys2Proof.Machine

/-- A repetition-free list. -/
def dedup : List Nat → List Nat
  | [] => []
  | a :: t => if t.contains a then dedup t else a :: dedup t

/-- Bytes of one lane (R175). -/
def laneBytes (d : Opnd) : Nat := d.width / 8

/-- The lane addresses of VLDS and VSTS: base + i × stride (R176). -/
def Ctx.strideAddrs (x : Ctx) (a b : Opnd) : List Int := (List.range 128).map fun (i : Nat) => x.c.rd a + (i : Int) * x.c.sx b
/-- The lane addresses of VLDX and VSTX: base + index × size (R176). -/
def Ctx.indexAddrs (x : Ctx) (a b d : Opnd) : List Int := (x.c.vrd b).map fun v => ((x.c.rd a + v * laneBytes d : Nat) : Int)

/-- The first active lane whose bytes leave the carve-out (R177). DESIGN CHOICE (log 97): DETAIL names the first byte of the lowest such
lane, where R287 does not say which address. -/
def Ctx.laneOut (x : Ctx) (ads : List Int) (act : List Nat) (n : Nat) : Option Int :=
  (act.find? fun i => !x.g.inCarve ((ads[i]?).getD 0) n).map fun i => (ads[i]?).getD 0

/-- VLD (R175). -/
def planVld (d a : Opnd) (imm : BitVec 18) (x : Ctx) : Plan :=
  let n := laneBytes d
  let ad := x.cmAddr a imm
  let reads := a.xloc :: cmLoc ad (128 * n)
  if !x.g.inCarve ad (128 * n) then .bad reads 33 (rangeLo 0 ad)
  else
    match x.cmPoison ad (128 * n) with
    | some tr => ⟨reads, .error tr⟩
    | none =>
      ⟨reads, .ok { claims := [(.v d.start.toNat d.slices (BitVec.allOnes 128), x.t + 5)]
                    acts := (x.t, .vload [ad.toNat] (BitVec.allOnes 128) n d.start.toNat d.width (x.t + 5))
                      :: bankActs (x.t + 1) x.c.gcore false (linesOf ad.toNat (128 * n)) }⟩

/-- VST (R175). -/
def planVst (d a : Opnd) (imm : BitVec 18) (x : Ctx) : Plan :=
  let n := laneBytes d
  let ad := x.cmAddr a imm
  let reads := [a.xloc, d.vloc]
  if !x.g.inCarve ad (128 * n) then .bad reads 33 (rangeLo 0 ad)
  else
    let bs := ((x.c.vrd d).map (leBytes n)).foldr (· ++ ·) []
    ⟨reads, .ok { claims := [(.cm ad.toNat (128 * n), x.t + 3)]
                  acts := (x.t + 3, .mem (cmKey x.c.gcore ad.toNat) bs false)
                    :: bankActs (x.t + 3) x.c.gcore true (linesOf ad.toNat (128 * n)) }⟩

/-- Bank requests of one lane group: a line once, however many lanes reach it (R177). -/
def Ctx.groupActs (x : Ctx) (base : Nat) (wr : Bool) (ads : List Int) (act : List Nat) (n : Nat) : List (Nat × Act) :=
  ((List.range 8).map fun g =>
    bankActs (base + g) x.c.gcore wr
      (dedup (((act.filter fun i => i / 16 == g).map fun i => linesOf ((ads[i]?).getD 0).toNat n).foldr (· ++ ·) []))).foldr (· ++ ·) []

/-- What a vector load reads at the end of its issue cycle: the values of its active lanes. One address is that of lane 0, with the other
lanes behind it, and all reach their banks on the next cycle (R175); else lane group g reaches them g cycles later (R176). -/
def State.laneReads (s : State) (gid : Nat) (w : Who) (gcore : Nat) (addrs : List Nat) (m : Mask) (n : Nat) : State × List (Nat × Nat) :=
  match addrs with
  | [a] =>
    let r := s.loadRead gid w gcore a (128 * n) (s.tlc + 1)
    (r.1, (List.range 128).map fun i => (i, leNat ((r.2.drop (i * n)).take n)))
  | _ => (lanesIn m).foldl (fun (q : State × List (Nat × Nat)) i =>
      let r := q.1.loadRead gid w gcore ((addrs[i]?).getD 0) n (s.tlc + 1 + i / 16)
      (r.1, q.2 ++ [(i, leNat r.2)])) (s, [])

/-- What it reads lands in its active lanes. -/
def State.vload (s : State) (gid : Nat) (w : Who) (gcore : Nat) (addrs : List Nat) (m : Mask) (n start width land : Nat) : State :=
  let q := s.laneReads gid w gcore addrs m n
  q.1.modGang gid fun g => { g with agenda := g.agenda ++
    [⟨land, w, .wv start width m ((List.range 128).map fun i => (aget i q.2).getD 0)⟩] }

/-- VLDS and VLDX (R176, R177). -/
def planLaneLoad (reads : List Loc) (k : BitVec 3) (d : Opnd) (ads : List Int) (x : Ctx) : Plan :=
  let n := laneBytes d
  let act := lanesIn (x.gov k)
  let reads := kloc k.toNat :: reads ++ (act.map fun i => cmLoc ((ads[i]?).getD 0) n).foldr (· ++ ·) []
  match x.laneOut ads act n with
  | some ad => .bad reads 33 (rangeLo 0 ad)
  | none =>
    match act.findSome? fun i => x.cmPoison ((ads[i]?).getD 0) n with
    | some tr => ⟨reads, .error tr⟩
    | none =>
      let m := x.gov k
      ⟨reads, .ok { claims := if m = 0 then [] else [(.v d.start.toNat d.slices m, x.t + 12)]
                    acts := (if m = 0 then [] else [(x.t, .vload (ads.map Int.toNat) m n d.start.toNat d.width (x.t + 12))])
                      ++ x.groupActs (x.t + 1) false ads act n }⟩

def planVlds (k : BitVec 3) (d a b : Opnd) (x : Ctx) : Plan := planLaneLoad [a.xloc, b.xloc] k d (x.strideAddrs a b) x
def planVldx (k : BitVec 3) (d a b : Opnd) (x : Ctx) : Plan := planLaneLoad [a.xloc, b.vloc] k d (x.indexAddrs a b d) x

/-- VSTS and VSTX (R176, R177): groups land on successive cycles, a higher lane after a lower one. -/
def planLaneStore (reads : List Loc) (k : BitVec 3) (d : Opnd) (ads : List Int) (x : Ctx) : Plan :=
  let n := laneBytes d
  let act := lanesIn (x.gov k)
  let reads := kloc k.toNat :: d.vloc :: reads
  match x.laneOut ads act n with
  | some ad => .bad reads 33 (rangeLo 0 ad)
  | none =>
    let src := x.c.vrd d
    ⟨reads, .ok { claims := act.map fun i => (.cm ((ads[i]?).getD 0).toNat n, x.t + 3 + i / 16)
                  acts := (act.map fun i =>
                      (x.t + 3 + i / 16, .mem (cmKey x.c.gcore ((ads[i]?).getD 0).toNat) (leBytes n (nth src i)) false))
                    ++ x.groupActs (x.t + 3) true ads act n }⟩

def planVsts (k : BitVec 3) (d a b : Opnd) (x : Ctx) : Plan := planLaneStore [a.xloc, b.xloc] k d (x.strideAddrs a b) x
def planVstx (k : BitVec 3) (d a b : Opnd) (x : Ctx) : Plan := planLaneStore [a.xloc, b.vloc] k d (x.indexAddrs a b d) x

end Sys2Proof.Machine
end

