-- ==== Sys2Proof/Machine/Plan.lean ====
section
/-! DEFINITION. The plan of every instruction of the opcode map (R127): what its word does at issue. The device steps have
none. -/
namespace Sys2Proof.Machine

/-- The plan of a program word's instruction. -/
def planOf : Instr → Option (Ctx → Plan)
  | .add sg d a b => some (planBin .add sg d a b)
  | .sub sg d a b => some (planBin .sub sg d a b)
  | .mul sg d a b => some (planBin .mul sg d a b)
  | .mulh sg d a b => some (planBin .mulh sg d a b)
  | .div sg d a b => some (planDiv sg d a b)
  | .rem sg d a b => some (planRem sg d a b)
  | .min sg d a b => some (planBin .min sg d a b)
  | .max sg d a b => some (planBin .max sg d a b)
  | .and sg d a b => some (planBin .and sg d a b)
  | .or sg d a b => some (planBin .or sg d a b)
  | .xor sg d a b => some (planBin .xor sg d a b)
  | .andn sg d a b => some (planBin .andn sg d a b)
  | .shl sg d a b => some (planBin .shl sg d a b)
  | .shr sg d a b => some (planBin .shr sg d a b)
  | .rot sg d a b => some (planBin .rot sg d a b)
  | .clz d a => some (planUn .clz false d a)
  | .popc d a => some (planUn .popc false d a)
  | .extr sg d a b => some (planExtr sg d a b)
  | .insr sg d a b => some (planInsr sg d a b)
  | .cmp sf sg d a b => some (planCmp sf sg d a b)
  | .sel sg d a b c => some (planSel sg d a b c)
  | .mov sg d a => some (planUn .mov sg d a)
  | .addi d a imm => some (planImm .addi d a imm)
  | .andi d a imm => some (planImm .andi d a imm)
  | .ori d a imm => some (planImm .ori d a imm)
  | .xori d a imm => some (planImm .xori d a imm)
  | .shli sg n d a => some (planShli sg n d a)
  | .shri sg n d a => some (planShri sg n d a)
  | .cmpi d a imm => some (planImm .cmpi d a imm)
  | .li d imm => some (planLi d imm)
  | .liu d imm => some (planLiu d imm)
  | .lih d imm => some (planLih d imm)
  | .agen sf sg d a b => some (planAgen sf sg d a b)
  | .ageni d a imm => some (planAgeni d a imm)
  | .ld d a imm => some (planLd d a imm)
  | .st d a imm => some (planSt d a imm)
  | .spill d a imm => some (planSpill d a imm)
  | .fill d a imm => some (planFill d a imm)
  | .br cond a off => some (planBr cond a off)
  | .call a off => some (planCall a off)
  | .ret a => some (planRet a)
  | .brx a off => some (planBrx a off)
  | .loop lvl per => some (planLoop lvl per)
  | .endl lvl => some (planEndl lvl)
  | .cue a off => some (planCue a off)
  | .hold => some (planHold)
  | .wait n => some (planWait n)
  | .await mask => some (planAwait mask)
  | .endstep => some (planEndstep)
  | .mfsr d num => some (planMfsr d num)
  | .mtsr num a => some (planMtsr num a)
  | .abs sg d a => some (planUn .abs sg d a)
  | .neg sg d a => some (planUn .neg sg d a)
  | .adds sg d a b => some (planBin .adds sg d a b)
  | .subs sg d a b => some (planBin .subs sg d a b)
  | .muli d a imm => some (planImm .muli d a imm)
  | .ctz d a => some (planUn .ctz false d a)
  | .brev d a => some (planUn .brev false d a)
  | .crcx d a b => some (planCrcx d a b)
  | .rollk d a b => some (planRollk d a b)
  | .ktox hi k d => some (planKtox hi k d)
  | .xtok hi k a => some (planXtok hi k a)
  | .btst sg d a b => some (planBin .btst sg d a b)
  | .movc sg d a b => some (planMovc sg d a b)
  | .vadd sg k d a b => some (planVBin .add sg k d a b)
  | .vsub sg k d a b => some (planVBin .sub sg k d a b)
  | .vmul sg k d a b => some (planVBin .mul sg k d a b)
  | .vmulh sg k d a b => some (planVBin .mulh sg k d a b)
  | .vmin sg k d a b => some (planVBin .min sg k d a b)
  | .vmax sg k d a b => some (planVBin .max sg k d a b)
  | .vand sg k d a b => some (planVBin .and sg k d a b)
  | .vor sg k d a b => some (planVBin .or sg k d a b)
  | .vxor sg k d a b => some (planVBin .xor sg k d a b)
  | .vandn sg k d a b => some (planVBin .andn sg k d a b)
  | .vshl sg k d a b => some (planVBin .shl sg k d a b)
  | .vshr sg k d a b => some (planVBin .shr sg k d a b)
  | .vabs sg k d a => some (planVUn .abs sg k d a)
  | .vneg sg k d a => some (planVUn .neg sg k d a)
  | .vadds sg k d a b => some (planVBin .adds sg k d a b)
  | .vsubs sg k d a b => some (planVBin .subs sg k d a b)
  | .vfadd fmt rnd k d a b => some (planVfadd fmt rnd k d a b)
  | .vfsub fmt rnd k d a b => some (planVfsub fmt rnd k d a b)
  | .vfmul fmt rnd k d a b => some (planVfmul fmt rnd k d a b)
  | .vfma fmt rnd k d a b c => some (planVfma false false fmt rnd k d a b c)
  | .vfms fmt rnd k d a b c => some (planVfma false true fmt rnd k d a b c)
  | .vfnma fmt rnd k d a b c => some (planVfma true false fmt rnd k d a b c)
  | .vfnms fmt rnd k d a b c => some (planVfma true true fmt rnd k d a b c)
  | .vfmin fmt k d a b => some (planVfmm false fmt k d a b)
  | .vfmax fmt k d a b => some (planVfmm true fmt k d a b)
  | .vfabs fmt k d a => some (planVfsign false fmt k d a)
  | .vfneg fmt k d a => some (planVfsign true fmt k d a)
  | .vsqrt fmt rnd k d a => some (planVfn1 .sqrt fmt rnd k d a)
  | .vrcp fmt rnd k d a => some (planVfn1 .rcp fmt rnd k d a)
  | .vrsq fmt rnd k d a => some (planVfn1 .rsq fmt rnd k d a)
  | .vexp2 fmt rnd k d a => some (planVfn1 .exp2 fmt rnd k d a)
  | .vlog2 fmt rnd k d a => some (planVfn1 .log2 fmt rnd k d a)
  | .vcmp cc sg k kd a b => some (planVcmp cc sg k kd a b)
  | .vfcmp cc fmt k kd a b => some (planVfcmp cc fmt k kd a b)
  | .kand kd ka kb => some (planKBin (· &&& ·) kd ka kb)
  | .kor kd ka kb => some (planKBin (· ||| ·) kd ka kb)
  | .kxor kd ka kb => some (planKBin (· ^^^ ·) kd ka kb)
  | .knot kd ka => some (planKnot kd ka)
  | .kpopc d ka => some (planKpopc d ka)
  | .vsel k d a b => some (planVsel k d a b)
  | .vcvt dst src rnd k d a => some (planVcvt dst src rnd k d a)
  | .vcvtfi dst src rnd k d a => some (planVcvtfi dst src rnd k d a)
  | .vcvtif dst src rnd k d a => some (planVcvtif dst src rnd k d a)
  | .vcvtii sat dst src k d a => some (planVcvtii sat dst src k d a)
  | .vqnt wid adapt int sg d a c e => some (planVqnt wid adapt int sg d a c e)
  | .vxpd sg fmt rnd d a c => some (planVxpd sg fmt rnd d a c)
  | .vsplat sg k d a => some (planVsplat sg k d a)
  | .vbcast k d a b => some (planVbcast k d a b)
  | .vred op sg k d a => some (planVred op sg k d a)
  | .vfred op fmt rnd k d a => some (planVfred op fmt rnd k d a)
  | .vscan op sg k d a => some (planVscan op sg k d a)
  | .vfscan op fmt rnd k d a => some (planVfscan op fmt rnd k d a)
  | .vperm k d a b => some (planVperm k d a b)
  | .vrot k d a b => some (planVrot k d a b)
  | .vcmpr k d a => some (planVcmpr k d a)
  | .viota k d => some (planViota k d)
  | .vld d a imm => some (planVld d a imm)
  | .vlds k d a b => some (planVlds k d a b)
  | .vldx k d a b => some (planVldx k d a b)
  | .vst d a imm => some (planVst d a imm)
  | .vsts k d a b => some (planVsts k d a b)
  | .vstx k d a b => some (planVstx k d a b)
  | .vgetx sg d a b => some (planVgetx sg d a b)
  | .vmov sg k d a => some (planVUn .mov sg k d a)
  | .feeda cont mc e cw kn => some (planFeed false cont mc e cw kn)
  | .feedb cont mc e cw kn => some (planFeed true cont mc e cw kn)
  | .feedax mc e cw kn => some (planFeedx false mc e cw kn)
  | .feedbx mc e cw kn => some (planFeedx true mc e cw kn)
  | .wina e cw kn => some (planWin false e cw kn)
  | .winb e cw kn => some (planWin true e cw kn)
  | .cropa e cw => some (planCropa e cw)
  | .qclr qb rcu e kn => some (planQclr qb rcu e kn)
  | .mma p cw kn => some (planMma false false p cw kn)
  | .mmac p cw kn => some (planMma false true p cw kn)
  | .aclr e kn => some (planAclr e kn)
  | .ald e cw kn => some (planAld e cw kn)
  | .asav e cw kn => some (planAsav e cw kn)
  | .drn e cw kn => some (planDrain .drn e cw kn)
  | .drna e cw kn => some (planDrain .drna e cw kn)
  | .drnf e cw kn => some (planDrain .drnf e cw kn)
  | .wcfg cw kn => some (planWcfg cw kn)
  | .wpadv cw => some (planWpadv cw)
  | .boxcfg cw kn => some (planBoxcfg cw kn)
  | .poolmx init fin e cw kn => some (planPool true init fin e cw kn)
  | .poolav init fin e cw kn => some (planPool false init fin e cw kn)
  | .ascl rnd e cw kn => some (planAscl rnd e cw kn)
  | .abias rnd e cw kn => some (planAbias rnd e cw kn)
  | .aclmp e cw kn => some (planAclmp e cw kn)
  | .ardv e cw kn => some (planArdv e cw kn)
  | .awrv e cw kn => some (planAwrv e cw kn)
  | .drnr e cw kn => some (planDrain .drnr e cw kn)
  | .mmaz p cw kn => some (planMma true false p cw kn)
  | .feedd qb e cw kn => some (planFeedd qb e cw kn)
  | .mcfg cw => some (planMcfg cw)
  | .mstat kn => some (planMstat kn)
  | .qstat kn => some (planQstat kn)
  | .copy f => some (planCopy f)
  | .copya f => some (planCopya f)
  | .seqcfg slot off a => some (planSeqcfg slot off a)
  | .mcopy f => some (planMcopy f)
  | .tlfetch f => some (planTlfetch f)
  | .ucopy f => some (planUcopy f)
  | .gath f => some (planGath f)
  | .gaths f => some (planGaths f)
  | .scat f => some (planScat f)
  | .scatw f => some (planScatw f)
  | .pin d a beats => some (planPin d a beats)
  | .unpin d a => some (planUnpin d a)
  | .xform f => some (planXform f)
  | .xformv f => some (planXformv f)
  | .ufill f => some (planUfill f)
  | .xstat d a => some (planXstat d a)
  | .atadd sp d a b => some (planAt .add false sp d a b none)
  | .atmin flag sp d a b => some (planAt .min flag sp d a b none)
  | .atmax flag sp d a b => some (planAt .max flag sp d a b none)
  | .atand sp d a b => some (planAt .and false sp d a b none)
  | .ator sp d a b => some (planAt .or false sp d a b none)
  | .atxor sp d a b => some (planAt .xor false sp d a b none)
  | .atswp sp d a b => some (planAt .swp false sp d a b none)
  | .atcas sp d a b c => some (planAt .cas false sp d a b (some c))
  | .atfmin flag sp d a b => some (planAt .fmin flag sp d a b none)
  | .atfmax flag sp d a b => some (planAt .fmax flag sp d a b none)
  | .atfadd flag sp d a b => some (planAt .fadd flag sp d a b none)
  | .gongArr d a n => some (planGongArr d a n)
  | .gongWait a => some (planGongWait a)
  | .gongHdl flag sp d a b => some (planGongHdl flag sp d a b)
  | .gongInit sp a b => some (planGongInit sp a b)
  | .lstep lead d a b => some (planLstep lead d a b)
  | .lgraph lead d a b => some (planLgraph lead d a b)
  | .cmuTab a tag => some (planEngine 0xC1 a tag)
  | .cmuFrm a tag => some (planEngine 0xC2 a tag)
  | .mpb a tag => some (planEngine 0xC3 a tag)
  | .belLook a tag => some (planEngine 0xC4 a tag)
  | .belDep a tag => some (planEngine 0xC5 a tag)
  | .belRes a tag => some (planEngine 0xC6 a tag)
  | .belPin a tag => some (planEngine 0xC7 a tag)
  | .act bank row => some (planAct bank row)
  | .rd bank col beat => some (planRd false bank col beat)
  | .wr bank col beat => some (planWr bank col beat)
  | .pre bank => some (planPre bank)
  | .prea => some (planPrea)
  | .refpb bank => some (planRefpb bank)
  | .rda bank col beat => some (planRd true bank col beat)
  | .wra bank col beat => some (planWra bank col beat)
  | .ringSet base lines rank => some (planRingSet base lines rank)
  | .ringSeek rows beat => some (planRingSeek rows beat)
  | .ringAdv rows beat => some (planRingAdv rows beat)
  | .ringGong beat => some (planRingGong beat)
  | .wrm bank col beat mask => some (planWrm bank col beat mask)
  | .rdz bank col => some (planRdz bank col)
  | .wrz bank col => some (planWrz bank col)
  | .dmark beat code => some (planDmark beat code)
  | .nop => some (planNop)
  | .trap code => some (planTrap code)
  | .trapnz a code => some (planTrapnz a code)
  | .brk code => some (planBrk code)
  | .svc d a code => some (planSvc d a code)
  | .event d a code => some (planEvent d a code)
  | .ckmark code => some (planCkmark code)
  | .ill body => some (planIll body)
  | .unassignedOpcode op => some (planUnassigned op)
  | .stepOverrun _ => none
  | .abandonmentFinish _ => none
  | .trapRecord _ => none
  | .stepCompletion _ => none
  | .flagAreaWrite _ => none
  | .segmentRelease _ => none
  | .loopIterationStart _ _ _ => none
  | .dynamicWaitEnd _ _ => none
  | .waitBudgetExhausted _ _ => none
  | .untimedBeatLanding _ _ => none
  | .untimedCompletion _ _ => none
  | .traceForward _ => none
  | .refreshAccrual _ _ => none
  | .baseDieRefresh _ _ => none
  | .abandonPrecharge _ _ => none
  | .pooledSlot _ => none
  | .scrub _ => none
  | .dispatchSlot => none
  | .stagingCheck _ => none
  | .downbeat _ => none
  | .waiterRelease _ => none
  | .futureResolved _ _ _ => none
  | .regionResident _ _ _ _ => none
  | .preemption _ => none
  | .affinityHoldExpiry _ => none
  | .hangTimeout => none
  | .queueRecordWrite _ _ => none
  | .versionRegister _ => none
  | .pchModeChange _ _ => none
  | .launchPacket _ _ => none
  | .framePacket _ _ => none
  | .accessUnitConsumed _ => none
  | .frameOutput _ _ => none
  | .frameGongArrival _ => none
  | .streamOpen _ _ _ _ _ _ => none
  | .layerTableLoad _ => none
  | .frameScoring _ => none
  | .belfryDeposit _ => none
  | .depositCopyDone _ => none
  | .belfryLookup _ => none
  | .belfryResumption _ => none
  | .belfryPin _ => none
  | .rowRepair _ _ _ _ => none
  | .dieSubstitution _ => none
  | .substitutionEnd _ => none
  | .dieAbsent _ => none
  | .hostWindowWrite _ _ => none
  | .hostWindowRead _ _ => none
  | .invgo _ => none
  | .invalidationDone => none
  | .econs _ _ => none
  | .rctlGo _ => none
  | .registerWrite _ _ _ => none
  | .getVersion => none
  | .getCapabilities => none
  | .negotiateAlgorithms _ _ => none
  | .getDigests => none
  | .getCertificate _ _ _ => none
  | .challenge _ _ => none
  | .getMeasurements _ _ => none
  | .configurationRequest _ _ _ => none
  | .coldReset => none
  | .bootStage _ => none
  | .functionLevelReset => none
  | .thermalHold _ => none
  | .thermalHoldEnd _ => none
  | .powerHold _ => none
  | .powerHoldEnd _ => none
  | .thermalShutdown => none
  | .jobAbort _ => none
  | .lineRemap _ => none

end Sys2Proof.Machine
end

