-- ==== Sys2Proof/Machine/Issue.lean ====
section
/-! DEFINITION. Issue: which stream's word is due (R92, R41), fetching and decoding it (R89, R129, R386), the faults a word
meets at issue (R104, R106, R108, R386) and its effect. -/
namespace Sys2Proof.Machine

/-! Due words. -/

/-- The first stream of a gang whose word is due now. -/
def State.dueIn (s : State) (g : Gang) : Option (Nat × Stream) :=
  if g.issues s.tlc then g.streams.find? fun p => s.isDue g p.1 p.2 else none

/-- The first due word of the device: gangs in order, then R108's order. -/
def State.dueWord (s : State) : Option (Nat × Gang × Nat × Stream) :=
  s.gangs.findSome? fun p => (s.dueIn p.2).map fun q => (p.1, p.2, q.1, q.2)

/-! Fetch and decode. -/

/-- The machine check of a program word (R386): cause 84 from a plane, 86 from a sequencer store. DETAIL names the beat, in words
(R202, R287), or the pseudo-channel. -/
def Read.fetchTrap (r : Read) : Option Trap :=
  match r.bad with
  | none => none
  | some u => (storeOf u).map fun st => { cause := st.cause, key := u, hi := if st == .sequencer then (u - 2 ^ 51) / 2 ^ 15 else rangeLo 1 (((u - 2 ^ 50) % 2 ^ 17 / 32 * 4 : Nat) : Int) }

/-- The fault of a word that decoding refuses (R129). -/
def badTrap (b : Bad) : Trap := { cause := b.cause, inCont := b.inCont }

/-- What the first word alone is refused for: causes below that of its missing continuation (R108, R129). -/
def firstTraps (id : StreamId) (w : Word) : List Trap :=
  match decode id w none with
  | .error b => if b.cause < 3 then [badTrap b] else []
  | .ok _ => []

/-- The instruction at a stream's pc, or the lowest fault of its fetch and decoding (R108), with the reads made. -/
def State.fetchInstr (s : State) (g : Gang) (rank : Nat) (st : Stream) : List Read × Except Trap Instr :=
  match s.wordAt g rank st.id st.pc with
  | none => ([], .error { cause := 0 })
  | some r =>
    let nxt := if wordsOf r.word = 2 then s.wordAt g rank st.id (st.pc + 1) else none
    let rs := r :: nxt.toList
    match lowestTrap (rs.filterMap Read.fetchTrap) with
    | some tr => (rs, .error (if r.bad.isSome then tr else (lowestTrap (tr :: firstTraps st.id r.word)).getD tr))
    | none =>
      (rs, match decode st.id r.word (nxt.map Read.word) with
        | .ok i => .ok i
        | .error b => .error (badTrap b))

/-! Faults at issue. -/

/-- What decoding would have refused: an instruction of another stream, or an operand out of its file or width (R128, R129). -/
def Ctx.decodeTrap (x : Ctx) (i : Instr) : Option Trap :=
  match encode i with
  | none => none
  | some e =>
    if !streamOk e.op.toNat x.who.strm then some { cause := 1 }
    else if !i.wfFirst then some { cause := 2 }
    else if !i.wfCont then some { cause := 2, inCont := true }
    else none

/-- The reads of core memory of one word count as one operand (log 7). -/
def isCm : Loc → Bool
  | .cm _ _ => true
  | _ => false

/-- The first of some hazards: lowest location, then latest landing. -/
def firstHazard : List Hazard → Option Hazard
  | [] => none
  | h :: t => match firstHazard t with
    | none => some h
    | some g => if g.index < h.index || (g.index == h.index && decide (h.claim.land < g.claim.land)) then some g else some h

/-- The Clave hazards of a word's reads (R104, R105): one for each operand. -/
def hazardsOf (t : Nat) (cs : List Claim) (reads : List Loc) : List Hazard :=
  (reads.filter fun l => !isCm l).filterMap (hazardOf t false cs) ++ (firstHazard ((reads.filter isCm).filterMap (hazardOf t false cs))).toList

/-- The Clave hazards of a word against some claims. -/
def Ctx.hazardsBy (x : Ctx) (p : Plan) (cs : List Claim) : List Hazard := if x.c.mode = 0 then [] else hazardsOf x.t cs p.reads

/-- Every fault a word meets at issue, its reads held against some claims. -/
def Ctx.trapsBy (x : Ctx) (i : Instr) (p : Plan) (cs : List Claim) : List Trap :=
  match x.decodeTrap i with
  | some tr => [tr]
  | none =>
    (match p.res with | .error tr => [tr] | .ok _ => []) ++
    ((p.reads.filterMap (hazardOf x.t true cs)).map (missTrap x.g.dbt)) ++
    (parityTrap x.s.err.parity x.c.gcore p.reads).toList ++
    (if x.c.mode = 2 then (x.hazardsBy p cs).map (hazTrap x.g.dbt) else [])

/-- What a word's effect makes pending on a core: its own writes, and its deliveries (R104, R106). -/
def Eff.claimsOn (e : Eff) (w : Who) (rank : Nat) : List Claim :=
  (if w.rank = rank then e.claims.map fun q => (⟨w, q.1, q.2, false⟩ : Claim) else []) ++
    e.deliver.filterMap fun q => if q.1 = rank then some (⟨w, q.2.1, q.2.2, true⟩ : Claim) else none

/-- What words due now are about to make pending on a core where some reads meet it (R104; log 8). A word that faults at issue makes nothing
pending (R41); whether it does is judged among the others that are due. -/
def State.claimsDue (s : State) (gid : Nat) (g : Gang) : Nat → Nat → List Loc → List (Nat × Stream) → List Claim
  | 0, _, _, _ => []
  | fuel + 1, rank, reads, due =>
    (due.map fun p =>
      match (s.fetchInstr g p.1 p.2).2 with
      | .error _ => []
      | .ok i =>
        match planOf i, s.ctx ⟨gid, p.1, p.2.id⟩ i with
        | some pl, some y =>
          match (pl y).res with
          | .error _ => []
          | .ok e =>
            let mine := (e.claimsOn y.who rank).filter fun c => reads.any fun l => (l.meets c.loc).isSome
            if mine.isEmpty then []
            else
              let rest := due.filter fun q => !(q.1 == p.1 && q.2.id == p.2.id)
              if (y.trapsBy i (pl y) (y.c.claims ++ s.claimsDue gid g fuel p.1 (pl y).reads rest)).isEmpty then mine else []
        | _, _ => []).flatten

/-- What the other words due on this cycle are about to make pending where a word of the reader's core reads. -/
def Ctx.announced (x : Ctx) (reads : List Loc) : List Claim :=
  let due := x.g.streams.filter fun p => x.s.isDue x.g p.1 p.2 && !(p.1 == x.who.rank && p.2.id == x.who.strm)
  x.s.claimsDue x.gid x.g due.length x.who.rank reads due

/-- Claims a word's reads are held against. -/
def Ctx.against (x : Ctx) (p : Plan) : List Claim := if p.reads.isEmpty then [] else x.c.claims ++ x.announced p.reads

/-- The Clave hazards of a word. -/
def Ctx.hazards (x : Ctx) (p : Plan) : List Hazard := x.hazardsBy p (x.against p)

/-- Every fault a word meets at issue. -/
def Ctx.traps (x : Ctx) (i : Instr) (p : Plan) : List Trap := x.trapsBy i p (x.against p)

/-- A word issues: the fault that R108 picks, with no other effect (R41), or its whole effect with the hazards recorded in
mode 1 (R36, R104). -/
def Ctx.run (x : Ctx) (i : Instr) (p : Plan) : State :=
  match lowestTrap (x.traps i p), p.res with
  | some tr, _ => x.s.raise x.gid x.t (some x.who) tr
  | none, .error tr => x.s.raise x.gid x.t (some x.who) tr
  | none, .ok e =>
    (x.commit e).modCore x.gid x.who.rank fun c => if x.c.mode = 1 then c.record x.g.dbt x.who (x.hazards p) else c

/-- The meaning of a program word: its plan, issued by the stream the cursor names (log 3). -/
def issue (i : Instr) (plan : Ctx → Plan) (s : State) : Host.Outcome State Fault Refusal :=
  match s.ctx s.cursor i with
  | none => .fault .noIssuer
  | some x => .next (x.run i (plan x))

/-! All words of a cycle at once. -/

/-- Corrections of a word's fetch are recorded (R386, R389). -/
def State.fetched (s : State) (g : Gang) (rs : List Read) : State := rs.foldl (fun (s : State) r => s.correctedAll (some g) 0 r) s

/-- A due word issues. -/
def State.issueWord (s : State) (gid : Nat) (g : Gang) (rank : Nat) (st : Stream) : State :=
  let s := { s with cursor := ⟨gid, rank, st.id⟩ }
  match s.fetchInstr g rank st with
  | (rs, .error tr) => (s.fetched g rs).raise gid s.tlc (some ⟨rank, st.id, st.pc, s.tlc⟩) tr
  | (rs, .ok i) =>
    match planOf i, (s.fetched g rs).ctx s.cursor i with
    | some p, some x => x.run i (p x)
    | _, _ => s

/-- Up to n due words issue, in the order of R108. -/
def State.wordsAll : Nat → State → State
  | 0, s => s
  | n + 1, s => match s.dueWord with
    | some (gid, g, rank, st) => State.wordsAll n (s.issueWord gid g rank st)
    | none => s

end Sys2Proof.Machine
end

