-- ==== Sys2Proof/Machine/Cycle.lean ====
section
/-! DEFINITION. What happens on a cycle outside issue: requests to the banks and their conflicts (R107, R215, R294 to R296),
collisions of landings (R103, R180), landings, updates of gongs, reads on reach cycles, consumption, and the end of the
cycle. -/
namespace Sys2Proof.Machine

/-! Acts due now. -/

/-- The acts of every gang that are due, with their gang. -/
def State.dueActs (s : State) : List (Nat × Timed) :=
  (s.gangs.map fun p => (p.2.agenda.filter fun a => decide (a.at_ ≤ s.tlc)).map fun a => (p.1, a)).flatten

/-- An act that its word's fault has not cut off. -/
def State.stands (s : State) (p : Nat × Timed) : Bool :=
  match aget p.1 s.gangs with
  | some g => g.agenda.contains p.2
  | none => false

/-- An act that will not happen; a fill leaves its entry unfilled (R180, R182). -/
def State.drop (s : State) (p : Nat × Timed) : State := s.modGang p.1 fun g =>
  let h : Gang := { g with agenda := g.agenda.erase p.2 }
  if g.agenda.contains p.2 then (match g.fillOf p.2 with | some f => h.unfill f | none => h) else g

/-- The order of R107: stream, rank, issue cycle, word address. -/
def whoLt (a b : Who) : Bool :=
  decide (a.strm.code < b.strm.code) || (a.strm.code == b.strm.code && (decide (a.rank < b.rank) || (a.rank == b.rank &&
    (decide (a.issue < b.issue) || (a.issue == b.issue && decide (a.waddr < b.waddr))))))

/-! Banks. -/

/-- A request to a bank: gang, word, bank, and what it is of. -/
structure BankReq where
  gid : Nat
  who : Who
  bank : Nat
  wr : Bool
  vault : Option (Nat × Nat × Side × Bool)
  deriving DecidableEq, Repr

/-- A bank of core memory as one number, of a vault within its vault. -/
def coreBank (core bank : Nat) : Nat := core * 32 + bank

/-- The requests of an act (R107); those of a feed depend on its row cursor. -/
def State.reqsOf (s : State) (p : Nat × Timed) : List BankReq :=
  let (gid, t) := p
  match t.act with
  | .bank core bank _ wr => [⟨gid, t.who, coreBank core bank, wr, none⟩]
  | .vbank die vault bank side wr => [⟨gid, t.who, bank, wr, some (die, vault, side, wr)⟩]
  | .feedFetch f src cur round row =>
    match s.coreOf gid t.who with
    | none => []
    | some c => ((feedReach c f src cur round row).map fun a => (⟨gid, t.who, coreBank c.gcore (cmBank a), false, none⟩ : BankReq)).toList
  | _ => []

/-- The count-downs of an untimed request that reach a gong of another gang core are requesters of its bank (R203, R234). -/
def State.countReq (s : State) (u : GongUpd) : Option BankReq :=
  match u.who, s.gangs.find? fun p => p.1 == u.gang with
  | some w, some (gid, g) =>
    if u.counts && storeOf u.key == some .core && !((g.coreAt w.rank).any fun c => ownKey c.gcore u.key) then
      let a := u.key - 2 ^ 49
      some ⟨gid, w, coreBank (a / 2 ^ 21) (cmBank (a % 2 ^ 21)), true, none⟩
    else none
  | _, _ => none

/-- Every timed request of this cycle, count-downs of completions and ring fetches of memory streams included: those of segments that start
on it too (R257). -/
def State.bankReqs (pre : State → State) (s : State) (due : List (Nat × Timed)) : List BankReq :=
  let u := pre s
  (due.map s.reqsOf).flatten ++ (s.gongQ.filterMap s.countReq).eraseDups ++
    (u.gangs.map fun p => if p.2.issues u.tlc then (p.2.mems.filterMap (u.fetchNow p.2)).map fun t => s.reqsOf (p.1, t) else []).flatten.flatten

/-- Two requests meet: one bank, and in a vault one side in one direction (R294, R296). -/
def BankReq.meets (a b : BankReq) : Bool := a.bank == b.bank && a.vault == b.vault

/-- Put a request among others in the order of R107. -/
def insertReq (r : BankReq) : List BankReq → List BankReq
  | [] => [r]
  | h :: t => if whoLt r.who h.who then r :: h :: t else h :: insertReq r t

/-- Requests that meet, group by group, each in order. -/
def reqGroups : Nat → List BankReq → List (List BankReq)
  | 0, _ => []
  | _, [] => []
  | n + 1, r :: t =>
    let g := r :: t.filter r.meets
    (if g.length ≥ 2 then [g.foldl (fun l q => insertReq q l) []] else []) ++ reqGroups n (t.filter fun q => !r.meets q)

/-- Conflicts in the order of their bank numbers. -/
def insertGroup (g : List BankReq) : List (List BankReq) → List (List BankReq)
  | [] => [g]
  | h :: t => if (h.head?.map (·.bank)).getD 0 ≤ (g.head?.map (·.bank)).getD 0 then h :: insertGroup g t else g :: h :: t

/-- DETAIL of cause 18 (R287). -/
def bankDetail (r : BankReq) : Nat :=
  match r.vault with
  | none => packBits [(1, 5, r.bank), (10, 3, r.bank / 1024), (13, 5, r.bank / 32)]
  | some (die, v, _, _) => packBits [(0, 1, 1), (1, 5, r.bank), (6, 4, v), (10, 3, die)]

/-- A word whose faults after issue end its effect (R182): one of the matrix stream, or one that fills latches or reads boxes. -/
def Gang.matrixWord (g : Gang) (w : Who) : Bool :=
  w.strm == .m || g.agenda.any fun a => a.who == w && ((g.fillOf a).isSome || (match a.act with | .boxLine _ _ _ => true | _ => false))

/-- A conflict traps in each issuing step (R107, R296). What is left of the faulting word's effect ends in a vault (log 9) and where
R182 says so; in core memory the other lines of a copy land (R41, R107). -/
def State.bankConflict (s : State) (g : List BankReq) : State :=
  (g.map (·.gid)).eraseDups.foldl (fun (s : State) gid =>
    match g.find? fun r => r.gid == gid with
    | none => s
    | some r =>
      let i := g.findIdx fun q => q.gid == gid
      let other := (g.eraseIdx i).head?
      let s := s.raise gid s.tlc (some r.who) { cause := 18, lo := bankDetail r, other := other.map (·.who) }
      s.modGang gid fun g => if r.vault.isSome || g.matrixWord r.who then g.cut r.who s.tlc else g) s

/-- The bank, as a request names it, that a key lies in. -/
def keyBank (k : Nat) : Option (Nat × Option (Nat × Nat)) :=
  match storeOf k with
  | some .core => let a := k - 2 ^ 49; some (coreBank (a / 2 ^ 21) (cmBank (a % 2 ^ 21)), none)
  | some .vault => let a := k - 2 ^ 48; some (vtBank (a % 2 ^ 24), some (a / 2 ^ 28, fld a 24 4))
  | _ => none

/-- A write of a word to a key is lost in a conflict (R107, R296): in core memory the whole write of a requester that meets another
one in any bank, in a vault the write of the bank. -/
def lost (conf : List (List BankReq)) (gid : Nat) (w : Who) (k : Nat) : Bool :=
  match keyBank k with
  | none => false
  | some (b, v) => conf.any fun g => g.any fun r =>
      r.gid == gid && r.who == w && (match r.vault, v with
        | none, none => r.bank == b || r.wr && r.bank / 32 == b / 32
        | some (d, u, _, wr), some q => r.bank == b && wr && q == (d, u)
        | _, _ => false)

/-- The place in R295 of a word's write to a vault key. -/
def sideOrd (reqs : List BankReq) (gid : Nat) (w : Who) (k : Nat) : Nat :=
  match keyBank k with
  | some (b, some (d, u)) => (reqs.findSome? fun r => match r.vault with
      | some (d', u', side, true) => if r.gid == gid && r.who == w && r.bank == b && d == d' && u == u' then some side.ord else none
      | _ => none).getD 14
  | _ => 0

/-- The banks that timed requests reach on this cycle (R107, R294): untimed beats leave those of core memory alone, and those of a vault
that a lane writes (R215); a scrub all of them (R390). -/
def usedBanks (reqs : List BankReq) : List (Nat × Nat) :=
  ((reqs.map fun r => match r.vault with
    | none => [(0, r.bank)]
    | some (d, v, side, wr) =>
      let b := (d * 16 + v) * 16 + r.bank
      (if wr && (match side with | .lateral _ => true | .fabric _ => true | _ => false) then [(1, b)] else []) ++ [(2, b)]).flatten).eraseDups

/-! Collisions (R103, R180). -/

/-- A write to memory. -/
def Act.isMem : Act → Bool
  | .mem _ _ _ => true
  | _ => false

/-- The bytes that an act writes to memory. -/
def Act.span : Act → Option (Nat × Nat)
  | .mem k bs _ => some (k, bs.length)
  | .trnLand k _ _ => some (k, 64)
  | .xformLine _ _ _ _ k => some (k, 64)
  | .atomic _ _ k wd _ _ _ _ => some (k, wd / 8)
  | _ => none

/-- Two writes on one byte of core memory, one of them a ring delivery: the lowest byte (R257). -/
def ringClash (a b : Timed) : Option (Nat × Nat) :=
  match a.act.span, b.act.span with
  | some (k, n), some (k', n') =>
    if (a.who.strm.isMem || b.who.strm.isMem) && storeOf k == some .core then (overlap k n k' n').map fun i => (3, (i - 2 ^ 49) % 2 ^ 21)
    else none
  | _, _ => none

/-- Two landings of one cycle on one location: SPACE and the lowest index (R287). -/
def Gang.clash (g : Gang) (a b : Timed) : Option (Nat × Nat) :=
  match g.fillOf a, g.fillOf b with
  | some (ra, qa, ea), some (rb, qb, eb) => if qa == qb && ea == eb && ra.any rb.contains then some (4, ea) else none
  | _, _ =>
    if (ringClash a b).isSome then ringClash a b
    else if a.who.rank ≠ b.who.rank then none
    else match a.act, b.act with
      | .wx s w _, .wx s' w' _ => (overlap s (w / 4) s' (w' / 4)).map (0, ·)
      | .wv s w m _, .wv s' w' m' _ => if m &&& m' = 0 then none else (overlap s (w / 4) s' (w' / 4)).map (1, ·)
      | .wk k m _, .wk k' m' _ => if k = k' && m &&& m' != 0 then some (2, k) else none
      | .slotLand i _, .slotLand j _ => if i = j then some (5, i) else none
      | _, _ => none

def insertTimed (a : Timed) : List Timed → List Timed
  | [] => [a]
  | h :: t => if whoLt a.who h.who then a :: h :: t else h :: insertTimed a t

/-- The pairs of landings that collide, each landing in the order of R107. -/
def Gang.clashes (g : Gang) : List Timed → List (Timed × Timed × Nat × Nat)
  | [] => []
  | a :: t => (t.filterMap fun b => (g.clash a b).map fun q => (a, b, q.1, q.2)) ++ g.clashes t

/-- What may collide. -/
def Act.lands : Act → Bool
  | .wx _ _ _ => true
  | .wv _ _ _ _ => true
  | .wk _ _ _ => true
  | .slotLand _ _ => true
  | .feedFill _ _ => true
  | .fill _ _ _ => true
  | .cropFill _ _ _ _ _ => true
  | _ => false

/-- Collisions of one gang: neither write lands; the first word of the pair faults (R103). DESIGN CHOICE (log 97): two fills of one latch
entry are two such writes, and the entry is left unfilled (R180); a landing that has collided with one collides with no third. -/
def State.collide (s : State) (gid : Nat) (g : Gang) (due : List Timed) : State :=
  let ring := due.any fun t => t.act.isMem && t.who.strm.isMem
  let l := (due.filter fun t => t.act.lands || ring && t.act.span.isSome).foldl (fun l a => insertTimed a l) []
  let cs := g.clashes l
  let s := (cs.foldl (fun (p : State × List Timed) (a, b, sp, ix) =>
    if p.2.contains a || p.2.contains b then (p.1, a :: b :: p.2)
    else ((p.1.raise gid s.tlc (some a.who)
        { cause := 17, lo := packBits [(0, 3, sp), (3, 21, ix), (24, 1, 1)], due := s.tlc - g.dbt, other := some b.who }).modGang gid fun g => g.cut a.who s.tlc,
      a :: b :: p.2)) (s, [])).1
  cs.foldl (fun (s : State) (a, b, _, _) => (s.drop (gid, a)).drop (gid, b)) s

/-! Acts. -/

/-- Pieces of a write, one for each 64-byte line. -/
def pieces : Nat → Nat → List Byte → List (Nat × List Byte)
  | 0, _, _ => []
  | n + 1, k, bs => if bs.isEmpty then [] else
    let m := 64 - k % 64
    (k, bs.take m) :: pieces n (k + m) (bs.drop m)

/-- A register write clears the parity errors of the groups it covers (R384). -/
def State.parityWrite (s : State) (gid : Nat) (w : Who) (l : Loc) : State :=
  if s.err.parity.isEmpty then s
  else match s.coreOf gid w with
    | some c => { s with err := { s.err with parity := parityAfter s.err.parity c.gcore l } }
    | none => s

/-- Accumulator cells written whole lose their parity errors (R384). -/
def State.parityCells (s : State) (gid : Nat) (w : Who) (hit : Nat → Bool) : State :=
  if s.err.parity.isEmpty then s
  else match s.coreOf gid w with
    | some c => { s with err := { s.err with parity := s.err.parity.filter fun p => !(p.core == c.gcore && p.file == 3 && hit p.group) } }
    | none => s

/-- The write of an `x`, `v` or mask location lands (R102). -/
def Core.landX (start width val : Nat) (c : Core) : Core := { c with x := setSlices c.x start width val }
def Core.landV (start width : Nat) (m : Mask) (vals : List Nat) (c : Core) : Core :=
  { c with v := Vector.ofFn fun (i : Fin 128) =>
      if m.getLsbD i.val then setSlices (c.v[i.val]) start width ((vals[i.val]?).getD 0) else c.v[i.val] }
def Core.landK (k : Nat) (bits val : Mask) (c : Core) : Core :=
  { c with k := c.k.setIfInBounds k (((c.k.toList[k]?).getD 0 &&& ~~~bits) ||| (val &&& bits)) }

/-- Landings that read nothing but what their words hold: registers, latches, accumulators, configuration. -/
def State.landAct (s : State) (gid : Nat) (w : Who) (a : Act) : State :=
  let core (f : Core → Core) : State := s.modCore gid w.rank f
  match a with
  | .clrFlags f => core fun c => { c with flags := c.flags &&& ~~~f }
  | .clrDone m => core fun c => { c with done := c.done &&& ~~~m }
  | .setFlags f => core fun c => { c with flags := c.flags ||| f }
  | .setMode m => core fun c => { c with mode := m }
  | .setBudget n => core fun c => { c with budget := min c.budget n }
  | .wx st wd v => (core (Core.landX st wd v)).parityWrite gid w (.x st (wd / 4))
  | .wv st wd m vs => (core (Core.landV st wd m vs)).parityWrite gid w (.v st (wd / 4) m)
  | .wk k b v => (core (Core.landK k b v)).parityWrite gid w (.k k b)
  | .feedFill f j => (s.feedFill gid w f j)
  | .fill qb e rows => (core fun c => c.modLatch qb fun l => l.filled s.tlc e rows).parityWrite gid w (.lat qb e)
  | .cropFill f g near ws fl => s.cropFill gid w f g near ws fl
  | .qclr qb rcu e n => core fun c => c.modLatch qb fun l => l.clear rcu e n
  | .outDesc v => core fun c => { c with outDesc := v }
  | .winCfg v n => core fun c => { c with win := some (v, n) }
  | .winPad v => core fun c => { c with pad := v, winQ := 0 }
  | .slotLand i bs => core fun c => { c with slots := aset i bs c.slots }
  | .mmaLand n p sa sb z d => (s.mmaLand gid w n p sa sb z d).parityCells gid w fun k => match d with
      | some d => !decide (((k % 128 : Nat) : Int) > (k / 128 : Nat) + d)
      | none => true
  | .poolLand n g mx i f incl sg => (s.poolLand gid w n g mx i f incl sg).parityCells gid w fun k => i || decide (k % 128 < 8 * g)
  | .accWrite r v => (core fun c => c.setAccRow r v).parityWrite gid w (.acc r (BitVec.allOnes 128))
  | .accClear col i => (core fun c => c.accClear col i).parityCells gid w fun k => if col then k % 128 == i else k / 128 == i
  | _ => s

/-- The value of a core's register, taken at the end of a cycle, lands on the next one (R40, R157, R229). -/
def State.readCore (s : State) (gid : Nat) (w : Who) (start width : Nat) (f : Gang → Core → Nat) : State :=
  match aget gid s.gangs, s.coreOf gid w with
  | some g, some c => s.addAgenda gid [⟨s.tlc + 1, w, .wx start width (f g c % 2 ^ width)⟩]
  | _, _ => s

/-- Reads on their reach cycles. -/
def State.readAct (s : State) (gid : Nat) (w : Who) (a : Act) : State :=
  match a with
  | .lineCopy src dst land => s.lineCopy gid w src dst land
  | .conv var fs fd rnd src dst k land => s.conv gid w var fs fd rnd src dst k land
  | .trnRead src k => s.trnRead gid w src k
  | .feedFetch f src cur round row => s.feedFetch gid w f src cur round row
  | .stashRec j row r fl => s.addStash gid [.krec w j row r fl]
  | .winRead f j row g c addr => s.winRead gid w f j row g c addr
  | .cropPix f g row k c addr => s.cropPix gid w f g row k c addr
  | .boxLine addr n line => s.boxLine gid w addr n line
  | .aldRow row addr land => s.aldRow gid w row addr land
  | .slotRead slot addr => s.slotRead gid w slot addr
  | .blockRead req addr => s.blockRead gid w req addr
  | .gongHdl h key d land => s.gongHdl gid w h key d land
  | .readReg n start width => s.readCore gid w start width fun g c => s.stepReg g c n
  | .readTag n start width => s.readCore gid w start width fun _ c => c.tagStat n
  | .late tr => s.raiseCut gid s.tlc w tr
  | .xload addr n start width land => (match s.coreOf gid w with
    | some c => s.xload gid w c.gcore addr n start width land
    | none => s)
  | .vload addrs lanes n start width land => (match s.coreOf gid w with
    | some c => s.vload gid w c.gcore addrs lanes n start width land
    | none => s)
  | _ => s

/-- Consumption of latch entries (R180), after the fills of the cycle and the issues that make entries pending. -/
def State.useAct (s : State) (gid : Nat) (w : Who) (a : Act) : State :=
  match a with
  | .mmaPair j x y bw ap2 sa sb => s.mmaPair gid w j x y bw ap2 sa sb
  | .poolEntry j e => s.poolEntry gid w j e
  | _ => s

/-- The handle of a gong's key as a core names it. -/
def gongHandle (g : Gang) (c : Core) (key : Nat) : BitVec 64 :=
  BitVec.ofNat 64 (match storeOf key with
    | some .vault => packHandle 0 2 (key - 2 ^ 48)
    | _ =>
      let gc := (key - 2 ^ 49) / 2 ^ 21; let a := (key - 2 ^ 49) % 2 ^ 21
      if gc = c.gcore then packHandle 0 0 a else packHandle 0 3 (((g.cores.find? fun d => d.gcore == gc).map (·.rank)).getD 0 * 2 ^ 21 + a))

/-- Read-modify-writes and registrations (R226 to R241): the state after, and the gong updates of the cycle. -/
def State.rmwAct (s : State) (conf : List (List BankReq)) (gid : Nat) (w : Who) (a : Act) : State × List GongUpd :=
  let ifHeld (key : Nat) (r : State × List GongUpd) : State × List GongUpd :=
    if lost conf gid w key then (s, []) else
    match s.opFlit gid w key with
    | some tr => (s.raiseCut gid s.tlc w tr, [])
    | none => r
  match a with
  | .xformLine var sg fmt par key => if lost conf gid w key then (s, []) else (s.xformLine gid w var sg fmt par key, [])
  | .atomic op fl key wd b c d land => if lost conf gid w key then (s, []) else (s.atomic gid w op fl key wd b c d land, [])
  | .regist h key => (s.regist gid w h key, [])
  | .ringRegist h => s.ringRegist (lost conf gid w) gid w h
  | .gongInit key r => ifHeld key <|
      match aget gid s.gangs, s.coreOf gid w with
      | some g, some c => (s, [{ key := key, ord := updOrd 1 c.gcore w, kind := 0, n := r.toNat, handle := gongHandle g c key, gang := gid, who := some w }])
      | _, _ => (s, [])
  | .count inb h key => ifHeld key <|
      match aget gid s.gangs with
      | some g => (s, (g.countUpd gid w inb h key).toList)
      | none => (s, [])
  | _ => (s, [])

/-- Registrations come before the other updates of a cycle (R240, log 6), and these before the in-bank operations (R41). -/
def Act.registers : Act → Bool
  | .regist _ _ => true
  | _ => false
def Act.counts : Act → Bool
  | .ringRegist _ => true
  | .gongInit _ _ => true
  | .count _ _ _ => true
  | _ => false
def Act.inBank : Act → Bool
  | .xformLine _ _ _ _ _ => true
  | .atomic _ _ _ _ _ _ _ _ => true
  | _ => false

/-- Fold an operation over the acts that still stand. -/
def State.foldActs (s : State) (due : List (Nat × Timed)) (f : State → Nat → Who → Act → State) : State :=
  due.foldl (fun (s : State) p => if s.stands p then f s p.1 p.2.who p.2.act else s) s

/-- What is written to memory on this cycle, but for untimed beats and the read-modify-write side: in the order of R295. A line of a
transposing copy is put together as it lands (R208). -/
def State.memWrites (s : State) (due : List (Nat × Timed)) (reqs : List BankReq) (conf : List (List BankReq)) : State :=
  let ws := (due.filter s.stands).filterMap fun p => match p.2.act with
    | .mem k bs psn => some (p.1, p.2.who, pieces (bs.length / 64 + 2) k bs, psn)
    | .trnLand k es i => (aget p.1 s.gangs).map fun g => (p.1, p.2.who, [(k, g.trnLine p.2.who es i)], false)
    | _ => none
  let ps := (ws.map fun (gid, w, l, psn) => l.map fun q => (gid, w, q.1, q.2, psn)).flatten
  let ps := ps.filter fun (gid, w, k, _, _) => !lost conf gid w k
  let at_ (n : Nat) := ps.filter fun (gid, w, k, _, _) => sideOrd reqs gid w k == n
  let s := ((List.range 15).map at_).flatten.foldl (fun (s : State) (_, _, k, bs, psn) => s.store k bs psn) s
  s.foldActs due fun s gid w a => match a with
    | .trnLand _ es k => s.trnDone gid w es k
    | _ => s

/-- The untimed beats that arrive on this cycle, and the state without them in its inbox (R215). -/
def State.dueBeats (s : State) : List (Nat × Nat) :=
  s.inbox.filterMap fun e => match e.2 with
    | .untimedBeatLanding id mv => if e.1 ≤ s.tlc then some (id, mv) else none
    | _ => none
def State.dropBeats (s : State) : State :=
  { s with inbox := s.inbox.filter fun e => match e.2 with
      | .untimedBeatLanding _ _ => !decide (e.1 ≤ s.tlc)
      | _ => true }

/-- Flag clears come before every set of the cycle (R35). -/
def Act.isClear : Act → Bool
  | .clrFlags _ => true
  | .clrDone _ => true
  | _ => false
def Act.isQclr : Act → Bool
  | .qclr _ _ _ _ => true
  | _ => false

/-- Acts whose landing a fault of their word on this cycle takes back (R41). -/
def Act.isLanding (a : Act) : Bool :=
  a.isMem || a.lands || a.isQclr || match a with
    | .trnLand _ _ _ | .setFlags _ | .setMode _ | .setBudget _ | .outDesc _ | .winCfg _ _ | .winPad _ | .mmaLand _ _ _ _ _ _
    | .poolLand _ _ _ _ _ _ _ | .accWrite _ _ | .accClear _ _ => true
    | _ => false

/-- Acts that may meet a fault after the cycle's landings. -/
def Act.mayFault : Act → Bool
  | .bank _ _ _ _ => false
  | .vbank _ _ _ _ _ => false
  | .readReg _ _ _ => false
  | .readTag _ _ _ => false
  | a => !a.isLanding && !a.isClear

/-- The start of a cycle: conflicts and collisions, landings, untimed beats, gong counts and in-bank operations (R295); the landings of
`skip` do not take place. An untimed beat's source is read as the cycle before left it (R309). DESIGN CHOICE (log 82): the clears of
QCLRs come before the fills of the cycle, so that a fill in the same entry stands (R189). -/
def State.beginWork (pre : State → State) (s : State) (due skip : List (Nat × Timed)) : State :=
  let beats := s.dueBeats
  let old := beats.foldl (fun (s : State) b => s.startReq b.1) s.dropBeats
  let reqs := old.bankReqs pre due
  let conf := (reqGroups reqs.length reqs).foldl (fun l g => insertGroup g l) []
  let s := { old with used := usedBanks reqs }
  let s := conf.foldl State.bankConflict s
  let s := s.gangs.foldl (fun (s : State) p => s.collide p.1 p.2 (due.filterMap fun q => if q.1 = p.1 && s.stands q then some q.2 else none)) s
  let s := skip.foldl State.drop s
  let lands := due.filter fun p => p.2.act.isLanding && !skip.contains p
  let sel (f : Act → Bool) := lands.filter fun p => f p.2.act
  let s := s.foldActs (sel Act.isQclr) State.landAct
  let s := s.foldActs (sel fun a => !a.isQclr) State.landAct
  let s := s.memWrites lands reqs conf
  let s := (beats.foldl (fun (q : State × List (Nat × Nat)) b => q.1.landBeat old q.2 b.1 b.2) (s, old.used)).1
  let rmw (q : State × List GongUpd) (f : Act → Bool) : State × List GongUpd := (due.filter fun p => f p.2.act).foldl (fun q p =>
    if q.1.stands p then let r := q.1.rmwAct conf p.1 p.2.who p.2.act; (r.1, q.2 ++ r.2) else q) q
  let s : State := { s with gongQ := s.gongQ.filter fun u => !((s.countReq u).any fun r => lost conf r.gid r.who u.key) }
  let q := rmw (rmw (s, []) Act.registers) Act.counts
  (rmw (q.1.gongCounts q.2, []) Act.inBank).1

/-- What is left of this cycle's gong updates takes place: arrivals, and the advances (R238, R243, R350). -/
def State.settleGongs (s : State) : State := { s with gongQ := [] }.gongUpdates s.gongQ

/-- The end of a cycle, after its words: what is left of its gong updates (R238), the reads of their reach cycles, which see every
landing of the cycle and meet the writes its words have made pending (R102, R104), and the consumption of latch entries. -/
def State.endReads (s : State) : State :=
  let s := if s.gongQ.isEmpty then s else s.settleGongs
  let due := s.dueActs
  (s.foldActs due State.readAct).foldActs due State.useAct

/-- How many words may issue on one cycle. -/
def State.streamCount (s : State) : Nat := s.gangs.foldl (fun n p => n + p.2.streams.length) 0

/-- The landings and updates of a cycle; what a word lands on the cycle of its own fault does not land (R41), and such a fault may be met
as late as by the reads at the cycle's end. -/
def State.beginCycle (pre : State → State) (s : State) : State :=
  let due := s.dueActs
  let a := s.beginWork pre due []
  let lands := due.filter fun p => p.2.act.isLanding
  let risk := due.filter fun p => p.2.act.mayFault
  let late := lands.any fun p => risk.any fun q => p.1 == q.1 && p.2.who == q.2.who
  let b := if late then ((pre a).wordsAll s.streamCount).endReads else a
  let cut := lands.filter fun p => !b.stands p
  if cut.isEmpty then a else s.beginWork pre due cut

/-- Waiters' and held heads' gongs have LINK set (R338). -/
def State.relinkAll (s : State) : State :=
  let ks := (s.sched.waiters.filterMap fun w => match w.on with | .gong k _ _ => some k | _ => none) ++
    (s.sched.queues.filterMap fun q => q.2.heldHead.bind fun r => (s.tobEnt r.job r.tobIdx).map fun t => (s.failing t.tob r.next).map (·.1)).flatten
  ks.eraseDups.foldl (fun (s : State) k => s.relink k) s

/-- A stream one of whose words met a fault on this cycle issues no more (R41). -/
def Stream.endCycle (s : Stream) : Stream := if s.stopAt.isSome then { s with st := .stopped, stopAt := none } else s

/-- The end of a gang's cycle: budgets (R37), streams that stop, what is over. -/
def Gang.endCycle (t : Nat) (g : Gang) : Gang :=
  let g := if g.live then g.spendBudget else g
  let mark (rank : Nat) (id : StreamId) : BitVec 10 := ((g.strm rank id).map (·.mark)).getD 0
  let g := match g.fault with
    | some f => if f.f = t then (match f.who with
        | some w => { g with marks := (mark w.rank w.strm, mark w.rank .c) }
        | none => { g with marks := (0, mark 0 .c) }) else g
    | none => g
  { g with
    agenda := g.agenda.filter fun a => decide (t < a.at_)
    cores := g.cores.map fun c => { c with claims := c.claims.filter fun k => decide (t ≤ k.land + 20), streams := c.streams.map Stream.endCycle }
    mems := g.mems.map fun m => { m with strm := m.strm.endCycle } }

/-- The words of the instruction of a fault that this cycle reports, as they were fetched (R285). -/
def State.faultWords (s : State) (g : Gang) : List (BitVec 64) :=
  match g.fault with
  | some f => if f.f = s.tlc then (match f.who with
      | some w => (List.range 2).filterMap fun k => (s.wordAt g w.rank w.strm (w.waddr + k)).map Read.word
      | none => []) else g.words
  | none => g.words

/-- The end of a cycle and the next one's number. -/
def State.endCycle (s : State) : State :=
  let s := s.endReads.relinkAll
  { s with
    gangs := s.gangs.map fun p => (p.1, { p.2.endCycle s.tlc with words := s.faultWords p.2 })
    memLog := s.memLog.filter fun e => decide (s.tlc ≤ e.cyc + 20)
    gongLog := s.gongLog.filter fun e => decide (s.tlc ≤ e.cyc + 64)
    ticked := []
    tlc := s.tlc + 1 }

/-- The clears of FLAGS and of DONE bits that land on a cycle, before anything sets one on it (R35, R151, R157). -/
def State.clears (s : State) : State := s.foldActs (s.dueActs.filter fun p => p.2.act.isClear) State.landAct

/-- The device goes on to the next cycle of TLC (R21): `ends` completes the untimed requests whose last effect has landed (R213), and
`pre` is what happens on a cycle before its words issue. -/
def State.tick (pre ends : State → State) (s : State) : State := (ends s.endCycle.flitsFixed.clears).beginCycle pre

end Sys2Proof.Machine
end

