-- ==== Sys2Proof/Machine/Ring.lean ====
section
/-! DEFINITION. What leaves through the host link and what the scheduler reads: events and their rings (R409 to R413), queue
records (R328), reads and writes in a job's address space (R303, R306), and the space the engines share with it. -/
namespace Sys2Proof.Machine

/-! Queues (R328, R409). -/

def Queue.blank : Queue := { rec_ := 0, deficit := 0, pass := 0, front := [], runs := [], heldSince := 0, ring := 0 }
def State.queue (s : State) (q : Nat) : Queue := (aget q s.sched.queues).getD Queue.blank
def State.setQueue (s : State) (q : Nat) (v : Queue) : State := { s with sched := { s.sched with queues := aset q v s.sched.queues } }
def State.modQueue (s : State) (q : Nat) (f : Queue → Queue) : State := s.setQueue q (f (s.queue q))

def Queue.en (q : Queue) : Bool := q.rec_.getLsbD 0
def Queue.cls (q : Queue) : Nat := fld q.rec_.toNat 6 2
def Queue.affw (q : Queue) : Nat := fld q.rec_.toNat 16 16
def Queue.wmax (q : Queue) : Nat := fld q.rec_.toNat 32 6
def Queue.quant (q : Queue) : Nat := fld q.rec_.toNat 38 24
def Queue.root (q : Queue) : Nat := fld q.rec_.toNat 62 34 * 2 ^ 14

/-! Event rings. -/

def Ring.blank : Ring := { ebase := 0, esize := 0, prod := 0, cons := 0, drop := 0, arm := false, held := [] }
def State.ring (s : State) (g : Nat) : Ring := (aget g s.host.rings).getD Ring.blank
def State.modRing (s : State) (g : Nat) (f : Ring → Ring) : State :=
  { s with host := { s.host with rings := aset g (f (s.ring g)) s.host.rings } }

/-- Entries of a ring (R409): a size code outside 6 to 16 is taken as the nearer of the two (log 42). -/
def Ring.log (r : Ring) : Nat :=
  let n := fld r.esize.toNat 0 5
  if n < 6 then 6 else if 16 < n then 16 else n
def Ring.en (r : Ring) : Bool := r.esize.getLsbD 31
def Ring.full (r : Ring) : Bool := decide (2 ^ r.log ≤ (r.prod - r.cons).toNat)

/-- What leaves for the host. -/
def State.sendHost (s : State) (o : HostOut) : State := { s with host := { s.host with out := s.host.out ++ [o] } }

/-- MSI-X (R413): sent only with ARM set, and the send clears ARM. -/
def State.msix (s : State) (g : Nat) : State :=
  if (s.ring g).arm then (s.modRing g fun r => { r with arm := false }).sendHost (.msix g) else s

/-- An event enters its ring (R410): the entry, then EPROD, then the vector. -/
def State.ringWrite (s : State) (g : Nat) (bs : List Byte) : State :=
  let r := s.ring g
  let i := r.prod.toNat
  let ph : Byte := BitVec.ofNat 8 (i / 2 ^ r.log % 2)
  let at_ := fld r.ebase.toNat 12 52 * 4096 + 256 * (i % 2 ^ r.log)
  let s := { s with host := { s.host with bus := s.host.bus.put at_ (ph :: bs.drop 1) } }
  (s.modRing g fun r => { r with prod := r.prod + 1 }).msix g

/-- Drop the oldest held event of kinds 4 to 8 beyond 64 of them (R412). -/
def Ring.trim (r : Ring) : Ring :=
  if (r.held.filter fun e => !e.1).length ≤ 64 then r
  else { r with held := r.held.eraseP fun e => !e.1, drop := if r.drop = BitVec.allOnes 32 then r.drop else r.drop + 1 }

/-- An event is written, or held while its ring is full or off (R412; log 42). -/
def State.post (s : State) (g : Nat) (job : Bool) (bs : List Byte) : State :=
  let r := s.ring g
  if r.en && !r.full && r.held.isEmpty then s.ringWrite g bs
  else s.modRing g fun r => { r with held := r.held ++ [(job, bs)] }.trim

/-- Held events enter the ring as room appears. -/
def State.flushRing (s : State) (g : Nat) : Nat → State
  | 0 => s
  | n + 1 =>
    let r := s.ring g
    match r.held with
    | [] => s
    | (_, bs) :: t => if r.en && !r.full then ((s.modRing g fun r => { r with held := t }).ringWrite g bs).flushRing g n else s

/-- The 256 bytes of an event (R410), its phase bit still 0. -/
def eventBytes (kind queue tag job arg tlc jflags : Nat) (trec : Nat) : List Byte :=
  leBytes 1 0 ++ leBytes 1 kind ++ leBytes 2 queue ++ leBytes 4 tag ++ leBytes 4 job ++ leBytes 4 arg ++ leBytes 8 tlc ++
    leBytes 1 jflags ++ leBytes 39 0 ++ leBytes 128 trec ++ leBytes 64 0

/-- An event of a queue goes to its ring, another to ring 0 (R409). -/
def State.event (s : State) (kind : Nat) (q : Option Nat) (tag job arg jflags trec : Nat) : State :=
  let g := match q with | some q => (s.queue q).ring | none => 0
  s.post g (decide (1 ≤ kind) && decide (kind ≤ 3)) (eventBytes kind (q.getD 0xFFFF) tag job arg s.tlc jflags trec)

/-- Device status (R427). -/
def State.status (s : State) (code : Nat) : State := s.event 7 none 0 0 code 0 0

/-- An access to the host window or a launch port that is discarded is counted (R401, R404). -/
def State.countLo (s : State) : State :=
  { s with host := { s.host with herrLo := if s.host.herrLo < 2 ^ 32 - 1 then s.host.herrLo + 1 else s.host.herrLo } }
def State.countHi (s : State) : State :=
  { s with host := { s.host with herrHi := if s.host.herrHi < 2 ^ 32 - 1 then s.host.herrHi + 1 else s.host.herrHi } }

/-! Address spaces of jobs, outside the cores (R303, R324). -/

/-- The agent that translates for the scheduler and the engines; dies are 0 to 7. -/
def noDie : Nat := 15

/-- Bytes at a virtual address, beat by beat. -/
def State.virtRead (s : State) (root : Nat) : Nat → Nat → Nat → State × Except Trap (List Byte)
  | 0, _, _ => (s, .ok [])
  | fuel + 1, va, n =>
    if n = 0 then (s, .ok [])
    else if va ≥ 2 ^ 54 then (s, .error ((Place.hv va).rangeTrap 0))
    else
      let m := beatLen va n
      match s.translate none noDie root va false with
      | (s, .error tr) => (s, .error tr)
      | (s, .ok k) =>
        match s.readKey none none 5 k m 4 va false with
        | (s, .error tr) => (s, .error tr)
        | (s, .ok bs) =>
          match s.virtRead root fuel (va + m) (n - m) with
          | (s, .error tr) => (s, .error tr)
          | (s, .ok l) => (s, .ok (bs ++ l))

/-- n bytes of a job's space, one request of R307. -/
def State.virtBytes (s : State) (root va n : Nat) : State × Except Trap (List Byte) := s.nextDraw.virtRead root (n / 32 + 2) va n

/-- Bytes written at a virtual address, beat by beat, up to the first fault; the answer says whether all were written. -/
def State.virtWrite (s : State) (root : Nat) : Nat → Nat → List Byte → State × Bool
  | 0, _, bs => (s, bs.isEmpty)
  | fuel + 1, va, bs =>
    if bs.isEmpty then (s, true)
    else if va ≥ 2 ^ 54 then (s, false)
    else
      let m := beatLen va bs.length
      match s.translate none noDie root va true with
      | (s, .error _) => (s, false)
      | (s, .ok k) => ((s.poolSpan none k m true).physWrite k (bs.take m) false).virtWrite root fuel (va + m) (bs.drop m)
def State.virtPut (s : State) (root va : Nat) (bs : List Byte) : State × Bool := s.nextDraw.virtWrite root (bs.length / 32 + 2) va bs

end Sys2Proof.Machine
end

