-- ==== Sys2Proof/Machine/Tob.lean ====
section
/-! DEFINITION. Tensor-operator blocks, graph versions, launches and jobs of 13_scheduler (R317 to R327), and readiness of
queue heads (R329, R330). -/
namespace Sys2Proof.Machine

/-! The TOB (R317 to R323) and its checks at launch (R325). -/

/-- A handle that a TOB may name (R322, R239). -/
def vtHandleOk (present : Nat → Bool) (h : Nat) : Bool :=
  fld h 31 26 == 0 && fld h 57 3 == 2 && h % 16 == 0 && present (fld h 28 3)

/-- Two line ranges meet. -/
def linesMeet (a b : Nat × Nat) : Bool := meet a.1 a.2 b.1 b.2

/-- No two of some ranges meet. -/
def disjointAll : List (Nat × Nat) → Bool
  | [] => true
  | a :: t => t.all (fun b => !linesMeet a b) && disjointAll t

/-- Reading a TOB's 256 bytes as fields. -/
def tobFields (b : List Byte) : Tob :=
  { kind := bfld b 0 1, flags := bfld b 2 2, steplen := bfld b 4 4, prog := bfld b 8 8, plen := bfld b 16 2, pcrc := bfld b 20 4
    loops := (List.range 6).map fun l => (fld (bfld b (24 + 4 * l) 4) 16 2, fld (bfld b (24 + 4 * l) 4) 0 16)
    grows := bfld b 48 1, gcols := bfld b 49 1, chkm := bfld b 50 1, wbud := bfld b 52 4, cbase := bfld b 56 1, csize := bfld b 57 1
    resr := (List.range 4).map fun i => (bfld b (60 + 4 * i) 2, bfld b (62 + 4 * i) 2)
    leases := (List.range 16).map fun j => BitVec.ofNat 32 (bfld b (80 + 4 * j) 4)
    waitg := (List.range 4).map fun i => BitVec.ofNat 64 (bfld b (144 + 8 * i) 8)
    arrg := BitVec.ofNat 64 (bfld b 176 8), wadv := (List.range 4).map fun i => bfld b (184 + i) 1
    bnode := bfld b 188 2, bopt := bfld b 190 1, args := (b.drop 192).take 64 }

def Tob.acc (t : Tob) : Bool := t.flags.testBit 3
def Tob.noRestart (t : Tob) : Bool := t.flags.testBit 1
def Tob.arrives (t : Tob) : Bool := t.flags.testBit 7
def Tob.klvl (t : Tob) : Nat := fld t.flags 4 3
def Tob.cells (t : Tob) : Nat := t.grows * t.gcols
def Tob.dies (t : Tob) : Nat := if t.grows > 4 then 2 else 1

/-- The product of the counts of one kind of level (R319, R34). -/
def Tob.product (t : Tob) (kind : Nat) : Nat := (t.loops.filter fun l => l.1 == kind).foldl (fun n l => n * l.2) 1
/-- Steps of a TOB (R319). -/
def Tob.steps (t : Tob) : Nat := t.product 1

/-- Resident regions that exist: first line and lines (R320). -/
def Tob.regions (t : Tob) : List (Nat × Nat) := t.resr.filter fun r => r.2 != 0

/-- A lease entry's fields (R321). -/
def leaseRows (l : BitVec 32) : Nat := fld l.toNat 16 16
def leaseReg (l : BitVec 32) : Nat := fld l.toNat 10 6
def leaseAny (l : BitVec 32) : Bool := l.getLsbD 9
def leasePch (l : BitVec 32) : Nat := fld l.toNat 0 9

/-- Leases a TOB names: stream and entry. -/
def Tob.named (t : Tob) : List (Nat × BitVec 32) := ((List.range 16).zip t.leases).filter fun p => leaseRows p.2 != 0

def Tob.loopsOk (t : Tob) : Bool :=
  (t.loops.all fun l => if l.1 == 0 then l.2 == 0 else decide (1 ≤ l.2)) && t.product 2 == t.cells / t.dies && t.product 3 == t.dies

/-- The gang shape (R19). -/
def Tob.shapeOk (t : Tob) : Bool :=
  decide (1 ≤ t.grows) && decide (t.grows ≤ 8) && decide (1 ≤ t.gcols) && decide (t.gcols ≤ 8) && (decide (t.grows ≤ 4) || t.grows % 2 == 0)

/-- Resident regions inside the carve-out and apart (R320). -/
def Tob.resOk (t : Tob) : Bool :=
  (t.regions.all fun r => decide (1024 * t.cbase ≤ r.1) && decide (r.1 + r.2 ≤ 1024 * (t.cbase + t.csize))) && disjointAll t.regions

/-- ACCRES and KLVL (R318, R320, R325). -/
def Tob.accOk (t : Tob) : Bool :=
  if t.acc then (t.loops.findIdx fun l => l.1 == 1) == t.klvl && decide (t.klvl < 6) && decide (t.cbase + t.csize ≤ 31) else t.klvl == 0

/-- Lease entries (R321, R325). -/
def Tob.leasesOk (t : Tob) : Bool :=
  (t.leases.all fun l => if leaseRows l == 0 then l == 0 else decide (leaseRows l ≤ 49152) && (!leaseAny l || leasePch l == 0)) &&
  disjointAll ((t.named.filter fun p => !leaseAny p.2).map fun p => (leasePch p.2, 1))

/-- Conditions and arrival (R322). -/
def Tob.handlesOk (present : Nat → Bool) (t : Tob) : Bool :=
  ((t.wadv.zip t.waitg).all fun p =>
    if !p.1.testBit 7 then p.1 == 0
    else fld p.1 3 3 == 0 && decide (p.1 % 8 ≤ 5) && (!p.1.testBit 6 || decide (((t.loops[p.1 % 8]?).map (·.1)).getD 0 < 2)) &&
      vtHandleOk present p.2.toNat) &&
  (!t.arrives || vtHandleOk present t.arrg.toNat)

/-- The bytes a TOB marks zero, its version and its ranges (R317 to R319, R325). Bits 23:18 of a loop entry must be zero too (R319), but
R325 gives their breach no outcome, so nothing looks at them (R12; log 38). -/
def tobPlain (b : List Byte) (t : Tob) : Bool :=
  bfld b 1 1 == 1 && ([18, 19, 51, 58, 59, 76, 77, 78, 79, 191].all fun i => bfld b i 1 == 0) &&
  ((List.range 6).all fun l => bfld b (27 + 4 * l) 1 == 0) &&
  t.flags / 256 == 0 && decide (1 ≤ t.steplen) && decide (t.steplen ≤ 2 ^ 21) && t.prog % 64 == 0 && decide (t.prog < 2 ^ 54) &&
  decide (7 ≤ t.plen) && decide (t.plen ≤ 16384) && decide (t.chkm < 3) && decide (t.cbase ≤ 31) && decide (1 ≤ t.csize) &&
  decide (t.cbase + t.csize ≤ 32) && decide (t.bopt ≤ 1) && (t.bopt == 1 || t.bnode == 0)

/-- A TOB that a launch accepts (R325). -/
def tobOf (present : Nat → Bool) (b : List Byte) : Option Tob :=
  let t := tobFields b
  if tobPlain b t && t.shapeOk && t.loopsOk && t.resOk && t.accOk && t.leasesOk && t.handlesOk present then some t else none

/-- IDX0 to IDX5 of a rank in step n (R34, R319). -/
def tobIndex (t : Tob) (n rank : Nat) : List Nat :=
  let per := t.cells / t.dies
  let go (v : Nat → Nat) : List Nat := ((List.range 6).zip t.loops).map fun p =>
    if p.2.1 = 0 then 0
    else
      let below := (t.loops.take p.1).foldl (fun m l => if l.1 == p.2.1 then m * l.2 else m) 1
      v p.2.1 / below % p.2.2
  go fun kind => match kind with | 1 => n | 2 => rank % per | _ => rank / per

/-! Reading TOBs and versions in a job's space. -/

/-- A TOB at a virtual address; none where it cannot be read or breaks R325. -/
def State.readTob (s : State) (root va : Nat) : State × Option Tob :=
  if va % 256 ≠ 0 ∨ va ≥ 2 ^ 54 then (s, none)
  else match s.virtBytes root va 256 with
    | (s, .error _) => (s, none)
    | (s, .ok b) => (s, tobOf s.diePresent b)

def State.readTobs (s : State) (root : Nat) : List Nat → State × Option (List TobEnt)
  | [] => (s, some [])
  | va :: t =>
    match s.readTob root va with
    | (s, none) => (s, none)
    | (s, some b) =>
      match s.readTobs root t with
      | (s, none) => (s, none)
      | (s, some l) => (s, some (⟨va, b, b.steps, 0, false, 0, false⟩ :: l))

/-- The version a graph handle names (R324). -/
def State.versionOf (s : State) (graph ver : Nat) : Option Version :=
  s.sched.versions.find? fun v => v.graph == graph && (if ver = 0 then v.current else v.version == ver)

/-- The TOBs and dependences of a version (R324, R325). -/
def State.readGraph (s : State) (root : Nat) (v : Version) : State × Option (List TobEnt × List (Nat × Nat)) :=
  let r := v.rec_.toNat
  let ntob := fld r 32 16; let ndep := fld r 48 16
  if ntob = 0 ∨ 4096 < ntob ∨ 16384 < ndep then (s, none)
  else
    match s.virtBytes root (fld r 64 64) (8 * ntob) with
    | (s, .error _) => (s, none)
    | (s, .ok bs) =>
      match s.readTobs root (elemsOf 8 bs) with
      | (s, none) => (s, none)
      | (s, some ts) =>
        if ndep = 0 then (s, some (ts, []))
        else
          match s.virtBytes root (fld r 128 64) (4 * ndep) with
          | (s, .error _) => (s, none)
          | (s, .ok ds) =>
            let deps := (elemsOf 4 ds).map fun d => (d % 65536, d / 65536)
            if deps.all fun d => decide (d.1 < d.2) && decide (d.2 < ntob) then (s, some (ts, deps)) else (s, none)

/-! Jobs (R326). -/

def State.job (s : State) (n : Nat) : Option Job := aget n s.sched.jobs
def State.modJob (s : State) (n : Nat) (f : Job → Job) : State := { s with sched := { s.sched with jobs := amod n f s.sched.jobs } }
/-- A job that has not ended. -/
def State.jobLive (s : State) (n : Nat) : Bool := match s.job n with | some j => j.ended.isNone | none => false

/-- Jobs that hold a place in a queue (R325, R412): those whose end event is still to be written included. -/
def State.jobsIn (s : State) (q : Nat) : Nat :=
  (s.sched.jobs.filter fun j => j.2.q == q).length +
    ((s.ring (s.queue q).ring).held.filter fun e => e.1 && bfld e.2 2 2 == q).length

/-- The steps of a TOB enter their queue (R326). -/
def State.enqueue (s : State) (q job idx total : Nat) : State :=
  s.modQueue q fun v => { v with runs := v.runs ++ [⟨job, idx, 0, total⟩] }

/-- What a launch asks for. -/
inductive Wanted where
  | graph (handle : Nat)
  | tob (va : Nat)

/-- What a launch says of its job (R405). -/
structure LaunchArgs where
  tag : BitVec 32
  flaga : Nat
  flagn : Nat
  brken : Bool
  quiet : Bool
  viaPort : Bool

/-- A new job takes the next number (R326). -/
def State.newJob (s : State) (q graph ver : Nat) (ts : List TobEnt) (deps : List (Nat × Nat)) (a : LaunchArgs) : State :=
  let n := s.sched.nextJob
  let j : Job := { num := n, q := q, root := (s.queue q).root, graph := graph, version := ver, tobs := ts, deps := deps
                   flaga := a.flaga, flagn := a.flagn, tag := a.tag, brken := a.brken, quiet := a.quiet, viaPort := a.viaPort
                   ended := none, record := 0 }
  let s := { s with sched := { s.sched with jobs := aset n j s.sched.jobs, nextJob := if n = 2 ^ 32 - 1 then 1 else n + 1 } }
  ((List.range ts.length).zip ts).foldl (fun (s : State) (p : Nat × TobEnt) => s.enqueue q n p.1 p.2.total) s

/-- A launch (R325): the job, or the reason of R411. -/
def State.launch (s : State) (q : Nat) (w : Wanted) (a : LaunchArgs) : State × Option Nat :=
  let v := s.queue q
  if !v.en then (s, some 2)
  else if 256 ≤ s.jobsIn q then (s, some 3)
  else
    match w with
    | .tob va =>
      match s.readTob v.root va with
      | (s, none) => (s, some 4)
      | (s, some b) => (s.newJob q 0 0 [⟨va, b, b.steps, 0, false, 0, false⟩] [] a, none)
    | .graph h =>
      match s.versionOf (fld h 0 12) (fld h 12 16) with
      | none => (s, some 5)
      | some ver =>
        match s.readGraph v.root ver with
        | (s, none) => (s, some 4)
        | (s, some (ts, deps)) => (s.newJob q ver.graph ver.version ts deps a, none)

/-- LSTEP's TOB joins the issuing job (R247, R326, R327). -/
def State.addTob (s : State) (job q va : Nat) : State × Bool :=
  match s.job job with
  | none => (s, false)
  | some j =>
    if !(s.queue q).en || decide (256 ≤ s.jobsIn q) then (s, false)
    else match s.readTob j.root va with
      | (s, none) => (s, false)
      | (s, some b) =>
        let s := s.modJob job fun j => { j with tobs := j.tobs ++ [⟨va, b, b.steps, 0, false, 0, true⟩] }
        (s.enqueue q job j.tobs.length b.steps, true)

/-! Leases and resources. -/

/-- Resumption references that a gang holds are released (R377). -/
def State.dropRefs (s : State) (ns : List Nat) : State :=
  { s with belfry := { s.belfry with nodes := ns.foldl (fun l n => amod n (fun v => { v with ref := v.ref - 1 }) l) s.belfry.nodes } }

/-- Waiters on a condition that is met (R338). -/
def State.wake (s : State) (f : WaitOn → Bool) : State :=
  { s with sched := { s.sched with waiters := s.sched.waiters.map fun w => if f w.on then { w with on := .now } else w } }

/-- A gang's pseudo-channels are out of lease (R254, R273): waiters on them may go. -/
def State.freeLeases (s : State) (gid : Nat) : State :=
  let ps := (s.pchs.filter fun p => p.2.lease == some gid).map (·.1)
  let s := { s with pchs := s.pchs.map fun (p : Nat × Pch) => if p.2.lease == some gid then (p.1, { p.2 with lease := none, quiet := false }) else p }
  s.wake fun w => match w with | .pch n => ps.contains n | _ => false

/-- A gang that is over: cores and leases are free. -/
def State.dropGang (s : State) (gid : Nat) : State :=
  let s := s.freeLeases gid
  { s with gangs := adel gid s.gangs }

/-- Versions that are neither current nor held by a job are freed (R324). -/
def State.freeVersions (s : State) : State :=
  { s with sched := { s.sched with versions := s.sched.versions.filter fun v =>
      v.current || s.sched.jobs.any fun j => j.2.graph == v.graph && j.2.version == v.version } }

/-- A job ends (R326): its steps, waiters, regions, kept state and pins go; gangs that have had no downbeat are dropped. -/
def State.endJob (s : State) (n : Nat) (how : JobEnd) (rec_ : BitVec 1024) : State :=
  if !s.jobLive n then s
  else
    let s := s.modJob n fun j => { j with ended := some how, record := rec_
                                          tobs := j.tobs.map fun t => { t with dropped := t.dropped || decide (t.done < t.total) } }
    let linked := s.sched.waiters.filterMap fun w => match w.on with | .gong k _ _ => if w.step.job = n then some k else none | _ => none
    let heads := (s.sched.queues.filterMap fun q => q.2.heldHead.bind fun r => if r.job = n then
      (s.tobEnt r.job r.tobIdx).map fun t => (s.failing t.tob r.next).map (·.1) else none).flatten
    let early := (s.gangs.filter fun g => g.2.step.job == n && (match g.2.phase with | .placed _ => true | .staged _ => true | _ => false)).map (·.1)
    let s := early.foldl State.dropGang s
    let pins := (s.belfry.pins.filter fun p => p.2 == n).map (·.1)
    let s := s.dropRefs pins
    let s := { s with
      pins := s.pins.filter fun p => p.job != n
      belfry := { s.belfry with pins := s.belfry.pins.filter fun p => p.2 != n }
      sched := { s.sched with
        queues := s.sched.queues.map fun q => (q.1, { q.2 with
          front := q.2.front.filter fun t => t.job != n
          runs := q.2.runs.filter fun r => r.job != n
          heldSince := if q.2.runs.head?.any fun r => r.job == n then 0 else q.2.heldSince })
        reservations := s.sched.reservations.filter fun r => !((s.queue r.q).front.any fun t => t.id == r.step && t.job == n)
        waiters := s.sched.waiters.filter fun w => w.step.job != n
        kept := s.sched.kept.filter fun k => k.job != n
        regions := s.sched.regions.filter fun r => r.job != n } }
    (linked ++ heads).foldl (fun (s : State) k => s.relink k) s

/-- Every step of a job is done. -/
def State.jobFinished (s : State) (n : Nat) : Bool :=
  match s.job n with
  | some j => j.ended.isNone && j.tobs.all fun t => decide (t.total ≤ t.done)
  | none => false

/-- The flag bytes of a job (R327): graph TOBs, then added ones. -/
def Job.flagBytes (j : Job) : List Byte :=
  ((j.tobs.filter fun t => !t.added) ++ j.tobs.filter (·.added)).map fun t => BitVec.ofNat 8 t.flagw.toNat

/-- FLAG_AREA_WRITE (R327, R410): the flag area, then the job-end event, then the version reference is released. -/
def State.flagArea (s : State) (n : Nat) : State :=
  match s.job n with
  | none => s
  | some j =>
    match j.ended with
    | none => s
    | some how =>
      let bs := j.flagBytes.take j.flagn
      let (s, whole) := if j.flaga = 0 then (s, true) else s.virtPut j.root j.flaga bs
      let fl := (j.tobs.foldl (fun f t => f ||| t.flagw) (0 : Flags)).toNat + (if whole then 0 else 128)
      let s := match how with
        | .normal => if j.quiet || !j.viaPort then s else s.event 1 (some j.q) j.tag.toNat n 0 fl 0
        | .fault => s.event 2 (some j.q) j.tag.toNat n 0 fl j.record.toNat
        | .abort => s.event 3 (some j.q) j.tag.toNat n 0 fl j.record.toNat
      { s with sched := { s.sched with jobs := adel n s.sched.jobs } }.freeVersions

/-! Heads (R329, R330). -/

/-- The region a lease names, where it is resident with enough rows, in a channel that is timed (R321). -/
def State.regionOf (s : State) (job : Nat) (l : BitVec 32) : Option Region :=
  s.sched.regions.find? fun r => r.job == job && r.lreg == leaseReg l && decide (leaseRows l ≤ r.rows.length) &&
    (s.pch r.pch).mode == .timed && (leaseAny l || r.pch == leasePch l)

/-- A pseudo-channel that a lease may be bound to now (R254). -/
def State.bindable (s : State) (n : Nat) : Bool :=
  let p := s.pch n
  p.mode == .timed && p.lease.isNone && (List.range 16).all fun b => (p.bankAt b s.tlc).isIdle && decide (p.debtOf b ≤ 2)

def State.leaseReady (s : State) (job : Nat) (l : BitVec 32) : Bool :=
  match s.regionOf job l with
  | some r => s.bindable r.pch
  | none => false

/-- The readiness of a head (R330). -/
def State.headReady (s : State) (qn : Nat) (q : Queue) (r : TobRun) : Bool :=
  match s.job r.job, s.tobEnt r.job r.tobIdx with
  | some j, some t =>
    q.en && (j.deps.all fun d => d.2 != r.tobIdx || (match j.tobs[d.1]? with | some p => decide (p.total ≤ p.done) | none => true)) &&
    (s.failing t.tob r.next).isEmpty && decide ((s.sched.waiters.filter fun w => w.q == qn).length < q.wmax) &&
    (!t.tob.noRestart || t.tob.named.all fun l => s.leaseReady r.job l.2)
  | _, _ => false

/-- The head of a queue becomes READY or HELD (R329). -/
def State.evalHead (s : State) (qn : Nat) : State :=
  let q := s.queue qn
  match q.heldHead with
  | none => s
  | some r =>
    if s.headReady qn q r then
      let st : QStep := { id := s.sched.nextId, job := r.job, tobIdx := r.tobIdx, n := r.next, attempt := 0, errs := 0, mc := none }
      let runs := if r.next + 1 < r.total then { r with next := r.next + 1 } :: q.runs.drop 1 else q.runs.drop 1
      let s := s.setQueue qn { q with front := q.front ++ [st], runs := runs, heldSince := 0 }
      { s with sched := { s.sched with nextId := s.sched.nextId + 1, lastMove := if q.heldSince = 0 then s.sched.lastMove else s.tlc } }
    else if q.heldSince = 0 then s.setQueue qn { q with heldSince := s.tlc } else s

/-- Every head is judged (R330). -/
def State.evalHeads (s : State) : State := s.sched.queues.foldl (fun (s : State) q => s.evalHead q.1) s

end Sys2Proof.Machine
end

