-- ==== Sys2Proof/Machine/Record.lean ====
section
/-! DEFINITION. Trap records (R283 to R287), machine-check verdicts (R391 to R393, R399) and the disposal of an attempt (R46,
R47). -/
namespace Sys2Proof.Machine

/-- A trap record but for SEQ and LOST (R285, R286); the instruction's words are those that were fetched on f. -/
def State.recordBits (s : State) (g : Gang) (f : FaultRec) (disp : Nat) : Nat :=
  let noWord := f.who.isNone || f.trap.cause == 20
  let rank := (f.who.map (·.rank)).getD 0
  let cell := (g.cells[rank]?).getD 0
  let wa := if noWord then 0 else (f.who.map (·.waddr)).getD 0
  let w0 := if noWord then none else g.words.head?
  let two := match w0 with | some w => wordsOf w == 2 | none => false
  let w1 := if two then ((g.words[1]?).getD 0).toNat else 0
  let due := if f.trap.cause = 16 ∨ f.trap.cause = 17 then f.trap.due else 0
  let idx := tobIndex g.tob g.step.n rank
  packBits ([(0, 8, f.trap.cause), (8, 2, disp), (12, 4, if g.step.attempt < 15 then g.step.attempt else 15), (16, 8, g.more),
    (24, 5, (f.who.map (·.strm.code)).getD 31), (32, 6, rank), (40, 5, cell % 32), (45, 3, cell / 32), (48, 4, s.pdie (cell / 32)),
    (52, 8, (w0.map fun w => opOf w).getD 0), (60, 1, two.toNat), (61, 1, f.trap.other.isSome.toNat), (64, 14, wa),
    (80, 14, if f.trap.inCont then wa + 1 else wa), (96, 24, f.f - g.dbt), (128, 64, g.dbt), (192, 64, g.tobAddr), (352, 10, g.queue),
    (384, 32, g.step.job), (416, 10, g.marks.2.toNat), (426, 10, g.marks.1.toNat),
    (448, 5, (f.trap.other.map (·.strm.code)).getD 0), (456, 6, (f.trap.other.map (·.rank)).getD 0),
    (464, 14, (f.trap.other.map (·.waddr)).getD 0), (480, 24, due), (512, 64, f.trap.lo), (576, 64, f.trap.hi),
    (640, 64, (w0.getD 0).toNat), (704, 64, w1)] ++ (List.range 6).map fun i => (256 + 16 * i, 16, (idx[i]?).getD 0))

/-- A record enters the trap ring, or is dropped and counted (R284). -/
def State.trapWrite (s : State) (bits : Nat) : State × BitVec 1024 :=
  let m := ringAt s.sched.trapMem 0 s.sched.trapSeq s.sched.trapRing.length 1
  let full := m.2 == 0
  let lost := if s.sched.trapLost < 255 then s.sched.trapLost else 255
  let r := BitVec.ofNat 1024 (bits + packBits [(440, 8, lost), (768, 32, s.sched.trapSeq)])
  ({ s with sched := { s.sched with
      trapRing := if full then s.sched.trapRing else s.sched.trapRing ++ [r]
      trapMem := m.1
      trapLost := if full then s.sched.trapLost + 1 else 0
      trapSeq := (s.sched.trapSeq + 1) % 2 ^ 32 } }, r)

/-! Machine checks. -/

/-- A verdict or action record (R399). -/
def State.verdict (s : State) (g : Gang) (m : McState) (outcome verdict act : Nat) : State :=
  s.errRecord (ErrRec.ofGang { cause := m.cause, key := m.key, orig := some m.orig, outcome := outcome, verdict := verdict, act := act } g)

/-- A core that holds no step any more (R393). -/
def State.markUnusable (s : State) (core : Nat) : State := { s with err := { s.err with unusable := insertNat core s.err.unusable } }

/-- The actions at once of a lasting verdict (R393), with the status event (R427). -/
def State.lastingActs (s : State) (g : Gang) (m : McState) : State :=
  let s := (s.verdict g m 3 2 0).status 1
  let s := { s with err := { s.err with lasting := aset m.unit m.orig s.err.lasting } }
  match m.cause with
  | 80 | 81 | 82 => s.poisonBeat m.key
  | 84 | 85 => (s.markUnusable (keyDie m.cause m.key * 32 + keyCore m.cause m.key)).verdict g m 5 2 4
  | 83 => ({ s with err := { s.err with flits := s.err.flits.filter fun e => !(mcUnit 83 (linkKey e.src e.dst 0) == m.unit) } }).verdict g m 4 2 6
  | 86 => (s.modPch ((m.key - 2 ^ 51) / 2 ^ 15) fun p => { p with mode := .retired }).verdict g m 5 2 5
  | _ => s

/-- What a machine check of an attempt leaves (R392): the retry's state, whether it ends the job, with its records. -/
def State.machineCheck (s : State) (g : Gang) (f : FaultRec) : State × McState × Bool :=
  let unit := s.trapUnit f.trap
  let new (n : Nat) : McState := { cause := f.trap.cause, key := f.trap.key, unit := unit, orig := f.trap.lo, lasting := false, attempts := n,
                                   cells := g.cells, pchs := g.mems.map fun m => (m.n, m.pch) }
  match g.step.mc with
  | none => (s, new 1, false)
  | some m =>
    let n := m.attempts + 1
    if m.unit ≠ unit then (if m.lasting then s else s.verdict g m 3 1 0, new n, decide (4 ≤ n))
    else if m.lasting then (s, new n, true)
    else (s.lastingActs g m, { m with lasting := true, attempts := n, cells := [], pchs := [] }, decide (4 ≤ n))

/-! Futures (R46, R306, R338). -/

/-- The table entry that stops the walk of an address: the key of an entry that is not valid. -/
def State.stopEntry (s : State) (va : Nat) : Nat → Nat → Nat → Option Nat
  | 0, _, _ => none
  | fuel + 1, lvl, tab =>
    let k := tab + 8 * levelIndex lvl va
    if (s.paBad k).isSome then none
    else
      let e := leNat (s.physRead k 8).bytes
      if !e.testBit 0 then some k
      else if e.testBit 1 then none
      else s.stopEntry va fuel (lvl + 1) (fld e 7 41 * 128)

/-- What a page has become for the step that met its future. -/
inductive PageState where
  | resolved | future | lost
  deriving DecidableEq, Repr

def State.pageState (s : State) (root va : Nat) : PageState :=
  match s.stopEntry va 5 0 root with
  | none => .resolved
  | some k => if (leNat (s.physRead k 8).bytes).testBit 5 then .future else .lost

/-! Disposal (R46, R47). -/

/-- DISP of R285. -/
def dispCode (live noRestart : Bool) (errs : Nat) (tr : Trap) (mcEnds : Bool) : Nat :=
  if !live || noRestart then 3
  else if tr.cause = 49 then 0
  else if tr.cause = 32 then (if tr.key = 1 then 0 else 3)
  else if tr.cause = 34 then 3
  else if mcCause tr.cause then (if mcEnds then 3 else 1)
  else if 2 ≤ errs + 1 then 3
  else 2

/-- A step enters READY at the head of its queue (R329, R52). -/
def State.toFront (s : State) (q : Nat) (st : QStep) : State := s.modQueue q fun v => { v with front := st :: v.front }

/-- A step becomes a waiter (R338). -/
def State.toWaiter (s : State) (q : Nat) (st : QStep) (on : WaitOn) : State :=
  { s with sched := { s.sched with waiters := s.sched.waiters ++ [⟨q, st, on, s.tlc⟩] } }

/-- The record of an attempt is written and the attempt disposed of; its cores and leases are free. A step that met a future waits for the
page unless the pager has resolved it since the fault, and its job ends if the pager has given it up (R46, R338). -/
def State.dispose (s : State) (gid : Nat) (g : Gang) (f : FaultRec) : State :=
  let live := s.jobLive g.step.job
  let (s, mc, ends) := if mcCause f.trap.cause && live && !g.tob.noRestart then
      let r := s.machineCheck g f; (r.1, some r.2.1, r.2.2)
    else (s, g.step.mc, false)
  let disp := dispCode live g.tob.noRestart g.step.errs f.trap ends
  let va := fld f.trap.lo 8 56
  let page := s.pageState g.root va
  let disp := if disp = 0 ∧ f.trap.cause = 32 ∧ page = .lost then 3 else disp
  let (s, rec_) := s.trapWrite (s.recordBits g f disp)
  let s := s.dropGang gid
  match disp with
  | 0 => s.toWaiter g.queue g.step (if f.trap.cause = 49 then g.wait.getD .now else if page = .resolved then .now else .page g.root va)
  | 1 => s.toFront g.queue { g.step with mc := mc }
  | 2 => s.toFront g.queue { g.step with errs := g.step.errs + 1 }
  | _ => s.endJob g.step.job .fault rec_

end Sys2Proof.Machine
end

