-- ==== Sys2Proof/Machine/Sched.lean ====
section
/-! DEFINITION. The step scheduler of 13_scheduler: placement (R333, R337), reservations (R334), the choice of a step (R331,
R332), lease binding (R254, R321, R335), pre-emption (R50, R337), waiters (R338) and the hang record (R341 to R343). -/
namespace Sys2Proof.Machine

/-! Rectangles (R19, R333). -/

/-- The cores of a rectangle by rank; `d2` holds the lower rows of a two-die gang. -/
def rectCells (t : Tob) (d1 d2 row0 col0 : Nat) : List Nat :=
  let half := t.grows / t.dies
  (List.range t.cells).map fun r =>
    let gr := r / t.gcols
    32 * (if gr < half then d1 else d2) + 8 * (row0 + gr % half) + col0 + r % t.gcols

/-- Every rectangle of a TOB's shape, in the order of R333. -/
def rects (t : Tob) : List (List Nat) :=
  let half := t.grows / t.dies
  let dies := List.range 8
  let pairs := if t.dies = 1 then dies.map fun d => (d, d)
    else (dies.map fun a => (dies.filter (· != a)).map fun b => (a, b)).flatten
  (pairs.map fun p => ((List.range (5 - half)).map fun r0 => (List.range (9 - t.gcols)).map fun c0 =>
    rectCells t p.1 p.2 r0 c0).flatten).flatten

/-- An operator as the kept state names it (R337). -/
def QStep.op (st : QStep) : Nat := st.job * 65536 + st.tobIdx

/-- Lines of a core that kept state takes: its regions, and its checkpoint in unit 31 (R320). -/
def Kept.lines (k : Kept) : List (Nat × Nat) := if k.acc then (31744, 1024) :: k.regions else k.regions
/-- Lines that a step of a TOB may write on a core: its carve-out, and the checkpoint unit with ACCRES. -/
def Tob.lines (t : Tob) : List (Nat × Nat) := if t.acc then [(1024 * t.cbase, 1024 * t.csize), (31744, 1024)] else [(1024 * t.cbase, 1024 * t.csize)]

/-- Kept state of other operators that a step on some cores would meet (R333, R337). -/
def State.keptMet (s : State) (op : Nat) (t : Tob) (cells : List Nat) : List Kept :=
  s.sched.kept.filter fun k => k.saved.isNone && k.op != op && cells.contains k.core && k.lines.any fun a => t.lines.any fun b => linesMeet a b

/-- A lasting fault's core or die, or either die of a link, keeps its next attempt away (R392). -/
def McState.bars (m : McState) (cells : List Nat) : Bool :=
  m.lasting &&
  if 2 ^ 63 ≤ m.unit then false
  else if 2 ^ 62 ≤ m.unit then cells.any fun c => c / 32 == (m.unit - 2 ^ 62) / 16 || c / 32 == m.unit % 16
  else if 2 ^ 61 ≤ m.unit then cells.any fun c => c / 32 == (m.unit - 2 ^ 61) / 2 ^ 22
  else if 2 ^ 60 ≤ m.unit then false
  else cells.contains (m.unit - 2 ^ 59)

/-- Steps that are READY or waiters. -/
def State.pendingSteps (s : State) : List QStep := (s.sched.queues.map fun q => q.2.front).flatten ++ s.sched.waiters.map (·.step)

/-- A core or pseudo-channel that a machine-check retry has first claim on (R392). -/
def State.retryCore (s : State) (id c : Nat) : Bool :=
  s.pendingSteps.any fun t => t.id != id && (match t.mc with | some m => m.cells.contains c | none => false)
def State.retryPch (s : State) (id n : Nat) : Bool :=
  s.pendingSteps.any fun t => t.id != id && (match t.mc with | some m => m.pchs.any (·.2 == n) | none => false)

/-- A core that a step may be placed on (R20, R333, R393, R395, R396). -/
def State.coreOpen (s : State) (id c : Nat) : Bool :=
  (s.gangs.all fun g => !g.2.cells.contains c) && !s.err.unusable.contains c && s.dieOpen (c / 32) && !s.retryCore id c
/-- A core that no reservation for another step claims either (R334). -/
def State.coreFree (s : State) (id c : Nat) : Bool :=
  s.coreOpen id c && s.sched.reservations.all fun r => r.step == id || !r.cells.contains c

/-- The cores a machine-check retry goes back to (R392). -/
def QStep.retryCells (st : QStep) : List Nat := match st.mc with | some m => m.cells | none => []
def QStep.barred (st : QStep) (cells : List Nat) : Bool := match st.mc with | some m => m.bars cells | none => false

/-- No step runs on a core that holds state of the operator (R49, R292). -/
def State.mayPreempt (s : State) (op : Nat) : Bool :=
  (s.sched.kept.filter fun k => k.op == op && k.saved.isNone).all fun k => s.gangs.all fun g => !(g.2.live && g.2.cells.contains k.core)

/-- No state of other operators that a step would meet on these cores is in its affinity hold (R337). -/
def State.unheld (s : State) (op : Nat) (t : Tob) (cells : List Nat) : Bool := (s.keptMet op t cells).all fun k => !k.held
/-- Such state can be saved now, whole. -/
def State.savable (s : State) (op : Nat) (t : Tob) (cells : List Nat) : Bool :=
  s.unheld op t cells && (s.keptMet op t cells).all fun k => s.mayPreempt k.op

/-- Rank by rank, the operator's state stands on these cores. -/
def State.keptOn (s : State) (op : Nat) (cells : List Nat) : Bool :=
  !cells.isEmpty && ((List.range cells.length).zip cells).all fun p =>
    s.sched.kept.any fun k => k.saved.isNone && k.op == op && k.rank == p.1 && k.core == p.2

/-- A place in the groups of R333, the first of each group; kept state under an affinity hold is left alone, in group 1 too (R337;
log 85). -/
def State.placeAmong (s : State) (op : Nat) (t : Tob) (l : List (List Nat)) : Option (List Nat) :=
  match l.find? fun c => s.keptOn op c && s.savable op t c with
  | some c => some c
  | none =>
    match l.find? fun c => (s.keptMet op t c).isEmpty with
    | some c => some c
    | none => l.find? fun c => s.savable op t c

/-- The cores a READY head takes (R333, R334, R392): a machine-check retry goes back to its own before any reservation, and a reserved
head takes the cores it claims once they are free, and state there is out of its affinity hold (R337; log 85). -/
def State.place (s : State) (st : QStep) (t : Tob) : Option (List Nat) :=
  if !st.retryCells.isEmpty then (if st.retryCells.all (s.coreOpen st.id) then some st.retryCells else none)
  else
    let ok (c : List Nat) : Bool := (c.all fun k => s.coreFree st.id k) && !st.barred c
    match s.sched.reservations.find? fun r => r.step == st.id && !r.cells.isEmpty with
    | some r => if ok r.cells && s.unheld st.op t r.cells then some r.cells else none
    | none => s.placeAmong st.op t ((rects t).filter ok)

/-! Reservations (R334): an entry without cores waits for one of the four. -/

/-- When the running steps of a rectangle end at the latest by their declared lengths; a step before its downbeat counts as if that were now
(log 85). -/
def State.freeBy (s : State) (cells : List Nat) : Nat :=
  (s.gangs.filter fun g => g.2.cells.any cells.contains).foldl (fun n g =>
    let e := (match g.2.phase with | .placed _ | .staged _ => s.tlc | _ => g.2.dbt) + g.2.tob.steplen
    if n < e then e else n) 0

/-- A core that still takes steps. -/
def State.coreUsable (s : State) (c : Nat) : Bool := !s.err.unusable.contains c && s.dieOpen (c / 32)

/-- A rectangle that a reservation may claim: usable cores that no other claim holds, without state in its affinity hold (R333, R337). -/
def State.claimable (s : State) (st : QStep) (t : Tob) (cells : List Nat) : Bool :=
  (cells.all fun c => s.coreUsable c && !s.retryCore st.id c && (s.sched.reservations.all fun r => !r.cells.contains c)) &&
    s.unheld st.op t cells && !st.barred cells

/-- The first of some rectangles in the groups of R333. -/
def State.firstRect (s : State) (op : Nat) (t : Tob) (l : List (List Nat)) : Option (List Nat) :=
  match l.find? (s.keptOn op) with
  | some c => some c
  | none =>
    match l.find? fun c => (s.keptMet op t c).isEmpty with
    | some c => some c
    | none => l.head?

/-- The rectangle of a reservation: the earliest to be free, and among those the first of R333; a retry has its own (R392). -/
def State.reserveRect (s : State) (st : QStep) (t : Tob) : Option (List Nat) :=
  let l := (if st.retryCells.isEmpty then rects t else [st.retryCells]).filter (s.claimable st t)
  match l with
  | [] => none
  | c :: r =>
    let best := r.foldl (fun n d => if s.freeBy d < n then s.freeBy d else n) (s.freeBy c)
    s.firstRect st.op t (l.filter fun d => s.freeBy d == best)

/-- The READY head of a queue with its TOB. -/
def State.readyHead (s : State) (q : Nat) : Option (QStep × TobEnt) :=
  let v := s.queue q
  match v.front with
  | [] => none
  | st :: _ => if v.en then (s.tobEnt st.job st.tobIdx).map fun t => (st, t) else none

/-- A queue asks for a reservation for its head once its PASS is 16. -/
def State.askReserve (s : State) (q id : Nat) : State :=
  if (s.queue q).pass < 16 || s.sched.reservations.any (·.q == q) then s
  else { s with sched := { s.sched with reservations := s.sched.reservations ++ [⟨q, id, []⟩] } }

/-- The READY step of a queue that a reservation is for, with its TOB: its head, or behind a step that came back to the queue's head. -/
def State.reserver (s : State) (r : Reservation) : Option (QStep × TobEnt) :=
  if (s.queue r.q).en then ((s.queue r.q).front.find? fun t => t.id == r.step).bind fun st => (s.tobEnt st.job st.tobIdx).map fun t => (st, t) else none

/-- The reservations of a list are granted in its order, up to the first that finds no rectangle: none is granted before an earlier one
(R53, R334). -/
def State.grantIn (s : State) : List Reservation → State
  | [] => s
  | r :: t =>
    if !r.cells.isEmpty then s.grantIn t
    else if 4 ≤ (s.sched.reservations.filter fun q => !q.cells.isEmpty).length then s
    else match s.reserver r with
      | none => s.grantIn t
      | some (st, e) =>
        match s.reserveRect st e.tob with
        | none => s
        | some c =>
          let s : State := { s with sched := { s.sched with reservations := s.sched.reservations.map fun q => if q == r then { q with cells := c } else q } }
          s.grantIn t

/-- Reservations that wait take a rectangle while fewer than four are held; one whose step has gone is released, and one whose cores take no
more steps waits again. -/
def State.grantReserve (s : State) : State :=
  let rs := s.sched.reservations.filter fun r => (s.reserver r).isSome
  let s : State := { s with sched := { s.sched with reservations := rs.map fun r => if r.cells.all s.coreUsable then r else { r with cells := [] } } }
  s.grantIn s.sched.reservations

/-! Pre-emption (R50, R337). -/

/-- Bytes of a core's memory as they stand, with their poisoned beats, or the fault of an uncorrectable unit. -/
def State.saveSeg (s : State) (core : Nat) (a n : Nat) : State × Except Trap (List Byte × List Nat) :=
  let r := s.fetch (cmKey core a) n
  match r.bad with
  | some u => (s, .error { cause := 82, key := u })
  | none => (s.correctedAll none 4 r, .ok (r.bytes, (List.range (n / 32)).filter fun i => s.poison.contains (cmKey core a / 32 + i)))

/-- The segments a core saves, in the order of R50. -/
def Kept.segs (k : Kept) : List (Nat × Nat) := (if k.acc then [(2031616, 65536)] else []) ++ k.regions.map fun r => (64 * r.1, 64 * r.2)

def State.saveAll (s : State) (core : Nat) : List (Nat × Nat) → State × Except Trap (List (List Byte × List Nat))
  | [] => (s, .ok [])
  | a :: t =>
    match s.saveSeg core a.1 a.2 with
    | (s, .error tr) => (s, .error tr)
    | (s, .ok x) => match s.saveAll core t with
      | (s, .error tr) => (s, .error tr)
      | (s, .ok l) => (s, .ok (x :: l))

/-- A gang in name only, for a record that has no attempt. -/
def Gang.shell (q : Nat) (st : QStep) (t : TobEnt) (root : Nat) (brken : Bool) (cells : List Nat) (tlc : Nat) : Gang :=
  { id := 0, step := st, queue := q, tobAddr := t.addr, tob := t.tob, root := root, brken := brken, cells := cells
    phase := .placed tlc, dbt := 0, segStart := 0, cues := [], nest := [], cores := [], mems := [], agenda := [], stash := []
    reqs := [], fault := none, more := 0, wait := none, refs := [], marks := (0, 0), words := [], replays := [], applied := [] }

/-- An operator's state is lost on a save: its job ends with the machine check (R50). -/
def State.saveFails (s : State) (k : Kept) (tr : Trap) : State :=
  let seq := s.err.seq
  let s := s.errRecord (s.describe { cause := tr.cause, key := tr.key, job := k.job, queue := k.q, outcome := 2, src := 4 })
  match s.tobEnt k.job k.tobIdx with
  | none => s
  | some t =>
    let st : QStep := { id := 0, job := k.job, tobIdx := k.tobIdx, n := 0, attempt := 0, errs := 0, mc := none }
    let g := { Gang.shell k.q st t 0 false [k.core] s.tlc with dbt := s.tlc }
    let (s, rec_) := s.trapWrite (s.recordBits g ⟨s.tlc, none, { tr with lo := seq }⟩ 3)
    s.endJob k.job .fault rec_

/-- Regions on a core that hold no rank's values any more (R320). -/
def noRank : Nat := 2 ^ 16

/-- PREEMPTION: every core's kept state of an operator goes to the save pool, but for cores on which a step runs, whose memory no save reaches
now (R49, R292): there it stays in place. What holds no rank's values is not saved. -/
def State.preempt (s : State) (op : Nat) : State :=
  let here (k : Kept) : Bool := k.op == op && k.saved.isNone && s.gangs.all fun g => !(g.2.live && g.2.cells.contains k.core)
  let s : State := { s with sched := { s.sched with kept := s.sched.kept.filter fun k => !(here k && k.rank == noRank) } }
  (s.sched.kept.filter here).foldl (fun (s : State) k =>
    match s.saveAll k.core k.segs with
    | (s, .error tr) => s.saveFails k tr
    | (s, .ok l) => { s with sched := { s.sched with kept := s.sched.kept.map fun j =>
        if j.op == op && j.rank == k.rank && j.core == k.core then { j with saved := some l, held := false } else j } }) s

/-- A pre-emption stands between a completion and the next downbeat on the same cores, outside an affinity hold (R49, R337). -/
def State.preemption (s : State) (op : Nat) : State :=
  if (s.sched.kept.any fun k => k.op == op && k.saved.isNone && k.held) || !s.mayPreempt op then s else s.preempt op

/-- AFFINITY_HOLD_EXPIRY: AFFW × 128 cycles after the completion (R337). -/
def State.holdOver (s : State) (k : Kept) : Bool := k.held && decide (k.since + (s.queue k.q).affw * 128 ≤ s.tlc)
def State.affinityExpiry (s : State) (op : Nat) : State :=
  { s with sched := { s.sched with kept := s.sched.kept.map fun k => if k.op == op && s.holdOver k then { k with held := false } else k } }

/-! Leases (R254, R321, R335). -/

/-- A lease that names a fixed pseudo-channel which is not timed: cause 34 (R300, R335; log 26). -/
def State.unbound (s : State) (t : Tob) : Option Trap :=
  (t.named.find? fun l => !leaseAny l.2 && (s.pch (leasePch l.2)).mode != .timed).map fun l =>
    { cause := 34, lo := rangeLo 4 ((leasePch l.2 * pchBytes : Nat) : Int), hi := 5 }

/-- A memory stream before its words are staged. -/
def MStream.bound (n pch nr : Nat) (rows : List Nat) : MStream :=
  { n := n, pch := pch, nr := nr, rows := rows
    strm := { id := .d (Fin.ofNat 16 n), pc := 0, base := 0, floor := 0, st := .stopped, mark := 0, loops := [], opened := [], stopAt := none }
    entry := 0, len := 0, rank := 0, base := 0, lines := 0, cur := 0, rb := 0, counts := [] }

/-- The region that lease j of a step names, where it is resident: for a machine-check retry in the pseudo-channel that the first attempt had,
and after a lasting fault of a row or a pseudo-channel off that one, where the pager moves it first (R392). -/
def State.regionFor (s : State) (st : QStep) (j : Nat) (l : BitVec 32) : Option Region :=
  match s.regionOf st.job l, st.mc with
  | some r, some m =>
    if m.lasting ∧ 2 ^ 60 ≤ m.unit ∧ m.unit < 2 ^ 61 ∧ (m.unit - 2 ^ 60) * 1024 / pchBytes = r.pch then none
    else if m.pchs.any fun p => p.1 == j && p.2 != r.pch then none
    else some r
  | r, _ => r

/-- The leases bind in stream order, or the step waits (R338). -/
def State.bindLeases (s : State) (gid : Nat) (g : Gang) : List (Nat × BitVec 32) → State × Option WaitOn
  | [] => (s, none)
  | (j, l) :: t =>
    match s.regionFor g.step j l with
    | none => (s, some (.region g.step.job (leaseReg l)))
    | some r =>
      if !s.bindable r.pch || s.retryPch g.step.id r.pch then (s, some (.pch r.pch))
      else
        let s := s.modPch r.pch fun p => { p with lease := some gid, quiet := false }
        let s := s.modGang gid fun g => { g with mems := g.mems ++ [MStream.bound j r.pch (leaseRows l) (r.rows.take (leaseRows l))] }
        s.bindLeases gid g t

/-! Dispatch (R331, R332, R335). -/

/-- Cycles of the saves of some operators: 64 bytes in each for a core, all cores at once (R337). -/
def State.saveTime (s : State) (ops : List Nat) : Nat :=
  (s.sched.kept.filter fun k => k.saved.isNone && ops.contains k.op).foldl (fun n k =>
    Nat.max n (((s.sched.kept.filter fun j => j.saved.isNone && ops.contains j.op && j.core == k.core).map fun j =>
      (j.segs.map (·.2)).foldl (· + ·) 0).foldl (· + ·) 0 / 64)) 0

/-- A placed head is dispatched: state it would meet is saved, its cores are taken and its leases bound. Staging begins when the save is
over. A save that fails may end the head's own job (R50): nothing is dispatched then. -/
def State.dispatch (s : State) (q : Nat) (st : QStep) (t : TobEnt) (cells : List Nat) : State :=
  let ops := ((s.keptMet st.op t.tob cells).map (·.op)).eraseDups
  let begin_ := s.tlc + s.saveTime ops
  let s := ops.foldl State.preempt s
  if (s.queue q).front.head? ≠ some st then s else
  let s := s.modQueue q fun v => { v with front := v.front.drop 1, deficit := v.deficit - t.tob.steplen, pass := 0 }
  let gid := s.sched.nextId
  let s : State := { s with sched := { s.sched with
    decisions := s.sched.decisions + 1, nextId := gid + 1, reservations := s.sched.reservations.filter fun r => r.step != st.id } }
  match s.job st.job with
  | none => s
  | some j =>
    let g := { Gang.shell q { st with attempt := st.attempt + 1 } t j.root j.brken cells begin_ with id := gid }
    let s : State := { s with gangs := aset gid g s.gangs }
    match s.unbound t.tob with
    | some tr => s.dispose gid { g with dbt := s.tlc } ⟨s.tlc, none, tr⟩
    | none =>
      match s.bindLeases gid g t.tob.named with
      | (s, none) => s
      | (s, some on) => (s.dropGang gid).toWaiter q st on

/-- Queues of a class, in number order. -/
def State.classQueues (s : State) (c : Nat) : List Nat := (s.sched.queues.filter fun q => q.2.cls == c).map (·.1)

/-- The next queue after q, wrapping. -/
def nextQueue (qs : List Nat) (q : Nat) : Nat := (qs.find? fun n => decide (q < n)).getD (qs.headD 0)

/-- A READY head that can be placed. -/
def State.placeable (s : State) (q : Nat) : Option (QStep × TobEnt × List Nat) :=
  (s.readyHead q).bind fun h => (s.place h.1 h.2.tob).map fun c => (h.1, h.2, c)

/-- The pointer reaches a queue. -/
def State.reach (s : State) (c q : Nat) : State :=
  let s := s.modQueue q fun v => { v with deficit := v.deficit + v.quant }
  { s with sched := { s.sched with classPtr := aset c q s.sched.classPtr } }

/-- The loop of R332; `risen` are the queues whose PASS has risen in this decision. -/
def State.roundRobin (c : Nat) (qs : List Nat) : Nat → List Nat → State → State
  | 0, _, s => s
  | fuel + 1, risen, s =>
    match aget c s.sched.classPtr with
    | none => (s.reach c (qs.headD 0)).roundRobin c qs fuel risen
    | some q =>
      let v := s.queue q
      let go (s : State) (risen : List Nat) : State := (s.reach c (nextQueue qs q)).roundRobin c qs fuel risen
      match s.readyHead q with
      | none => go (s.setQueue q { v with deficit := 0 }) risen
      | some (st, t) =>
        if v.deficit < t.tob.steplen then go s risen
        else
          match s.place st t.tob with
          | some cells => s.dispatch q st t cells
          | none =>
            if risen.contains q then go s risen
            else go ((s.setQueue q { v with pass := if v.pass < 16 then v.pass + 1 else 16 }).askReserve q st.id) (q :: risen)

/-- Class c is served: a reserved head whose cores are free first (R334). -/
def State.serve (s : State) (c : Nat) : State :=
  let qs := s.classQueues c
  let claimed (r : Reservation) : Bool := !r.cells.isEmpty && qs.contains r.q && ((s.queue r.q).front.head?.any fun t => t.id == r.step)
  match s.sched.reservations.findSome? fun r => if claimed r then (s.placeable r.q).map fun p => (r.q, p) else none with
  | some (q, st, t, cells) => s.dispatch q st t cells
  | none => s.roundRobin c qs (2 ^ 22 * (qs.length + 1)) []

/-- The class of a decision (R331). -/
def State.chooseClass (s : State) : Option Nat :=
  let ready (c : Nat) : Bool := (s.classQueues c).any fun q => (s.placeable q).isSome
  let c := s.sched.decisions % 16 - 12
  if 13 ≤ s.sched.decisions % 16 ∧ ready c then some c else [0, 1, 2, 3].find? ready

/-- DISPATCH_SLOT: every 16 cycles (R331), not while power or temperature holds dispatch (R426). -/
def State.dispatchSlot (s : State) : State :=
  if s.tlc % 16 ≠ 0 ∨ s.ticked.contains (0, 0) ∨ s.root.thermalHold ∨ s.root.powerHold then s
  else
    let s := (s.tickOnce 0 0).grantReserve
    match s.chooseClass with
    | none => s
    | some c => (s.serve c).grantReserve

/-! Waiters (R338). -/

/-- A waiter's condition is met. -/
def State.waiterMet (s : State) (w : Waiter) : Bool :=
  match w.on with
  | .now => true
  | .region j l => match s.tobEnt w.step.job w.step.tobIdx with
    | some t => t.tob.named.all fun e => w.step.job != j || leaseReg e.2 != l || (s.regionFor w.step e.1 e.2).isSome
    | none => false
  | .pch n => (s.pch n).lease.isNone && (s.bindable n || (s.pch n).mode != .timed)
  | _ => false

/-- WAITER_RELEASE: the step is READY at the head of its queue (R52). -/
def State.waiterRelease (s : State) (id : Nat) : State :=
  match s.sched.waiters.find? fun w => w.step.id == id with
  | none => s
  | some w =>
    if !s.waiterMet w then s
    else { s.toFront w.q w.step with sched := { (s.toFront w.q w.step).sched with
      waiters := s.sched.waiters.filter fun v => v.step.id != id, lastMove := s.tlc } }

/-- A row that no region is mapped onto again (R394). -/
def State.rowRetired (s : State) (pch row : Nat) : Bool := s.err.rows.any fun u => u / 2 ^ 20 == pch && u % 65536 == row

/-- REGION_RESIDENT: the pager makes a region resident in one timed pseudo-channel (R321, R338). -/
def State.regionResident (s : State) (job lreg pch : Nat) (rows : List Nat) : State :=
  if !s.jobLive job || (s.pch pch).mode != .timed || 64 ≤ lreg || 512 ≤ pch || 49152 < rows.length ||
      rows.any (fun r => decide (49152 ≤ r) || s.rowRetired pch r) then s
  else
    { s with sched := { s.sched with
      regions := (s.sched.regions.filter fun r => !(r.job == job && r.lreg == lreg)) ++ [⟨job, lreg, pch, rows⟩] } }

/-! The hang record (R341 to R343). -/

/-- The stall time-out in cycles; none while detection is off. -/
def State.hangAfter (s : State) : Option Nat :=
  if s.sched.hangTo = 0 then none else some ((if s.sched.hangTo < 1024 then 1024 else s.sched.hangTo) * 4096)

/-- Heads that are HELD. -/
def State.heldHeads (s : State) : List (Nat × Queue × TobRun) :=
  s.sched.queues.filterMap fun q => q.2.heldHead.bind fun r => if q.2.heldSince = 0 then none else some (q.1, q.2, r)

/-- A stall is due (R341). -/
def State.hangDue (s : State) : Bool :=
  match s.hangAfter with
  | none => false
  | some t =>
    let late (c : Nat) : Bool := decide ((if c < s.sched.lastHang then s.sched.lastHang else c) + t ≤ s.tlc)
    let any := !s.sched.waiters.isEmpty || !s.heldHeads.isEmpty
    (any && late s.sched.lastMove) || (s.sched.waiters.any fun w => late w.since) || s.heldHeads.any fun h => late h.2.1.heldSince

/-- Whether something can still advance a gong (R343). -/
def State.gongFed (s : State) (key : Nat) : Bool :=
  let arr (job idx : Nat) : Bool := match s.tobEnt job idx with
    | some t => t.tob.arrives && vtKey (fld t.tob.arrg.toNat 0 31) == key
    | none => false
  let handle (g : Gang) (c : Core) (h : BitVec 64) : Bool := s.handleKey g c h == key
  (s.gangs.any fun p => arr p.2.step.job p.2.step.tobIdx ||
    (p.2.cores.any fun c => c.compl.any fun e => match e with | .arrive h _ _ => handle p.2 c h | _ => false) ||
    (p.2.reqs.any fun r => match r.handle, p.2.coreAt r.who.rank with | some h, some c => handle p.2 c h | _, _ => false) ||
    p.2.agenda.any fun a => match a.act with
      | .count _ _ k => k == key
      | .ringRegist h => (match p.2.coreAt a.who.rank with | some c => handle p.2 c h | none => false)
      | _ => false) ||
  (s.pendingSteps.any fun t => arr t.job t.tobIdx) || s.sched.queues.any fun q => q.2.runs.any fun r => arr r.job r.tobIdx

/-- An entry (R342): step, kind, what it waits on, gong, orphan mark and the cycle its state began. -/
def State.hangEntry (s : State) (q : Nat) (job idx n att kind : Nat) (what : Nat) (key : Option Nat) (orph : Bool) (since : Nat) : BitVec 512 :=
  let t := s.tobEnt job idx
  let ix := match t with | some t => tobIndex t.tob n 0 | none => []
  let g := match key with | some k => s.gong k | none => Gong.ofNat 0
  let has := key.isSome
  let w := s.tlc - since
  BitVec.ofNat 512 (packBits ([(480, 32, job), (470, 10, q), (467, 3, kind), (466, 1, orph.toNat),
    (448, 16, match t with | some t => if t.added then 0xFFFF else idx | none => idx),
    (288, 64, (t.map (·.addr)).getD 0), (224, 64, what), (220, 4, if has then g.gen else 0), (200, 16, if has then g.arr else 0),
    (184, 16, if has then g.inb else 0), (168, 16, if has then g.out else 0), (128, 32, if w < 2 ^ 32 - 1 then w else 2 ^ 32 - 1),
    (124, 4, if att < 15 then att else 15)] ++ (List.range 6).map fun i => (352 + 16 * i, 16, (ix[i]?).getD 0)))

/-- The stream of a step that leases a region or a pseudo-channel, and the channel its entry names. -/
def State.leaseWhat (s : State) (st : QStep) (f : BitVec 32 → Bool) : Nat :=
  match (s.tobEnt st.job st.tobIdx).bind fun t => t.tob.named.find? fun l => f l.2 with
  | some l => packBits [(0, 10, match s.regionOf st.job l.2 with | some r => r.pch | none => leasePch l.2), (10, 6, leaseReg l.2), (16, 4, l.1)]
  | none => 0

/-- The entry of a waiter. -/
def State.waiterEntry (s : State) (w : Waiter) : BitVec 512 :=
  let go (kind what : Nat) (key : Option Nat) (orph : Bool) : BitVec 512 :=
    s.hangEntry w.q w.step.job w.step.tobIdx w.step.n w.step.attempt kind what key orph w.since
  match w.on with
  | .gong k h _ => go 0 h.toNat (some k) (!s.gongFed k)
  | .now => go 0 0 none false
  | .page _ va => go 1 va none false
  | .region _ l => go 2 (s.leaseWhat w.step fun e => leaseReg e == l) none false
  | .pch n => go 3 (s.leaseWhat w.step fun e => match s.regionOf w.step.job e with | some r => r.pch == n | none => false) none false

/-- The first lease that keeps a NORESTART head (R47, R330): its stream and entry, and whether its region is not resident. -/
def State.leaseLate (s : State) (job : Nat) (t : Tob) : Option (Nat × BitVec 32 × Bool) :=
  if !t.noRestart then none
  else (t.named.find? fun l => !s.leaseReady job l.2).map fun l => (l.1, l.2, (s.regionOf job l.2).isNone)

/-- The entry of a held head: the first dependence, else the first condition, else the first lease that fails. One that only WMAX or its
queue's EN holds has kind 4 with WHAT 0 (log 91). -/
def State.heldEntry (s : State) (q : Nat) (v : Queue) (r : TobRun) : BitVec 512 :=
  let go (kind what : Nat) (key : Option Nat) (orph : Bool) : BitVec 512 :=
    s.hangEntry q r.job r.tobIdx r.next 0 kind what key orph v.heldSince
  match s.job r.job with
  | none => go 4 0 none false
  | some j =>
    match j.deps.find? fun d => d.2 == r.tobIdx && (match j.tobs[d.1]? with | some p => decide (p.done < p.total) | none => false) with
    | some d => go 5 d.1 none (match j.tobs[d.1]? with | some p => p.dropped | none => false)
    | none =>
      match (s.tobEnt r.job r.tobIdx).bind fun t => (s.failing t.tob r.next).head? with
      | some c => go 4 c.2.toNat (some c.1) (!s.gongFed c.1)
      | none =>
        match (s.tobEnt r.job r.tobIdx).bind fun t => s.leaseLate r.job t.tob with
        | some (n, l, away) => go (if away then 2 else 3)
            (packBits [(0, 10, match s.regionOf r.job l with | some e => e.pch | none => leasePch l), (10, 6, leaseReg l), (16, 4, n)]) none false
        | none => go 4 0 none false

/-- A waiter takes its place among those of its queue: steps are numbered in the queue's order. -/
def putWaiter (w : Waiter) : List Waiter → List Waiter
  | [] => [w]
  | v :: t => if w.step.id < v.step.id then w :: v :: t else v :: putWaiter w t

/-- HANG_TIMEOUT: the header and an entry for each waiter and held head, by queue and then by place, as far as the ring has room, and an
event to service firmware (R341). -/
def State.hangTimeout (s : State) : State :=
  if !s.hangDue then s
  else
    let es := (s.sched.queues.map fun q =>
      (((s.sched.waiters.filter fun w => w.q == q.1).foldr putWaiter []).map s.waiterEntry) ++
        ((s.heldHeads.filter fun h => h.1 == q.1).map fun h => s.heldEntry h.1 h.2.1 h.2.2)).flatten
    let nrun := (s.gangs.filter fun g => match g.2.phase with | .running | .ending | .closed _ => true | _ => false).length
    let m := ringAt s.sched.hangMem 2 s.sched.hangSeq s.sched.hangRing.length (es.length + 1)
    let fit := es.take (m.2 - 1)
    let head := BitVec.ofNat 512 (packBits [(224, 32, fit.length), (192, 32, es.length - fit.length), (128, 64, s.tlc),
      (64, 64, s.sched.lastMove), (32, 32, s.sched.hangSeq), (16, 16, nrun)])
    { s with sched := { s.sched with
      hangRing := if m.2 = 0 then s.sched.hangRing else s.sched.hangRing ++ head :: fit
      hangMem := m.1, hangSeq := (s.sched.hangSeq + 1) % 2 ^ 32, lastHang := s.tlc
      events := s.sched.events ++ [(341, s.sched.hangSeq, es.length, 0)] } }

end Sys2Proof.Machine
end

