-- ==== Sys2Proof/Machine/Life.lean ====
section
/-! DEFINITION. The life of a gang: staging (R23, R255, R335), the downbeat (R24, R27, R30, R320, R335), overrun (R22),
completion (R26, R243, R247), and the end of an abandoned attempt (R41, R45, R283). -/
namespace Sys2Proof.Machine

/-! Program images (R23, R335). -/

/-- One byte of the CRC of ISO HDLC (R335). -/
def crc32Byte (c b : Nat) : Nat :=
  (List.range 8).foldl (fun c _ => if c % 2 = 1 then (c / 2) ^^^ 0xEDB88320 else c / 2) (c ^^^ b)
def crc32 (bs : List Byte) : Nat := (bs.foldl (fun c b => crc32Byte c b.toNat) 0xFFFFFFFF) ^^^ 0xFFFFFFFF

/-- Words of an image. -/
def imageWords (bs : List Byte) : List Nat := elemsOf 8 bs
/-- Entry j of the entry table. -/
def entryOf (ws : List Nat) (j : Nat) : Nat := fld ((ws[j / 4]?).getD 0) (16 * (j % 4)) 16
def entryPresent (e : Nat) : Bool := e.testBit 15
def entryAddr (e : Nat) : Nat := e % 2 ^ 14

/-- The entry table keeps R23. -/
def entriesOk (ws : List Nat) (plen : Nat) : Bool :=
  (List.range 24).all fun j =>
    let e := entryOf ws j
    if 21 ≤ j then e == 0
    else !e.testBit 14 && (!entryPresent e || (decide (6 ≤ entryAddr e) && decide (entryAddr e < plen)))

/-- Words of a memory stream, through the first ENDSTEP in address order (R255). -/
def seqWords : List Nat → List Nat → Option (List Nat)
  | [], _ => none
  | w :: t, acc => if opOf (BitVec.ofNat 64 w) = 0x30 then some (acc ++ [w]) else seqWords t (acc ++ [w])

/-- The ring that an image declares for a stream; none has no lines (R256). -/
def ringOf (ds : List RingDecl) (t : Tob) (n : Nat) : Nat × Nat :=
  match ds.find? fun d => d.prog == t.prog && d.plen == t.plen && d.pcrc == t.pcrc && d.strm == n with
  | some d => (d.base, d.lines)
  | none => (0, 0)

/-- What the image of a step declares for its present memory streams joins the declarations known (R256; log 34). -/
def State.declare (s : State) (ws : List Nat) (t : Tob) : State :=
  let new := (List.range 16).filter fun n => entryPresent (entryOf ws (5 + n)) &&
    !s.sched.rings.any fun d => d.prog == t.prog && d.plen == t.plen && d.pcrc == t.pcrc && d.strm == n
  { s with sched := { s.sched with rings := s.sched.rings ++ new.map fun n =>
      let r := Config.imageRing t.prog t.plen t.pcrc n
      ⟨t.prog, t.plen, t.pcrc, n, r.1, r.2⟩ } }

/-- A ring of at most 4,096 lines inside the carve-out (R256). -/
def ringOk (t : Tob) (r : Nat × Nat) : Bool :=
  r.2 == 0 || (decide (r.2 ≤ 4096) && decide (1024 * t.cbase ≤ r.1) && decide (r.1 + r.2 ≤ 1024 * (t.cbase + t.csize)))

/-- Present memory streams with their words, or the stream and reason of a rejection (R254 to R256, R287). -/
def memWords (ds : List RingDecl) (ws : List Nat) (t : Tob) : Except (Nat × Nat) (List (Nat × Nat × List Nat)) :=
  (List.range 16).foldl (fun r n => match r with
    | .error e => .error e
    | .ok l =>
      let e := entryOf ws (5 + n)
      if !entryPresent e then .ok l
      else match seqWords ((ws.drop (entryAddr e)).take 4096) [] with
        | none => .error (2, n)
        | some sw => if !ringOk t (ringOf ds t n) then .error (3, n)
          else if !t.named.any (fun p => p.1 == n) then .error (4, n)
          else .ok (l ++ [(n, entryAddr e, sw)])) (.ok [])

/-! Kept state at a dispatch (R320, R337). -/

/-- The later of two kept states. -/
def laterKept (a : Option Kept) (k : Kept) : Option Kept :=
  match a with
  | none => some k
  | some b => if b.since < k.since then some k else some b

/-- An operator's kept state for a rank that some test picks, the latest. -/
def State.keptFor (s : State) (op rank : Nat) (p : Kept → Bool) : Option Kept :=
  (s.sched.kept.filter fun k => k.op == op && k.rank == rank && p k).foldl laterKept none

/-- Regions in place on a core, else regions to restore. -/
def State.keptHere (s : State) (op rank core : Nat) : Option Kept := s.keptFor op rank fun k => k.core == core && k.saved.isNone
def State.keptSaved (s : State) (op rank : Nat) : Option Kept := s.keptFor op rank fun k => k.saved.isSome

/-- The index of the K loop in a step (R44, R318). -/
def Tob.kIndex (t : Tob) (n : Nat) : Nat := tCoord t.loops n t.klvl

/-- The checkpoint an accumulator reloads: bytes saved, or bytes standing in a core's checkpoint unit. -/
def State.checkpoint (s : State) (op rank : Nat) : Option (Except Nat (List Byte × List Nat)) :=
  (s.keptFor op rank fun k => k.acc).map fun k => match k.saved with
    | some (x :: _) => .ok x
    | some [] => .ok ([], [])
    | none => .error k.core

/-- A checkpoint that cannot be read whole is a machine check of the dispatch (R392). -/
def State.checkpointTrap (s : State) (op : Nat) (t : Tob) (n ranks : Nat) : Option Trap :=
  if !t.acc || t.kIndex n == 0 then none
  else (List.range ranks).findSome? fun r => match s.checkpoint op r with
    | some (.error core) =>
      let k := cmKey core 2031616
      (s.fetch k 65536).trap k 65536 0 2031616 s.poison
    | some (.ok (_, b :: _)) => some { cause := 65, key := cmKey 0 (2031616 + 32 * b), hi := packBits [(8, 56, 2031616 + 32 * b)] }
    | _ => none

/-! Staging (R335). -/

/-- A fault found at dispatch (R286, R392): its error record, then its trap record and disposal. -/
def State.dispatchFault (s : State) (gid : Nat) (g : Gang) (tr : Trap) : State :=
  let g := { g with dbt := s.tlc }
  if mcCause tr.cause then
    let seq := s.err.seq
    let r : ErrRec := { cause := tr.cause, key := tr.key, outcome := 2, verdict := 0, src := 5 }
    (s.errRecord (s.describe (r.ofGang g))).dispose gid g ⟨s.tlc, none, { tr with lo := seq }⟩
  else s.dispose gid g ⟨s.tlc, none, tr⟩

/-- The image a core must hold for a step. -/
def Tob.image (t : Tob) : Nat × Nat × Nat := (t.prog, t.plen, t.pcrc)
/-- A core that skips staging (R335). -/
def State.staged (s : State) (t : Tob) (core : Nat) : Bool := (s.info core).image == some t.image

/-- The planes swap on a core that took the image (R40, R335): the other plane then holds the image staged before, if there was one
(log 25). -/
def State.swapPlane (s : State) (t : Tob) (bs : List Byte) (core : Nat) : State :=
  let i := s.info core
  (s.store (imKey core (!i.active) 0) bs).setInfo core { i with active := !i.active, valid := i.image.isSome, len := t.plen, image := some t.image }

/-- A memory stream's words enter its sequencer (R255). -/
def State.stageMem (s : State) (gid : Nat) (g : Gang) (m : Nat × Nat × List Nat) : State :=
  match g.memAt m.1 with
  | none => s
  | some st => (s.store (seqKey st.pch 0) (m.2.2.map (leBytes 8)).flatten).modGang gid fun g =>
      g.modMem m.1 fun st => { st with entry := m.2.1, len := m.2.2.length }

/-- Cycles of stage 6 at most (R336): zeroing where R30 requires it, and a restore. -/
def State.stageTime (s : State) (g : Gang) : Nat :=
  let zero := g.cells.any fun c => (s.info c).lastJob != g.step.job
  let saved : Nat := ((List.range g.cells.length).zip g.cells).foldl (fun n p =>
    if (s.keptHere g.step.op p.1 p.2).isSome then n
    else match s.keptSaved g.step.op p.1 with
      | some k => n + ((k.saved.getD []).map (·.1.length)).foldl (· + ·) 0
      | none => n) 0
  4 + (if zero then 1024 else 0) + (if saved = 0 then 0 else 64 + saved / 64)

/-- The words that a dispatch without staging reads from the active plane, first word and number (R23, R255): the entry table and the words of
present memory streams. The others are read only as streams fetch them (R386). -/
def dispatchSpans (ws : List Nat) : List (Nat × Nat) :=
  (0, 6) :: (List.range 16).filterMap fun n =>
    let e := entryOf ws (5 + n)
    if entryPresent e then (seqWords ((ws.drop (entryAddr e)).take 4096) []).map fun sw => (entryAddr e, sw.length) else none

/-- The image of a step that some core must stage, or the bytes of the plane every core holds already: a word that the dispatch reads there
and cannot correct is a machine check of the dispatch (R392). -/
def State.imageOf (s : State) (g : Gang) : State × Except Trap (List Byte) :=
  if g.cells.all (s.staged g.tob) then
    let c := g.cells.headD 0
    let bs := (s.fetch (imKey c (s.info c).active 0) (8 * g.tob.plen)).bytes
    let rs := (dispatchSpans (imageWords bs)).map fun p => s.fetch (imKey c (s.info c).active (8 * p.1)) (8 * p.2)
    (rs.foldl (fun (s : State) r => s.correctedAll (some g) 5 r) s, match rs.findSome? Read.fetchTrap with | some tr => .error tr | none => .ok bs)
  else s.virtBytes g.root g.tob.prog (8 * g.tob.plen)

/-- STAGING_CHECK: the image, its check, the swap and the words of memory streams; it waits for the saves of the dispatch (R337). -/
def State.stagingCheck (s : State) (gid : Nat) : State :=
  match aget gid s.gangs with
  | none => s
  | some g =>
    match g.phase with
    | .placed since =>
      if s.tlc < since then s else
      match s.imageOf g with
      | (s, .error tr) => s.dispatchFault gid g tr
      | (s, .ok bs) =>
        let ws := imageWords bs
        let crc := if g.cells.all (s.staged g.tob) then g.tob.pcrc else crc32 bs
        if crc ≠ g.tob.pcrc then s.dispatchFault gid g { cause := 51, hi := crc }
        else if !entriesOk ws g.tob.plen then s.dispatchFault gid g { cause := 51, lo := 1, hi := crc }
        else
          let s := s.declare ws g.tob
          match memWords s.sched.rings ws g.tob with
          | .error (why, n) => s.dispatchFault gid g { cause := 51, lo := packBits [(0, 4, why), (4, 4, n)], hi := crc }
          | .ok ms =>
            match s.checkpointTrap g.step.op g.tob g.step.n g.cells.length with
            | some tr => s.dispatchFault gid g tr
            | none =>
              let ready := s.tlc + s.stageTime g
              let s := (g.cells.filter fun c => !s.staged g.tob c).foldl (fun (s : State) c => s.swapPlane g.tob bs c) s
              let s := ms.foldl (fun (s : State) m => s.stageMem gid g m) s
              s.modGang gid fun g => { g with phase := .staged ready }
    | _ => s

/-- The cycle by which staging and its check end at the latest (R336). -/
def State.stagingBy (s : State) (g : Gang) (since : Nat) : Nat :=
  since + 32 + (if g.cells.all (s.staged g.tob) then 0 else 64 + (g.tob.plen + 7) / 8)

/-! The downbeat (R21, R24, R27, R254, R335). -/

/-- A gang core at its downbeat (R27, R32). -/
def Core.start (gcore rank : Nat) (idx : List Nat) (res : BitVec 4) (args : List Byte) (acc : Vector Lane 128) (mode : Nat)
    (budget : Nat) (streams : List Stream) : Core :=
  { gcore := gcore, rank := rank, idx := idx, res := res, x := BitVec.ofNat 4096 (leNat args), v := Vector.replicate 128 0
    k := (Vector.replicate 8 0).setIfInBounds 0 (BitVec.allOnes 128), acc := acc, cnt := Vector.replicate 128 0
    qa := ⟨[], []⟩, qb := ⟨[], []⟩, flags := 0, mode := BitVec.ofNat 2 mode, hits := 0, log := [], budget := budget, pend := 0, done := 0
    tags := [], counts := [0, 0, 0, 0], slots := [], slotAt := [], outDesc := 0, win := none, pad := 0, winQ := 0, box := none
    compl := [], svc := []
    ports := { arrRel := 0, arrLand := 0, accRel := 0, feedRel := 0, lastLandM := 0, lastLandL := 0, loc := 0, vert := 0, net := 0, xf := 0, imBusy := 0 }
    claims := [], imOut := 0, streams := streams }

/-- A stream before its first word, which issues on DBT + IDLE (R24). -/
def Stream.start (id : StreamId) (pc dbt : Nat) : Stream :=
  { id := id, pc := pc, base := dbt, floor := 0, st := .run, mark := 0, loops := [], opened := [], stopAt := none }

/-- The present core streams of an image. -/
def startStreams (ws : List Nat) (dbt : Nat) : List Stream :=
  ((List.range 5).zip [StreamId.c, .m, .v, .l, .s]).filterMap fun p =>
    if entryPresent (entryOf ws p.1) then some (Stream.start p.2 (entryAddr (entryOf ws p.1)) dbt) else none

/-- A byte of the carve-out outside the regions that stay is zero, or what an earlier step of the job wrote (R30). -/
def State.clearCarve (s : State) (core job lo hi : Nat) (stay : List (Nat × Nat)) : State :=
  let i := s.info core
  let mine (a : Nat) : Bool := i.lastJob == job && (aget (a / 65536) i.units) == some job
  let inCarve (k : Nat) : Bool := decide (cmKey core lo ≤ k) && decide (k < cmKey core hi)
  let off (k : Nat) : Nat := k - cmKey core 0
  let region (k : Nat) : Bool := stay.any fun r => decide (64 * r.1 ≤ off k) && decide (off k < 64 * (r.1 + r.2))
  let keep (k : Nat) : Bool := !inCarve k || region k || (mine (off k) && Config.keepCarveByte (s.fresh * 2 ^ 64 + k))
  { s with
    mem := s.mem.filter fun c => keep c.1
    poison := s.poison.filter fun b => !inCarve (32 * b) || region (32 * b) || mine (off (32 * b))
    fresh := s.fresh + 1
    err := { s.err with upsets := s.err.upsets.filter fun u => !inCarve u.unit || region u.unit || mine (off u.unit) } }

/-- Regions restored from the save pool (R50, R337). -/
def State.restore (s : State) (core : Nat) : List (Nat × Nat) → List (List Byte × List Nat) → State
  | a :: t, (bs, ps) :: r =>
    let s := s.store (cmKey core a.1) bs
    let s : State := { s with poison := ps.foldl (fun l i => insertNat (cmKey core a.1 / 32 + i) l) s.poison }
    s.restore core t r
  | _, _ => s

/-- The accumulator's rows in a checkpoint's bytes. -/
def accOf (bs : List Byte) : Vector Lane 128 := Vector.ofFn fun i => BitVec.ofNat 4096 (leNat ((bs.drop (512 * i.val)).take 512))

/-- State of an operator for another rank than the one a core now has: its regions are this step's to write, and no value of that rank any
more (R320), but they stay as they stand, for a restart too (R30, R43); a checkpoint stays. -/
def Kept.displaced (k : Kept) (op rank core : Nat) : List Kept :=
  if k.op == op && k.core == core && k.rank != rank && k.saved.isNone then
    (if k.acc then [{ k with regions := [] }] else []) ++
      if k.regions.isEmpty then [] else [{ k with rank := noRank, acc := false, held := false }]
  else [k]

/-- A checkpoint of another rank makes room for the one to be restored to its core: it goes to the save pool (R30, R50), beats that cannot be
corrected as poisoned ones. -/
def State.moveAcc (s : State) (core : Nat) (k : Kept) : Kept :=
  let r := s.fetch (cmKey core 2031616) 65536
  let bad (i : Nat) : Bool := s.poison.contains (cmKey core 2031616 / 32 + i) || (s.fetch (cmKey core (2031616 + 32 * i)) 32).bad.isSome
  { k with saved := some [(r.bytes, (List.range 2048).filter bad)] }

/-- Core memory, kept state and the core's record of its job at a downbeat; the answer says whether the regions hold values. The regions
keep what an earlier completion of the operator left on the core, whichever rank it had (R30), and after an abandoned attempt what that
attempt wrote there (R43). State of other ranks in the save pool waits for its own core. -/
def State.prepare (s : State) (g : Gang) (rank core : Nat) : State × Bool :=
  let here := s.keptHere g.step.op rank core
  let saved := if here.isSome then none else s.keptSaved g.step.op rank
  let stay := ((s.sched.kept.filter fun k => k.op == g.step.op && k.core == core && k.saved.isNone).map Kept.lines).flatten
  let s := { s with sched := { s.sched with kept := (s.sched.kept.map fun (k : Kept) => k.displaced g.step.op rank core).flatten } }
  let s := s.clearCarve core g.step.job (65536 * g.tob.cbase) (65536 * (g.tob.cbase + g.tob.csize)) stay
  let s : State := match saved with
    | none => s
    | some k =>
      let room (j : Kept) : Bool := j.op == k.op && j.core == core && j.saved.isNone
      let kept := ((s.sched.kept.filter fun j => j != k && !(room j && j.rank == noRank)).map fun j =>
        if room j && j.acc && k.acc then s.moveAcc core j else j) ++ [{ k with core := core, saved := none }]
      { s.restore core k.segs (k.saved.getD []) with sched := { s.sched with kept := kept } }
  let i := s.info core
  let us := (List.range g.tob.csize).foldl (fun l u => aset (g.tob.cbase + u) g.step.job l) (if i.lastJob = g.step.job then i.units else [])
  ((s.parityReset core).setInfo core { i with lastJob := g.step.job, units := us },
    (here.any fun k => !k.regions.isEmpty) || saved.any fun k => !k.regions.isEmpty)

/-- The accumulator of a rank at the downbeat (R44). -/
def State.startAcc (s : State) (g : Gang) (rank : Nat) : Vector Lane 128 :=
  if !g.tob.acc || g.tob.kIndex g.step.n == 0 then Vector.replicate 128 0
  else match s.checkpoint g.step.op rank with
    | some (.ok x) => accOf x.1
    | some (.error core) => accOf (s.fetch (cmKey core 2031616) 65536).bytes
    | none => Vector.replicate 128 0

/-- What the reload of an accumulator from a checkpoint unit corrects is recorded (R389). -/
def State.accNote (s : State) (g : Gang) (rank : Nat) : State :=
  if !g.tob.acc || g.tob.kIndex g.step.n == 0 then s
  else match s.checkpoint g.step.op rank with
    | some (.error core) => s.correctedAll (some g) 5 (s.fetch (cmKey core 2031616) 65536)
    | _ => s

/-- Bit i of CARVE.RES: region i holds values (R320). -/
def Tob.resBits (t : Tob) (have_ : Bool) : BitVec 4 :=
  BitVec.ofNat 4 (((List.range 4).zip t.resr).foldl (fun n p => if have_ && p.2.2 != 0 then n + 2 ^ p.1 else n) 0)

/-- A bound pseudo-channel is settled (R254): the base die has stopped and no parameter of its commands still runs. -/
def Pch.settled (p : Pch) (t : Nat) : Bool :=
  p.quiet && (List.range 16).all fun b => (p.bankAt b t).isIdle &&
    [opAct, opRefpb].all fun op => (p.timing op b t).all fun l => match l.legal with | some n => decide (n ≤ t) | none => true

/-- The base die stops on the first cycle on which stage 6 has ended and every debt is 0 or 1 (R254). While power or temperature holds the
downbeat back it goes on refreshing (log 92). -/
def State.settle (s : State) : State :=
  s.gangs.foldl (fun (s : State) p => match p.2.phase with
    | .staged ready =>
      if s.tlc < ready then s
      else if s.root.thermalHold || s.root.powerHold then p.2.mems.foldl (fun (s : State) m =>
        if (s.pch m.pch).quiet then s.modPch m.pch fun q => { q with quiet := false } else s) s
      else p.2.mems.foldl (fun (s : State) m =>
        if !(s.pch m.pch).quiet && (List.range 16).all fun b => decide ((s.pch m.pch).debtOf b ≤ 1) then
          s.modPch m.pch fun q => { q with quiet := true } else s) s
    | _ => s) s

/-- A downbeat falls now. -/
def State.downbeatNow (s : State) (g : Gang) : Bool :=
  match g.phase with
  | .staged ready => decide (ready ≤ s.tlc) && s.tlc % 128 == 0 && !s.root.thermalHold && !s.root.powerHold &&
      g.mems.all fun m => (s.pch m.pch).settled s.tlc
  | _ => false

/-- DOWNBEAT: the step registers, the streams and the memory they find. -/
def State.downbeat (s : State) (gid : Nat) : State :=
  match aget gid s.gangs with
  | none => s
  | some g =>
    if !s.downbeatNow g then s
    else
      let cell := g.cells.headD 0
      let ws := elemsOf 8 (s.fetch (imKey cell (s.info cell).active 0) 48).bytes
      let ranks := (List.range g.cells.length).zip g.cells
      let s := ranks.foldl (fun (s : State) p => s.accNote g p.1) s
      let accs := ranks.map fun p => s.startAcc g p.1
      let r := ranks.foldl (fun (q : State × List Core) p =>
        let m := q.1.prepare g p.1 p.2
        (m.1, q.2 ++ [Core.start p.2 p.1 (tobIndex g.tob g.step.n p.1) (g.tob.resBits m.2) g.tob.args ((accs[p.1]?).getD (Vector.replicate 128 0))
          g.tob.chkm g.tob.wbud (startStreams ws s.tlc)])) (s, [])
      let held := g.tob.bopt == 1 && (aget g.tob.bnode s.belfry.nodes).any fun v => v.domain == g.root
      let s' : State := if held then
        { r.1 with belfry := { r.1.belfry with nodes := amod g.tob.bnode (fun v => { v with ref := v.ref + 1 }) r.1.belfry.nodes } } else r.1
      s'.modGang gid fun g => { g with
        phase := .running, dbt := s.tlc, segStart := s.tlc, cores := r.2, refs := if held then [g.tob.bnode] else []
        mems := g.mems.map fun m => if m.len = 0 then m else
          let r := ringOf s.sched.rings g.tob m.n
          { m with strm := Stream.start m.strm.id m.entry s.tlc, counts := [0, 0, 0, 0], base := r.1, lines := r.2 } }

/-! Overrun (R22). -/

def State.overruns (s : State) (g : Gang) : Bool :=
  (match g.phase with | .running => true | _ => false) && decide (g.dbt + 2 ^ 21 + 1 ≤ s.tlc)
/-- STEP_OVERRUN. -/
def State.stepOverrun (s : State) (gid : Nat) : State :=
  match aget gid s.gangs with
  | some g => if s.overruns g then s.raise gid s.tlc none { cause := 23 } else s
  | none => s

/-! Completion (R26). -/

/-- Every bank of the gang's leases is precharged. -/
def State.banksIdle (s : State) (g : Gang) : Bool :=
  s.pchs.all fun p => p.2.lease != some g.id || (List.range 16).all fun b => (p.2.bankAt b s.tlc).isIdle

/-- Nothing of a gang is due after this cycle. -/
def Gang.settledAt (g : Gang) (t : Nat) : Bool := g.agenda.all fun a => decide (a.at_ ≤ t)

/-- The cycle's reads leave a gang nothing to land, and no fault. -/
def State.readsDone (s : State) (g : Gang) : Bool :=
  match aget g.id s.endReads.gangs with
  | some h => h.settledAt s.tlc && h.fault == g.fault
  | none => false

/-- A step leaves nothing to do: landings, requests, open banks, and what the reads of this cycle bring on. -/
def State.quiescent (s : State) (g : Gang) : Bool :=
  g.settledAt s.tlc && g.reqs.isEmpty && s.banksIdle g && s.readsDone g

/-- Every stream has issued ENDSTEP (R155). -/
def Gang.atEnd (g : Gang) : Bool :=
  (g.cores.all fun c => c.streams.all fun st => st.st == .ended) && g.mems.all fun m => m.len == 0 || m.strm.st == .ended

def State.completes (s : State) (g : Gang) : Bool :=
  (match g.phase with | .running => true | _ => false) && g.atEnd && s.quiescent g && decide (s.tlc ≤ g.dbt + 2 ^ 21)

/-- An arrival of a completion (R238, R243, R322): one that names an absent die is discarded and reported (R396), and so is one whose
flit cannot be corrected (R385; log 81). -/
def State.arrive (s : State) (g : Gang) (kind i n rank waddr : Nat) (key : Nat) (h : BitVec 64) : State :=
  let c := g.cells.headD 0
  if storeOf key == some .vault && !s.diePresent ((key - 2 ^ 48) / 2 ^ 28) then s.complEvent 50 rank waddr h
  else match s.badFlit (((g.cells[rank]?).getD c) / 32) (keyStack key) with
  | some k => (s.errRecord (({ cause := 83, key := k, outcome := 1, synd := 0xFF } : ErrRec).ofGang g)).complEvent 83 rank waddr h
  | none =>
    { s with gongQ := s.gongQ ++ [{ key := key, ord := (3, c / 32, c % 32, i, 0), kind := kind, n := n, handle := h, gang := g.id
                                    who := some ⟨rank, .c, waddr, s.tlc⟩ }] }

/-- One entry of a completion list (R243, R247); a job of LGRAPH has the TAG of R410. -/
def State.complEntry (s : State) (g : Gang) (i : Nat) (c : Core) (e : Compl) : State :=
  match e with
  | .arrive h n waddr => s.arrive g 3 i n c.rank waddr (s.handleKey g c h) h
  | .lstep tob q waddr =>
    let r := if s.jobLive g.step.job then s.addTob g.step.job q tob else (s, false)
    if r.2 then r.1 else r.1.complEvent 52 c.rank waddr (BitVec.ofNat 64 tob)
  | .lgraph graph q waddr =>
    match s.launch q (.graph graph) { tag := 0xFFFFFFFF, flaga := 0, flagn := 0, brken := false, quiet := false, viaPort := false } with
    | (s, none) => s
    | (s, some _) => s.complEvent 52 c.rank waddr (BitVec.ofNat 64 graph)

/-- The checkpoint of a core's accumulator is drained to its checkpoint unit (R44, R320). -/
def State.drainAcc (s : State) (c : Core) : State :=
  s.store (cmKey c.gcore 2031616) (c.acc.toList.map fun r => leBytes 512 r.toNat).flatten

/-- A completion's kept state on one core (R337). -/
def State.keep (s : State) (g : Gang) (c : Core) : State :=
  if !g.tob.acc && g.tob.regions.isEmpty then s
  else
    let s := if g.tob.acc then s.drainAcc c else s
    let k : Kept := { op := g.step.op, job := g.step.job, tobIdx := g.step.tobIdx, q := g.queue, rank := c.rank, core := c.gcore
                      acc := g.tob.acc, regions := g.tob.regions, since := s.tlc, held := decide (0 < (s.queue g.queue).affw), saved := none }
    { s with sched := { s.sched with kept := (s.sched.kept.filter fun j =>
        !(j.op == k.op && ((j.core == k.core && j.saved.isNone) || (j.rank == k.rank && j.saved.isSome)))) ++ [k] } }

/-- STEP_COMPLETION (R26): flags, arrivals, launches, records, service requests, kept state; the cores are free. -/
def State.complete (s : State) (gid : Nat) : State :=
  let s := s.gongCounts []
  match aget gid s.gangs with
  | none => s
  | some g =>
    if !s.completes g then s
    else
      let fl := g.cores.foldl (fun f c => f ||| c.flags) (0 : Flags)
      let live := s.jobLive g.step.job
      let s := s.modJob g.step.job fun j => { j with tobs := j.tobs.modify g.step.tobIdx fun t => { t with flagw := t.flagw ||| fl, done := t.done + 1 } }
      let es := (g.cores.map fun c => c.compl.map fun e => (c, e)).flatten
      let s := ((List.range es.length).zip es).foldl (fun (s : State) p => s.complEntry g p.1 p.2.1 p.2.2) s
      let s := if g.tob.arrives then s.arrive g 4 es.length 1 0 0 (vtKey (fld g.tob.arrg.toNat 0 31)) g.tob.arrg else s
      let s := if live then g.cores.foldl (fun (s : State) c => s.keep g c) s else s
      let s := match g.step.mc with
        | some m => if m.lasting then s else s.verdict g m 3 1 0
        | none => s
      let s := s.dropRefs g.refs
      let s : State := { s with sched := { s.sched with
        lastMove := s.tlc
        claveLogs := s.sched.claveLogs ++ g.cores.map fun c => (g.step.id, c.rank, c.hits, c.log)
        services := s.sched.services ++ (g.cores.map fun c => c.svc.map fun e => (g.step.job, e)).flatten } }
      let s := s.dropGang gid
      if s.jobFinished g.step.job then s.endJob g.step.job .normal 0 else s

/-! The end of an abandoned attempt (R41, R45, R273, R283). -/

/-- A pseudo-channel of an ending attempt is out of lease once its stream has issued its last command and every bank is idle (R273). -/
def State.leaseOver (s : State) (n : Nat) (p : Pch) : Bool :=
  ((p.lease.bind fun gid => aget gid s.gangs).any fun g => s.streamOver g n) && (List.range 16).all fun b => (p.bankAt b s.tlc).isIdle
def State.leasesOver (s : State) : State :=
  let ns := (s.pchs.filter fun p => s.leaseOver p.1 p.2).map (·.1)
  if ns.isEmpty then s
  else
    let s : State := { s with pchs := s.pchs.map fun (p : Nat × Pch) => if ns.contains p.1 then (p.1, { p.2 with lease := none, quiet := false }) else p }
    s.wake fun w => match w with | .pch n => ns.contains n | _ => false

def State.abandonDue (s : State) (g : Gang) : Bool :=
  match g.phase, g.fault with
  | .ending, some f => decide (f.f + 33 ≤ s.tlc) && s.quiescent g
  | _, _ => false

/-- A count-down of the attempt is credited back; its gong has not advanced since (R45). A gong that cannot be read keeps its bytes (R386,
R387; log 97). -/
def State.credit (s : State) (h : Gang) (a : Nat × Bool) : State :=
  match s.gongRead (some h) a.1 with
  | (s, some _) => s
  | (s, none) =>
    let g := s.gong a.1
    s.setGong a.1 (if a.2 then { g with inb := g.inb + 1 } else { g with out := g.out + 1 })

/-- ABANDONMENT_FINISH: core-local state is discarded, an ACCRES operator's accumulator goes back to its checkpoint (R44). Memory is left as
the attempt's landed writes have made it, resident regions and all: a breach of R42 or R43 raises nothing, and the next attempt reads what
stands there. -/
def State.abandonFinish (s : State) (gid : Nat) : State :=
  let s := s.gongCounts []
  match aget gid s.gangs with
  | none => s
  | some g =>
    if !s.abandonDue g then s
    else
      let s := g.applied.foldl (fun (s : State) a => s.credit g a) s
      let s := s.dropRefs g.refs
      let accs := g.cores.map fun c => s.startAcc g c.rank
      (s.freeLeases gid).modGang gid fun g => { g with
        phase := .closed s.tlc, refs := [], applied := [], replays := [], agenda := [], stash := []
        cores := (g.cores.zip accs).map fun p => { Core.start p.1.gcore p.1.rank p.1.idx p.1.res [] p.2 0 0 [] with flags := 0 } }

/-- TRAP_RECORD: the record lands within 256 cycles of A, and the attempt is disposed of (R283, R284). -/
def State.trapRecord (s : State) (gid : Nat) : State :=
  match aget gid s.gangs with
  | none => s
  | some g => match g.phase, g.fault with
    | .closed _, some f => s.dispose gid g f
    | _, _ => s

/-- FLAG_AREA_WRITE waits for the job's running steps (R326, R327). -/
def State.flagAreaWrite (s : State) (job : Nat) : State := if s.gangs.any fun g => g.2.step.job == job then s else s.flagArea job

/-- JOB_ABORT by service firmware (R326). -/
def State.jobAbort (s : State) (job : Nat) : State := s.endJob job .abort 0

end Sys2Proof.Machine
end

