-- ==== Sys2Proof/Machine/Cmu.lean ====
section
/-! DEFINITION. The change-mask unit of 14_temporal_reuse: layer tables (R351, R352), scoring and tile lists (R353 to R360); and
how the engines answer a command (R248, R249). -/
namespace Sys2Proof.Machine

/-! Engine commands (R248 to R250). -/

/-- A command whose block has been read and that no engine has served. -/
def State.engineReq (s : State) (id op : Nat) : Option (Nat × Gang × Req × Core × Nat) :=
  (s.reqAt id).bind fun p => match p.2.2.kind with
    | .engine o a =>
      if o = op ∧ p.2.2.moves.isNone ∧ !p.2.2.block.isEmpty ∧ p.2.2.late.isNone ∧ p.2.1.live then
        (p.2.1.coreAt p.2.2.who.rank).map fun c => (p.1, p.2.1, p.2.2, c, a)
      else none
    | _ => none

/-- A status record (R249) as the last piece of work. -/
def statusWork (addr code count value : Nat) : List Work :=
  putAt (.cm (addr + 48)) (leBytes 4 code ++ leBytes 4 count ++ leBytes 8 value)

/-- An engine answers: work, then the status. -/
def State.answer (s : State) (id : Nat) (g : Gang) (c : Core) (addr : Nat) (work : List Work) (code count value : Nat) : State :=
  s.setWork id g c { work := work ++ statusWork addr code count value, items := 0, ordered := true }

/-- The command raises a fault at completion (R214, R248). -/
def State.refuse (s : State) (id : Nat) (g : Gang) (c : Core) (tr : Trap) : State := s.setWork id g c (.fault tr)

/-- An `hv:` field of a block (R250). -/
def hvOk (a : Nat) : Bool := decide (a < 2 ^ 54)

/-! Slots (R351). -/

def CmuSlot.blank : CmuSlot := { layers := [], last := none, size := none, repeatCopy := none, busy := none, next := none }
def CmuLayer.blank : CmuLayer := { entry := 0, isNew := true, ages := [] }
def State.cmuSlot (s : State) (n : Nat) : CmuSlot := (aget n s.cmu).getD CmuSlot.blank
def State.setCmu (s : State) (n : Nat) (v : CmuSlot) : State := { s with cmu := aset n v s.cmu }

/-- A layer entry that CMU.TAB accepts (R352). -/
def layerOk (e : Nat) : Bool := decide (e < 2 ^ 40) && fld e 28 3 != 7

/-- LAYER_TABLE_LOAD: CMU.TAB (R250, R351). -/
def State.layerTable (s : State) (id : Nat) : State :=
  match s.engineReq id 0xC1 with
  | none => s
  | some (_, g, r, c, addr) =>
    let s := s.nextDraw
    let b := r.block
    let n := bfld b 0 2; let l0 := bfld b 2 1; let nl := bfld b 3 1; let va := bfld b 4 8
    let ok := blockClean b [(0, 12)] && decide (n < 512) && decide (1 ≤ nl) && decide (l0 + nl ≤ 64) && hvOk va && decide (bfld b 12 1 ≤ 1)
    if !ok then s.refuse id g c { cause := 2 }
    else
      let v := s.cmuSlot n
      if v.busy.isSome then s.answer id g c addr [] 2 nl 0
      else
        match s.readAt id g c (.hv va) (8 * nl) with
        | (s, .error tr) => s.refuse id g c tr
        | (s, .ok bs) =>
          let es := elemsOf 8 bs
          if !es.all layerOk then s.refuse id g c { cause := 2 }
          else
            let reset := bfld b 12 1 == 1
            let old := if reset then v.layers.map fun p => (p.1, { p.2 with isNew := true, ages := [] }) else v.layers
            let ls := ((List.range es.length).zip es).foldl (fun l p => aset (l0 + p.1) ({ entry := BitVec.ofNat 64 p.2, isNew := true, ages := [] } : CmuLayer) l) old
            let v : CmuSlot := if reset then { v with layers := ls, last := none, size := none, repeatCopy := none } else { v with layers := ls }
            (s.setCmu n v).answer id g c addr [] 0 nl 0

/-! Geometry (R353). -/

/-- A layer over a frame: stride, tile size, tiles across and down, layer size, frame size. -/
structure Geo where
  s : Nat
  t : Nat
  ntx : Nat
  nty : Nat
  lw : Nat
  lh : Nat
  w : Nat
  h : Nat

def ceilDiv (a b : Nat) : Nat := (a + b - 1) / b

def geoOf (e : BitVec 64) (w h : Nat) : Geo :=
  let s := fld e.toNat 28 3; let t := fld e.toNat 32 8 + 1
  let lw := ceilDiv w (2 ^ s); let lh := ceilDiv h (2 ^ s)
  ⟨s, t, ceilDiv lw t, ceilDiv lh t, lw, lh, w, h⟩

/-- The block numbers that a tile's footprint covers along one axis. -/
def blockSpan (s t i lpix pix : Nat) : List Nat :=
  let lo := 2 ^ s * t * i
  let top := if t * (i + 1) < lpix then t * (i + 1) else lpix
  let hi := if 2 ^ s * top < pix then 2 ^ s * top else pix
  (List.range ((hi - 1) / 16 + 1 - lo / 16)).map (lo / 16 + ·)

/-- The motion records of a tile's blocks. -/
def Geo.records (q : Geo) (recs : List Nat) (i : Nat) : List Nat :=
  let bw := ceilDiv q.w 16
  ((blockSpan q.s q.t (i / q.ntx) q.lh q.h).map fun by_ => (blockSpan q.s q.t (i % q.ntx) q.lw q.w).map fun bx => (recs[by_ * bw + bx]?).getD 0).flatten

/-! Scoring (R355, R356). -/

/-- A tile's kind and reason: REASON codes of R359, a displacement for a shifted tile. -/
inductive TileKind where
  | compute (reason : Nat)
  | shifted (dx dy : Int)
  | unlisted
  deriving DecidableEq, Repr

/-- A block forces its tile: intra, or its reference is not the last frame. -/
def recForced (r : Nat) : Bool := r.testBit 56 || fld r 48 8 != 1
def recEner (r : Nat) : Nat := fld r 32 16
/-- The displacement of a block in layer pixels. -/
def recDisp (s r : Nat) : Int × Int :=
  let d (v : Nat) : Int := roundNE ⟨-(sext v 16), -((s : Int) + 2)⟩
  (d (fld r 0 16), d (fld r 16 16))

/-- A seed, by its reason. -/
def seedOf (full : Bool) (thr : Nat) (rs : List Nat) : Option Nat :=
  if full then some 3
  else if rs.any recForced then some 4
  else if rs.any (fun r => decide (thr < recEner r)) then some 0
  else none

/-- Whether tile i lies in the halo of a seed tile j. -/
def inHalo (ntx halo i j : Nat) : Bool :=
  decide (((i % ntx : Nat) - (j % ntx : Nat) : Int).natAbs ≤ halo) && decide (((i / ntx : Nat) - (j / ntx : Nat) : Int).natAbs ≤ halo)

/-- A tile that no seed, halo or refresh reaches. -/
def motionOf (s : Nat) (rs : List Nat) : TileKind :=
  match rs.map (recDisp s) with
  | [] => .unlisted
  | d :: t =>
    if t.any fun e => !(e == d) then .compute 5
    else if d == (0, 0) then .unlisted
    else if d.1 < -2048 ∨ 2047 < d.1 ∨ d.2 < -2048 ∨ 2047 < d.2 then .compute 6
    else .shifted d.1 d.2

/-- The classification of a layer's tiles. -/
def classify (e : BitVec 64) (q : Geo) (full : Bool) (recs ages : List Nat) : List TileKind :=
  let n := q.ntx * q.nty
  let tiles := (List.range n).map (q.records recs)
  let seeds := tiles.map (seedOf full (fld e.toNat 0 16))
  let near := ((List.range n).zip seeds).filterMap fun p => match p.2 with | some r => if r = 3 then none else some p.1 | none => none
  ((List.range n).zip (tiles.zip seeds)).map fun p =>
    match p.2.2 with
    | some r => .compute r
    | none =>
      if near.any (inHalo q.ntx (fld e.toNat 24 4) p.1) then .compute 1
      else if fld e.toNat 16 8 ≤ (ages[p.1]?).getD 0 then .compute 2
      else motionOf q.s p.2.1

/-! Lists (R357 to R359). -/

/-- The list entry of a tile, where it has one. -/
def tileEntry (ntx i : Nat) : TileKind → Option Nat
  | .compute r => some (packBits [(0, 16, i % ntx), (16, 16, i / ntx), (36, 4, r)])
  | .shifted dx dy => some (packBits [(0, 16, i % ntx), (16, 16, i / ntx), (32, 4, 1), (36, 4, 8), (40, 12, low dx 12), (52, 12, low dy 12)])
  | .unlisted => none

def TileKind.isCompute : TileKind → Bool
  | .compute _ => true
  | _ => false
def TileKind.isShifted : TileKind → Bool
  | .shifted _ _ => true
  | _ => false

/-- A tile's age after the frame (R357, R359). -/
def newAge (rlim i age : Nat) (ovf : Bool) (k : TileKind) : Nat :=
  if ovf then i % (rlim + 1)
  else match k with
    | .compute 3 => i % (rlim + 1)
    | .compute _ => 0
    | _ => if age + 1 < 255 then age + 1 else 255

/-- A scored layer: its list, its entries, whether the list is complete, and the ages. -/
structure Scored where
  layer : Nat
  bytes : List Byte
  n : Nat
  whole : Bool
  ages : List Nat

def scoreLayer (l : Nat) (v : CmuLayer) (q : Geo) (fullAll : Bool) (sizeNew : Bool) (frame listb : Nat) (recs : List Nat) : Scored :=
  let fresh := v.isNew || sizeNew
  let full := fullAll || fresh
  let ages := if fresh then [] else v.ages
  let ks := classify v.entry q full recs ages
  let tiles := (List.range ks.length).zip ks
  let comp := tiles.filter fun p => p.2.isCompute
  let shf := tiles.filter fun p => p.2.isShifted
  let ovf := decide ((listb - 32) / 8 < comp.length + shf.length)
  let es := if ovf then [] else (comp ++ shf).filterMap fun p => tileEntry q.ntx p.1 p.2
  { layer := l, n := es.length, whole := !ovf
    bytes := leBytes 4 es.length ++ leBytes 4 frame ++ leBytes 1 l ++ leBytes 1 (full.toNat + 2 * ovf.toNat + 4 * (frame % 2)) ++
      leBytes 2 q.ntx ++ leBytes 2 q.nty ++ leBytes 2 comp.length ++ leBytes 2 shf.length ++ leBytes 1 (q.t - 1) ++ leBytes 1 q.s ++
      leBytes 12 0 ++ (es.map (leBytes 8)).flatten
    ages := tiles.map fun p => newAge (fld v.entry.toNat 16 8) p.1 ((ages[p.1]?).getD 0) ovf p.2 }

/-- The enabled layers of a slot. -/
def enabledLayers (ls : List (Nat × CmuLayer)) : List (Nat × CmuLayer) := ls.filter fun p => p.2.entry.getLsbD 31

/-- FRAME_SCORING: CMU.FRM (R354 to R360). The command is outstanding from here to its completion, whatever it answers; what the slot
becomes takes effect when it completes. -/
def State.frameScore (s : State) (id : Nat) : State :=
  match s.engineReq id 0xC2 with
  | none => s
  | some (_, g, r, c, addr) =>
    let b := r.block
    let n := bfld b 0 2; let frame := bfld b 4 4; let mva := bfld b 8 8; let out := bfld b 16 8; let listb := bfld b 24 4
    let v := s.cmuSlot n
    if n < 512 ∧ v.busy.isSome then s
    else
      let s := if n < 512 then s.nextDraw.setCmu n { v with busy := some id, next := none } else s
      let ok := blockClean b [(0, 2), (4, 27)] && decide (n < 512) && decide (bfld b 2 1 ≤ 3) && hvOk mva && hvOk out &&
        listb % 32 == 0 && decide (64 ≤ listb) && decide (listb ≤ 524288)
      if !ok then s.refuse id g c { cause := 2 }
      else
        match s.readAt id g c (.hv mva) 32 with
        | (s, .error tr) => s.refuse id g c tr
        | (s, .ok hd) =>
          let w := bfld hd 0 2; let h := bfld hd 2 2
          let again := v.last == some frame
          let ls := if again then v.repeatCopy.getD v.layers else v.layers
          let on := enabledLayers ls
          let tiles : Nat := (on.map fun p => (geoOf p.2.entry w h).ntx * (geoOf p.2.entry w h).nty).foldl (· + ·) 0
          if bfld hd 4 4 ≠ frame ∨ w < 64 ∨ 4096 < w ∨ h < 64 ∨ 2304 < h ∨ 8192 < tiles then s.refuse id g c { cause := 2 }
          else if (match v.last with | some l => decide (frame < l) | none => false) then s.answer id g c addr [] 3 0 0
          else
            match s.readAt id g c (.hv (mva + 32)) (8 * (ceilDiv w 16 * ceilDiv h 16)) with
            | (s, .error tr) => s.refuse id g c tr
            | (s, .ok bs) =>
              let recs := elemsOf 8 bs
              let gap := !again && (match v.last with | some l => decide (l + 1 < frame) | none => false)
              let sized := match v.size with | some z => !(z == (w, h)) | none => false
              let full := decide (bfld b 2 1 ≠ 0) || bfld hd 8 1 % 4 != 0 || gap
              let sc := on.map fun p => scoreLayer p.1 p.2 (geoOf p.2.entry w h) full sized frame listb recs
              let aged := sc.foldl (fun l x => amod x.layer (fun y => { y with isNew := false, ages := x.ages }) l) v.layers
              let s := s.setCmu n { v with busy := some id, next := if again then none else some (aged, frame, (w, h)) }
              s.answer id g c addr ((sc.map fun x => putAt (.hv (out + x.layer * listb)) x.bytes).flatten) again.toNat
                ((sc.map (·.n)).foldl (· + ·) 0) (sc.foldl (fun m x => if x.whole then m + 2 ^ x.layer else m) 0)

/-- A CMU command is over: a scored frame takes effect only if it completed (R360). -/
def CmuSlot.finish (v : CmuSlot) (id : Nat) (ok : Bool) : CmuSlot :=
  if v.busy ≠ some id then v
  else match v.next with
    | some (ls, f, z) => if ok then
        let gap := match v.last with | some l => decide (l + 1 < f) | none => false
        let sized := match v.size with | some y => !(y == z) | none => false
        { v with layers := ls, last := some f, size := some z, busy := none, next := none
                 repeatCopy := some (v.layers.map fun p => (p.1, { p.2 with isNew := p.2.isNew || gap || sized })) }
      else { v with busy := none, next := none }
    | none => { v with busy := none }

def State.cmuFinish (s : State) (id : Nat) (ok : Bool) : State := { s with cmu := s.cmu.map fun p => (p.1, p.2.finish id ok) }

end Sys2Proof.Machine
end

