-- ==== Sys2Proof/Machine/Belfry.lean ====
section
/-! DEFINITION. The Belfry of 15_belfry: keys (R365, R366), the pool and its nodes (R367 to R371), deposits (R373, R374), lookups
(R375), resumption (R376), references, pins and eviction (R377, R378), and spoiled nodes (R379). -/
namespace Sys2Proof.Machine

/-! Keys (R365). -/

def unitDigest (bs : List Byte) : Nat := crc64 0 (bs.map (·.toNat))
/-- Units of 32 bytes. -/
def unitsOf : Nat → List Byte → List (List Byte)
  | 0, _ => []
  | n + 1, bs => bs.take 32 :: unitsOf n (bs.drop 32)
/-- The key rolled over units. -/
def rollUnits (h : Nat) (us : List (List Byte)) : Nat := us.foldl (fun h u => rollKey h (unitDigest u)) h

/-! Nodes and granules (R368 to R371). -/

def State.node (s : State) (n : Nat) : Option Node := aget n s.belfry.nodes
/-- A node of a domain (R367). -/
def State.nodeIn (s : State) (dom n : Nat) : Option Node := (s.node n).bind fun v => if v.domain = dom then some v else none
def State.modNode (s : State) (n : Nat) (f : Node → Node) : State := { s with belfry := { s.belfry with nodes := amod n f s.belfry.nodes } }

/-- Granules of the pool, after the node table. -/
def poolGranules (size : Nat) : Nat := (size - 4 * 2 ^ 20) / 4096
/-- The physical key of a granule. -/
def granuleKey (base g : Nat) : Nat := base + 4 * 2 ^ 20 + 4096 * g

/-- Bytes before extent 0 of a run (R370). -/
def runHead (logg : Nat) : Nat := 4096 * ceilDiv (128 + 32 * 2 ^ logg) 4096
/-- Offsets of extents of given lengths. -/
def extentOffs : Nat → List Nat → List Nat
  | _, [] => []
  | o, n :: t => o :: extentOffs (o + 4096 * ceilDiv n 4096) t
def runLen (logg : Nat) (lens : List Nat) : Nat := (lens.foldl (fun o n => o + 4096 * ceilDiv n 4096) (runHead logg)) / 4096

/-- The lowest free node record. -/
def freeRecord (nodes : List (Nat × Node)) : Option Nat :=
  let rec go (fuel n : Nat) (l : List (Nat × Node)) : Option Nat :=
    match fuel, l with
    | 0, _ => none
    | _ + 1, [] => if n < 65535 then some n else none
    | f + 1, (k, _) :: t => if k = n then go f (n + 1) t else some n
  go (nodes.length + 1) 0 nodes

/-- The lowest run of free granules (R373): candidates begin at 0 or after a run in use. -/
def freeRun (nodes : List (Nat × Node)) (total need : Nat) : Option Nat :=
  let starts := (0 :: nodes.map fun p => p.2.rung + p.2.runl).foldl (fun l n => insertNat n l) []
  starts.find? fun g => decide (g + need ≤ total) && nodes.all fun p => decide (g + need ≤ p.2.rung) || decide (p.2.rung + p.2.runl ≤ g)

/-! The node table in the pool's first 4 MiB (R368, R369, R371). -/

/-- A node record. -/
def Node.bits (v : Node) : Nat :=
  packBits [(448, 64, v.key.toNat), (384, 64, v.stamp), (350, 34, v.domain / 2 ^ 14), (326, 24, v.rung), (310, 16, v.runl), (294, 16, v.parent),
    (278, 16, v.depth), (254, 24, v.ref), (250, 4, v.logg), (246, 4, v.next), (244, 2, v.state), (228, 16, v.child)]

/-- The table status. -/
def Belfry.statusBits (b : Belfry) (size : Nat) : BitVec 512 :=
  BitVec.ofNat 512 (packBits [(128, 64, b.coll), (64, 64, b.drop), (40, 24, poolGranules size - (b.nodes.map (·.2.runl)).foldl (· + ·) 0),
    (0, 16, b.nodes.length)])

/-- The records that changed since the table in memory was last written, and the status, are written (log 67); a record that holds no node is
zero. -/
def State.tableOut (s : State) : State :=
  match s.belfry.pool with
  | none => s
  | some (base, size) =>
    let ks := ((s.belfry.nodes ++ s.belfry.table).map (·.1)).filter fun k => aget k s.belfry.nodes != aget k s.belfry.table
    let st := s.belfry.statusBits size
    let s := ks.foldl (fun (s : State) k => (s.poolSpan none (base + 64 * k) 64 true).store (base + 64 * k) (leBytes 64 (((aget k s.belfry.nodes).map Node.bits).getD 0))) s
    let s := if s.belfry.status = some st then s else (s.poolSpan none (base + 64 * 65535) 64 true).store (base + 64 * 65535) (leBytes 64 st.toNat)
    { s with belfry := { s.belfry with table := s.belfry.nodes, status := some st } }

/-! References and pins (R377). -/

/-- An attempt's resumption reference on a node, once. -/
def State.takeRef (s : State) (gid n : Nat) : State :=
  match aget gid s.gangs with
  | none => s
  | some g => if g.refs.contains n then s
    else (s.modNode n fun v => { v with ref := v.ref + 1 }).modGang gid fun g => { g with refs := g.refs ++ [n] }

/-! Eviction (R378). -/

def Node.evictable (v : Node) : Bool := (v.state == 2 || v.state == 3) && v.child == 0 && v.ref == 0

/-- A node's record and run are freed; its parent's counts fall. -/
def dropNode (nodes : List (Nat × Node)) (n : Nat) : List (Nat × Node) :=
  match aget n nodes with
  | none => nodes
  | some v => amod v.parent (fun p => { p with child := p.child - 1, ref := p.ref - 1 }) (adel n nodes)

/-- The evictable node with the oldest STAMP, the lowest of those, but the deposit's own parent. -/
def oldest (parent : Nat) (nodes : List (Nat × Node)) : Option Nat :=
  ((nodes.filter fun p => p.1 != parent && p.2.evictable).foldl (fun (b : Option (Nat × Nat)) p => match b with
    | none => some (p.1, p.2.stamp)
    | some q => if p.2.stamp < q.2 then some (p.1, p.2.stamp) else some q) none).map (·.1)

/-- Nodes after the evictions that make room, with the record and run found; none if no room can be made. -/
def makeRoom (parent total need : Nat) : Nat → List (Nat × Node) → Option (List (Nat × Node) × Nat × Nat)
  | 0, _ => none
  | fuel + 1, nodes =>
    match freeRecord nodes, freeRun nodes total need with
    | some n, some g => some (nodes, n, g)
    | _, _ => match oldest parent nodes with
      | none => none
      | some o => makeRoom parent total need fuel (dropNode nodes o)

/-! Service (R372). -/

/-- A deposit that waits for a node in STATE 1 (R373). -/
def State.depWait (s : State) (id : Nat) : Option DepWait := s.belfry.waiting.find? fun w => w.id == id
def State.stopWait (s : State) (id : Nat) : State :=
  { s with belfry := { s.belfry with waiting := s.belfry.waiting.filter fun w => w.id != id } }

/-- A deposit that waited and whose node has left STATE 1 is served before the others (R373). -/
def State.waitingReady (s : State) : Option Nat :=
  (s.belfry.waiting.find? fun w => match s.reqAt w.id with | some p => p.2.2.node.isNone | none => false).map (·.id)

/-- Commands of one core reach the Belfry in issue order (R372): none that was issued earlier is still to be served, but for deposits that
wait. -/
def State.inOrder (s : State) (id : Nat) : Bool :=
  match s.reqAt id with
  | none => false
  | some (_, g, r) => g.reqs.all fun q =>
      !(q.kind.belfry && q.who.rank == r.who.rank && decide (q.seq < r.seq) && q.moves.isNone && q.late.isNone) || (s.depWait q.id).isSome

/-- A command whose turn may come now. -/
def State.mayServe (s : State) (id : Nat) : Bool :=
  match s.waitingReady with
  | some w => w == id
  | none => (s.depWait id).isNone && s.inOrder id

/-- A command reads the job's space; a beat of the pool that it cannot read is cause 65 and spoils its node (R248, R379). -/
def State.belRead (s : State) (id : Nat) (g : Gang) (c : Core) (va n : Nat) : State × Except Trap (List Byte) :=
  match s.readAt id g c (.hv va) n with
  | (s, .error tr) => let q := s.spoil tr; (q.1, .error q.2)
  | r => r

/-- Bytes of a run, or the fault of a beat that cannot be read; the node is then spoiled (R379). The fault names the beat in the pool window
(R287, R430). -/
def State.readRun (s : State) (n : Nat) (v : Node) (off len : Nat) : State × Except Trap (List Byte) :=
  match s.belfry.pool with
  | none => (s, .error { cause := 2 })
  | some (base, _) =>
    let k := granuleKey base v.rung + off
    let s := s.poolSpan none k len false
    let r := s.fetch k len
    if r.psn || r.bad.isSome then
      let key := match s.psnKey k len with | some b => b | none => r.bad.getD k
      let s := s.movedBad none 3 r none
      (s.spoilNode n, .error { cause := 65, key := key, hi := packBits [(0, 3, 4), (8, 56, s.belfry.window + (key - granuleKey base 0))] })
    else (s.correctedAll none 3 r, .ok r.bytes)

/-- The stored input of a node (R370). -/
def State.storedInput (s : State) (n : Nat) (v : Node) : State × Except Trap (List Byte) := s.readRun n v 128 (32 * 2 ^ v.logg)

/-- An extent entry (R250): base and length. -/
def extentOf (bs : List Byte) : Nat × Nat := (bfld bs 0 8, bfld bs 8 4)
def extentOk (bs : List Byte) : Bool :=
  let e := extentOf bs
  hvOk e.1 && e.2 % 32 == 0 && decide (32 ≤ e.2) && decide (e.2 ≤ 2 ^ 24) && bfld bs 12 4 == 0

/-! Deposits (R373, R374). -/

/-- Moves of a deposit: sources in the job's space, read as an engine's reads (R374, R386), a run for destination; and every fault of a source
(R429). -/
def State.depositMoves (s : State) (id : Nat) (g : Gang) (c : Core) : List (Nat × Nat × Nat) → State × List Move × List Trap
  | [] => (s, [], [])
  | (dst, src, n) :: t =>
    let q := s.placeKey (some id) g c (.hv src) n false
    let r := q.1.depositMoves id g c t
    match q.2 with
    | .error tr => (r.1, [], tr :: r.2.2)
    | .ok k => (r.1, .load dst k n 4 src :: r.2.1, r.2.2)

/-- A span of the job's space as pieces of at most a beat. -/
def spanPieces : Nat → Nat → Nat → Nat → List (Nat × Nat × Nat)
  | 0, _, _, _ => []
  | fuel + 1, dst, src, n => if n = 0 then [] else
    let m := beatLen src n
    (dst, src, m) :: spanPieces fuel (dst + m) (src + m) (n - m)
def pieces32 (dst src n : Nat) : List (Nat × Nat × Nat) := spanPieces (n / 32 + 2) dst src n

/-- Bytes put at a key, in pieces of 32. -/
def putMoves (k : Nat) (bs : List Byte) : List Move := (List.range ((bs.length + 31) / 32)).map fun i => .put (k + 32 * i) ((bs.drop (32 * i)).take 32)

/-- The extent table of a run (R370). -/
def extentTable (logg : Nat) (lens : List Nat) : List Byte :=
  let es := ((extentOffs (runHead logg) lens).zip lens).map fun p => leBytes 8 p.1 ++ leBytes 4 p.2 ++ leBytes 4 0
  (es.flatten ++ List.replicate 128 (0 : Byte)).take 128

/-- The request takes its moves: the status last (R248, R374). -/
def State.setDeposit (s : State) (id : Nat) (g : Gang) (c : Core) (addr n run : Nat) (base : Nat) (logg : Nat) (units : Nat)
    (exts : List (Nat × Nat)) : State :=
  let k := granuleKey base run
  let offs := extentOffs (runHead logg) (exts.map (·.2))
  let srcs := pieces32 (k + 128) units (32 * 2 ^ logg) ++ ((offs.zip exts).map fun p => pieces32 (k + p.1) p.2.1 p.2.2).flatten
  let (s, ms, trs) := s.depositMoves id g c srcs
  let (s, st, trs') := s.resolve id g c (statusWork addr 0 1 n)
  let ms := putMoves k (extentTable logg (exts.map (·.2))) ++ ms ++ (if trs.isEmpty then st else [])
  (s.poolAdd id ms).modReq id fun r => { r with moves := some ms, ordered := true, late := beatFault (trs ++ trs'), node := some n }

/-- Compare the units with the stored input of some nodes, in increasing index. -/
def State.matchUnits (s : State) (us : List Byte) : List (Nat × Node) → State × Except Trap (Option Nat)
  | [] => (s, .ok none)
  | (n, v) :: t =>
    match s.storedInput n v with
    | (s, .error tr) => (s, .error tr)
    | (s, .ok bs) => if bs == us then (s, .ok (some n)) else s.matchUnits us t

/-- The parent a deposit names: its key and depth. -/
def State.depositParent (s : State) (dom p logg : Nat) : Option (Nat × Nat) :=
  if p = 0xFFFF then some (0, 0)
  else match s.nodeIn dom p with
    | none => none
    | some v => if v.state ≠ 2 ∨ v.logg ≠ logg ∨ v.depth = 65535 then none else some (v.key.toNat, v.depth)

/-- The service of a deposit from the choice of Q on (R373): `w` has its key, its depth, its units and its extents. -/
def State.depServe (s : State) (gid : Nat) (g : Gang) (r : Req) (c : Core) (addr base size : Nat) (w : DepWait) : State :=
  let p := bfld r.block 0 2; let logg := bfld r.block 2 1; let ua := bfld r.block 8 8; let nx := bfld r.block 24 1
  let q := s.belfry.nodes.filter fun v => v.2.domain == g.root && v.2.parent == p && v.2.logg == logg &&
    (v.2.state == 1 || v.2.state == 2) && v.2.key.toNat == w.key
  match q.find? fun v => v.2.state == 1 with
  | some v =>
    { s.modReq w.id fun r => { r with node := some v.1 } with belfry := { s.belfry with waiting := s.belfry.waiting ++ [w] } }
  | none =>
    match s.matchUnits w.units q with
    | (s, .error tr) => s.refuse w.id g c tr
    | (s, .ok (some n)) => ((s.modNode n fun v => { v with stamp := s.tlc }).takeRef gid n).answer w.id g c addr [] 1 0 n
    | (s, .ok none) =>
      let s : State := { s with belfry := { s.belfry with coll := s.belfry.coll + q.length } }
      let need := runLen logg (w.exts.map (·.2))
      match makeRoom p (poolGranules size) need (s.belfry.nodes.length + 1) s.belfry.nodes with
      | none => ({ s with belfry := { s.belfry with drop := s.belfry.drop + 1 } } : State).answer w.id g c addr [] 2 0 0
      | some (nodes, n, run) =>
        let v : Node := { key := BitVec.ofNat 64 w.key, stamp := s.tlc, domain := g.root, rung := run, runl := need, parent := p
                          depth := w.depth + 1, ref := 0, logg := logg, next := nx, state := 1, child := 0 }
        let nodes := aset n v (amod p (fun w => { w with child := w.child + 1, ref := w.ref + 1 }) nodes)
        let s : State := { s with belfry := { s.belfry with nodes := nodes } }
        (s.takeRef gid n).setDeposit w.id g c addr n run base logg ua w.exts

/-- BELFRY_DEPOSIT: BEL.DEP on its service cycle (R373); a deposit that waited goes on from the choice of Q. -/
def State.belDeposit (s : State) (id : Nat) : State :=
  match s.engineReq id 0xC5 with
  | none => s
  | some (gid, g, r, c, addr) =>
    if !s.mayServe id then s
    else
      match s.belfry.pool, s.depWait id with
      | none, _ => s.refuse id g c { cause := 2 }
      | some (base, size), some w => (s.stopWait id).depServe gid g r c addr base size w
      | some (base, size), none =>
        let s := s.nextDraw
        let b := r.block
        let p := bfld b 0 2; let logg := bfld b 2 1; let ua := bfld b 8 8; let ea := bfld b 16 8; let nx := bfld b 24 1
        let ok := blockClean b [(0, 2), (8, 24)] && decide (4 ≤ logg) && decide (logg ≤ 12) && hvOk ua && hvOk ea && ua % 32 == 0 &&
          ea % 32 == 0 && decide (nx ≤ 8)
        match ok, s.depositParent g.root p logg with
        | true, some (pkey, pdepth) =>
          match s.belRead id g c ua (32 * 2 ^ logg) with
          | (s, .error tr) => s.refuse id g c tr
          | (s, .ok us) =>
            match s.belRead id g c ea (16 * nx) with
            | (s, .error tr) => s.refuse id g c tr
            | (s, .ok es) =>
              let ents := (List.range nx).map fun i => (es.drop (16 * i)).take 16
              if !ents.all extentOk then s.refuse id g c { cause := 2 }
              else s.depServe gid g r c addr base size ⟨id, rollUnits pkey (unitsOf (2 ^ logg) us), pdepth, us, ents.map extentOf⟩
        | _, _ => s.refuse id g c { cause := 2 }

/-- A deposit's request is over: its node is valid, unless it has been spoiled (R379), or leaves the tree as if never served, with every
reference on it (R374). -/
def State.depositFinish (s : State) (id : Nat) (node : Option Nat) (ok : Bool) : State :=
  if (s.depWait id).isSome then s.stopWait id
  else
    match node with
    | none => s
    | some n =>
      match s.node n with
      | none => s
      | some v =>
        if ok then (if v.state = 1 then (s.modNode n fun v => { v with state := 2 }).settled n else s)
        else
          let s : State := { s with belfry := { s.belfry with nodes := dropNode s.belfry.nodes n } }
          ({ s with gangs := s.gangs.map fun g => (g.1, { g.2 with refs := g.2.refs.filter (· != n) }) } : State).settled n

/-! Lookup (R375). -/

/-- Boundary keys of the spans of some units. -/
def boundaryKeys (g : Nat) : Nat → Nat → List (List Byte) → List Nat
  | 0, _, _ => []
  | n + 1, h, us => let h := rollUnits h (us.take g); h :: boundaryKeys g n h (us.drop g)

/-- The deepest node whose key a probe meets, the lowest index first. -/
def State.probe (s : State) (dom logg : Nat) (keys : List Nat) : Option Nat :=
  ((List.range keys.length).zip keys).foldl (fun h p =>
    match s.belfry.nodes.find? fun v => v.2.domain == dom && v.2.state == 2 && v.2.logg == logg && v.2.depth == p.1 + 1 && v.2.key.toNat == p.2 with
    | some v => some v.1
    | none => h) none

/-- The path from the depth-1 node to a node. -/
def State.path (s : State) : Nat → Nat → List Nat → List Nat
  | 0, _, acc => acc
  | fuel + 1, n, acc => match s.node n with
    | none => acc
    | some v => s.path fuel v.parent (n :: acc)
def State.pathOf (s : State) (n : Nat) : List Nat := s.path (match s.node n with | some v => v.depth | none => 0) n []

/-- The nodes of a path that the input confirms: the last of them, and whether one was rejected. -/
def State.confirm (s : State) (bs : List Byte) : List Nat → Option Nat → State × Except Trap (Option Nat × Bool)
  | [], m => (s, .ok (m, false))
  | n :: t, m =>
    match s.node n with
    | none => (s, .ok (m, false))
    | some v =>
      let g := 2 ^ v.logg
      let reject : State := { s with belfry := { s.belfry with coll := s.belfry.coll + 1 } }
      if v.state ≠ 2 then (reject, .ok (m, true))
      else
        match s.storedInput n v with
        | (s, .error tr) => (s, .error tr)
        | (s, .ok st) =>
          if st == (bs.drop (32 * ((v.depth - 1) * g))).take (32 * g) then (s.modNode n fun v => { v with stamp := s.tlc }).confirm bs t (some n)
          else ({ s with belfry := { s.belfry with coll := s.belfry.coll + 1 } }, .ok (m, true))

/-- BELFRY_LOOKUP: BEL.LOOK. -/
def State.belLookup (s : State) (id : Nat) : State :=
  match s.engineReq id 0xC4 with
  | none => s
  | some (gid, g, r, c, addr) =>
    if !s.mayServe id then s
    else
      let s := s.nextDraw
      let b := r.block
      let ua := bfld b 0 8; let nu := bfld b 8 4; let logg := bfld b 12 1
      let ok := s.belfry.pool.isSome && blockClean b [(0, 12)] && hvOk ua && ua % 32 == 0 && decide (1 ≤ nu) && decide (nu ≤ 2 ^ 24) &&
        decide (4 ≤ logg) && decide (logg ≤ 12)
      if !ok then s.refuse id g c { cause := 2 }
      else
        let sp := nu / 2 ^ logg
        match s.belRead id g c ua (32 * (sp * 2 ^ logg)) with
        | (s, .error tr) => s.refuse id g c tr
        | (s, .ok bs) =>
          let keys := boundaryKeys (2 ^ logg) sp 0 (unitsOf (sp * 2 ^ logg) bs)
          let way := match s.probe g.root logg keys with | some h => s.pathOf h | none => []
          match s.confirm bs way none with
          | (s, .error tr) => s.refuse id g c tr
          | (s, .ok (none, _)) => s.answer id g c addr [] 3 0 0xFFFF
          | (s, .ok (some m, rej)) =>
            let depth := match s.node m with | some v => v.depth | none => 0
            (s.takeRef gid m).answer id g c addr [] 0 (depth * 2 ^ logg) (m + rej.toNat * 2 ^ 32)

/-! Resumption and pins (R376, R377). -/

/-- The chain entries of a path. -/
def State.chain (s : State) : List Nat → State × Except Trap (List Nat)
  | [] => (s, .ok [])
  | n :: t =>
    match s.node n with
    | none => (s, .ok [])
    | some v =>
      match s.readRun n v 0 128 with
      | (s, .error tr) => (s, .error tr)
      | (s, .ok bs) =>
        let es := (List.range v.next).map fun i =>
          packBits [(0, 64, s.belfry.window + 4096 * v.rung + bfld bs (16 * i) 8), (64, 32, bfld bs (16 * i + 8) 4), (96, 16, n), (112, 8, i)]
        match s.chain t with
        | (s, .error tr) => (s, .error tr)
        | (s, .ok l) => (s, .ok (es ++ l))

/-- BELFRY_RESUMPTION: BEL.RES. -/
def State.belResume (s : State) (id : Nat) : State :=
  match s.engineReq id 0xC6 with
  | none => s
  | some (gid, g, r, c, addr) =>
    if !s.mayServe id then s
    else
      let s := s.nextDraw
      let b := r.block
      let n := bfld b 0 2; let out := bfld b 4 4; let maxe := bfld b 8 2
      if s.belfry.pool.isNone ∨ !blockClean b [(0, 1), (4, 9)] ∨ out % 16 ≠ 0 ∨ maxe = 0 then s.refuse id g c { cause := 2 }
      else if !g.inCarve out (16 + 16 * maxe) then s.refuse id g c ((Place.cm out).rangeTrap 0)
      else
        match s.nodeIn g.root n with
        | none => s.answer id g c addr [] 3 0 0
        | some v =>
          if v.state ≠ 2 then s.answer id g c addr [] 3 0 0
          else
            let way := s.pathOf n
            match s.chain way with
            | (s, .error tr) => s.refuse id g c tr
            | (s, .ok es) =>
              let s := way.foldl (fun (s : State) m => s.modNode m fun v => { v with stamp := s.tlc }) s
              let out_ := es.take maxe
              let head := leBytes 4 es.length ++ leBytes 2 v.depth ++ leBytes 1 v.logg ++ leBytes 9 0
              (s.takeRef gid n).answer id g c addr (putAt (.cm out) (head ++ (out_.map (leBytes 16)).flatten)) 0 out_.length 0

/-- BELFRY_PIN: BEL.PIN. -/
def State.belPin (s : State) (id : Nat) : State :=
  match s.engineReq id 0xC7 with
  | none => s
  | some (_, g, r, c, addr) =>
    if !s.mayServe id then s
    else
      let b := r.block
      let n := bfld b 0 2; let un := bfld b 2 1
      if s.belfry.pool.isNone ∨ !blockClean b [(0, 2)] ∨ 1 < un then s.refuse id g c { cause := 2 }
      else
        let code (s : State) (k : Nat) : State := s.answer id g c addr [] k 0 0
        match s.nodeIn g.root n with
        | none => code s 3
        | some v =>
          if v.state = 1 then code s 3
          else
            let has := s.belfry.pins.contains (n, g.step.job)
            if has = (un == 0) then code s 1
            else
              let s := s.modNode n fun v => { v with ref := if un = 0 then v.ref + 1 else v.ref - 1 }
              code { s with belfry := { s.belfry with
                pins := if un = 0 then s.belfry.pins ++ [(n, g.step.job)] else s.belfry.pins.filter fun p => !(p == (n, g.step.job)) } } 0

/-! The end of a request, its engine's part included. -/

/-- A request that has left its gang: what its engine does. -/
def State.engineEnd (s : State) (r : Req) (ok : Bool) : State :=
  match r.kind with
  | .engine op _ =>
    if op = 0xC2 then s.cmuFinish r.id ok
    else if op = 0xC5 then s.depositFinish r.id r.node ok
    else s
  | _ => s

/-- UNTIMED_COMPLETION with the engine's part (R360, R374). -/
def State.finishReq (s : State) (id : Nat) (cancelled : Bool) : State :=
  let s' := s.completeReq id cancelled
  match (if cancelled then s else s.startReq id).reqAt id, s'.reqAt id with
  | some (_, _, r), none => s'.engineEnd r (!cancelled && r.late.isNone)
  | _, _ => s'

/-- DEPOSIT_COPY_DONE: the completion cycle of a deposit whose copy has landed (R374). -/
def State.depositDone (s : State) (id : Nat) : State :=
  match s.reqAt id with
  | some (_, g, r) =>
    if r.node.isSome && (s.depWait id).isNone && r.late.isNone && g.live && r.mayComplete s.tlc then s.finishReq id false else s
  | none => s

end Sys2Proof.Machine
end

