-- ==== Sys2Proof/Machine/Codec.lean ====
section
/-! DEFINITION. Codec streams: frame packets (R407, R411), access units (R408), output frames with their motion reports (R345
to R349) and frame gongs (R350). The three standards' decoding is the uninterpreted `Config.decode` of the access units read (log 13, 93);
which frames a codec decodes, their planes and their reports are the model's. -/
namespace Sys2Proof.Machine

def State.stream (s : State) (n : Nat) : Option CodecStream := aget n s.codec
def State.modStream (s : State) (n : Nat) (f : CodecStream → CodecStream) : State := { s with codec := amod n f s.codec }

/-- The logical die of a codec engine: two on each die. -/
def engineDie (e : Nat) : Nat := e / 2

/-! Opening a stream (R346, R350). -/

/-- STREAM_OPEN: a stream is bound to its engine, afresh if it was open; service firmware checks nothing more here. -/
def State.streamOpen (s : State) (n engine codec q rate : Nat) (gong : BitVec 64) : State :=
  if 512 ≤ n ∨ 16 ≤ engine ∨ 2 < codec ∨ 1024 ≤ q then s
  else
    let c : CodecStream := match s.stream n with
      | some c => { c with engine := engine, codec := codec, q := q, rate := rate, gong := gong }
      | none => { stream := n, engine := engine, codec := codec, q := q, rate := rate, gong := gong, units := [], eos := [], outs := []
                  frame := 0, lastErr := false, lastPic := none, held := none, owed := 0, read := [], shown := 0, flush := false, writes := [] }
    { s with codec := aset n c s.codec }

/-! Output frames. -/

/-- Blocks of 16 samples in n. -/
def blocks16 (n : Nat) : Nat := (n + 15) / 16
end Sys2Proof.Machine

namespace Sys2Proof
open Machine

/-- Blocks of a picture. -/
def Picture.count (p : Picture) : Nat := blocks16 p.w * blocks16 p.h

/-- The sizes of R344. -/
def sizeTaken (w h : Nat) : Bool := decide (64 ≤ w) && decide (w ≤ 4096) && decide (64 ≤ h) && decide (h ≤ 2304)

/-- The row of R344 takes a stream: profile, depth, chroma, level, the tools it does not support, and the size; codec 0 is HEVC, 1 AVC, 2
AV1. -/
def SeqInfo.taken (codec : Nat) (q : SeqInfo) : Bool :=
  sizeTaken q.w q.h &&
  match codec with
  | 0 => (q.profile == .main || q.profile == .main10) && (q.depth == 8 || q.depth == 10) && q.chroma == .c420 && decide (q.level ≤ 52) &&
      !q.sei && !q.layers
  | 1 => q.profile == .high && q.depth == 8 && (q.chroma == .c420 || q.chroma == .c400) && decide (q.level ≤ 52) && !q.fields && !q.mbaff
  | _ => q.profile == .main && (q.depth == 8 || q.depth == 10) && (q.chroma == .c420 || q.chroma == .c400) && decide (q.level ≤ 53) &&
      !q.largeTile

/-- A sample with nothing decoded: 2^(depth − 1) (R345, R346). -/
def Picture.mid (p : Picture) : Nat := if p.d10 then 512 else 128

/-- BND of the block with an index in raster order (R348). -/
def Picture.beyond (p : Picture) (i : Nat) : Bool :=
  decide (p.w < 16 * (i % blocks16 p.w) + 16) || decide (p.h < 16 * (i / blocks16 p.w) + 16)

/-- A distance as the i8 of REFD, saturated (R348). -/
def refDist (d : Int) : Int := if d < -128 then -128 else if 127 < d then 127 else d

/-- A vector component in quarter samples (R349): AV1's eighths become RoundNE(v ÷ 2). -/
def quarter (codec : Nat) (v : Int) : Int :=
  if codec ≠ 2 then v
  else if v % 2 = 0 then v / 2 else if v / 2 % 2 = 0 then v / 2 else v / 2 + 1

/-- A sample lies in a rectangle. -/
def inRect (x y : Int) (w h : Nat) (px py : Int) : Bool := decide (x ≤ px) && decide (px < x + w) && decide (y ≤ py) && decide (py < y + h)

/-- The prediction unit of block i (R349): the one that covers luma sample (16bx + 8, 16by + 8), or the picture's sample nearest to it. -/
def Picture.unitOf (p : Picture) (i : Nat) : Option PredUnit :=
  let bx := i % blocks16 p.w; let by_ := i / blocks16 p.w
  let cx := if 16 * bx + 8 < p.w then 16 * bx + 8 else p.w - 1
  let cy := if 16 * by_ + 8 < p.h then 16 * by_ + 8 else p.h - 1
  p.units.find? fun u => inRect u.x u.y u.w u.h cx cy

/-- What a transform block adds to the energy of the 16 × 16 block at (bx, by) (R349): its sum where it lies inside; of a larger block its
share of 256 samples where it reaches the block. -/
def TransBlock.share (t : TransBlock) (bx by_ : Int) : Nat :=
  if bx ≤ t.x ∧ t.x + t.w ≤ bx + 16 ∧ by_ ≤ t.y ∧ t.y + t.h ≤ by_ + 16 then t.sum
  else if (16 < t.w ∨ 16 < t.h) ∧ t.x < bx + 16 ∧ bx < t.x + t.w ∧ t.y < by_ + 16 ∧ by_ < t.y + t.h then t.sum * 256 / (t.w * t.h)
  else 0

/-- ENER of block i (R348, R349), saturating. -/
def Picture.energy (p : Picture) (i : Nat) : Nat :=
  let n := (p.trans.map fun t => t.share (16 * (i % blocks16 p.w)) (16 * (i / blocks16 p.w))).foldl (· + ·) 0
  if n < 65536 then n else 65535

/-- The reference a record describes (R349): the one at distance 1 if either has it, else the first. -/
def PredUnit.ref (b : PredUnit) (out : Int) : Option BlockRef :=
  match b.refs.find? fun r => out - r.out == 1 with
  | some r => some r
  | none => b.refs.head?

/-- The fields of a block whose unit is `b`, with energy `e`, of output frame `out` (R348, R349). -/
def PredUnit.record (codec : Nat) (out : Int) (b : PredUnit) (e : Nat) : Nat :=
  if b.intra then packBits [(56, 1, 1), (32, 16, e)]
  else match b.ref out with
    | some r => packBits [(57, 1, (!b.coded).toNat), (48, 8, low (refDist (out - r.out)) 8), (32, 16, e),
        (16, 16, low (quarter codec r.mvy) 16), (0, 16, low (quarter codec r.mvx) 16)]
    | none => packBits [(57, 1, (!b.coded).toNat), (32, 16, e)]

/-- A motion record of output frame `out` (R348, R349): BND from the picture; an undecodable and a repeated frame have their own. -/
def Picture.record (codec : Nat) (out : Int) (p : Picture) (i : Nat) : Nat :=
  (if p.err then packBits [(57, 1, 1), (48, 8, 1)]
   else match p.rep with
    | some o => packBits [(57, 1, 1), (48, 8, low (refDist (out - o)) 8)]
    | none => ((p.unitOf i).getD ⟨0, 0, 0, 0, false, [], false⟩).record codec out (p.energy i)) + packBits [(58, 1, (p.beyond i).toNat)]

/-- NINTRA (R347). -/
def Picture.intras (codec : Nat) (out : Int) (p : Picture) : Nat :=
  ((List.range p.count).filter fun i => (p.record codec out i).testBit 56).length

end Sys2Proof

namespace Sys2Proof.Machine

/-- The header and records of a motion report (R347). -/
def motionReport (codec frame : Nat) (out : Int) (scut : Bool) (p : Picture) : List Byte :=
  let fl := packBits [(0, 1, (p.key && !p.err).toNat), (1, 1, scut.toNat), (2, 1, p.err.toNat), (3, 1, p.d10.toNat)]
  leBytes 2 p.w ++ leBytes 2 p.h ++ leBytes 4 frame ++ leBytes 1 fl ++ leBytes 1 codec ++ leBytes 2 (blocks16 p.w) ++
    leBytes 2 (blocks16 p.h) ++ leBytes 4 (p.intras codec out) ++ leBytes 14 0 ++ ((List.range p.count).map fun i => leBytes 8 (p.record codec out i)).flatten

end Sys2Proof.Machine

namespace Sys2Proof
open Machine

/-- SCUT (R346, R347). -/
def Picture.scut (codec : Nat) (out : Int) (p : Picture) (lastErr : Bool) : Bool :=
  lastErr || (!(p.key && !p.err) && decide (3 * p.count ≤ 4 * p.intras codec out))

/-- The bytes of a sample (R345). -/
def Picture.sample (p : Picture) (v : Nat) : List Byte := if p.d10 then leBytes 2 (v % 1024) else leBytes 1 v

/-- A row of n samples of a plane. -/
def Picture.row (p : Picture) (plane : List Nat) (n y : Nat) : List Byte :=
  ((List.range n).map fun x => p.sample ((plane[y * n + x]?).getD p.mid)).flatten

end Sys2Proof

namespace Sys2Proof.Machine

/-- Bytes as pieces of at most a 32-byte beat, with their addresses. -/
def splitBeats : Nat → Nat → List Byte → List (Nat × List Byte)
  | 0, _, _ => []
  | fuel + 1, va, bs => if bs.isEmpty then [] else
    let m := beatLen va bs.length
    (va, bs.take m) :: splitBeats fuel (va + m) (bs.drop m)

/-- A plane row by row. -/
def planePieces (base pitch : Nat) (rows : List (List Byte)) : List (Nat × List Byte) :=
  (((List.range rows.length).zip rows).map fun r => splitBeats (r.2.length / 32 + 2) (base + r.1 * pitch) r.2).flatten

/-- What an undecodable frame shows: the previous output frame, else the size and depth it was to have with nothing in it. -/
def CodecStream.instead (c : CodecStream) (p : Picture) : Picture :=
  if !p.err then p
  else match c.lastPic with
    | some l => { l with err := true, key := false }
    | none => { p with luma := [], chroma := [], key := false }

/-- Some beats of output frames land in the job space of the stream's queue (R350). -/
def State.codecPut (s : State) (c : CodecStream) (ws : List (Nat × Nat × List Byte)) : State :=
  ws.foldl (fun (s : State) w => (s.virtPut (s.queue c.q).root w.2.1 w.2.2).1) s

/-- A frame takes an output set: the beats of its planes and its report are written from here on, and an arrival is owed to the frame
gong. -/
def State.emit (s : State) (c : CodecStream) (p : Picture) (o : Nat × Nat × Nat × Nat × Nat) : State :=
  let (luma, chroma, motion, lp, cp) := o
  let q := c.instead p
  let out : Int := c.shown
  let ch := if q.mono then [] else q.chroma
  let report := motionReport c.codec c.frame out (q.scut c.codec out c.lastErr) q
  let ws := planePieces luma lp ((List.range q.h).map (q.row q.luma q.w)) ++
    planePieces chroma cp ((List.range ((q.h + 1) / 2)).map (q.row ch (2 * ((q.w + 1) / 2)))) ++ splitBeats (report.length / 32 + 2) motion report
  let s : State := if q.err then { s with sched := { s.sched with events := s.sched.events ++ [(346, c.stream, c.frame, 0)] } } else s
  s.modStream c.stream fun c => { c with
    outs := c.outs.drop 1, frame := (c.frame + 1) % 2 ^ 32, lastErr := q.err, lastPic := some q, held := none, owed := c.owed + 1
    shown := c.shown + 1, writes := c.writes ++ ws.map fun w => (c.frame, w.1, w.2) }

/-- The row of R344 takes what a stream has read since it started afresh; each frame of another stream is undecodable. -/
def CodecStream.taken (c : CodecStream) : Bool := (Config.sequences c.codec c.read).all (SeqInfo.taken c.codec)

/-- The next output frame of a stream, where its standard gives one for the units read (a frame that is not shown is none, R345);
undecodable where the row of R344 does not take the stream, or while the engine's die is being substituted (R346, R395). -/
def State.nextFrame (s : State) (c : CodecStream) : Option Picture :=
  if c.read.isEmpty then none
  else (Config.decode c.codec c.read c.flush c.shown).map fun p =>
    { p with err := p.err || !sizeTaken p.w p.h || !c.taken || s.root.substituting == some (engineDie c.engine) }

/-- FRAME_OUTPUT of the frame with number `pic` since the stream started afresh: frames come out in their order, and the oldest output set
is taken; without one the frame waits (R408). Where the units read have no such frame, nothing is output. -/
def State.frameOutput (s : State) (n pic : Nat) : State :=
  match s.stream n with
  | none => s
  | some c =>
    if c.held.isSome || c.shown != pic then s
    else match s.nextFrame c, c.outs with
      | none, _ => s
      | some p, [] => s.modStream n fun c => { c with held := some p }
      | some p, o :: _ => s.emit c p o

/-- Beats of output frames that land on this cycle: which ones is free (R350, R364; log 93). -/
def State.codecLand (s : State) : State :=
  s.codec.foldl (fun (s : State) p =>
    if p.2.writes.isEmpty then s
    else
      let ws := (List.range p.2.writes.length).zip p.2.writes
      let s := { s with fresh := s.fresh + 1 }
      let f := s.fresh
      let now := (ws.filter fun w => Config.codecLands f w.1).map (·.2)
      (s.codecPut p.2 now).modStream p.1 fun c => { c with writes := (ws.filter fun w => !Config.codecLands f w.1).map (·.2) }) s

/-- FRAME_GONG_ARRIVAL: one arrival for each frame, once all its writes have landed; on an absent die it is discarded (R238, R350). -/
def State.frameGong (s : State) (n : Nat) : State :=
  match s.stream n with
  | none => s
  | some c =>
    if c.owed = 0 then s
    else
      let f := (c.frame + 2 ^ 32 - c.owed) % 2 ^ 32
      let s := (s.codecPut c (c.writes.filter fun w => w.1 == f)).modStream n fun c =>
        { c with owed := c.owed - 1, writes := c.writes.filter fun w => w.1 != f }
      let a := fld c.gong.toNat 0 31
      if s.diePresent (a / 2 ^ 28) then
        { s with gongQ := s.gongQ ++ [{ key := vtKey a, ord := (4, c.engine, 0, 0, 0), kind := 5, n := 1, handle := c.gong, gang := 0, who := none }] }
      else s

/-- ACCESS_UNIT_CONSUMED: the oldest unit is read, and its event posted (R408); after the last unit before an EOS the next one starts the
stream afresh. A stream whose frame waits for an output set reads nothing, nor does one whose frames an EOS has yet to output. -/
def State.unitConsumed (s : State) (n : Nat) : State :=
  match s.stream n with
  | none => s
  | some c =>
    match c.units with
    | [] => s
    | (va, len, tag) :: t =>
      if c.held.isSome || (c.flush && (s.nextFrame c).isSome) then s
      else
        let (s, r) := s.virtBytes (s.queue c.q).root va len
        let u : Option (List Byte) := match r with | .ok bs => some bs | .error _ => none
        (s.modStream n fun c => { c with
          units := t, eos := (c.eos.map (· - 1)).filter (0 < ·), flush := c.eos.contains 1
          read := (if c.flush then [] else c.read) ++ [u], shown := if c.flush then 0 else c.shown }).event 5 (some c.q) tag.toNat 0 n 0 0

/-! Frame packets (R407). -/

/-- The ranges of a frame packet's fields. -/
def frameFieldsOk (b : List Byte) : Bool :=
  let f := bfld b 1 1
  f / 8 == 0 && f != 0 && decide (bfld b 2 2 < 512) && bfld b 20 4 == 0 && bfld b 52 4 == 0 && bfld b 56 8 == 0 &&
  (!f.testBit 0 || (decide (1 ≤ bfld b 16 4) && decide (bfld b 16 4 ≤ 2 ^ 24) && decide (bfld b 8 8 < 2 ^ 54))) &&
  (!f.testBit 1 || (bfld b 24 8 % 64 == 0 && bfld b 32 8 % 64 == 0 && bfld b 40 8 % 32 == 0 && bfld b 48 2 % 64 == 0 && bfld b 50 2 % 64 == 0 &&
    decide (bfld b 24 8 < 2 ^ 54) && decide (bfld b 32 8 < 2 ^ 54) && decide (bfld b 40 8 < 2 ^ 54)))

/-- The reason a frame packet is rejected (R407, R411). -/
def State.frameReject (s : State) (q : Nat) (b : List Byte) : Option Nat :=
  if !frameFieldsOk b then some 1
  else match s.stream (bfld b 2 2) with
    | none => some 6
    | some c =>
      if c.q ≠ q then some 6
      else if 16 ≤ c.units.length ∨ 16 ≤ c.outs.length then some 7
      else none

/-- What an accepted packet gives its stream. -/
def CodecStream.give (c : CodecStream) (b : List Byte) : CodecStream :=
  let f := bfld b 1 1
  let c := if f.testBit 0 then { c with units := c.units ++ [(bfld b 8 8, bfld b 16 4, BitVec.ofNat 32 (bfld b 4 4))] } else c
  let c := if f.testBit 1 then { c with outs := c.outs ++ [(bfld b 24 8, bfld b 32 8, bfld b 40 8, bfld b 48 2, bfld b 50 2)] } else c
  if !f.testBit 2 then c else if c.units.isEmpty then { c with flush := true } else { c with eos := c.eos ++ [c.units.length] }

/-- FRAME_PACKET: its unit and set join the stream; a frame that waits for a set is output. -/
def State.framePacket (s : State) (q : Nat) (b : List Byte) : State :=
  match s.frameReject q b with
  | some why => s.event 4 (some q) (bfld b 4 4) 0 why 0 0
  | none =>
    let n := bfld b 2 2
    let s := s.modStream n fun c => c.give b
    match s.stream n with
    | none => s
    | some c => match c.held, c.outs with
      | some p, o :: _ => s.emit c p o
      | _, _ => s

end Sys2Proof.Machine
end

