-- ==== Sys2Proof/Machine/Reliab.lean ====
section
/-! DEFINITION. What service firmware and the device do in the background: traces (R281), scrubs (R390), row repair (R394),
spare lines (R393), the spare die (R395, R396), futures (R306) and pseudo-channel modes (R300). -/
namespace Sys2Proof.Machine

/-! Traces (R281). -/

/-- TRACE_FORWARD: the oldest queued entry of a core goes to the trace ring. -/
def State.traceForward (s : State) (core : Nat) : State :=
  match (s.info core).trace with
  | [] => s
  | e :: t => (s.setInfo core { s.info core with trace := t }) |> fun (s : State) =>
      { s with sched := { s.sched with traceRing := s.sched.traceRing ++ [e] } }

/-! Scrubs (R389, R390). -/

/-- Where a scrub may read or write now: a timed pseudo-channel while no lease is held, a pooled one between requests, core memory and vault
banks on cycles that no requester and no untimed beat uses. -/
def State.mayScrub (s : State) (k : Nat) : Bool :=
  match storeOf k with
  | some .hbm =>
    let p := s.pch (paPch k)
    p.mode != .retired && p.lease.isNone && p.pool.all fun q => match q.start with
      | none => true
      | some u => decide (u + 2 * q.cols.length ≤ s.tlc)
  | some .core => !(s.used.contains (0, (k - 2 ^ 49) / 2 ^ 21 * 32 + cmBank ((k - 2 ^ 49) % 2 ^ 21)))
  | some .vault => let a := k - 2 ^ 48; !(s.used.contains (2, a / 2 ^ 24 * 16 + vtBank (a % 2 ^ 24)))
  | some _ => true
  | none => false

/-- SCRUB: a beat is read; corrected units are recorded and are to be written back, an uncorrectable one leaves the beat poisoned. -/
def State.scrub (s : State) (key : Nat) : State :=
  let k := key / 32 * 32
  if !s.mayScrub k then s
  else
    let r := s.fetch k 32
    let s := (s.correctedAll none 1 r).movedBad none 1 r (some k)
    let s : State := { s with err := { s.err with writeback := s.err.writeback ++ r.fixed.map fun k => (k, s.tlc) } }
    if r.bad.isSome then s.poisonBeat k else s

/-- What scrubs have corrected is written back on the first later cycle on which its place is idle (R390; log 95), where it can still be
corrected. -/
def State.writeBack (s : State) : State :=
  if s.err.writeback.isEmpty then s
  else
    let now := s.err.writeback.filter fun e => decide (e.2 < s.tlc) && s.mayScrub e.1
    let mended (u : Upset) : Bool := (now.any fun e => e.1 == u.unit) && (s.unitOut u.store u.unit).fix.isSome
    { s with err := { s.err with writeback := s.err.writeback.filter fun e => !now.contains e
                                 upsets := s.err.upsets.filter fun u => !mended u } }

/-! Row repair (R394). -/

/-- A row as one number. -/
def rowUnit (pch bank row : Nat) : Nat := (pch * 16 + bank) * 65536 + row

/-- No lease, and no pooled request outstanding (R300, R394): beats of agents that do not wait have had their columns (log 89). -/
def State.pchFree (s : State) (n : Nat) : Bool :=
  let hits (k : Nat) : Bool := decide (k < 0x6000000000) && paPch k == n
  let p := s.pch n
  p.lease.isNone && (p.pool.all fun q => q.req.isNone && q.over s.tlc) && s.gangs.all fun g => g.2.reqs.all fun r => match r.moves with
    | none => true
    | some ms => ms.all fun m => !hits m.dst && !m.src.any hits

/-- The first byte of a row (R302). -/
def rowKey (pch bank row : Nat) : Nat := pch * pchBytes + row * 16384 + bank * 1024

/-- Some leaf of the tables from `tab` on maps a byte of a row. -/
def State.leafOn (s : State) (row : Nat) : Nat → Nat → Nat → Bool
  | 0, _, _ => false
  | fuel + 1, lvl, tab =>
    (List.range (tableSize lvl / 8)).any fun i =>
      let e := leNat (s.mem.bytes (tab + 8 * i) 8)
      let at_ := fld e 7 41 * 128
      e.testBit 0 && (if e.testBit 1 then meet at_ (levelUnit lvl) row 1024 else s.leafOn row fuel (lvl + 1) at_)

/-- The translation roots in use: those of enabled queues and of jobs. -/
def State.roots (s : State) : List Nat :=
  ((s.sched.queues.filter fun q => q.2.en).map (·.2.root) ++ s.sched.jobs.map (·.2.root)).eraseDups

/-- A pager's region holds the row, or a page of some root lies on it (R394). -/
def State.rowMapped (s : State) (pch bank row : Nat) : Bool :=
  (s.sched.regions.any fun r => r.pch == pch && r.rows.contains row) || s.roots.any fun r => s.leafOn (rowKey pch bank row) 5 0 r

/-- The record of a repair (R399). -/
def State.repairRecord (s : State) (pch bank row outcome act : Nat) : State :=
  let key := rowKey pch bank row
  s.errRecord { cause := 80, key := key, orig := aget (mcUnit 80 key) s.err.lasting, verdict := if (aget (mcUnit 80 key) s.err.lasting).isSome then 2 else 3
                outcome := outcome, act := act, src := 3 }

/-- ROW_REPAIR: a soft or hard repair; without a resource left the row is retired (R394). Old contents are lost (log 31). -/
def State.rowRepair (s : State) (pch bank row : Nat) (hard : Bool) : State :=
  if 512 ≤ pch ∨ 16 ≤ bank ∨ 49152 ≤ row ∨ !s.pchFree pch ∨ s.rowMapped pch bank row then s
  else
    let u := rowUnit pch bank row
    let again := hard && s.err.repairs.contains (u, false)
    if !again && !Config.repairLeft s.fresh then
      let s : State := { s with fresh := s.fresh + 1, err := { s.err with rows := insertNat u s.err.rows } }
      s.repairRecord pch bank row 5 5
    else
      let key := rowKey pch bank row
      let bs := (List.range 1024).map fun i => Config.lostByte (s.fresh * 2 ^ 64 + i)
      let s := { s with fresh := s.fresh + 1 }
      let s := s.store key bs
      let s : State := { s with err := { s.err with repairs := (u, hard) :: s.err.repairs.filter fun e => e.1 != u } }
      s.repairRecord pch bank row 4 (if hard then 2 else 1)

/-! Spare lines (R393). -/

/-- A line loses its contents: its beats read as poisoned until they are written whole. -/
def State.loseLine (s : State) (key : Nat) : State :=
  let bs := (List.range 64).map fun i => Config.lostByte (s.fresh * 2 ^ 64 + i)
  { s with fresh := s.fresh + 1 }.store key bs true

/-- The record of an action on a line or a core. -/
def State.lineRecord (s : State) (cause key orig outcome act : Nat) : State :=
  s.errRecord { cause := cause, key := key, orig := some orig, verdict := 2, outcome := outcome, act := act, src := 3 }

/-- Steps that have had no downbeat leave their cores: they are READY again at their heads. -/
def State.unplace (s : State) (p : Nat → Bool) : State :=
  let gs := s.gangs.filter fun g => g.2.cells.any p && (match g.2.phase with | .placed _ | .staged _ => true | _ => false)
  gs.foldl (fun (s : State) g => (s.dropGang g.1).toFront g.2.queue { g.2.step with attempt := g.2.step.attempt - 1 }) s

/-- LINE_REMAP: the line of a unit with a lasting verdict, or of its bank in core memory, goes to a spare line; with none
left the core is marked unusable, once no step runs on it (log 94), and a vault asks for a die substitution, which is an event of its own.
`unit` is the byte key of the line. -/
def State.lineRemap (s : State) (unit : Nat) : State :=
  let line := unit / 64 * 64
  match storeOf line with
  | some .vault =>
    match aget (mcUnit 81 line) s.err.lasting with
    | none => s
    | some orig =>
      let a := line - 2 ^ 48
      let bank := a / 2 ^ 24 * 16 + vtBank (a % 2 ^ 24)
      let n := (aget bank s.err.spareVt).getD 0
      if 16 ≤ n then s
      else { (s.loseLine line).lineRecord 81 line orig 4 3 with err := { ((s.loseLine line).lineRecord 81 line orig 4 3).err with
        spareVt := aset bank (n + 1) s.err.spareVt } }
  | some .core =>
    match aget (mcUnit 82 line) s.err.lasting with
    | none => s
    | some orig =>
      let core := (line - 2 ^ 49) / 2 ^ 21
      let bank := core * 32 + cmBank ((line - 2 ^ 49) % 2 ^ 21)
      let n := (aget bank s.err.spareCm).getD 0
      if 4 ≤ n then
        if s.gangs.any fun g => g.2.cells.contains core && !(match g.2.phase with | .placed _ | .staged _ => true | _ => false) then s
        else ((s.unplace (· == core)).markUnusable core).lineRecord 82 line orig 5 4
      else { (s.loseLine line).lineRecord 82 line orig 4 3 with err := { ((s.loseLine line).lineRecord 82 line orig 4 3).err with
        spareCm := aset bank (n + 1) s.err.spareCm } }
  | _ => s

/-! Dies (R395, R396). -/

/-- A handle or operand names a vault of a die. -/
def handleOn (d : Nat) (h : BitVec 64) : Bool := fld h.toNat 57 3 == 2 && fld h.toNat 28 3 == d

/-- A job that holds a vault allocation on a die: firmware says so, or a condition or an arrival of its TOBs names one of its gongs
(log 32). -/
def Job.onDie (j : Job) (d : Nat) : Bool :=
  j.ended.isNone && (Config.vaultHeld j.num d || j.tobs.any fun t => ((t.tob.wadv.zip t.tob.waitg).any fun p => p.1.testBit 7 && handleOn d p.2) || (t.tob.arrives && handleOn d t.tob.arrg))

/-- The core lies on a die. -/
def onDie (d core : Nat) : Bool := core / 32 == d

/-- DIE_SUBSTITUTION, stage 1: once, while the spare is unused. The die takes no more dispatches; what runs on it goes on to its end. -/
def State.dieSubstitution (s : State) (d : Nat) : State :=
  if 8 ≤ d ∨ s.root.spareUsed ∨ s.root.spareFailed ∨ s.root.substituting.isSome ∨ s.root.absent.contains d then s
  else (({ s with root := { s.root with substituting := some d, aborted := false } } : State).unplace (onDie d)).status 2

/-- The operators with state on the cores of a die. -/
def State.opsOn (s : State) (d : Nat) : List Nat := ((s.sched.kept.filter fun k => k.saved.isNone && onDie d k.core).map (·.op)).eraseDups

/-- The die of a substitution is quiet: no step holds a core of it, and the operators with state there can be saved (R395). -/
def State.dieQuiet (s : State) (d : Nat) : Bool :=
  (s.gangs.all fun g => !g.2.cells.any (onDie d)) && (s.opsOn d).all s.mayPreempt

/-- The end of stage 1 and stage 2 of a substitution (R395): once the die is quiet its operators are saved, and every job that holds a vault
allocation on it ends; from then on its vaults are out of reach. -/
def State.dieAbort (s : State) : State :=
  match s.root.substituting with
  | none => s
  | some d =>
    if s.root.aborted || !s.dieQuiet d then s
    else
      let s := (s.opsOn d).foldl State.preempt s
      let s : State := { s with root := { s.root with aborted := true } }
      let js := (s.sched.jobs.filter fun j => j.2.onDie d).map (·.1)
      js.foldl (fun (s : State) j => s.endJob j .abort 0) s

/-- A key lies in the vaults, core memories or planes of a die. -/
def keyOnDie (d k : Nat) : Bool :=
  match storeOf k with
  | some .vault => (k - 2 ^ 48) / 2 ^ 28 == d
  | some .core => (k - 2 ^ 49) / 2 ^ 26 == d
  | some .plane => (k - 2 ^ 50) / 2 ^ 23 == d
  | _ => false

/-- The lasting error of a die that a substitution answers (R393, R399): a vault line's or a link's, as cause, key and ORIG. -/
def dieError (d : Nat) (e : Nat × Nat) : Option (Nat × Nat × Nat) :=
  if 2 ^ 62 ≤ e.1 ∧ e.1 < 2 ^ 63 then
    let v := e.1 - 2 ^ 62
    if v / 16 = d ∨ v % 16 = d then some (83, linkKey (v / 16) (v % 16) 0, e.2) else none
  else if 2 ^ 61 ≤ e.1 ∧ e.1 < 2 ^ 62 then
    let k := 2 ^ 48 + 64 * (e.1 - 2 ^ 61)
    if keyOnDie d k then some (81, k, e.2) else none
  else none

/-- A unit of R391 that lies on a die, so that a new die has it afresh. -/
def unitOnDie (d u : Nat) : Bool :=
  (dieError d (u, 0)).isSome || (decide (2 ^ 59 ≤ u) && decide (u < 2 ^ 60) && onDie d (u - 2 ^ 59))

/-- SUBSTITUTION_END, stages 3 to 5: position 8 takes the logical index; its vaults and core memories read zero. It waits for
stage 2. A spare that has failed leaves the index out until it is marked absent (R396). -/
def State.substitutionEnd (s : State) (d : Nat) : State :=
  if s.root.substituting ≠ some d ∨ !s.root.aborted ∨ s.root.spareFailed then s
  else if !Config.spareWorks then { s with root := { s.root with spareFailed := true } }.status 3
  else
    let why := ((s.err.lasting.filterMap (dieError d)).getLast?).getD (84, imKey (32 * d) false 0, s.err.seq)
    let s : State := { s with
      mem := s.mem.filter fun c => !keyOnDie d c.1
      poison := s.poison.filter fun b => !keyOnDie d (32 * b)
      infos := s.infos.filter fun p => !onDie d p.1
      root := { s.root with substituting := none, aborted := false, spareUsed := true, dieMap := s.root.dieMap.set d 8 }
      err := { s.err with
        upsets := s.err.upsets.filter fun u => !keyOnDie d u.unit
        origins := s.err.origins.filter fun o => !keyOnDie d (32 * o.1)
        writeback := s.err.writeback.filter fun e => !keyOnDie d e.1
        parity := s.err.parity.filter fun p => !onDie d p.core
        flits := s.err.flits.filter fun e => e.src != d && e.dst != d
        lasting := s.err.lasting.filter fun e => !unitOnDie d e.1
        spareCm := s.err.spareCm.filter fun e => e.1 / 32 / 32 != d
        spareVt := s.err.spareVt.filter fun e => e.1 / 16 / 16 != d
        unusable := s.err.unusable.filter fun c => !onDie d c } }
    let s := s.errRecord { cause := why.1, key := why.2.1, orig := some why.2.2, verdict := 2, outcome := 4, act := 7, src := 3 }
    s.status 3

/-- DIE_ABSENT: the spare is used or has failed (R396). -/
def State.dieAbsent (s : State) (d : Nat) : State :=
  if 8 ≤ d ∨ s.root.absent.contains d ∨ !(s.root.spareUsed || s.root.spareFailed) then s
  else
    let sub := if s.root.substituting = some d then none else s.root.substituting
    let s : State := { s with root := { s.root with absent := insertNat d s.root.absent, substituting := sub, aborted := s.root.aborted && sub.isSome } }
    (s.unplace (onDie d)).status (4 + 256 * d)

/-! Futures (R46, R306, R338). -/

/-- The trap record of the attempt that met a page of a job (R46). -/
def State.pageRecord (s : State) (job : Nat) : BitVec 1024 :=
  ((s.sched.trapRing.filter fun r => fld r.toNat 384 32 == job && fld r.toNat 0 8 == 32).getLast?).getD 0

/-- A valid leaf of a level that maps a byte of a retired row (R394). -/
def State.leafRetired (s : State) (lvl : Nat) (e : Nat) : Bool :=
  e.testBit 0 && e.testBit 1 && s.err.rows.any fun u =>
    meet (fld e 7 41 * 128) (levelUnit lvl) (rowKey (u / 2 ^ 20) (u / 65536 % 16) (u % 65536)) 1024

/-- The level of the table entry that stops a walk. -/
def State.stopLevel (s : State) (va : Nat) : Nat → Nat → Nat → Nat
  | 0, lvl, _ => lvl
  | fuel + 1, lvl, tab =>
    let k := tab + 8 * levelIndex lvl va
    if (s.paBad k).isSome then lvl
    else
      let e := leNat (s.physRead k 8).bytes
      if !e.testBit 0 || e.testBit 1 then lvl else s.stopLevel va fuel (lvl + 1) (fld e 7 41 * 128)

/-- FUTURE_RESOLVED: the pager writes the entry of a future, in a table that it can reach (R274, R300) and not onto a retired row (R394). A
valid one releases the steps that wait for the page, one that is neither valid nor a future any more ends their jobs. -/
def State.futureResolved (s : State) (root va : Nat) (entry : BitVec 64) : State :=
  match s.stopEntry va 5 0 root with
  | none => s
  | some k =>
    if !(leNat (s.physRead k 8).bytes).testBit 5 || s.leafRetired (s.stopLevel va 5 0 root) entry.toNat then s
    else
      let s := s.physWrite k (leBytes 8 entry.toNat) false
      let dead := (s.sched.waiters.filterMap fun w => match w.on with
        | .page r v => if s.pageState r v = .lost then some w.step.job else none
        | _ => none).eraseDups
      let s := s.wake fun w => match w with | .page r v => s.pageState r v == .resolved | _ => false
      dead.foldl (fun (s : State) j => s.endJob j .fault (s.pageRecord j)) s

/-! Modes (R300), and the regions of pooled HBM4 that firmware keeps (R284, R341, R368, R399). -/

/-- The records of a ring that are not in memory yet are written (R284, R399; log 88): `size` bytes each, the oldest first, one after
another and from the start again. They are pooled traffic, and stay back where the region is out of its reach (R274, R300). -/
def State.ringOut (s : State) (m : Option MemRing) (size : Nat) (recs : List Nat) : State × Option MemRing :=
  match m with
  | none => (s, none)
  | some m =>
    let due := ((List.range recs.length).zip recs).filter fun r => decide (m.stored ≤ r.1)
    let key (i : Nat) : Nat := m.base + size * (i % m.room)
    if due.any fun r => (s.paBad (key r.1)).isSome then (s, some m)
    else (due.foldl (fun (s : State) r => (s.poolSpan none (key r.1) size true).store (key r.1) (leBytes size r.2)) s, some { m with stored := recs.length })

/-- The regions of the rings and of the Belfry's pool. -/
def State.firmwareKeeps (s : State) : List (Nat × Nat) :=
  (s.sched.trapMem.map fun m => (m.base, 128 * m.room)).toList ++ (s.err.mem.map fun m => (m.base, 64 * m.room)).toList ++
    (s.sched.hangMem.map fun m => (m.base, 64 * m.room)).toList ++ s.belfry.pool.toList
/-- One of them lies in a pseudo-channel. -/
def State.firmwareIn (s : State) (n : Nat) : Bool := s.firmwareKeeps.any fun r => meet r.1 r.2 (n * pchBytes) pchBytes

/-- PCH_MODE_CHANGE: only without a lease and without pooled requests; every row keeps its contents. Where firmware keeps a region of its
own, which is pooled HBM4, it leaves the mode as it is (R368; log 88). -/
def State.pchModeChange (s : State) (n : Nat) (m : PchMode) : State :=
  if 512 ≤ n ∨ !s.pchFree n ∨ s.firmwareIn n then s else s.modPch n fun p => { p with mode := m }

end Sys2Proof.Machine
end

