-- ==== Sys2Proof/Machine/HostLink.lean ====
section
/-! DEFINITION. The host link of 17_host_security_boot: the device-memory window (R401, R314), the registers of BAR 0 and BAR 2
(R402, R403, R409), launch ports (R404 to R406), invalidations (R415), and the records service firmware writes (R324, R328). -/
namespace Sys2Proof.Machine

/-! The window (R401). -/

/-- Physical ranges of service firmware's rings and of the Belfry node table. -/
def State.firmwareRanges (s : State) : List (Nat × Nat) :=
  s.host.fw ++ (match s.belfry.pool with | some p => [(p.1, 4 * 2 ^ 20)] | none => [])

/-- A physical address that host accesses through the window do not reach (R401). -/
def State.barred (s : State) (pa n : Nat) : Bool :=
  decide (2 ^ 48 ≤ pa) || (s.paBad pa).isSome || s.firmwareRanges.any fun r => meet pa n r.1 r.2

/-- Pieces of a span, one in each beat: address and offset with their length. -/
def beatPieces : Nat → Nat → Nat → Nat → List (Nat × Nat × Nat)
  | 0, _, _, _ => []
  | fuel + 1, a, off, n => if n = 0 then [] else
    let m := beatLen a n
    (a, off, m) :: beatPieces fuel (a + m) (off + m) (n - m)

/-- The pieces of a window access, and whether some piece is barred. -/
def State.windowPieces (s : State) (off n : Nat) : List (Nat × Nat × Nat) := beatPieces (n / 32 + 2) (s.host.winbase.toNat + off) 0 n
def State.windowBarred (s : State) (off n : Nat) : Bool := (s.windowPieces off n).any fun p => s.barred p.1 p.2.2

/-- HOST_WINDOW_WRITE: beat by beat; a barred one is discarded, and the access is counted (R314, R401). -/
def State.windowWrite (s : State) (off : Nat) (bs : List Byte) : State :=
  if !s.root.ready then s
  else
    let ps := s.windowPieces off bs.length
    let s' := (ps.filter fun p => !s.barred p.1 p.2.2).foldl (fun (s : State) p => (s.poolSpan none p.1 p.2.2 true).physWrite p.1 ((bs.drop p.2.1).take p.2.2) false) s
    if s.windowBarred off bs.length then s'.countLo else s'

/-- One beat read through the window; an uncorrectable HBM beat is marked poisoned by its controller (R386). -/
def State.windowBeat (s : State) (pa n : Nat) : State × List Byte :=
  if s.barred pa n then (s, List.replicate n 0xFF)
  else
    let r := s.physRead pa n
    let s := ((s.poolSpan none pa n false).correctedAll none 2 r).movedBad none 2 r none
    let s : State := if r.bad.isSome then s.poisonBeat pa else s
    if r.psn || r.bad.isSome then ({ s with fresh := s.fresh + 1 }, (List.range n).map fun i => Config.lostByte (s.fresh * 2 ^ 64 + i))
    else (s, r.bytes)

/-- HOST_WINDOW_READ: what the link returns (R401, R422). -/
def State.windowRead (s : State) (off n : Nat) : State :=
  if !s.root.ready then s.sendHost (.readData (List.replicate n 0))
  else
    let r := (s.windowPieces off n).foldl (fun (q : State × List Byte) p =>
      let b := q.1.windowBeat p.1 p.2.2
      (b.1, q.2 ++ b.2)) (s, [])
    let s' := if s.windowBarred off n then r.1.countLo else r.1
    s'.sendHost (.readData r.2)

/-! Launch ports (R404 to R406). -/

/-- A write of the wrong form is discarded, counted and reported (R404). -/
def State.badLaunch (s : State) (off : Nat) : State := s.countHi.event 8 (some (off / 4096)) 0 0 0 0 0

/-- A packet whose fields R405 rejects. -/
def packetMalformed (b : List Byte) : Bool :=
  let ty := bfld b 0 1
  let h := bfld b 8 8
  !(ty == 1 || ty == 2) || bfld b 1 1 / 4 != 0 || bfld b 2 2 != 0 || leNat (b.drop 28) != 0 || (bfld b 16 8 == 0 && bfld b 24 4 != 0) ||
  (ty == 1 && h / 2 ^ 28 != 0) || (ty == 2 && (h % 256 != 0 || h / 2 ^ 54 != 0))

/-- What a packet asks for. -/
def packetWanted (b : List Byte) : Wanted := if bfld b 0 1 = 1 then .graph (bfld b 8 8) else .tob (bfld b 8 8)
def packetArgs (b : List Byte) : LaunchArgs :=
  { tag := BitVec.ofNat 32 (bfld b 4 4), flaga := bfld b 16 8, flagn := bfld b 24 4, brken := (bfld b 1 1).testBit 0
    quiet := (bfld b 1 1).testBit 1, viaPort := true }

/-- A rejection (R405, R411). -/
def State.rejectLaunch (s : State) (q : Nat) (b : List Byte) (why : Nat) : State := s.event 4 (some q) (bfld b 4 4) 0 why 0 0

/-- A packet of 64 bytes at the port of queue q. -/
def State.packet (s : State) (q : Nat) (b : List Byte) : State :=
  if bfld b 0 1 = 3 then s.framePacket q b
  else if packetMalformed b then s.rejectLaunch q b 1
  else match s.launch q (packetWanted b) (packetArgs b) with
    | (s, none) => s.evalHead q
    | (s, some why) => s.rejectLaunch q b why

/-- LAUNCH_PACKET: a posted write to the launch-port area. -/
def State.launchWrite (s : State) (off : Nat) (b : List Byte) : State :=
  if 4 * 2 ^ 20 ≤ off then s
  else if off % 4096 ≠ 0 ∨ b.length ≠ 64 ∨ !s.root.ready then s.badLaunch off
  else s.packet (off / 4096) b

/-! Event rings (R409, R413). -/

/-- ECONS: consumption, ARM as written (R409, R413; log 36), and the vector at once where entries stand; then held events enter. A value above EPROD is taken
as EPROD. -/
def State.econs (s : State) (g : Nat) (val : BitVec 64) : State :=
  if 16 ≤ g ∨ !s.root.ready then s
  else
    let v : BitVec 32 := val.truncate 32
    let arm := val.getLsbD 63
    let s := s.modRing g fun r => { r with cons := if 2 ^ 31 ≤ (r.prod - v).toNat then r.prod else v, arm := arm }
    let s := if arm && (s.ring g).prod != (s.ring g).cons then s.msix g else s
    s.flushRing g (s.ring g).held.length

/-- ESIZE: only while EN is 0; setting EN starts EPROD at 0, and held events enter. -/
def State.esizeWrite (s : State) (g : Nat) (val : BitVec 64) : State :=
  if (s.ring g).en then s
  else
    let s := s.modRing g fun r =>
      let v : BitVec 32 := val.truncate 32 &&& 0x8000001F
      { r with esize := v, prod := if v.getLsbD 31 then 0 else r.prod, cons := if v.getLsbD 31 then 0 else r.cons }
    s.flushRing g (s.ring g).held.length
def State.ebaseWrite (s : State) (g : Nat) (val : BitVec 64) : State :=
  if (s.ring g).en then s else s.modRing g fun r => { r with ebase := val &&& ~~~0xFFF }

/-- A held event enters a ring's list. -/
def Ring.hold (r : Ring) (es : List (Bool × List Byte)) : Ring := es.foldl (fun r e => { r with held := r.held ++ [e] }.trim) r

/-- QRING (R409): a queue's events go to a ring; those of its old ring that are held go with it, so that they stay in order (R410) and keep
their jobs' places (R412; log 98). -/
def State.queueRing (s : State) (q g : Nat) : State :=
  let old := (s.queue q).ring
  if old = g then s
  else
    let mine (e : Bool × List Byte) : Bool := bfld e.2 2 2 == q
    let es := (s.ring old).held.filter mine
    let s := (s.modRing old fun r => { r with held := r.held.filter fun e => !mine e }).modRing g fun r => r.hold es
    let s := s.modQueue q fun v => { v with ring := g }
    s.flushRing g (s.ring g).held.length

/-! Invalidations (R415). -/

/-- INVGO: a range is queued; a ninth is discarded and counted. -/
def State.invgo (s : State) (val : BitVec 64) : State :=
  if !val.getLsbD 0 ∨ !s.root.ready then s
  else if 8 ≤ s.host.invQueue.length then s.countLo
  else { s with host := { s.host with invQueue := s.host.invQueue ++
    [(s.host.invRoot.toNat, s.host.invVa.toNat / 4096, s.host.invCnt.toNat, s.reqSeq)] } }

/-- A page of a root lies in an invalidation's range. -/
def inInvalidation (e : Nat × Nat × Nat × Nat) (root page : Nat) : Bool :=
  root == e.1 && (e.2.2.1 == 0 || (decide (e.2.1 ≤ page) && decide (page < e.2.1 + e.2.2.1)))

/-- No request from before the INVGO that translated a page of the range is outstanding. -/
def State.invalidationReady (s : State) (e : Nat × Nat × Nat × Nat) : Bool :=
  s.gangs.all fun g => g.2.reqs.all fun r => decide (e.2.2.2 ≤ r.seq) || !(r.pages.any fun p => inInvalidation e g.2.root p)

/-- INVALIDATION_DONE: no die caches the range; INVSEQ and the kind 6 event. -/
def State.invalidationDone (s : State) : State :=
  match s.host.invQueue with
  | [] => s
  | e :: t =>
    if !s.invalidationReady e then s
    else
      let n := s.host.invSeq + 1
      let s : State := { s with tlb := s.tlb.filter fun x => !inInvalidation e x.root x.page, host := { s.host with invQueue := t, invSeq := n } }
      s.event 6 none 0 0 n.toNat 0 0

/-! Registers (R402, R409). -/

/-- POWCAP as it is taken (R402). -/
def State.powerCap (s : State) : Nat :=
  let v := fld s.host.powcap.toNat 0 11
  if 600 ≤ v ∧ v ≤ 1300 then v else 1300

/-- One half of PWIN (R414). -/
def State.pwinWrite (s : State) (w : Nat) (high : Bool) (val : BitVec 64) : State :=
  let old := ((aget w s.host.pwin).getD 0).toNat
  let new := if high then old % 2 ^ 64 + (val.toNat / 2 ^ 12) * 2 ^ 76
    else old / 2 ^ 64 * 2 ^ 64 + packBits [(0, 1, val.toNat), (12, 21, val.toNat / 2 ^ 12)]
  { s with host := { s.host with pwin := aset w (BitVec.ofNat 128 new) s.host.pwin } }

/-- A register of BAR 0 that has no behaviour of its own: RW fields are replaced, the others ignored (R10, R402). -/
def State.bar0Write (s : State) (off : Nat) (val : BitVec 64) : State :=
  let v := val.toNat
  if off = 0x8 then { s with host := { s.host with winbase := BitVec.ofNat 64 (fld v 30 18 * 2 ^ 30) } }
  else if 0x100 ≤ off ∧ off < 0x200 ∧ off % 8 = 0 then s.pwinWrite ((off - 0x100) / 16) (off % 16 == 8) val
  else if off = 0x200 then { s with host := { s.host with invRoot := BitVec.ofNat 64 (fld v 14 34 * 2 ^ 14) } }
  else if off = 0x208 then { s with host := { s.host with invVa := BitVec.ofNat 64 (fld v 12 42 * 2 ^ 12) } }
  else if off = 0x210 then { s with host := { s.host with invCnt := BitVec.ofNat 64 (fld v 0 32) } }
  else if off = 0x218 then s.invgo val
  else if off = 0x300 then { s with host := { s.host with powcap := BitVec.ofNat 64 (fld v 0 11) } }
  else s

/-- A register of BAR 2 beyond the launch ports (R409). -/
def State.bar2Write (s : State) (off : Nat) (val : BitVec 64) : State :=
  let o := off - 4 * 2 ^ 20
  if o < 1024 then
    match o % 64 with
    | 0 => s.ebaseWrite (o / 64) val
    | 8 => s.esizeWrite (o / 64) val
    | 24 => s.econs (o / 64) val
    | _ => s
  else if o < 1024 + 2048 ∧ o % 2 = 0 then s.queueRing ((o - 1024) / 2) (val.toNat % 16)
  else s

/-- What the host reads from a register (R402, R403, R409): the DSTAT register. DIES and SPARE are 0 until stage 4 has powered the dies and
applied the spare map (R10, R422; log 23). -/
def State.dstat (s : State) : Nat :=
  packBits [(0, 1, s.root.ready.toNat), (4, 4, s.root.stage), (16, 8, s.root.fail), (31, 1, (s.root.spareUsed && decide (5 ≤ s.root.stage)).toNat),
    (32, 8, if s.root.stage < 5 then 0 else (List.range 8).foldl (fun n d => if s.root.absent.contains d then n else n + 2 ^ d) 0)]

/-- A register's value; the launch ports, PWIN, the rings and QRING among them. -/
def State.registerRead (s : State) (bar off : Nat) : Nat :=
  let ring (g o : Nat) : Nat := let r := s.ring g; match o with
    | 0 => r.ebase.toNat | 8 => r.esize.toNat | 16 => r.prod.toNat | 24 => packBits [(0, 32, r.cons.toNat), (63, 1, r.arm.toNat)]
    | 32 => r.drop.toNat | _ => 0
  if bar = 0 ∧ off = 0 then s.dstat
  else if bar = 0 ∧ off = 0x400 then s.host.rctlPage
  else if bar = 0 ∧ 0x100000 ≤ off ∧ off < 0x200000 then
    if s.root.waiting.isSome && decide (s.host.rctlPage ≤ 65) then leNat (s.mem.bytes (2 ^ 20 * s.host.rctlPage + (off - 0x100000)) 8) else 0
  else if !s.root.ready then 0
  else if bar = 0 then
    if 0x100 ≤ off ∧ off < 0x200 ∧ off % 8 = 0 then ((aget ((off - 0x100) / 16) s.host.pwin).getD 0).toNat / 2 ^ (if off % 16 = 8 then 64 else 0) % 2 ^ 64
    else match off with
      | 0x8 => s.host.winbase.toNat
      | 0x10 => s.host.herrLo + s.host.herrHi * 2 ^ 32
      | 0x200 => s.host.invRoot.toNat
      | 0x208 => s.host.invVa.toNat
      | 0x210 => s.host.invCnt.toNat
      | 0x220 => s.host.invSeq.toNat
      | 0x300 => s.host.powcap.toNat
      | 0x308 => packBits [(0, 8, s.root.junction), (8, 1, s.root.thermalHold.toNat)]
      | _ => 0
  else if bar = 2 ∧ 4 * 2 ^ 20 ≤ off then
    let o := off - 4 * 2 ^ 20
    if o < 1024 then ring (o / 64) (o % 64) else if o < 3072 then (s.queue ((o - 1024) / 2)).ring else 0
  else 0

/-! Records of service firmware. -/

/-- QUEUE_RECORD_WRITE: only while the queue is disabled (R328); of an enabled queue it can only clear EN, which holds the queue (R279;
log 86). -/
def State.queueWrite (s : State) (q : Nat) (rec_ : BitVec 128) : State :=
  let v : BitVec 128 := rec_ &&& ~~~0xFF3E
  let bad := v.getLsbD 0 && (fld v.toNat 32 6 == 0 || fld v.toNat 38 24 == 0)
  if 1024 ≤ q ∨ bad then s
  else if (s.queue q).en then (if v.getLsbD 0 then s else s.modQueue q fun x => { x with rec_ := x.rec_ &&& ~~~1 })
  else s.modQueue q fun x => { x with rec_ := v }

/-- VERSION_REGISTER: the version becomes current; it is never rewritten (R324). -/
def State.versionWrite (s : State) (rec_ : BitVec 512) : State :=
  let r := rec_.toNat
  let g := fld r 0 16; let v := fld r 16 16
  if 4096 ≤ g ∨ v = 0 ∨ (s.sched.versions.any fun x => x.graph == g && x.version == v) then s
  else
    let old := s.sched.versions.map fun x => if x.graph == g then { x with current := false } else x
    { s with sched := { s.sched with versions := old ++ [({ graph := g, version := v, rec_ := rec_, current := true } : Version)] } }.freeVersions

end Sys2Proof.Machine
end

