-- ==== Sys2Proof/Machine/Boot.lean ====
section
/-! DEFINITION. Images and their checks (R418 to R420), boot and recovery (R422, R423), resets (R424), attestation (R421),
configuration requests (R400, R422), power and temperature (R426), and the registers that all of these share (R402). -/
namespace Sys2Proof.Machine

/-! Images (R418). -/

end Sys2Proof.Machine

namespace Sys2Proof
open Machine

def Image.kind (i : Image) : Nat := bfld i.bytes 0 4
def Image.slot (i : Image) : Nat := bfld i.bytes 4 1
def Image.svn (i : Image) : Nat := bfld i.bytes 5 1
def Image.commit (i : Image) : Bool := (bfld i.bytes 6 1).testBit 0
def Image.blen (i : Image) : Nat := bfld i.bytes 8 4
def Image.body (i : Image) : List Byte := (i.bytes.drop 17408).take i.blen
def Image.signed (i : Image) : List Byte := i.bytes.take 496
/-- The fields marked zero, and a body length within its bound. -/
def Image.plain (i : Image) : Bool :=
  bfld i.bytes 6 1 / 2 == 0 && bfld i.bytes 7 1 == 0 && bfld i.bytes 12 4 == 0 && ((i.bytes.drop 17104).take 304).all (· == 0) &&
  decide (i.blen ≤ 64 * 2 ^ 20)
/-- What R421 measures of a loaded image. -/
def Image.measure (i : Image) : BitVec 384 := Config.sha384 (i.bytes.take 17408 ++ i.body)

end Sys2Proof

namespace Sys2Proof.Machine

/-- A rollback counter (R420). -/
def RootCtl.counter (r : RootCtl) (kind : Nat) : Nat := (aget kind r.counters).getD 0

/-- The six checks of R419, in order. -/
def imageChecks (r : RootCtl) (i : Image) : List Bool :=
  [ decide (1 ≤ i.kind) && decide (i.kind ≤ 4) && i.plain,
    decide (i.slot ≤ 3) && !r.revoked.contains (i.kind, i.slot) &&
      Config.sha384 ((i.bytes.drop 64).take 432) == Config.keyDigest i.kind i.slot,
    decide (r.counter i.kind ≤ i.svn) && decide (i.svn ≤ 63),
    Config.rsaVerify i.signed ((i.bytes.drop 496).take 384),
    Config.slhVerify i.signed ((i.bytes.drop 880).take 16224),
    Config.sha384 i.body == BitVec.ofNat 384 (bfld i.bytes 16 48) ]

/-- The first check that fails, from 1; none where the image is accepted (R419). -/
def imageFault (r : RootCtl) (i : Image) : Option Nat := ((List.range 6).zip (imageChecks r i)).findSome? fun p => if p.2 then none else some (p.1 + 1)

/-! Boot (R422, R423). -/

def State.modRoot (s : State) (f : RootCtl → RootCtl) : State := { s with root := f s.root }

def RootCtl.has (r : RootCtl) (kind : Nat) : Bool := r.loaded.any fun l => l.1 == kind
/-- An accepted image is loaded. -/
def RootCtl.load (r : RootCtl) (i : Image) : RootCtl :=
  { r with loaded := (i.kind, i.measure, i.svn, i.commit) :: r.loaded.filter fun l => l.1 != i.kind }

/-- An image of KIND 2, 3 or 4 that a stage needs: loaded, or the boot stops with FAIL (R423). -/
def RootCtl.need (r : RootCtl) (imgs : List Image) (kind : Nat) : RootCtl :=
  if r.has kind || r.waiting.isSome then r
  else match imgs.find? fun i => i.kind == kind with
    | none => { r with fail := 1 + 16 * kind, waiting := some kind }
    | some i => match imageFault r i with
      | none => r.load i
      | some n => { r with fail := n + 16 * kind, waiting := some kind }

/-- A patch image, if there is one and it is accepted (R422, R423). -/
def RootCtl.patch (r : RootCtl) (imgs : List Image) : RootCtl :=
  match imgs.find? fun i => i.kind == 1 with
  | none => r
  | some i => if (imageFault r i).isNone then r.load i else r

/-- Rollback counters at READY (R420). -/
def RootCtl.commitCounters (r : RootCtl) : RootCtl :=
  if r.loaded.all fun l => l.2.2.2 then
    { r with counters := r.loaded.foldl (fun c l => if r.counter l.1 < l.2.2.1 then aset l.1 l.2.2.1 c else c) r.counters }
  else r

/-- The stage that begins, unless the boot waits. -/
def RootCtl.advance (r : RootCtl) : RootCtl := if r.waiting.isSome then r else { r with stage := r.stage + 1 }

/-- A region that firmware gives a ring of records, in HBM4 and of one record or more (log 88). -/
def ringRegion (p : Nat × Nat) : MemRing := { base := p.1 % 0x5F00000 * 4096, room := p.2 % 2 ^ 16 + 1, taken := 0, stored := 0 }

/-- The Belfry's pool that firmware sets (R368): whole MiB, 8 MiB to 64 GiB, in HBM4. -/
def poolRegion (p : Nat × Nat) : Nat × Nat :=
  let n := 8 + p.2 % 65529
  (p.1 % (0x60000 - n + 1) * 2 ^ 20, n * 2 ^ 20)

/-- The base of the pool window that firmware chooses (R368, R430): a page, with every granule inside the virtual space. -/
def windowBase (pool : Option (Nat × Nat)) : Nat := match pool with
  | some p => Config.belfryWindow % ((2 ^ 54 - (p.2 - 4 * 2 ^ 20)) / 4096 + 1) * 4096
  | none => 0

/-- The pseudo-channels that some regions lie in are pooled (R300). -/
def State.pooledFor (s : State) (l : List (Nat × Nat)) : State :=
  ((List.range 512).filter fun n => l.any fun r => meet r.1 r.2 (n * pchBytes) pchBytes).foldl
    (fun (s : State) n => s.modPch n fun p => { p with mode := .pooled }) s

/-- What service firmware sets up in stage 7 beyond other modes and queue records, which are events of their own (log 23): the rings and
the Belfry's pool, in pooled channels (R284, R368), HANGTO, the pool's window, whose base it reports to the host (R430; log 98), and the
scrub pass. -/
def State.firmwareSetup (s : State) : State :=
  let tr := ringRegion Config.trapRegion; let er := ringRegion Config.errRegion; let hr := ringRegion Config.hangRegion
  let pool := Config.belfryPool.map poolRegion
  let s : State := { s with
    sched := { s.sched with trapMem := some tr, hangMem := some hr, hangTo := Config.hangTimeout }
    err := { s.err with mem := some er, pass := Nat.max Config.scrubPass (2 ^ 30) }
    belfry := { s.belfry with pool := pool, window := windowBase pool }
    host := { s.host with fw := [(tr.base, 128 * tr.room), (er.base, 64 * er.room), (hr.base, 64 * hr.room)] ++ Config.firmwareRanges } }
  let s := s.pooledFor s.firmwareKeeps
  if pool.isSome then s.sendHost (.belfryWindow s.belfry.window) else s

/-- BOOT_STAGE: the work of the stage ends and the next begins, stage 1 first; after stage 9, READY. `imgs` are the images in flash. -/
def State.bootStage (s : State) (imgs : List Image) : State :=
  let r := s.root
  if !r.powered || r.waiting.isSome || r.ready then s
  else match r.stage with
    | 0 => s.modRoot RootCtl.advance
    | 1 => s.modRoot RootCtl.advance
    | 2 => s.modRoot fun r => (r.patch imgs).advance
    | 3 => s.modRoot fun r => (r.need imgs 2).advance
    | 4 => s.modRoot RootCtl.advance
    | 5 => { s.modRoot RootCtl.advance with tlc := 0 }
    | 6 => s.modRoot fun r => ((r.need imgs 3).need imgs 4).advance
    | 7 => s.firmwareSetup.modRoot RootCtl.advance
    | 8 => s.modRoot RootCtl.advance
    | 9 => s.modRoot fun r => { r.commitCounters with ready := true }
    | _ => s

/-- The image in the recovery region, which starts at physical address 0. -/
def State.recoveryImage (s : State) : Image :=
  let head := (s.fetch 0 17408).bytes
  ⟨head ++ (s.fetch 17408 (bfld head 8 4)).bytes⟩

/-- RCTL: PAGE, and GO: the check of the recovery image; open only while the boot waits for one (R423). -/
def State.rctl (s : State) (val : BitVec 64) : State :=
  if s.root.waiting.isNone then s
  else
    let s := { s with host := { s.host with rctlPage := fld val.toNat 0 7 } }
    if !val.getLsbD 63 then s
    else
      let i := s.recoveryImage
      match imageFault s.root i with
      | none => s.modRoot fun r => { r.load i with fail := 0, waiting := none }
      | some n => s.modRoot fun r => { r with fail := n + 16 * (i.kind % 16) }

/-- RECOV: a window onto a page of the recovery region (R402, R423). -/
def State.recov (s : State) (off : Nat) (bs : List Byte) : State :=
  if s.root.waiting.isNone ∨ 65 < s.host.rctlPage then s else s.store (2 ^ 20 * s.host.rctlPage + off) bs

/-- REGISTER_WRITE: a 64-bit write to a register (R402, R409); before READY only RCTL and RECOV take writes (R422). -/
def State.registerWrite (s : State) (bar off : Nat) (val : BitVec 64) : State :=
  match bar with
  | 0 =>
    if off = 0x400 then s.rctl val
    else if 0x100000 ≤ off ∧ off + 8 ≤ 0x200000 then s.recov (off - 0x100000) (leBytes 8 val.toNat)
    else if s.root.ready then s.bar0Write off val else s
  | 2 => if off < 4 * 2 ^ 20 then s.launchWrite off (leBytes 8 val.toNat) else if s.root.ready then s.bar2Write off val else s
  | 4 => s.windowWrite off (leBytes 8 val.toNat)
  | _ => s

/-! Resets (R422, R424, R426). -/

/-- What the fuses, the host and the model's own counters keep over a cold reset. -/
def State.coldReset (s : State) : State :=
  { State.reset with
    fresh := s.fresh
    inbox := s.inbox
    host := { HostIf.reset with bus := s.host.bus, out := s.host.out, cfg := [] }
    root := { RootCtl.reset with
      counters := s.root.counters, revoked := s.root.revoked, dieMap := s.root.dieMap, spareUsed := s.root.spareUsed
      spareFailed := s.root.spareFailed, fail := if s.root.powered then 0 else 0xF0 }
    err := { ErrState.reset with repairs := s.err.repairs.filter fun e => e.2 } }

/-- A job ends without an event, one that had ended before too; its flag area is written. -/
def State.endQuiet (s : State) (n : Nat) : State :=
  ((s.endJob n .normal 0).modJob n fun j => { j with ended := some .normal, quiet := true }).flagArea n

/-- FUNCTION_LEVEL_RESET. -/
def State.functionReset (s : State) : State :=
  let s := (s.sched.jobs.map (·.1)).foldl State.endQuiet s
  { s with
    sched := { s.sched with queues := s.sched.queues.map fun q => (q.1, { q.2 with rec_ := q.2.rec_ &&& ~~~1 }) }
    host := { s.host with
      rings := s.host.rings.map fun r => (r.1, { r.2 with esize := r.2.esize &&& 0x7FFFFFFF, cons := 0, arm := false })
      pwin := [], winbase := 0 }
    root := { s.root with ready := false } }

/-! Power and temperature (R426, R427). -/

/-- THERMAL_HOLD: the hottest junction reads a temperature; at 110 °C or more a hold begins. -/
def State.thermalHold (s : State) (t : Nat) : State :=
  let s := s.modRoot fun r => { r with junction := t % 256 }
  if 110 ≤ t ∧ !s.root.thermalHold then (s.modRoot fun r => { r with thermalHold := true }).status 5 else s

/-- THERMAL_HOLD_END: below 100 °C dispatch resumes; a reading of 110 °C or more ends no hold but begins one. -/
def State.thermalEnd (s : State) (t : Nat) : State :=
  if 110 ≤ t then s.thermalHold t else
  let s := s.modRoot fun r => { r with junction := t % 256 }
  if t < 100 ∧ s.root.thermalHold then (s.modRoot fun r => { r with thermalHold := false }).status 6 else s

/-- POWER_HOLD: the average would exceed POWCAP. -/
def State.powerHold (s : State) (w : Nat) : State :=
  if s.powerCap < w ∧ !s.root.powerHold then (s.modRoot fun r => { r with powerHold := true }).status 5 else s

/-- POWER_HOLD_END. -/
def State.powerEnd (s : State) (w : Nat) : State :=
  if w ≤ s.powerCap ∧ s.root.powerHold then (s.modRoot fun r => { r with powerHold := false }).status 6 else s

/-- THERMAL_SHUTDOWN: at 120 °C power is removed from dies and stacks and the link goes down; no ring records it. -/
def State.thermalShutdown (s : State) : State :=
  if s.root.junction < 120 ∨ !s.root.powered then s
  else
    let r := s.coldReset
    { r with root := { r.root with powered := false, stage := 0, junction := s.root.junction } }

/-! Configuration requests (R400, R422). -/

/-- CONFIGURATION_REQUEST: retry status in stage 1; from stage 2 on the register answers, after the writes made to it (log 13). -/
def State.configRequest (s : State) (write : Bool) (reg : Nat) (val : BitVec 32) : State :=
  if !s.root.powered then s
  else if s.root.stage ≤ 1 then s.sendHost (.config none)
  else if write then { s with host := { s.host with cfg := s.host.cfg ++ [(reg, val)] } }.sendHost (.config (some 0))
  else s.sendHost (.config (some (Config.configRead s.host.cfg reg)))

/-! Attestation (R421). -/

/-- DOE is answered from stage 2 on (R422). -/
def State.doeOpen (s : State) : Bool := s.root.powered && decide (2 ≤ s.root.stage)

/-- A message of SPDM, by its code and what the model holds of its fields (log 33). -/
def spdmMessage (code : Nat) (fields : List Byte) : List Byte := leBytes 1 code ++ fields
/-- An exchange joins the transcript: the request and the answer. -/
def State.spdmNote (s : State) (req answer : List Byte) : State := s.modRoot fun r => { r with spdmLog := r.spdmLog ++ req ++ answer }
/-- An answer without a signature. -/
def State.spdm (s : State) (name : String) (code : Nat) (req body : List Byte) : State :=
  (s.spdmNote req (spdmMessage code body)).sendHost (.spdm name body [] [])
/-- A hybrid signature (R421): both over the hash of one transcript, the exchanges from GET_VERSION to this answer. -/
def State.spdmSigned (s : State) (name : String) (code : Nat) (req body : List Byte) : State :=
  let s := s.spdmNote req (spdmMessage code body)
  let th := leBytes 48 (Config.sha384 s.root.spdmLog).toNat
  s.sendHost (.spdm name body (Config.rsaSign th) (Config.slhSign th))

/-- A request that needs the earlier ones of its connection (log 33). -/
def State.spdmAfter (s : State) (ok : Bool) (f : State → State) : State :=
  if !s.doeOpen then s else if ok then f s else s.sendHost (.spdm "ERROR" [] [] [])

def State.getVersion (s : State) : State :=
  s.spdmAfter true fun s => (s.modRoot fun r => { r with spdmVersion := true, spdmAlgs := false, spdmLog := [] }).spdm "VERSION" 0x04
    (spdmMessage 0x84 []) [0x12, 0x13]

/-- What the responder can do (R421), in the standard's bit numbers (log 33): certificates, challenge, and signed measurements; no
session, no key exchange. -/
def spdmFlags : Nat := packBits [(1, 1, 1), (2, 1, 1), (3, 2, 2)]
def State.getCapabilities (s : State) : State :=
  s.spdmAfter s.root.spdmVersion fun s => s.spdm "CAPABILITIES" 0x61 (spdmMessage 0xE1 []) (leBytes 4 spdmFlags)

/-- SHA-384 and RSASSA-PSS 3072 are the only algorithms (R421), in the standard's bit numbers (log 33). -/
def hashSha384 : Nat := 1
def asymPss3072 : Nat := 3
def State.negotiate (s : State) (hash asym : BitVec 32) : State :=
  s.spdmAfter s.root.spdmVersion fun s =>
    let h := hash.getLsbD hashSha384; let a := asym.getLsbD asymPss3072
    (s.modRoot fun r => { r with spdmAlgs := h && a }).spdm "ALGORITHMS" 0x63 (spdmMessage 0xE3 (leBytes 4 hash.toNat ++ leBytes 4 asym.toNat))
      (leBytes 4 (if h then 2 ^ hashSha384 else 0) ++ leBytes 4 (if a then 2 ^ asymPss3072 else 0))

/-- The digest of the chain in slot 0. -/
def chainDigest : List Byte := leBytes 48 (Config.sha384 Config.certChain).toNat
def State.getDigests (s : State) : State := s.spdmAfter s.root.spdmAlgs fun s => s.spdm "DIGESTS" 0x01 (spdmMessage 0x81 []) chainDigest
def State.getCertificate (s : State) (slot off len : Nat) : State :=
  s.spdmAfter (s.root.spdmAlgs && slot == 0) fun s => s.spdm "CERTIFICATE" 0x02 (spdmMessage 0x82 (leBytes 2 off ++ leBytes 2 len)) ((Config.certChain.drop off).take len)
def State.challenge (s : State) (slot : Nat) (nonce : BitVec 256) : State :=
  s.spdmAfter (s.root.spdmAlgs && slot == 0) fun s => s.spdmSigned "CHALLENGE_AUTH" 0x03 (spdmMessage 0x83 (leBytes 1 slot ++ leBytes 32 nonce.toNat)) chainDigest

/-- The measurements of R421. -/
def State.measurement (s : State) (i : Nat) : List Byte :=
  if i = 1 then leBytes 48 Config.romDigest.toNat
  else if i ≤ 5 then leBytes 48 (match s.root.loaded.find? fun l => l.1 == i - 1 with | some l => l.2.1.toNat | none => 0)
  else
    ((List.range 4).map fun k => BitVec.ofNat 8 (s.root.counter (k + 1))) ++
      ((List.range 16).map fun k => (if s.root.revoked.contains (k / 4 + 1, k % 4) then (1 : Byte) else 0)) ++
      (s.root.dieMap.map fun d => BitVec.ofNat 8 d) ++ [Config.debugState]

/-- GET_MEASUREMENTS: index 0 asks for their number, 255 for all of them. -/
def State.getMeasurements (s : State) (index : Nat) (nonce : BitVec 256) : State :=
  s.spdmAfter (s.root.spdmAlgs && (decide (index ≤ 6) || index == 255)) fun s =>
    s.spdmSigned "MEASUREMENTS" 0x60 (spdmMessage 0xE0 (leBytes 1 index ++ leBytes 32 nonce.toNat)) (if index = 0 then [6]
      else if index = 255 then ((List.range 6).map fun i => s.measurement (i + 1)).flatten
      else s.measurement index)

end Sys2Proof.Machine
end

