-- ==== Sys2Proof/Machine/Events.lean ====
section
/-! DEFINITION. What happens next: the input that is due, the device's own events before and after the words of a cycle, the
next due word, and the turn of the cycle (log 3). -/
namespace Sys2Proof.Machine

/-! Inputs. -/

/-- The first entry of the inbox that is due, and the state without it. -/
def State.nextInput (s : State) : Option (Instr × State) :=
  (s.inbox.find? fun e => decide (e.1 ≤ s.tlc)).map fun e => (e.2, { s with inbox := s.inbox.erase e })

/-- The inbox holds the end of a request that its step's end cancels (R41), or an invalidation's, for later: the device does not choose
its moment itself. -/
def State.endAwaited (s : State) (id : Nat) : Bool := s.inbox.any fun e => match e.2 with
  | .untimedCompletion n _ => n == id
  | .depositCopyDone n => n == id
  | _ => false
def State.invAwaited (s : State) : Bool := s.inbox.any fun e => match e.2 with
  | .invalidationDone => true
  | _ => false

/-! The device's own events. -/

/-- The events that the device brings about by itself, each under the name of its row in the opcode table. -/
inductive Auto where
  | segmentRelease (g : Nat)
  | loopIterationStart (g rank : Nat) (strm : StreamId)
  | downbeat (g : Nat)
  | untimedCompletion (req : Nat) (cancelled : Bool)
  | dynamicWaitEnd (g rank : Nat)
  | waitBudgetExhausted (g rank : Nat)
  | stepOverrun (g : Nat)
  | stepCompletion (g : Nat)
  | abandonmentFinish (g : Nat)
  | stagingCheck (g : Nat)
  | trapRecord (g : Nat)
  | refreshAccrual (pch bank : Nat)
  | baseDieRefresh (pch bank : Nat)
  | abandonPrecharge (pch bank : Nat)
  | pooledSlot (pch : Nat)
  | flagAreaWrite (job : Nat)
  | affinityHoldExpiry (op : Nat)
  | waiterRelease (stepId : Nat)
  | dispatchSlot
  | hangTimeout
  | invalidationDone
  deriving DecidableEq, Repr

/-- What an own event does: what exec does for its row. -/
def Auto.apply (a : Auto) (s : State) : State :=
  match a with
  | .segmentRelease g => s.segmentRelease g
  | .loopIterationStart g rank strm => s.iteration g rank strm
  | .downbeat g => s.downbeat g
  | .untimedCompletion id c => s.finishReq id c
  | .dynamicWaitEnd g rank => s.waitEnd g rank
  | .waitBudgetExhausted g rank => s.budgetOut g rank
  | .stepOverrun g => s.stepOverrun g
  | .stepCompletion g => s.complete g
  | .abandonmentFinish g => s.abandonFinish g
  | .stagingCheck g => s.stagingCheck g
  | .trapRecord g => s.trapRecord g
  | .refreshAccrual n b => s.accrue n b
  | .baseDieRefresh n b => s.baseRefresh n b
  | .abandonPrecharge n b => s.abandonPre n b
  | .pooledSlot n => s.pooledSlot n
  | .flagAreaWrite n => s.flagAreaWrite n
  | .affinityHoldExpiry op => s.affinityExpiry op
  | .waiterRelease id => s.waiterRelease id
  | .dispatchSlot => s.dispatchSlot
  | .hangTimeout => s.hangTimeout
  | .invalidationDone => s.invalidationDone

/-! Before the words of a cycle: releases, iterations, downbeats. -/

/-- The streams of a gang that are at a loop boundary. -/
def Gang.boundary (g : Gang) (t : Nat) : Option (Nat × StreamId) := (g.streams.find? fun p => p.2.boundaryNow t).map fun p => (p.1, p.2.id)

def State.earlyIn (s : State) (gid : Nat) (g : Gang) : Option Auto :=
  if g.live && g.allCued && g.releaseAt == s.tlc then some (.segmentRelease gid)
  else if s.downbeatNow g then some (.downbeat gid)
  else if g.live then (g.boundary s.tlc).map fun p => .loopIterationStart gid p.1 p.2
  else none

def State.early (s : State) : Option Auto := s.gangs.findSome? fun p => s.earlyIn p.1 p.2

/-- The releases, downbeats and iterations of this cycle, all of them. -/
def State.earlyRun : Nat → State → State
  | 0, s => s
  | n + 1, s => match s.early with
    | none => s
    | some a => State.earlyRun n (a.apply s)

def State.earlyAll (s : State) : State := s.earlyRun (s.gangs.foldl (fun n p => n + p.2.streams.length + 2) 1)

/-- What happens on a cycle before its words issue. -/
def State.pre (s : State) : State := s.settle.earlyAll

/-- An entry of the inbox that ends a request on this cycle: one that is cancelled, or that has had its work. -/
def State.endsReq (s : State) (e : Nat × Instr) : Option (Nat × Bool) :=
  match e.2 with
  | .untimedCompletion n c => if e.1 ≤ s.tlc && (c || !((s.reqAt n).any fun p => p.2.2.unstarted)) then some (n, c) else none
  | _ => none

/-- The requests that may complete on this cycle, those that the inbox says come to their end on it before the others. -/
def State.endsNow (s : State) : List (Nat × Bool) :=
  s.inbox.filterMap s.endsReq ++
  (s.gangs.map fun p => if p.2.live then (p.2.reqs.filter fun r => r.mayComplete s.tlc).map fun r => (r.id, false) else []).flatten

/-- Untimed requests complete on the cycle after their last effect, before anything else of the cycle (R213, R214). -/
def State.requestsEnd (s : State) : State :=
  let l := s.endsNow
  let t : State := { s with inbox := s.inbox.filter fun e => (s.endsReq e).isNone }
  l.foldl (fun (s : State) q => s.finishReq q.1 q.2) t

/-! After the words of a cycle. -/

/-- Requests that an ending step cancels (R41). -/
def State.lateReq (s : State) (g : Gang) : Option Auto :=
  g.reqs.findSome? fun r =>
    if s.endAwaited r.id then none
    else match g.phase, g.fault with
      | .ending, some f => if f.f + 33 ≤ s.tlc then some (.untimedCompletion r.id true) else none
      | _, _ => none

/-- Dynamic waits that end, or whose budget is spent (R151). -/
def State.lateWait (s : State) (gid : Nat) (g : Gang) : Option Auto :=
  if !g.live then none
  else (List.range g.cores.length).findSome? fun rank =>
    match g.waitOf rank with
    | none => none
    | some (c, w, who) =>
      if s.waitHolds g c w who then some (.dynamicWaitEnd gid rank)
      else if c.budget == 0 then some (.waitBudgetExhausted gid rank)
      else none

/-- The stages of a gang's life that are due (R22, R26, R284, R336; log 24). -/
def State.latePhase (s : State) (gid : Nat) (g : Gang) : Option Auto :=
  if s.overruns g then some (.stepOverrun gid)
  else if s.completes g then some (.stepCompletion gid)
  else match g.phase with
    | .placed since => if s.stagingBy g since ≤ s.tlc then some (.stagingCheck gid) else none
    | .closed a => if a + 256 ≤ s.tlc && g.fault.isSome then some (.trapRecord gid) else none
    | _ => none

def State.lateGang (s : State) (gid : Nat) (g : Gang) : Option Auto :=
  match s.lateReq g with
  | some i => some i
  | none => match s.lateWait gid g with
    | some i => some i
    | none => s.latePhase gid g

/-- Accruals, refreshes, precharges and slots of a listed pseudo-channel (R270, R271, R273, R301). -/
def State.latePch (s : State) (n : Nat) (p : Pch) : Option Auto :=
  (List.range 16).findSome? (fun b =>
    if accrues b s.tlc && !s.ticked.contains (2, n * 16 + b) then some (.refreshAccrual n b)
    else if s.baseMayRefresh n b then some (.baseDieRefresh n b)
    else if s.mayAbandonPre n b then some (.abandonPrecharge n b)
    else none) |>.orElse fun _ =>
  if p.mode == .pooled && (p.pool.any fun q => q.start.isNone) && s.tlc % 6 == 0 && !s.ticked.contains (1, n) then some (.pooledSlot n) else none

/-- What the scheduler does of itself (R327, R331, R337, R338, R341). -/
def State.lateSched (s : State) : Option Auto :=
  match s.sched.jobs.find? fun j => j.2.ended.isSome && s.gangs.all fun g => g.2.step.job != j.1 with
  | some j => some (.flagAreaWrite j.1)
  | none =>
    match s.sched.kept.find? s.holdOver with
    | some k => some (.affinityHoldExpiry k.op)
    | none =>
      match s.sched.waiters.find? s.waiterMet with
      | some w => some (.waiterRelease w.step.id)
      | none =>
        if s.tlc % 16 == 0 && !s.ticked.contains (0, 0) && !s.root.thermalHold && !s.root.powerHold && (s.sched.queues.any fun q => !q.2.front.isEmpty) then
          some .dispatchSlot
        else if s.hangDue then some .hangTimeout
        else match s.host.invQueue with
          | e :: _ => if s.invalidationReady e && !s.invAwaited then some .invalidationDone else none
          | [] => none

/-- What the gangs do of themselves, and then the rest of the device. An abandonment finishes once the cycle's gongs have advanced, so that
it knows which count-downs stand (R41, R45). -/
def State.lateGangs (s : State) : Option Auto := s.gangs.findSome? fun p => s.lateGang p.1 p.2
def State.lateFinish (s : State) : Option Auto := s.gangs.findSome? fun p => if s.abandonDue p.2 then some (.abandonmentFinish p.1) else none
def State.lateEvent (s : State) : Option Auto :=
  match s.lateFinish with
  | some i => some i
  | none => match s.pchs.findSome? fun p => s.latePch p.1 p.2 with
    | some i => some i
    | none => s.lateSched

/-! The turn. -/

/-- The arrivals of this cycle's completions and its gongs' advances, and the heads judged by them (R238, R330). -/
def State.gongsDone (s : State) : State := s.settleGongs.relinkAll.evalHeads

/-- The records of the trap, error and hang rings that are due go to memory (R284, R341, R399; log 88). -/
def State.ringsOut (s : State) : State :=
  let r := s.ringOut s.sched.trapMem 128 (s.sched.trapRing.map (·.toNat))
  let s := { r.1 with sched := { r.1.sched with trapMem := r.2 } }
  let r := s.ringOut s.err.mem 64 (s.err.ring.map (·.toNat))
  let s := { r.1 with err := { r.1.err with mem := r.2 } }
  let r := s.ringOut s.sched.hangMem 64 (s.sched.hangRing.map (·.toNat))
  { r.1 with sched := { r.1.sched with hangMem := r.2 } }

/-- What the device does by itself as a cycle ends, beside its events: beats of decoded frames land (R350), leases that are over end (R273),
the second stage of a substitution (R395), what scrubs corrected is written back (R390), and the records that firmware reads go to memory. -/
def State.upkeep (s : State) : State := s.codecLand.leasesOver.dieAbort.writeBack.ringsOut.tableOut

/-- The cycle goes on: what ends with it, its reads, the landings of the next one, base dies that stop, and heads judged. -/
def State.nextCycle (s : State) : State := (s.upkeep.tick State.pre State.requestsEnd).settle.evalHeads

/-- What a step of the model does: an instruction or input runs, an own event takes place, or neither. -/
inductive Turn where
  | run (i : Instr) (s : State)
  | auto (a : Auto)
  | done (s : State)

/-- The word that issues next. -/
def State.wordTurn (s : State) (gid : Nat) (g : Gang) (rank : Nat) (st : Stream) : Turn :=
  let s := { s with cursor := ⟨gid, rank, st.id⟩ }
  match s.fetchInstr g rank st with
  | (rs, .ok i) => .run i (s.fetched g rs)
  | (rs, .error tr) => .done ((s.fetched g rs).raise gid s.tlc (some ⟨rank, st.id, st.pc, s.tlc⟩) tr)

/-- The next thing that happens. -/
def State.turn (s : State) : Turn :=
  match s.nextInput with
  | some (i, t) => .run i t
  | none => match s.early with
    | some a => .auto a
    | none => match s.dueWord with
      | some (gid, g, rank, st) => s.wordTurn gid g rank st
      | none => match s.lateGangs with
        | some a => .auto a
        | none => if !s.gongQ.isEmpty then .done s.gongsDone
          else match s.lateEvent with
            | some a => .auto a
            | none => .done s.nextCycle

/-! A place to fetch from (log 5). -/

/-- A TOB of one core whose carve-out is all of its memory. -/
def Tob.blank : Tob :=
  { kind := 0, flags := 0, steplen := 2 ^ 21, prog := 0, plen := 8, pcrc := 0, loops := List.replicate 6 (0, 0), grows := 1, gcols := 1
    chkm := 0, wbud := 0, cbase := 0, csize := 32, resr := List.replicate 4 (0, 0), leases := List.replicate 16 0
    waitg := List.replicate 4 0, arrg := 0, wadv := [0, 0, 0, 0], bnode := 0, bopt := 0, args := [] }

/-- A running step of one core of die 0 whose stream `id` issues its next word, at word 6 of the program, now. -/
def fetchGang (gid : Nat) (id : StreamId) (t idle : Nat) : Gang :=
  let st := Stream.start id 6 (t - idle)
  let q : QStep := { id := 0, job := 0, tobIdx := 0, n := 0, attempt := 1, errs := 0, mc := none }
  let own := match id with | .d _ => false | _ => true
  let c := Core.start 0 0 [0, 0, 0, 0, 0, 0] 0 [] (Vector.replicate 128 0) 0 0 (if own then [st] else [])
  let g := Gang.shell 0 q ⟨0, Tob.blank, 1, 0, false, 0, false⟩ 0 false [0] t
  { g with id := gid, phase := .running, dbt := t - idle, segStart := t - idle, cores := [c]
           mems := if own then [] else [{ MStream.bound 0 0 1 [0] with entry := 6, len := 2, strm := st }] }

/-- The device with one step whose next words are the 16 bytes of `w`, in the first stream where their opcode is valid. -/
def State.placeWord (s : State) (w : Nat) : State :=
  let op := fld w 46 8; let idle := fld w 54 10
  let id := firstStream op
  let t := if s.tlc < idle then idle else s.tlc
  let gid := s.sched.nextId
  let s := { s with tlc := t, inbox := [], gangs := [(gid, fetchGang gid id t idle)], sched := { s.sched with nextId := gid + 1 } }
  match id with
  | .d _ => (s.store (seqKey 0 0) (leBytes 16 w)).modPch 0 fun p => { p with mode := .timed, lease := some gid, quiet := true }
  | _ =>
    let i := s.info 0
    (s.store (imKey 0 i.active 48) (leBytes 16 w)).setInfo 0 { i with len := 8 }

end Sys2Proof.Machine
end

