-- ==== Sys2Proof/Machine/ExecControl.lean ====
section
/-! DEFINITION. Branches, loops, waits and segment boundaries (R147 to R155). One meaning for each: its plan, issued. -/
namespace Sys2Proof.Machine

/-- BR (0x26), R147. -/
def execBr (cond : BitVec 3) (a : Opnd) (off : BitVec 24) (s : State) : Host.Outcome State Fault Refusal :=
  issue (.br cond a off) (planBr cond a off) s
/-- CALL (0x27), R148. -/
def execCall (a : Opnd) (off : BitVec 24) (s : State) : Host.Outcome State Fault Refusal :=
  issue (.call a off) (planCall a off) s
/-- RET (0x28), R148. -/
def execRet (a : Opnd) (s : State) : Host.Outcome State Fault Refusal :=
  issue (.ret a) (planRet a) s
/-- BRX (0x29), R148. -/
def execBrx (a : Opnd) (off : BitVec 24) (s : State) : Host.Outcome State Fault Refusal :=
  issue (.brx a off) (planBrx a off) s
/-- LOOP (0x2A), R153. -/
def execLoop (lvl : BitVec 2) (per : BitVec 20) (s : State) : Host.Outcome State Fault Refusal :=
  issue (.loop lvl per) (planLoop lvl per) s
/-- ENDL (0x2B), R153. -/
def execEndl (lvl : BitVec 2) (s : State) : Host.Outcome State Fault Refusal :=
  issue (.endl lvl) (planEndl lvl) s
/-- CUE (0x2C), R150. -/
def execCue (a : Opnd) (off : BitVec 8) (s : State) : Host.Outcome State Fault Refusal :=
  issue (.cue a off) (planCue a off) s
/-- HOLD (0x2D), R149. -/
def execHold (s : State) : Host.Outcome State Fault Refusal :=
  issue .hold planHold s
/-- WAIT (0x2E), R94. -/
def execWait (n : BitVec 32) (s : State) : Host.Outcome State Fault Refusal :=
  issue (.wait n) (planWait n) s
/-- AWAIT (0x2F), R152. -/
def execAwait (mask : BitVec 16) (s : State) : Host.Outcome State Fault Refusal :=
  issue (.await mask) (planAwait mask) s
/-- ENDSTEP (0x30), R155. -/
def execEndstep (s : State) : Host.Outcome State Fault Refusal :=
  issue .endstep planEndstep s

end Sys2Proof.Machine
end

