-- ==== Sys2Proof/Machine/ExecEvents.lean ====
section
/-! DEFINITION. The device steps that are no instruction words: one meaning for each row of the table. An event that is
impossible where it is put changes nothing (R12; log 3). -/
namespace Sys2Proof.Machine

/-- STEP_OVERRUN, R22. -/
def execStepOverrun (g : Nat) (s : State) : Host.Outcome State Fault Refusal :=
  .next (s.stepOverrun g)
/-- ABANDONMENT_FINISH, R41. -/
def execAbandonmentFinish (g : Nat) (s : State) : Host.Outcome State Fault Refusal :=
  .next (s.abandonFinish g)
/-- TRAP_RECORD, R284. -/
def execTrapRecord (g : Nat) (s : State) : Host.Outcome State Fault Refusal :=
  .next (s.trapRecord g)
/-- STEP_COMPLETION, R26. -/
def execStepCompletion (g : Nat) (s : State) : Host.Outcome State Fault Refusal :=
  .next (s.complete g)
/-- FLAG_AREA_WRITE, R327. -/
def execFlagAreaWrite (job : Nat) (s : State) : Host.Outcome State Fault Refusal :=
  .next (s.flagAreaWrite job)
/-- SEGMENT_RELEASE, R96. -/
def execSegmentRelease (g : Nat) (s : State) : Host.Outcome State Fault Refusal :=
  .next (s.segmentRelease g)
/-- LOOP_ITERATION_START, R97. -/
def execLoopIterationStart (g rank : Nat) (strm : StreamId) (s : State) : Host.Outcome State Fault Refusal :=
  .next (s.iteration g rank strm)
/-- DYNAMIC_WAIT_END, R151. -/
def execDynamicWaitEnd (g rank : Nat) (s : State) : Host.Outcome State Fault Refusal :=
  .next (s.waitEnd g rank)
/-- WAIT_BUDGET_EXHAUSTED, R151. -/
def execWaitBudgetExhausted (g rank : Nat) (s : State) : Host.Outcome State Fault Refusal :=
  .next (s.budgetOut g rank)
/-- UNTIMED_BEAT_LANDING, R215. -/
def execUntimedBeatLanding (req move : Nat) (s : State) : Host.Outcome State Fault Refusal :=
  .next (s.beatLanding req move)
/-- UNTIMED_COMPLETION, R213. -/
def execUntimedCompletion (req : Nat) (cancelled : Bool) (s : State) : Host.Outcome State Fault Refusal :=
  .next (s.finishReq req cancelled)
/-- TRACE_FORWARD, R281. -/
def execTraceForward (core : Nat) (s : State) : Host.Outcome State Fault Refusal :=
  .next (s.traceForward core)
/-- REFRESH_ACCRUAL, R270. -/
def execRefreshAccrual (pch bank : Nat) (s : State) : Host.Outcome State Fault Refusal :=
  .next (s.accrue pch bank)
/-- BASE_DIE_REFRESH, R271. -/
def execBaseDieRefresh (pch bank : Nat) (s : State) : Host.Outcome State Fault Refusal :=
  .next (s.baseRefresh pch bank)
/-- ABANDON_PRECHARGE, R273. -/
def execAbandonPrecharge (pch bank : Nat) (s : State) : Host.Outcome State Fault Refusal :=
  .next (s.abandonPre pch bank)
/-- POOLED_SLOT, R301. -/
def execPooledSlot (pch : Nat) (s : State) : Host.Outcome State Fault Refusal :=
  .next (s.pooledSlot pch)
/-- SCRUB, R390. -/
def execScrub (key : Nat) (s : State) : Host.Outcome State Fault Refusal :=
  .next (s.scrub key)
/-- DISPATCH_SLOT, R331. -/
def execDispatchSlot (s : State) : Host.Outcome State Fault Refusal :=
  .next (s.dispatchSlot)
/-- STAGING_CHECK, R335. -/
def execStagingCheck (g : Nat) (s : State) : Host.Outcome State Fault Refusal :=
  .next (s.stagingCheck g)
/-- DOWNBEAT, R335. -/
def execDownbeat (g : Nat) (s : State) : Host.Outcome State Fault Refusal :=
  .next (s.downbeat g)
/-- WAITER_RELEASE, R338. -/
def execWaiterRelease (stepId : Nat) (s : State) : Host.Outcome State Fault Refusal :=
  .next (s.waiterRelease stepId)
/-- FUTURE_RESOLVED, R306. -/
def execFutureResolved (root va : Nat) (entry : BitVec 64) (s : State) : Host.Outcome State Fault Refusal :=
  .next (s.futureResolved root va entry)
/-- REGION_RESIDENT, R338. -/
def execRegionResident (job lreg pch : Nat) (rows : List Nat) (s : State) : Host.Outcome State Fault Refusal :=
  .next (s.regionResident job lreg pch rows)
/-- PREEMPTION, R337. -/
def execPreemption (op : Nat) (s : State) : Host.Outcome State Fault Refusal :=
  .next (s.preemption op)
/-- AFFINITY_HOLD_EXPIRY, R337. -/
def execAffinityHoldExpiry (op : Nat) (s : State) : Host.Outcome State Fault Refusal :=
  .next (s.affinityExpiry op)
/-- HANG_TIMEOUT, R341. -/
def execHangTimeout (s : State) : Host.Outcome State Fault Refusal :=
  .next (s.hangTimeout)
/-- QUEUE_RECORD_WRITE, R328. -/
def execQueueRecordWrite (q : Nat) (rec : BitVec 128) (s : State) : Host.Outcome State Fault Refusal :=
  .next (s.queueWrite q rec)
/-- VERSION_REGISTER, R324. -/
def execVersionRegister (rec : BitVec 512) (s : State) : Host.Outcome State Fault Refusal :=
  .next (s.versionWrite rec)
/-- PCH_MODE_CHANGE, R300. -/
def execPchModeChange (pch : Nat) (mode : PchMode) (s : State) : Host.Outcome State Fault Refusal :=
  .next (s.pchModeChange pch mode)
/-- LAUNCH_PACKET, R405. -/
def execLaunchPacket (off : Nat) (bytes : List Byte) (s : State) : Host.Outcome State Fault Refusal :=
  .next (s.launchWrite off bytes)
/-- FRAME_PACKET, R407: a write to the queue's launch port (R404). -/
def execFramePacket (q : Nat) (bytes : List Byte) (s : State) : Host.Outcome State Fault Refusal :=
  .next (s.launchWrite (4096 * q) bytes)
/-- ACCESS_UNIT_CONSUMED, R408. -/
def execAccessUnitConsumed (stream : Nat) (s : State) : Host.Outcome State Fault Refusal :=
  .next (s.unitConsumed stream)
/-- FRAME_OUTPUT, R345. -/
def execFrameOutput (stream pic : Nat) (s : State) : Host.Outcome State Fault Refusal :=
  .next (s.frameOutput stream pic)
/-- FRAME_GONG_ARRIVAL, R350. -/
def execFrameGongArrival (stream : Nat) (s : State) : Host.Outcome State Fault Refusal :=
  .next (s.frameGong stream)
/-- STREAM_OPEN, R346. -/
def execStreamOpen (stream engine codec q rate : Nat) (gong : BitVec 64) (s : State) : Host.Outcome State Fault Refusal :=
  .next (s.streamOpen stream engine codec q rate gong)
/-- LAYER_TABLE_LOAD, R351. -/
def execLayerTableLoad (req : Nat) (s : State) : Host.Outcome State Fault Refusal :=
  .next (s.layerTable req)
/-- FRAME_SCORING, R356. -/
def execFrameScoring (req : Nat) (s : State) : Host.Outcome State Fault Refusal :=
  .next (s.frameScore req)
/-- BELFRY_DEPOSIT, R373. -/
def execBelfryDeposit (req : Nat) (s : State) : Host.Outcome State Fault Refusal :=
  .next (s.belDeposit req)
/-- DEPOSIT_COPY_DONE, R374. -/
def execDepositCopyDone (req : Nat) (s : State) : Host.Outcome State Fault Refusal :=
  .next (s.depositDone req)
/-- BELFRY_LOOKUP, R375. -/
def execBelfryLookup (req : Nat) (s : State) : Host.Outcome State Fault Refusal :=
  .next (s.belLookup req)
/-- BELFRY_RESUMPTION, R376. -/
def execBelfryResumption (req : Nat) (s : State) : Host.Outcome State Fault Refusal :=
  .next (s.belResume req)
/-- BELFRY_PIN, R377. -/
def execBelfryPin (req : Nat) (s : State) : Host.Outcome State Fault Refusal :=
  .next (s.belPin req)
/-- ROW_REPAIR, R394. -/
def execRowRepair (pch bank row : Nat) (hard : Bool) (s : State) : Host.Outcome State Fault Refusal :=
  .next (s.rowRepair pch bank row hard)
/-- DIE_SUBSTITUTION, R395. -/
def execDieSubstitution (die : Nat) (s : State) : Host.Outcome State Fault Refusal :=
  .next (s.dieSubstitution die)
/-- SUBSTITUTION_END, R395. -/
def execSubstitutionEnd (die : Nat) (s : State) : Host.Outcome State Fault Refusal :=
  .next (s.substitutionEnd die)
/-- DIE_ABSENT, R396. -/
def execDieAbsent (die : Nat) (s : State) : Host.Outcome State Fault Refusal :=
  .next (s.dieAbsent die)
/-- HOST_WINDOW_WRITE, R314. -/
def execHostWindowWrite (off : Nat) (bytes : List Byte) (s : State) : Host.Outcome State Fault Refusal :=
  .next (s.windowWrite off bytes)
/-- HOST_WINDOW_READ, R401. -/
def execHostWindowRead (off len : Nat) (s : State) : Host.Outcome State Fault Refusal :=
  .next (s.windowRead off len)
/-- INVGO, R415. -/
def execInvgo (val : BitVec 64) (s : State) : Host.Outcome State Fault Refusal :=
  .next (s.invgo val)
/-- INVALIDATION_DONE, R415. -/
def execInvalidationDone (s : State) : Host.Outcome State Fault Refusal :=
  .next (s.invalidationDone)
/-- ECONS, R413. -/
def execEcons (ring : Nat) (val : BitVec 64) (s : State) : Host.Outcome State Fault Refusal :=
  .next (s.econs ring val)
/-- RCTL_GO, R423. -/
def execRctlGo (val : BitVec 64) (s : State) : Host.Outcome State Fault Refusal :=
  .next (s.rctl val)
/-- REGISTER_WRITE, R402. -/
def execRegisterWrite (bar off : Nat) (val : BitVec 64) (s : State) : Host.Outcome State Fault Refusal :=
  .next (s.registerWrite bar off val)
/-- GET_VERSION, R421. -/
def execGetVersion (s : State) : Host.Outcome State Fault Refusal :=
  .next (s.getVersion)
/-- GET_CAPABILITIES, R421. -/
def execGetCapabilities (s : State) : Host.Outcome State Fault Refusal :=
  .next (s.getCapabilities)
/-- NEGOTIATE_ALGORITHMS, R421. -/
def execNegotiateAlgorithms (hash asym : BitVec 32) (s : State) : Host.Outcome State Fault Refusal :=
  .next (s.negotiate hash asym)
/-- GET_DIGESTS, R421. -/
def execGetDigests (s : State) : Host.Outcome State Fault Refusal :=
  .next (s.getDigests)
/-- GET_CERTIFICATE, R421. -/
def execGetCertificate (slot off len : Nat) (s : State) : Host.Outcome State Fault Refusal :=
  .next (s.getCertificate slot off len)
/-- CHALLENGE, R421. -/
def execChallenge (slot : Nat) (nonce : BitVec 256) (s : State) : Host.Outcome State Fault Refusal :=
  .next (s.challenge slot nonce)
/-- GET_MEASUREMENTS, R421. -/
def execGetMeasurements (index : Nat) (nonce : BitVec 256) (s : State) : Host.Outcome State Fault Refusal :=
  .next (s.getMeasurements index nonce)
/-- CONFIGURATION_REQUEST, R422. -/
def execConfigurationRequest (write : Bool) (reg : Nat) (val : BitVec 32) (s : State) : Host.Outcome State Fault Refusal :=
  .next (s.configRequest write reg val)
/-- COLD_RESET, R422. -/
def execColdReset (s : State) : Host.Outcome State Fault Refusal :=
  .next (s.coldReset)
/-- BOOT_STAGE, R422. -/
def execBootStage (imgs : List Image) (s : State) : Host.Outcome State Fault Refusal :=
  .next (s.bootStage imgs)
/-- FUNCTION_LEVEL_RESET, R424. -/
def execFunctionLevelReset (s : State) : Host.Outcome State Fault Refusal :=
  .next (s.functionReset)
/-- THERMAL_HOLD, R426. -/
def execThermalHold (tempC : Nat) (s : State) : Host.Outcome State Fault Refusal :=
  .next (s.thermalHold tempC)
/-- THERMAL_HOLD_END, R426. -/
def execThermalHoldEnd (tempC : Nat) (s : State) : Host.Outcome State Fault Refusal :=
  .next (s.thermalEnd tempC)
/-- POWER_HOLD, R426. -/
def execPowerHold (watts : Nat) (s : State) : Host.Outcome State Fault Refusal :=
  .next (s.powerHold watts)
/-- POWER_HOLD_END, R426. -/
def execPowerHoldEnd (watts : Nat) (s : State) : Host.Outcome State Fault Refusal :=
  .next (s.powerEnd watts)
/-- THERMAL_SHUTDOWN, R426. -/
def execThermalShutdown (s : State) : Host.Outcome State Fault Refusal :=
  .next (s.thermalShutdown)
/-- JOB_ABORT, R326. -/
def execJobAbort (job : Nat) (s : State) : Host.Outcome State Fault Refusal :=
  .next (s.jobAbort job)
/-- LINE_REMAP, R393. -/
def execLineRemap (unit : Nat) (s : State) : Host.Outcome State Fault Refusal :=
  .next (s.lineRemap unit)

end Sys2Proof.Machine
end

