-- ==== Sys2Proof/Machine/ExecMatrix.lean ====
section
/-! DEFINITION. The matrix instructions (R179 to R200). One meaning for each: its plan, issued. -/
namespace Sys2Proof.Machine

/-- FEEDA (0x80), R185. -/
def execFeeda (cont mc : Bool) (e : BitVec 7) (cw kn : Opnd) (s : State) : Host.Outcome State Fault Refusal :=
  issue (.feeda cont mc e cw kn) (planFeed false cont mc e cw kn) s
/-- FEEDB (0x81), R185. -/
def execFeedb (cont mc : Bool) (e : BitVec 7) (cw kn : Opnd) (s : State) : Host.Outcome State Fault Refusal :=
  issue (.feedb cont mc e cw kn) (planFeed true cont mc e cw kn) s
/-- FEEDAX (0x82), R187. -/
def execFeedax (mc : Bool) (e : BitVec 7) (cw kn : Opnd) (s : State) : Host.Outcome State Fault Refusal :=
  issue (.feedax mc e cw kn) (planFeedx false mc e cw kn) s
/-- FEEDBX (0x83), R187. -/
def execFeedbx (mc : Bool) (e : BitVec 7) (cw kn : Opnd) (s : State) : Host.Outcome State Fault Refusal :=
  issue (.feedbx mc e cw kn) (planFeedx true mc e cw kn) s
/-- WINA (0x84), R195. -/
def execWina (e : BitVec 7) (cw kn : Opnd) (s : State) : Host.Outcome State Fault Refusal :=
  issue (.wina e cw kn) (planWin false e cw kn) s
/-- WINB (0x85), R195. -/
def execWinb (e : BitVec 7) (cw kn : Opnd) (s : State) : Host.Outcome State Fault Refusal :=
  issue (.winb e cw kn) (planWin true e cw kn) s
/-- CROPA (0x86), R198. -/
def execCropa (e : BitVec 7) (cw : Opnd) (s : State) : Host.Outcome State Fault Refusal :=
  issue (.cropa e cw) (planCropa e cw) s
/-- QCLR (0x87), R189. -/
def execQclr (qb rcu : Bool) (e : BitVec 7) (kn : Opnd) (s : State) : Host.Outcome State Fault Refusal :=
  issue (.qclr qb rcu e kn) (planQclr qb rcu e kn) s
/-- MMA (0x88), R190. -/
def execMma (p : BitVec 6) (cw kn : Opnd) (s : State) : Host.Outcome State Fault Refusal :=
  issue (.mma p cw kn) (planMma false false p cw kn) s
/-- MMAC (0x89), R190. -/
def execMmac (p : BitVec 6) (cw kn : Opnd) (s : State) : Host.Outcome State Fault Refusal :=
  issue (.mmac p cw kn) (planMma false true p cw kn) s
/-- ACLR (0x8A), R191. -/
def execAclr (e : BitVec 7) (kn : Opnd) (s : State) : Host.Outcome State Fault Refusal :=
  issue (.aclr e kn) (planAclr e kn) s
/-- ALD (0x8B), R191. -/
def execAld (e : BitVec 7) (cw kn : Opnd) (s : State) : Host.Outcome State Fault Refusal :=
  issue (.ald e cw kn) (planAld e cw kn) s
/-- ASAV (0x8C), R191. -/
def execAsav (e : BitVec 7) (cw kn : Opnd) (s : State) : Host.Outcome State Fault Refusal :=
  issue (.asav e cw kn) (planAsav e cw kn) s
/-- DRN (0x8D), R193. -/
def execDrn (e : BitVec 7) (cw kn : Opnd) (s : State) : Host.Outcome State Fault Refusal :=
  issue (.drn e cw kn) (planDrain .drn e cw kn) s
/-- DRNA (0x8E), R193. -/
def execDrna (e : BitVec 7) (cw kn : Opnd) (s : State) : Host.Outcome State Fault Refusal :=
  issue (.drna e cw kn) (planDrain .drna e cw kn) s
/-- DRNF (0x8F), R193. -/
def execDrnf (e : BitVec 7) (cw kn : Opnd) (s : State) : Host.Outcome State Fault Refusal :=
  issue (.drnf e cw kn) (planDrain .drnf e cw kn) s
/-- WCFG (0x90), R194. -/
def execWcfg (cw kn : Opnd) (s : State) : Host.Outcome State Fault Refusal :=
  issue (.wcfg cw kn) (planWcfg cw kn) s
/-- WPADV (0x91), R194. -/
def execWpadv (cw : Opnd) (s : State) : Host.Outcome State Fault Refusal :=
  issue (.wpadv cw) (planWpadv cw) s
/-- BOXCFG (0x92), R197. -/
def execBoxcfg (cw kn : Opnd) (s : State) : Host.Outcome State Fault Refusal :=
  issue (.boxcfg cw kn) (planBoxcfg cw kn) s
/-- POOLMX (0x93), R196. -/
def execPoolmx (init fin : Bool) (e : BitVec 7) (cw kn : Opnd) (s : State) : Host.Outcome State Fault Refusal :=
  issue (.poolmx init fin e cw kn) (planPool true init fin e cw kn) s
/-- POOLAV (0x94), R196. -/
def execPoolav (init fin : Bool) (e : BitVec 7) (cw kn : Opnd) (s : State) : Host.Outcome State Fault Refusal :=
  issue (.poolav init fin e cw kn) (planPool false init fin e cw kn) s
/-- ASCL (0x95), R191. -/
def execAscl (rnd : BitVec 2) (e : BitVec 7) (cw kn : Opnd) (s : State) : Host.Outcome State Fault Refusal :=
  issue (.ascl rnd e cw kn) (planAscl rnd e cw kn) s
/-- ABIAS (0x96), R191. -/
def execAbias (rnd : BitVec 2) (e : BitVec 7) (cw kn : Opnd) (s : State) : Host.Outcome State Fault Refusal :=
  issue (.abias rnd e cw kn) (planAbias rnd e cw kn) s
/-- ACLMP (0x97), R191. -/
def execAclmp (e : BitVec 7) (cw kn : Opnd) (s : State) : Host.Outcome State Fault Refusal :=
  issue (.aclmp e cw kn) (planAclmp e cw kn) s
/-- ARDV (0x98), R191. -/
def execArdv (e : BitVec 7) (cw kn : Opnd) (s : State) : Host.Outcome State Fault Refusal :=
  issue (.ardv e cw kn) (planArdv e cw kn) s
/-- AWRV (0x99), R191. -/
def execAwrv (e : BitVec 7) (cw kn : Opnd) (s : State) : Host.Outcome State Fault Refusal :=
  issue (.awrv e cw kn) (planAwrv e cw kn) s
/-- DRNR (0x9A), R193. -/
def execDrnr (e : BitVec 7) (cw kn : Opnd) (s : State) : Host.Outcome State Fault Refusal :=
  issue (.drnr e cw kn) (planDrain .drnr e cw kn) s
/-- MMAZ (0x9B), R190. -/
def execMmaz (p : BitVec 6) (cw kn : Opnd) (s : State) : Host.Outcome State Fault Refusal :=
  issue (.mmaz p cw kn) (planMma true false p cw kn) s
/-- FEEDD (0x9C), R188. -/
def execFeedd (qb : Bool) (e : BitVec 7) (cw kn : Opnd) (s : State) : Host.Outcome State Fault Refusal :=
  issue (.feedd qb e cw kn) (planFeedd qb e cw kn) s
/-- MCFG (0x9D), R192. -/
def execMcfg (cw : Opnd) (s : State) : Host.Outcome State Fault Refusal :=
  issue (.mcfg cw) (planMcfg cw) s
/-- MSTAT (0x9E), R199. -/
def execMstat (kn : Opnd) (s : State) : Host.Outcome State Fault Refusal :=
  issue (.mstat kn) (planMstat kn) s
/-- QSTAT (0x9F), R189. -/
def execQstat (kn : Opnd) (s : State) : Host.Outcome State Fault Refusal :=
  issue (.qstat kn) (planQstat kn) s

end Sys2Proof.Machine
end

