-- ==== Sys2Proof/Machine/ExecMemory.lean ====
section
/-! DEFINITION. The memory-stream instructions (R254 to R275). One meaning for each: its plan, issued. -/
namespace Sys2Proof.Machine

/-- ACT (0xC8), R262. -/
def execAct (bank : BitVec 4) (row : BitVec 16) (s : State) : Host.Outcome State Fault Refusal :=
  issue (.act bank row) (planAct bank row) s
/-- RD (0xC9), R263. -/
def execRd (bank : BitVec 4) (col : BitVec 5) (beat : BitVec 13) (s : State) : Host.Outcome State Fault Refusal :=
  issue (.rd bank col beat) (planRd false bank col beat) s
/-- WR (0xCA), R263. -/
def execWr (bank : BitVec 4) (col : BitVec 5) (beat : BitVec 13) (s : State) : Host.Outcome State Fault Refusal :=
  issue (.wr bank col beat) (planWr bank col beat) s
/-- PRE (0xCB), R265. -/
def execPre (bank : BitVec 4) (s : State) : Host.Outcome State Fault Refusal :=
  issue (.pre bank) (planPre bank) s
/-- PREA (0xCC), R265. -/
def execPrea (s : State) : Host.Outcome State Fault Refusal :=
  issue .prea planPrea s
/-- REFPB (0xCD), R266. -/
def execRefpb (bank : BitVec 4) (s : State) : Host.Outcome State Fault Refusal :=
  issue (.refpb bank) (planRefpb bank) s
/-- RDA (0xCE), R263. -/
def execRda (bank : BitVec 4) (col : BitVec 5) (beat : BitVec 13) (s : State) : Host.Outcome State Fault Refusal :=
  issue (.rda bank col beat) (planRd true bank col beat) s
/-- WRA (0xCF), R263. -/
def execWra (bank : BitVec 4) (col : BitVec 5) (beat : BitVec 13) (s : State) : Host.Outcome State Fault Refusal :=
  issue (.wra bank col beat) (planWra bank col beat) s
/-- RING_SET (0xD0), R267. -/
def execRingSet (base : BitVec 16) (lines : BitVec 13) (rank : BitVec 6) (s : State) : Host.Outcome State Fault Refusal :=
  issue (.ringSet base lines rank) (planRingSet base lines rank) s
/-- RING_SEEK (0xD1), R267. -/
def execRingSeek (rows : BitVec 16) (beat : BitVec 13) (s : State) : Host.Outcome State Fault Refusal :=
  issue (.ringSeek rows beat) (planRingSeek rows beat) s
/-- RING_ADV (0xD2), R267. -/
def execRingAdv (rows : BitVec 16) (beat : BitVec 13) (s : State) : Host.Outcome State Fault Refusal :=
  issue (.ringAdv rows beat) (planRingAdv rows beat) s
/-- RING_GONG (0xD3), R268. -/
def execRingGong (beat : BitVec 13) (s : State) : Host.Outcome State Fault Refusal :=
  issue (.ringGong beat) (planRingGong beat) s
/-- WRM (0xD4), R263. -/
def execWrm (bank : BitVec 4) (col : BitVec 5) (beat : BitVec 13) (mask : BitVec 8) (s : State) : Host.Outcome State Fault Refusal :=
  issue (.wrm bank col beat mask) (planWrm bank col beat mask) s
/-- RDZ (0xD5), R263. -/
def execRdz (bank : BitVec 4) (col : BitVec 5) (s : State) : Host.Outcome State Fault Refusal :=
  issue (.rdz bank col) (planRdz bank col) s
/-- WRZ (0xD6), R263. -/
def execWrz (bank : BitVec 4) (col : BitVec 5) (s : State) : Host.Outcome State Fault Refusal :=
  issue (.wrz bank col) (planWrz bank col) s
/-- DMARK (0xD7), R269. -/
def execDmark (beat : BitVec 13) (code : BitVec 8) (s : State) : Host.Outcome State Fault Refusal :=
  issue (.dmark beat code) (planDmark beat code) s

end Sys2Proof.Machine
end

