-- ==== Sys2Proof/Machine/ExecMove.lean ====
section
/-! DEFINITION. Copies, gathers and transforms (R201 to R229). One meaning for each: its plan, issued. -/
namespace Sys2Proof.Machine

/-- COPY (0xA0), R207. -/
def execCopy (f : FcArgs) (s : State) : Host.Outcome State Fault Refusal :=
  issue (.copy f) (planCopy f) s
/-- COPYA (0xA1), R212. -/
def execCopya (f : FcArgs) (s : State) : Host.Outcome State Fault Refusal :=
  issue (.copya f) (planCopya f) s
/-- SEQCFG (0xA2), R210. -/
def execSeqcfg (slot : BitVec 3) (off : BitVec 15) (a : Opnd) (s : State) : Host.Outcome State Fault Refusal :=
  issue (.seqcfg slot off a) (planSeqcfg slot off a) s
/-- MCOPY (0xA3), R224. -/
def execMcopy (f : FcArgs) (s : State) : Host.Outcome State Fault Refusal :=
  issue (.mcopy f) (planMcopy f) s
/-- TLFETCH (0xA4), R225. -/
def execTlfetch (f : FcArgs) (s : State) : Host.Outcome State Fault Refusal :=
  issue (.tlfetch f) (planTlfetch f) s
/-- UCOPY (0xA5), R216. -/
def execUcopy (f : FcArgs) (s : State) : Host.Outcome State Fault Refusal :=
  issue (.ucopy f) (planUcopy f) s
/-- GATH (0xA6), R218. -/
def execGath (f : FcArgs) (s : State) : Host.Outcome State Fault Refusal :=
  issue (.gath f) (planGath f) s
/-- GATHS (0xA7), R221. -/
def execGaths (f : FcArgs) (s : State) : Host.Outcome State Fault Refusal :=
  issue (.gaths f) (planGaths f) s
/-- SCAT (0xA8), R222. -/
def execScat (f : FcArgs) (s : State) : Host.Outcome State Fault Refusal :=
  issue (.scat f) (planScat f) s
/-- SCATW (0xA9), R223. -/
def execScatw (f : FcArgs) (s : State) : Host.Outcome State Fault Refusal :=
  issue (.scatw f) (planScatw f) s
/-- PIN (0xAA), R220. -/
def execPin (d a : Opnd) (beats : BitVec 12) (s : State) : Host.Outcome State Fault Refusal :=
  issue (.pin d a beats) (planPin d a beats) s
/-- UNPIN (0xAB), R220. -/
def execUnpin (d a : Opnd) (s : State) : Host.Outcome State Fault Refusal :=
  issue (.unpin d a) (planUnpin d a) s
/-- XFORM (0xAC), R226. -/
def execXform (f : FcArgs) (s : State) : Host.Outcome State Fault Refusal :=
  issue (.xform f) (planXform f) s
/-- XFORMV (0xAD), R228. -/
def execXformv (f : FcArgs) (s : State) : Host.Outcome State Fault Refusal :=
  issue (.xformv f) (planXformv f) s
/-- UFILL (0xAE), R216. -/
def execUfill (f : FcArgs) (s : State) : Host.Outcome State Fault Refusal :=
  issue (.ufill f) (planUfill f) s
/-- XSTAT (0xAF), R229. -/
def execXstat (d a : Opnd) (s : State) : Host.Outcome State Fault Refusal :=
  issue (.xstat d a) (planXstat d a) s

end Sys2Proof.Machine
end

