-- ==== Sys2Proof/Machine/ExecScalar.lean ====
section
/-! DEFINITION. The scalar instructions (R131 to R146). One meaning for each: its plan, issued. -/
namespace Sys2Proof.Machine

/-- ADD (0x00), R132. -/
def execAdd (sg : Bool) (d a b : Opnd) (s : State) : Host.Outcome State Fault Refusal :=
  issue (.add sg d a b) (planBin .add sg d a b) s
/-- SUB (0x01), R132. -/
def execSub (sg : Bool) (d a b : Opnd) (s : State) : Host.Outcome State Fault Refusal :=
  issue (.sub sg d a b) (planBin .sub sg d a b) s
/-- MUL (0x02), R132. -/
def execMul (sg : Bool) (d a b : Opnd) (s : State) : Host.Outcome State Fault Refusal :=
  issue (.mul sg d a b) (planBin .mul sg d a b) s
/-- MULH (0x03), R132. -/
def execMulh (sg : Bool) (d a b : Opnd) (s : State) : Host.Outcome State Fault Refusal :=
  issue (.mulh sg d a b) (planBin .mulh sg d a b) s
/-- DIV (0x04), R133. -/
def execDiv (sg : Bool) (d a b : Opnd) (s : State) : Host.Outcome State Fault Refusal :=
  issue (.div sg d a b) (planDiv sg d a b) s
/-- REM (0x05), R133. -/
def execRem (sg : Bool) (d a b : Opnd) (s : State) : Host.Outcome State Fault Refusal :=
  issue (.rem sg d a b) (planRem sg d a b) s
/-- MIN (0x06), R132. -/
def execMin (sg : Bool) (d a b : Opnd) (s : State) : Host.Outcome State Fault Refusal :=
  issue (.min sg d a b) (planBin .min sg d a b) s
/-- MAX (0x07), R132. -/
def execMax (sg : Bool) (d a b : Opnd) (s : State) : Host.Outcome State Fault Refusal :=
  issue (.max sg d a b) (planBin .max sg d a b) s
/-- AND (0x08), R132. -/
def execAnd (sg : Bool) (d a b : Opnd) (s : State) : Host.Outcome State Fault Refusal :=
  issue (.and sg d a b) (planBin .and sg d a b) s
/-- OR (0x09), R132. -/
def execOr (sg : Bool) (d a b : Opnd) (s : State) : Host.Outcome State Fault Refusal :=
  issue (.or sg d a b) (planBin .or sg d a b) s
/-- XOR (0x0A), R132. -/
def execXor (sg : Bool) (d a b : Opnd) (s : State) : Host.Outcome State Fault Refusal :=
  issue (.xor sg d a b) (planBin .xor sg d a b) s
/-- ANDN (0x0B), R132. -/
def execAndn (sg : Bool) (d a b : Opnd) (s : State) : Host.Outcome State Fault Refusal :=
  issue (.andn sg d a b) (planBin .andn sg d a b) s
/-- SHL (0x0C), R134. -/
def execShl (sg : Bool) (d a b : Opnd) (s : State) : Host.Outcome State Fault Refusal :=
  issue (.shl sg d a b) (planBin .shl sg d a b) s
/-- SHR (0x0D), R134. -/
def execShr (sg : Bool) (d a b : Opnd) (s : State) : Host.Outcome State Fault Refusal :=
  issue (.shr sg d a b) (planBin .shr sg d a b) s
/-- ROT (0x0E), R134. -/
def execRot (sg : Bool) (d a b : Opnd) (s : State) : Host.Outcome State Fault Refusal :=
  issue (.rot sg d a b) (planBin .rot sg d a b) s
/-- CLZ (0x0F), R135. -/
def execClz (d a : Opnd) (s : State) : Host.Outcome State Fault Refusal :=
  issue (.clz d a) (planUn .clz false d a) s
/-- POPC (0x10), R135. -/
def execPopc (d a : Opnd) (s : State) : Host.Outcome State Fault Refusal :=
  issue (.popc d a) (planUn .popc false d a) s
/-- EXTR (0x11), R136. -/
def execExtr (sg : Bool) (d a b : Opnd) (s : State) : Host.Outcome State Fault Refusal :=
  issue (.extr sg d a b) (planExtr sg d a b) s
/-- INSR (0x12), R136. -/
def execInsr (sg : Bool) (d a b : Opnd) (s : State) : Host.Outcome State Fault Refusal :=
  issue (.insr sg d a b) (planInsr sg d a b) s
/-- CMP (0x13), R137. -/
def execCmp (sf : BitVec 3) (sg : Bool) (d a b : Opnd) (s : State) : Host.Outcome State Fault Refusal :=
  issue (.cmp sf sg d a b) (planCmp sf sg d a b) s
/-- SEL (0x14), R138. -/
def execSel (sg : Bool) (d a b c : Opnd) (s : State) : Host.Outcome State Fault Refusal :=
  issue (.sel sg d a b c) (planSel sg d a b c) s
/-- MOV (0x15), R135. -/
def execMov (sg : Bool) (d a : Opnd) (s : State) : Host.Outcome State Fault Refusal :=
  issue (.mov sg d a) (planUn .mov sg d a) s
/-- ADDI (0x16), R139. -/
def execAddi (d a : Opnd) (imm : BitVec 18) (s : State) : Host.Outcome State Fault Refusal :=
  issue (.addi d a imm) (planImm .addi d a imm) s
/-- ANDI (0x17), R139. -/
def execAndi (d a : Opnd) (imm : BitVec 18) (s : State) : Host.Outcome State Fault Refusal :=
  issue (.andi d a imm) (planImm .andi d a imm) s
/-- ORI (0x18), R139. -/
def execOri (d a : Opnd) (imm : BitVec 18) (s : State) : Host.Outcome State Fault Refusal :=
  issue (.ori d a imm) (planImm .ori d a imm) s
/-- XORI (0x19), R139. -/
def execXori (d a : Opnd) (imm : BitVec 18) (s : State) : Host.Outcome State Fault Refusal :=
  issue (.xori d a imm) (planImm .xori d a imm) s
/-- SHLI (0x1A), R139. -/
def execShli (sg : Bool) (n : BitVec 6) (d a : Opnd) (s : State) : Host.Outcome State Fault Refusal :=
  issue (.shli sg n d a) (planShli sg n d a) s
/-- SHRI (0x1B), R139. -/
def execShri (sg : Bool) (n : BitVec 6) (d a : Opnd) (s : State) : Host.Outcome State Fault Refusal :=
  issue (.shri sg n d a) (planShri sg n d a) s
/-- CMPI (0x1C), R139. -/
def execCmpi (d a : Opnd) (imm : BitVec 18) (s : State) : Host.Outcome State Fault Refusal :=
  issue (.cmpi d a imm) (planImm .cmpi d a imm) s
/-- LI (0x1D), R140. -/
def execLi (d : Opnd) (imm : BitVec 32) (s : State) : Host.Outcome State Fault Refusal :=
  issue (.li d imm) (planLi d imm) s
/-- LIU (0x1E), R140. -/
def execLiu (d : Opnd) (imm : BitVec 32) (s : State) : Host.Outcome State Fault Refusal :=
  issue (.liu d imm) (planLiu d imm) s
/-- LIH (0x1F), R140. -/
def execLih (d : Opnd) (imm : BitVec 32) (s : State) : Host.Outcome State Fault Refusal :=
  issue (.lih d imm) (planLih d imm) s
/-- AGEN (0x20), R141. -/
def execAgen (sf : BitVec 3) (sg : Bool) (d a b : Opnd) (s : State) : Host.Outcome State Fault Refusal :=
  issue (.agen sf sg d a b) (planAgen sf sg d a b) s
/-- AGENI (0x21), R141. -/
def execAgeni (d a : Opnd) (imm : BitVec 18) (s : State) : Host.Outcome State Fault Refusal :=
  issue (.ageni d a imm) (planAgeni d a imm) s
/-- LD (0x22), R142. -/
def execLd (d a : Opnd) (imm : BitVec 18) (s : State) : Host.Outcome State Fault Refusal :=
  issue (.ld d a imm) (planLd d a imm) s
/-- ST (0x23), R142. -/
def execSt (d a : Opnd) (imm : BitVec 18) (s : State) : Host.Outcome State Fault Refusal :=
  issue (.st d a imm) (planSt d a imm) s
/-- SPILL (0x24), R142. -/
def execSpill (d a : Opnd) (imm : BitVec 18) (s : State) : Host.Outcome State Fault Refusal :=
  issue (.spill d a imm) (planSpill d a imm) s
/-- FILL (0x25), R142. -/
def execFill (d a : Opnd) (imm : BitVec 18) (s : State) : Host.Outcome State Fault Refusal :=
  issue (.fill d a imm) (planFill d a imm) s
/-- MFSR (0x31), R156. -/
def execMfsr (d : Opnd) (num : BitVec 10) (s : State) : Host.Outcome State Fault Refusal :=
  issue (.mfsr d num) (planMfsr d num) s
/-- MTSR (0x32), R157. -/
def execMtsr (num : BitVec 10) (a : Opnd) (s : State) : Host.Outcome State Fault Refusal :=
  issue (.mtsr num a) (planMtsr num a) s
/-- ABS (0x33), R135. -/
def execAbs (sg : Bool) (d a : Opnd) (s : State) : Host.Outcome State Fault Refusal :=
  issue (.abs sg d a) (planUn .abs sg d a) s
/-- NEG (0x34), R135. -/
def execNeg (sg : Bool) (d a : Opnd) (s : State) : Host.Outcome State Fault Refusal :=
  issue (.neg sg d a) (planUn .neg sg d a) s
/-- ADDS (0x35), R132. -/
def execAdds (sg : Bool) (d a b : Opnd) (s : State) : Host.Outcome State Fault Refusal :=
  issue (.adds sg d a b) (planBin .adds sg d a b) s
/-- SUBS (0x36), R132. -/
def execSubs (sg : Bool) (d a b : Opnd) (s : State) : Host.Outcome State Fault Refusal :=
  issue (.subs sg d a b) (planBin .subs sg d a b) s
/-- MULI (0x37), R139. -/
def execMuli (d a : Opnd) (imm : BitVec 18) (s : State) : Host.Outcome State Fault Refusal :=
  issue (.muli d a imm) (planImm .muli d a imm) s
/-- CTZ (0x38), R135. -/
def execCtz (d a : Opnd) (s : State) : Host.Outcome State Fault Refusal :=
  issue (.ctz d a) (planUn .ctz false d a) s
/-- BREV (0x39), R135. -/
def execBrev (d a : Opnd) (s : State) : Host.Outcome State Fault Refusal :=
  issue (.brev d a) (planUn .brev false d a) s
/-- CRCX (0x3A), R144. -/
def execCrcx (d a b : Opnd) (s : State) : Host.Outcome State Fault Refusal :=
  issue (.crcx d a b) (planCrcx d a b) s
/-- ROLLK (0x3B), R145. -/
def execRollk (d a b : Opnd) (s : State) : Host.Outcome State Fault Refusal :=
  issue (.rollk d a b) (planRollk d a b) s
/-- KTOX (0x3C), R146. -/
def execKtox (hi : Bool) (k : BitVec 3) (d : Opnd) (s : State) : Host.Outcome State Fault Refusal :=
  issue (.ktox hi k d) (planKtox hi k d) s
/-- XTOK (0x3D), R146. -/
def execXtok (hi : Bool) (k : BitVec 3) (a : Opnd) (s : State) : Host.Outcome State Fault Refusal :=
  issue (.xtok hi k a) (planXtok hi k a) s
/-- BTST (0x3E), R137. -/
def execBtst (sg : Bool) (d a b : Opnd) (s : State) : Host.Outcome State Fault Refusal :=
  issue (.btst sg d a b) (planBin .btst sg d a b) s
/-- MOVC (0x3F), R138. -/
def execMovc (sg : Bool) (d a b : Opnd) (s : State) : Host.Outcome State Fault Refusal :=
  issue (.movc sg d a b) (planMovc sg d a b) s

end Sys2Proof.Machine
end

