-- ==== Sys2Proof/Machine/ExecSync.lean ====
section
/-! DEFINITION. Atomics, gongs, launches and engine commands (R230 to R252). One meaning for each: its plan, issued. -/
namespace Sys2Proof.Machine

/-- ATADD (0xB0), R232. -/
def execAtadd (sp : BitVec 3) (d a b : Opnd) (s : State) : Host.Outcome State Fault Refusal :=
  issue (.atadd sp d a b) (planAt .add false sp d a b none) s
/-- ATMIN (0xB1), R232. -/
def execAtmin (flag : Bool) (sp : BitVec 3) (d a b : Opnd) (s : State) : Host.Outcome State Fault Refusal :=
  issue (.atmin flag sp d a b) (planAt .min flag sp d a b none) s
/-- ATMAX (0xB2), R232. -/
def execAtmax (flag : Bool) (sp : BitVec 3) (d a b : Opnd) (s : State) : Host.Outcome State Fault Refusal :=
  issue (.atmax flag sp d a b) (planAt .max flag sp d a b none) s
/-- ATAND (0xB3), R232. -/
def execAtand (sp : BitVec 3) (d a b : Opnd) (s : State) : Host.Outcome State Fault Refusal :=
  issue (.atand sp d a b) (planAt .and false sp d a b none) s
/-- ATOR (0xB4), R232. -/
def execAtor (sp : BitVec 3) (d a b : Opnd) (s : State) : Host.Outcome State Fault Refusal :=
  issue (.ator sp d a b) (planAt .or false sp d a b none) s
/-- ATXOR (0xB5), R232. -/
def execAtxor (sp : BitVec 3) (d a b : Opnd) (s : State) : Host.Outcome State Fault Refusal :=
  issue (.atxor sp d a b) (planAt .xor false sp d a b none) s
/-- ATSWP (0xB6), R232. -/
def execAtswp (sp : BitVec 3) (d a b : Opnd) (s : State) : Host.Outcome State Fault Refusal :=
  issue (.atswp sp d a b) (planAt .swp false sp d a b none) s
/-- ATCAS (0xB7), R232. -/
def execAtcas (sp : BitVec 3) (d a b c : Opnd) (s : State) : Host.Outcome State Fault Refusal :=
  issue (.atcas sp d a b c) (planAt .cas false sp d a b (some c)) s
/-- ATFMIN (0xB8), R233. -/
def execAtfmin (flag : Bool) (sp : BitVec 3) (d a b : Opnd) (s : State) : Host.Outcome State Fault Refusal :=
  issue (.atfmin flag sp d a b) (planAt .fmin flag sp d a b none) s
/-- ATFMAX (0xB9), R233. -/
def execAtfmax (flag : Bool) (sp : BitVec 3) (d a b : Opnd) (s : State) : Host.Outcome State Fault Refusal :=
  issue (.atfmax flag sp d a b) (planAt .fmax flag sp d a b none) s
/-- ATFADD (0xBA), R233. -/
def execAtfadd (flag : Bool) (sp : BitVec 3) (d a b : Opnd) (s : State) : Host.Outcome State Fault Refusal :=
  issue (.atfadd flag sp d a b) (planAt .fadd flag sp d a b none) s
/-- GONG_ARR (0xBB), R243. -/
def execGongArr (d a : Opnd) (n : BitVec 12) (s : State) : Host.Outcome State Fault Refusal :=
  issue (.gongArr d a n) (planGongArr d a n) s
/-- GONG_WAIT (0xBC), R244. -/
def execGongWait (a : Opnd) (s : State) : Host.Outcome State Fault Refusal :=
  issue (.gongWait a) (planGongWait a) s
/-- GONG_HDL (0xBD), R242. -/
def execGongHdl (flag : Bool) (sp : BitVec 3) (d a b : Opnd) (s : State) : Host.Outcome State Fault Refusal :=
  issue (.gongHdl flag sp d a b) (planGongHdl flag sp d a b) s
/-- GONG_INIT (0xBE), R241. -/
def execGongInit (sp : BitVec 3) (a b : Opnd) (s : State) : Host.Outcome State Fault Refusal :=
  issue (.gongInit sp a b) (planGongInit sp a b) s
/-- LSTEP (0xBF), R247. -/
def execLstep (lead : Bool) (d a b : Opnd) (s : State) : Host.Outcome State Fault Refusal :=
  issue (.lstep lead d a b) (planLstep lead d a b) s
/-- LGRAPH (0xC0), R247. -/
def execLgraph (lead : Bool) (d a b : Opnd) (s : State) : Host.Outcome State Fault Refusal :=
  issue (.lgraph lead d a b) (planLgraph lead d a b) s
/-- CMU_TAB (0xC1), R248. -/
def execCmuTab (a : Opnd) (tag : BitVec 4) (s : State) : Host.Outcome State Fault Refusal :=
  issue (.cmuTab a tag) (planEngine 0xC1 a tag) s
/-- CMU_FRM (0xC2), R248. -/
def execCmuFrm (a : Opnd) (tag : BitVec 4) (s : State) : Host.Outcome State Fault Refusal :=
  issue (.cmuFrm a tag) (planEngine 0xC2 a tag) s
/-- MPB (0xC3), R252. -/
def execMpb (a : Opnd) (tag : BitVec 4) (s : State) : Host.Outcome State Fault Refusal :=
  issue (.mpb a tag) (planEngine 0xC3 a tag) s
/-- BEL_LOOK (0xC4), R248. -/
def execBelLook (a : Opnd) (tag : BitVec 4) (s : State) : Host.Outcome State Fault Refusal :=
  issue (.belLook a tag) (planEngine 0xC4 a tag) s
/-- BEL_DEP (0xC5), R248. -/
def execBelDep (a : Opnd) (tag : BitVec 4) (s : State) : Host.Outcome State Fault Refusal :=
  issue (.belDep a tag) (planEngine 0xC5 a tag) s
/-- BEL_RES (0xC6), R248. -/
def execBelRes (a : Opnd) (tag : BitVec 4) (s : State) : Host.Outcome State Fault Refusal :=
  issue (.belRes a tag) (planEngine 0xC6 a tag) s
/-- BEL_PIN (0xC7), R248. -/
def execBelPin (a : Opnd) (tag : BitVec 4) (s : State) : Host.Outcome State Fault Refusal :=
  issue (.belPin a tag) (planEngine 0xC7 a tag) s

end Sys2Proof.Machine
end

