-- ==== Sys2Proof/Machine/ExecSystem.lean ====
section
/-! DEFINITION. System instructions and the unassigned opcodes (R129, R276 to R282). One meaning for each: its plan, issued. -/
namespace Sys2Proof.Machine

/-- NOP (0xD8), R277. -/
def execNop (s : State) : Host.Outcome State Fault Refusal :=
  issue .nop planNop s
/-- TRAP (0xD9), R278. -/
def execTrap (code : BitVec 10) (s : State) : Host.Outcome State Fault Refusal :=
  issue (.trap code) (planTrap code) s
/-- TRAPNZ (0xDA), R278. -/
def execTrapnz (a : Opnd) (code : BitVec 10) (s : State) : Host.Outcome State Fault Refusal :=
  issue (.trapnz a code) (planTrapnz a code) s
/-- BRK (0xDB), R279. -/
def execBrk (code : BitVec 10) (s : State) : Host.Outcome State Fault Refusal :=
  issue (.brk code) (planBrk code) s
/-- SVC (0xDC), R280. -/
def execSvc (d a : Opnd) (code : BitVec 10) (s : State) : Host.Outcome State Fault Refusal :=
  issue (.svc d a code) (planSvc d a code) s
/-- EVENT (0xDD), R281. -/
def execEvent (d a : Opnd) (code : BitVec 10) (s : State) : Host.Outcome State Fault Refusal :=
  issue (.event d a code) (planEvent d a code) s
/-- CKMARK (0xDE), R282. -/
def execCkmark (code : BitVec 10) (s : State) : Host.Outcome State Fault Refusal :=
  issue (.ckmark code) (planCkmark code) s
/-- ILL (0xDF), R277. -/
def execIll (body : BitVec 46) (s : State) : Host.Outcome State Fault Refusal :=
  issue (.ill body) (planIll body) s
/-- UNASSIGNED_OPCODE, R129. -/
def execUnassignedOpcode (op : BitVec 8) (s : State) : Host.Outcome State Fault Refusal :=
  issue (.unassignedOpcode op) (planUnassigned op) s

end Sys2Proof.Machine
end

