-- ==== Sys2Proof/Machine/ExecVector.lean ====
section
/-! DEFINITION. The vector instructions (R156 to R178). One meaning for each: its plan, issued. -/
namespace Sys2Proof.Machine

/-- VADD (0x40), R160. -/
def execVadd (sg : Bool) (k : BitVec 3) (d a b : Opnd) (s : State) : Host.Outcome State Fault Refusal :=
  issue (.vadd sg k d a b) (planVBin .add sg k d a b) s
/-- VSUB (0x41), R160. -/
def execVsub (sg : Bool) (k : BitVec 3) (d a b : Opnd) (s : State) : Host.Outcome State Fault Refusal :=
  issue (.vsub sg k d a b) (planVBin .sub sg k d a b) s
/-- VMUL (0x42), R160. -/
def execVmul (sg : Bool) (k : BitVec 3) (d a b : Opnd) (s : State) : Host.Outcome State Fault Refusal :=
  issue (.vmul sg k d a b) (planVBin .mul sg k d a b) s
/-- VMULH (0x43), R160. -/
def execVmulh (sg : Bool) (k : BitVec 3) (d a b : Opnd) (s : State) : Host.Outcome State Fault Refusal :=
  issue (.vmulh sg k d a b) (planVBin .mulh sg k d a b) s
/-- VMIN (0x44), R160. -/
def execVmin (sg : Bool) (k : BitVec 3) (d a b : Opnd) (s : State) : Host.Outcome State Fault Refusal :=
  issue (.vmin sg k d a b) (planVBin .min sg k d a b) s
/-- VMAX (0x45), R160. -/
def execVmax (sg : Bool) (k : BitVec 3) (d a b : Opnd) (s : State) : Host.Outcome State Fault Refusal :=
  issue (.vmax sg k d a b) (planVBin .max sg k d a b) s
/-- VAND (0x46), R160. -/
def execVand (sg : Bool) (k : BitVec 3) (d a b : Opnd) (s : State) : Host.Outcome State Fault Refusal :=
  issue (.vand sg k d a b) (planVBin .and sg k d a b) s
/-- VOR (0x47), R160. -/
def execVor (sg : Bool) (k : BitVec 3) (d a b : Opnd) (s : State) : Host.Outcome State Fault Refusal :=
  issue (.vor sg k d a b) (planVBin .or sg k d a b) s
/-- VXOR (0x48), R160. -/
def execVxor (sg : Bool) (k : BitVec 3) (d a b : Opnd) (s : State) : Host.Outcome State Fault Refusal :=
  issue (.vxor sg k d a b) (planVBin .xor sg k d a b) s
/-- VANDN (0x49), R160. -/
def execVandn (sg : Bool) (k : BitVec 3) (d a b : Opnd) (s : State) : Host.Outcome State Fault Refusal :=
  issue (.vandn sg k d a b) (planVBin .andn sg k d a b) s
/-- VSHL (0x4A), R160. -/
def execVshl (sg : Bool) (k : BitVec 3) (d a b : Opnd) (s : State) : Host.Outcome State Fault Refusal :=
  issue (.vshl sg k d a b) (planVBin .shl sg k d a b) s
/-- VSHR (0x4B), R160. -/
def execVshr (sg : Bool) (k : BitVec 3) (d a b : Opnd) (s : State) : Host.Outcome State Fault Refusal :=
  issue (.vshr sg k d a b) (planVBin .shr sg k d a b) s
/-- VABS (0x4C), R160. -/
def execVabs (sg : Bool) (k : BitVec 3) (d a : Opnd) (s : State) : Host.Outcome State Fault Refusal :=
  issue (.vabs sg k d a) (planVUn .abs sg k d a) s
/-- VNEG (0x4D), R160. -/
def execVneg (sg : Bool) (k : BitVec 3) (d a : Opnd) (s : State) : Host.Outcome State Fault Refusal :=
  issue (.vneg sg k d a) (planVUn .neg sg k d a) s
/-- VADDS (0x4E), R160. -/
def execVadds (sg : Bool) (k : BitVec 3) (d a b : Opnd) (s : State) : Host.Outcome State Fault Refusal :=
  issue (.vadds sg k d a b) (planVBin .adds sg k d a b) s
/-- VSUBS (0x4F), R160. -/
def execVsubs (sg : Bool) (k : BitVec 3) (d a b : Opnd) (s : State) : Host.Outcome State Fault Refusal :=
  issue (.vsubs sg k d a b) (planVBin .subs sg k d a b) s
/-- VFADD (0x50), R162. -/
def execVfadd (fmt : BitVec 4) (rnd : BitVec 2) (k : BitVec 3) (d a b : Opnd) (s : State) : Host.Outcome State Fault Refusal :=
  issue (.vfadd fmt rnd k d a b) (planVfadd fmt rnd k d a b) s
/-- VFSUB (0x51), R162. -/
def execVfsub (fmt : BitVec 4) (rnd : BitVec 2) (k : BitVec 3) (d a b : Opnd) (s : State) : Host.Outcome State Fault Refusal :=
  issue (.vfsub fmt rnd k d a b) (planVfsub fmt rnd k d a b) s
/-- VFMUL (0x52), R162. -/
def execVfmul (fmt : BitVec 4) (rnd : BitVec 2) (k : BitVec 3) (d a b : Opnd) (s : State) : Host.Outcome State Fault Refusal :=
  issue (.vfmul fmt rnd k d a b) (planVfmul fmt rnd k d a b) s
/-- VFMA (0x53), R162. -/
def execVfma (fmt : BitVec 4) (rnd : BitVec 2) (k : BitVec 3) (d a b c : Opnd) (s : State) : Host.Outcome State Fault Refusal :=
  issue (.vfma fmt rnd k d a b c) (planVfma false false fmt rnd k d a b c) s
/-- VFMS (0x54), R162. -/
def execVfms (fmt : BitVec 4) (rnd : BitVec 2) (k : BitVec 3) (d a b c : Opnd) (s : State) : Host.Outcome State Fault Refusal :=
  issue (.vfms fmt rnd k d a b c) (planVfma false true fmt rnd k d a b c) s
/-- VFNMA (0x55), R162. -/
def execVfnma (fmt : BitVec 4) (rnd : BitVec 2) (k : BitVec 3) (d a b c : Opnd) (s : State) : Host.Outcome State Fault Refusal :=
  issue (.vfnma fmt rnd k d a b c) (planVfma true false fmt rnd k d a b c) s
/-- VFNMS (0x56), R162. -/
def execVfnms (fmt : BitVec 4) (rnd : BitVec 2) (k : BitVec 3) (d a b c : Opnd) (s : State) : Host.Outcome State Fault Refusal :=
  issue (.vfnms fmt rnd k d a b c) (planVfma true true fmt rnd k d a b c) s
/-- VFMIN (0x57), R163. -/
def execVfmin (fmt : BitVec 4) (k : BitVec 3) (d a b : Opnd) (s : State) : Host.Outcome State Fault Refusal :=
  issue (.vfmin fmt k d a b) (planVfmm false fmt k d a b) s
/-- VFMAX (0x58), R163. -/
def execVfmax (fmt : BitVec 4) (k : BitVec 3) (d a b : Opnd) (s : State) : Host.Outcome State Fault Refusal :=
  issue (.vfmax fmt k d a b) (planVfmm true fmt k d a b) s
/-- VFABS (0x59), R163. -/
def execVfabs (fmt : BitVec 4) (k : BitVec 3) (d a : Opnd) (s : State) : Host.Outcome State Fault Refusal :=
  issue (.vfabs fmt k d a) (planVfsign false fmt k d a) s
/-- VFNEG (0x5A), R163. -/
def execVfneg (fmt : BitVec 4) (k : BitVec 3) (d a : Opnd) (s : State) : Host.Outcome State Fault Refusal :=
  issue (.vfneg fmt k d a) (planVfsign true fmt k d a) s
/-- VSQRT (0x5B), R164. -/
def execVsqrt (fmt : BitVec 4) (rnd : BitVec 2) (k : BitVec 3) (d a : Opnd) (s : State) : Host.Outcome State Fault Refusal :=
  issue (.vsqrt fmt rnd k d a) (planVfn1 .sqrt fmt rnd k d a) s
/-- VRCP (0x5C), R164. -/
def execVrcp (fmt : BitVec 4) (rnd : BitVec 2) (k : BitVec 3) (d a : Opnd) (s : State) : Host.Outcome State Fault Refusal :=
  issue (.vrcp fmt rnd k d a) (planVfn1 .rcp fmt rnd k d a) s
/-- VRSQ (0x5D), R164. -/
def execVrsq (fmt : BitVec 4) (rnd : BitVec 2) (k : BitVec 3) (d a : Opnd) (s : State) : Host.Outcome State Fault Refusal :=
  issue (.vrsq fmt rnd k d a) (planVfn1 .rsq fmt rnd k d a) s
/-- VEXP2 (0x5E), R164. -/
def execVexp2 (fmt : BitVec 4) (rnd : BitVec 2) (k : BitVec 3) (d a : Opnd) (s : State) : Host.Outcome State Fault Refusal :=
  issue (.vexp2 fmt rnd k d a) (planVfn1 .exp2 fmt rnd k d a) s
/-- VLOG2 (0x5F), R164. -/
def execVlog2 (fmt : BitVec 4) (rnd : BitVec 2) (k : BitVec 3) (d a : Opnd) (s : State) : Host.Outcome State Fault Refusal :=
  issue (.vlog2 fmt rnd k d a) (planVfn1 .log2 fmt rnd k d a) s
/-- VCMP (0x60), R165. -/
def execVcmp (cc : BitVec 3) (sg : Bool) (k kd : BitVec 3) (a b : Opnd) (s : State) : Host.Outcome State Fault Refusal :=
  issue (.vcmp cc sg k kd a b) (planVcmp cc sg k kd a b) s
/-- VFCMP (0x61), R165. -/
def execVfcmp (cc : BitVec 3) (fmt : BitVec 4) (k kd : BitVec 3) (a b : Opnd) (s : State) : Host.Outcome State Fault Refusal :=
  issue (.vfcmp cc fmt k kd a b) (planVfcmp cc fmt k kd a b) s
/-- KAND (0x62), R166. -/
def execKand (kd ka kb : BitVec 3) (s : State) : Host.Outcome State Fault Refusal :=
  issue (.kand kd ka kb) (planKBin (· &&& ·) kd ka kb) s
/-- KOR (0x63), R166. -/
def execKor (kd ka kb : BitVec 3) (s : State) : Host.Outcome State Fault Refusal :=
  issue (.kor kd ka kb) (planKBin (· ||| ·) kd ka kb) s
/-- KXOR (0x64), R166. -/
def execKxor (kd ka kb : BitVec 3) (s : State) : Host.Outcome State Fault Refusal :=
  issue (.kxor kd ka kb) (planKBin (· ^^^ ·) kd ka kb) s
/-- KNOT (0x65), R166. -/
def execKnot (kd ka : BitVec 3) (s : State) : Host.Outcome State Fault Refusal :=
  issue (.knot kd ka) (planKnot kd ka) s
/-- KPOPC (0x66), R166. -/
def execKpopc (d : Opnd) (ka : BitVec 3) (s : State) : Host.Outcome State Fault Refusal :=
  issue (.kpopc d ka) (planKpopc d ka) s
/-- VSEL (0x67), R167. -/
def execVsel (k : BitVec 3) (d a b : Opnd) (s : State) : Host.Outcome State Fault Refusal :=
  issue (.vsel k d a b) (planVsel k d a b) s
/-- VCVT (0x68), R168. -/
def execVcvt (dst src : BitVec 4) (rnd : BitVec 2) (k : BitVec 3) (d a : Opnd) (s : State) : Host.Outcome State Fault Refusal :=
  issue (.vcvt dst src rnd k d a) (planVcvt dst src rnd k d a) s
/-- VCVTFI (0x69), R168. -/
def execVcvtfi (dst src : BitVec 4) (rnd : BitVec 2) (k : BitVec 3) (d a : Opnd) (s : State) : Host.Outcome State Fault Refusal :=
  issue (.vcvtfi dst src rnd k d a) (planVcvtfi dst src rnd k d a) s
/-- VCVTIF (0x6A), R168. -/
def execVcvtif (dst src : BitVec 4) (rnd : BitVec 2) (k : BitVec 3) (d a : Opnd) (s : State) : Host.Outcome State Fault Refusal :=
  issue (.vcvtif dst src rnd k d a) (planVcvtif dst src rnd k d a) s
/-- VCVTII (0x6B), R168. -/
def execVcvtii (sat : Bool) (dst src : BitVec 4) (k : BitVec 3) (d a : Opnd) (s : State) : Host.Outcome State Fault Refusal :=
  issue (.vcvtii sat dst src k d a) (planVcvtii sat dst src k d a) s
/-- VQNT (0x6C), R169. -/
def execVqnt (wid : BitVec 3) (adapt int sg : Bool) (d a c e : Opnd) (s : State) : Host.Outcome State Fault Refusal :=
  issue (.vqnt wid adapt int sg d a c e) (planVqnt wid adapt int sg d a c e) s
/-- VXPD (0x6D), R170. -/
def execVxpd (sg : Bool) (fmt : BitVec 4) (rnd : BitVec 2) (d a c : Opnd) (s : State) : Host.Outcome State Fault Refusal :=
  issue (.vxpd sg fmt rnd d a c) (planVxpd sg fmt rnd d a c) s
/-- VSPLAT (0x6E), R171. -/
def execVsplat (sg : Bool) (k : BitVec 3) (d a : Opnd) (s : State) : Host.Outcome State Fault Refusal :=
  issue (.vsplat sg k d a) (planVsplat sg k d a) s
/-- VBCAST (0x6F), R171. -/
def execVbcast (k : BitVec 3) (d a b : Opnd) (s : State) : Host.Outcome State Fault Refusal :=
  issue (.vbcast k d a b) (planVbcast k d a b) s
/-- VRED (0x70), R172. -/
def execVred (op : BitVec 3) (sg : Bool) (k : BitVec 3) (d a : Opnd) (s : State) : Host.Outcome State Fault Refusal :=
  issue (.vred op sg k d a) (planVred op sg k d a) s
/-- VFRED (0x71), R173. -/
def execVfred (op : BitVec 2) (fmt : BitVec 4) (rnd : BitVec 2) (k : BitVec 3) (d a : Opnd) (s : State) : Host.Outcome State Fault Refusal :=
  issue (.vfred op fmt rnd k d a) (planVfred op fmt rnd k d a) s
/-- VSCAN (0x72), R172. -/
def execVscan (op : BitVec 3) (sg : Bool) (k : BitVec 3) (d a : Opnd) (s : State) : Host.Outcome State Fault Refusal :=
  issue (.vscan op sg k d a) (planVscan op sg k d a) s
/-- VFSCAN (0x73), R174. -/
def execVfscan (op : BitVec 2) (fmt : BitVec 4) (rnd : BitVec 2) (k : BitVec 3) (d a : Opnd) (s : State) : Host.Outcome State Fault Refusal :=
  issue (.vfscan op fmt rnd k d a) (planVfscan op fmt rnd k d a) s
/-- VPERM (0x74), R171. -/
def execVperm (k : BitVec 3) (d a b : Opnd) (s : State) : Host.Outcome State Fault Refusal :=
  issue (.vperm k d a b) (planVperm k d a b) s
/-- VROT (0x75), R171. -/
def execVrot (k : BitVec 3) (d a b : Opnd) (s : State) : Host.Outcome State Fault Refusal :=
  issue (.vrot k d a b) (planVrot k d a b) s
/-- VCMPR (0x76), R171. -/
def execVcmpr (k : BitVec 3) (d a : Opnd) (s : State) : Host.Outcome State Fault Refusal :=
  issue (.vcmpr k d a) (planVcmpr k d a) s
/-- VIOTA (0x77), R171. -/
def execViota (k : BitVec 3) (d : Opnd) (s : State) : Host.Outcome State Fault Refusal :=
  issue (.viota k d) (planViota k d) s
/-- VLD (0x78), R175. -/
def execVld (d a : Opnd) (imm : BitVec 18) (s : State) : Host.Outcome State Fault Refusal :=
  issue (.vld d a imm) (planVld d a imm) s
/-- VLDS (0x79), R176. -/
def execVlds (k : BitVec 3) (d a b : Opnd) (s : State) : Host.Outcome State Fault Refusal :=
  issue (.vlds k d a b) (planVlds k d a b) s
/-- VLDX (0x7A), R176. -/
def execVldx (k : BitVec 3) (d a b : Opnd) (s : State) : Host.Outcome State Fault Refusal :=
  issue (.vldx k d a b) (planVldx k d a b) s
/-- VST (0x7B), R175. -/
def execVst (d a : Opnd) (imm : BitVec 18) (s : State) : Host.Outcome State Fault Refusal :=
  issue (.vst d a imm) (planVst d a imm) s
/-- VSTS (0x7C), R176. -/
def execVsts (k : BitVec 3) (d a b : Opnd) (s : State) : Host.Outcome State Fault Refusal :=
  issue (.vsts k d a b) (planVsts k d a b) s
/-- VSTX (0x7D), R176. -/
def execVstx (k : BitVec 3) (d a b : Opnd) (s : State) : Host.Outcome State Fault Refusal :=
  issue (.vstx k d a b) (planVstx k d a b) s
/-- VGETX (0x7E), R171. -/
def execVgetx (sg : Bool) (d a b : Opnd) (s : State) : Host.Outcome State Fault Refusal :=
  issue (.vgetx sg d a b) (planVgetx sg d a b) s
/-- VMOV (0x7F), R160. -/
def execVmov (sg : Bool) (k : BitVec 3) (d a : Opnd) (s : State) : Host.Outcome State Fault Refusal :=
  issue (.vmov sg k d a) (planVUn .mov sg k d a) s

end Sys2Proof.Machine
end

