-- ==== Sys2Proof/Machine/Dispatch.lean ====
section
/-! DEFINITION. One arm for each constructor of Instr, in the order of the opcode table. -/
namespace Sys2Proof.Machine

/-- The meaning of an instruction or device step. -/
def exec (i : Instr) (s : State) : Host.Outcome State Fault Refusal :=
  match i with
  | .add sg d a b => Sys2Proof.Machine.execAdd sg d a b s
  | .sub sg d a b => Sys2Proof.Machine.execSub sg d a b s
  | .mul sg d a b => Sys2Proof.Machine.execMul sg d a b s
  | .mulh sg d a b => Sys2Proof.Machine.execMulh sg d a b s
  | .div sg d a b => Sys2Proof.Machine.execDiv sg d a b s
  | .rem sg d a b => Sys2Proof.Machine.execRem sg d a b s
  | .min sg d a b => Sys2Proof.Machine.execMin sg d a b s
  | .max sg d a b => Sys2Proof.Machine.execMax sg d a b s
  | .and sg d a b => Sys2Proof.Machine.execAnd sg d a b s
  | .or sg d a b => Sys2Proof.Machine.execOr sg d a b s
  | .xor sg d a b => Sys2Proof.Machine.execXor sg d a b s
  | .andn sg d a b => Sys2Proof.Machine.execAndn sg d a b s
  | .shl sg d a b => Sys2Proof.Machine.execShl sg d a b s
  | .shr sg d a b => Sys2Proof.Machine.execShr sg d a b s
  | .rot sg d a b => Sys2Proof.Machine.execRot sg d a b s
  | .clz d a => Sys2Proof.Machine.execClz d a s
  | .popc d a => Sys2Proof.Machine.execPopc d a s
  | .extr sg d a b => Sys2Proof.Machine.execExtr sg d a b s
  | .insr sg d a b => Sys2Proof.Machine.execInsr sg d a b s
  | .cmp sf sg d a b => Sys2Proof.Machine.execCmp sf sg d a b s
  | .sel sg d a b c => Sys2Proof.Machine.execSel sg d a b c s
  | .mov sg d a => Sys2Proof.Machine.execMov sg d a s
  | .addi d a imm => Sys2Proof.Machine.execAddi d a imm s
  | .andi d a imm => Sys2Proof.Machine.execAndi d a imm s
  | .ori d a imm => Sys2Proof.Machine.execOri d a imm s
  | .xori d a imm => Sys2Proof.Machine.execXori d a imm s
  | .shli sg n d a => Sys2Proof.Machine.execShli sg n d a s
  | .shri sg n d a => Sys2Proof.Machine.execShri sg n d a s
  | .cmpi d a imm => Sys2Proof.Machine.execCmpi d a imm s
  | .li d imm => Sys2Proof.Machine.execLi d imm s
  | .liu d imm => Sys2Proof.Machine.execLiu d imm s
  | .lih d imm => Sys2Proof.Machine.execLih d imm s
  | .agen sf sg d a b => Sys2Proof.Machine.execAgen sf sg d a b s
  | .ageni d a imm => Sys2Proof.Machine.execAgeni d a imm s
  | .ld d a imm => Sys2Proof.Machine.execLd d a imm s
  | .st d a imm => Sys2Proof.Machine.execSt d a imm s
  | .spill d a imm => Sys2Proof.Machine.execSpill d a imm s
  | .fill d a imm => Sys2Proof.Machine.execFill d a imm s
  | .br cond a off => Sys2Proof.Machine.execBr cond a off s
  | .call a off => Sys2Proof.Machine.execCall a off s
  | .ret a => Sys2Proof.Machine.execRet a s
  | .brx a off => Sys2Proof.Machine.execBrx a off s
  | .loop lvl per => Sys2Proof.Machine.execLoop lvl per s
  | .endl lvl => Sys2Proof.Machine.execEndl lvl s
  | .cue a off => Sys2Proof.Machine.execCue a off s
  | .hold => Sys2Proof.Machine.execHold s
  | .wait n => Sys2Proof.Machine.execWait n s
  | .await mask => Sys2Proof.Machine.execAwait mask s
  | .endstep => Sys2Proof.Machine.execEndstep s
  | .mfsr d num => Sys2Proof.Machine.execMfsr d num s
  | .mtsr num a => Sys2Proof.Machine.execMtsr num a s
  | .abs sg d a => Sys2Proof.Machine.execAbs sg d a s
  | .neg sg d a => Sys2Proof.Machine.execNeg sg d a s
  | .adds sg d a b => Sys2Proof.Machine.execAdds sg d a b s
  | .subs sg d a b => Sys2Proof.Machine.execSubs sg d a b s
  | .muli d a imm => Sys2Proof.Machine.execMuli d a imm s
  | .ctz d a => Sys2Proof.Machine.execCtz d a s
  | .brev d a => Sys2Proof.Machine.execBrev d a s
  | .crcx d a b => Sys2Proof.Machine.execCrcx d a b s
  | .rollk d a b => Sys2Proof.Machine.execRollk d a b s
  | .ktox hi k d => Sys2Proof.Machine.execKtox hi k d s
  | .xtok hi k a => Sys2Proof.Machine.execXtok hi k a s
  | .btst sg d a b => Sys2Proof.Machine.execBtst sg d a b s
  | .movc sg d a b => Sys2Proof.Machine.execMovc sg d a b s
  | .vadd sg k d a b => Sys2Proof.Machine.execVadd sg k d a b s
  | .vsub sg k d a b => Sys2Proof.Machine.execVsub sg k d a b s
  | .vmul sg k d a b => Sys2Proof.Machine.execVmul sg k d a b s
  | .vmulh sg k d a b => Sys2Proof.Machine.execVmulh sg k d a b s
  | .vmin sg k d a b => Sys2Proof.Machine.execVmin sg k d a b s
  | .vmax sg k d a b => Sys2Proof.Machine.execVmax sg k d a b s
  | .vand sg k d a b => Sys2Proof.Machine.execVand sg k d a b s
  | .vor sg k d a b => Sys2Proof.Machine.execVor sg k d a b s
  | .vxor sg k d a b => Sys2Proof.Machine.execVxor sg k d a b s
  | .vandn sg k d a b => Sys2Proof.Machine.execVandn sg k d a b s
  | .vshl sg k d a b => Sys2Proof.Machine.execVshl sg k d a b s
  | .vshr sg k d a b => Sys2Proof.Machine.execVshr sg k d a b s
  | .vabs sg k d a => Sys2Proof.Machine.execVabs sg k d a s
  | .vneg sg k d a => Sys2Proof.Machine.execVneg sg k d a s
  | .vadds sg k d a b => Sys2Proof.Machine.execVadds sg k d a b s
  | .vsubs sg k d a b => Sys2Proof.Machine.execVsubs sg k d a b s
  | .vfadd fmt rnd k d a b => Sys2Proof.Machine.execVfadd fmt rnd k d a b s
  | .vfsub fmt rnd k d a b => Sys2Proof.Machine.execVfsub fmt rnd k d a b s
  | .vfmul fmt rnd k d a b => Sys2Proof.Machine.execVfmul fmt rnd k d a b s
  | .vfma fmt rnd k d a b c => Sys2Proof.Machine.execVfma fmt rnd k d a b c s
  | .vfms fmt rnd k d a b c => Sys2Proof.Machine.execVfms fmt rnd k d a b c s
  | .vfnma fmt rnd k d a b c => Sys2Proof.Machine.execVfnma fmt rnd k d a b c s
  | .vfnms fmt rnd k d a b c => Sys2Proof.Machine.execVfnms fmt rnd k d a b c s
  | .vfmin fmt k d a b => Sys2Proof.Machine.execVfmin fmt k d a b s
  | .vfmax fmt k d a b => Sys2Proof.Machine.execVfmax fmt k d a b s
  | .vfabs fmt k d a => Sys2Proof.Machine.execVfabs fmt k d a s
  | .vfneg fmt k d a => Sys2Proof.Machine.execVfneg fmt k d a s
  | .vsqrt fmt rnd k d a => Sys2Proof.Machine.execVsqrt fmt rnd k d a s
  | .vrcp fmt rnd k d a => Sys2Proof.Machine.execVrcp fmt rnd k d a s
  | .vrsq fmt rnd k d a => Sys2Proof.Machine.execVrsq fmt rnd k d a s
  | .vexp2 fmt rnd k d a => Sys2Proof.Machine.execVexp2 fmt rnd k d a s
  | .vlog2 fmt rnd k d a => Sys2Proof.Machine.execVlog2 fmt rnd k d a s
  | .vcmp cc sg k kd a b => Sys2Proof.Machine.execVcmp cc sg k kd a b s
  | .vfcmp cc fmt k kd a b => Sys2Proof.Machine.execVfcmp cc fmt k kd a b s
  | .kand kd ka kb => Sys2Proof.Machine.execKand kd ka kb s
  | .kor kd ka kb => Sys2Proof.Machine.execKor kd ka kb s
  | .kxor kd ka kb => Sys2Proof.Machine.execKxor kd ka kb s
  | .knot kd ka => Sys2Proof.Machine.execKnot kd ka s
  | .kpopc d ka => Sys2Proof.Machine.execKpopc d ka s
  | .vsel k d a b => Sys2Proof.Machine.execVsel k d a b s
  | .vcvt dst src rnd k d a => Sys2Proof.Machine.execVcvt dst src rnd k d a s
  | .vcvtfi dst src rnd k d a => Sys2Proof.Machine.execVcvtfi dst src rnd k d a s
  | .vcvtif dst src rnd k d a => Sys2Proof.Machine.execVcvtif dst src rnd k d a s
  | .vcvtii sat dst src k d a => Sys2Proof.Machine.execVcvtii sat dst src k d a s
  | .vqnt wid adapt int sg d a c e => Sys2Proof.Machine.execVqnt wid adapt int sg d a c e s
  | .vxpd sg fmt rnd d a c => Sys2Proof.Machine.execVxpd sg fmt rnd d a c s
  | .vsplat sg k d a => Sys2Proof.Machine.execVsplat sg k d a s
  | .vbcast k d a b => Sys2Proof.Machine.execVbcast k d a b s
  | .vred op sg k d a => Sys2Proof.Machine.execVred op sg k d a s
  | .vfred op fmt rnd k d a => Sys2Proof.Machine.execVfred op fmt rnd k d a s
  | .vscan op sg k d a => Sys2Proof.Machine.execVscan op sg k d a s
  | .vfscan op fmt rnd k d a => Sys2Proof.Machine.execVfscan op fmt rnd k d a s
  | .vperm k d a b => Sys2Proof.Machine.execVperm k d a b s
  | .vrot k d a b => Sys2Proof.Machine.execVrot k d a b s
  | .vcmpr k d a => Sys2Proof.Machine.execVcmpr k d a s
  | .viota k d => Sys2Proof.Machine.execViota k d s
  | .vld d a imm => Sys2Proof.Machine.execVld d a imm s
  | .vlds k d a b => Sys2Proof.Machine.execVlds k d a b s
  | .vldx k d a b => Sys2Proof.Machine.execVldx k d a b s
  | .vst d a imm => Sys2Proof.Machine.execVst d a imm s
  | .vsts k d a b => Sys2Proof.Machine.execVsts k d a b s
  | .vstx k d a b => Sys2Proof.Machine.execVstx k d a b s
  | .vgetx sg d a b => Sys2Proof.Machine.execVgetx sg d a b s
  | .vmov sg k d a => Sys2Proof.Machine.execVmov sg k d a s
  | .feeda cont mc e cw kn => Sys2Proof.Machine.execFeeda cont mc e cw kn s
  | .feedb cont mc e cw kn => Sys2Proof.Machine.execFeedb cont mc e cw kn s
  | .feedax mc e cw kn => Sys2Proof.Machine.execFeedax mc e cw kn s
  | .feedbx mc e cw kn => Sys2Proof.Machine.execFeedbx mc e cw kn s
  | .wina e cw kn => Sys2Proof.Machine.execWina e cw kn s
  | .winb e cw kn => Sys2Proof.Machine.execWinb e cw kn s
  | .cropa e cw => Sys2Proof.Machine.execCropa e cw s
  | .qclr qb rcu e kn => Sys2Proof.Machine.execQclr qb rcu e kn s
  | .mma p cw kn => Sys2Proof.Machine.execMma p cw kn s
  | .mmac p cw kn => Sys2Proof.Machine.execMmac p cw kn s
  | .aclr e kn => Sys2Proof.Machine.execAclr e kn s
  | .ald e cw kn => Sys2Proof.Machine.execAld e cw kn s
  | .asav e cw kn => Sys2Proof.Machine.execAsav e cw kn s
  | .drn e cw kn => Sys2Proof.Machine.execDrn e cw kn s
  | .drna e cw kn => Sys2Proof.Machine.execDrna e cw kn s
  | .drnf e cw kn => Sys2Proof.Machine.execDrnf e cw kn s
  | .wcfg cw kn => Sys2Proof.Machine.execWcfg cw kn s
  | .wpadv cw => Sys2Proof.Machine.execWpadv cw s
  | .boxcfg cw kn => Sys2Proof.Machine.execBoxcfg cw kn s
  | .poolmx init fin e cw kn => Sys2Proof.Machine.execPoolmx init fin e cw kn s
  | .poolav init fin e cw kn => Sys2Proof.Machine.execPoolav init fin e cw kn s
  | .ascl rnd e cw kn => Sys2Proof.Machine.execAscl rnd e cw kn s
  | .abias rnd e cw kn => Sys2Proof.Machine.execAbias rnd e cw kn s
  | .aclmp e cw kn => Sys2Proof.Machine.execAclmp e cw kn s
  | .ardv e cw kn => Sys2Proof.Machine.execArdv e cw kn s
  | .awrv e cw kn => Sys2Proof.Machine.execAwrv e cw kn s
  | .drnr e cw kn => Sys2Proof.Machine.execDrnr e cw kn s
  | .mmaz p cw kn => Sys2Proof.Machine.execMmaz p cw kn s
  | .feedd qb e cw kn => Sys2Proof.Machine.execFeedd qb e cw kn s
  | .mcfg cw => Sys2Proof.Machine.execMcfg cw s
  | .mstat kn => Sys2Proof.Machine.execMstat kn s
  | .qstat kn => Sys2Proof.Machine.execQstat kn s
  | .copy f => Sys2Proof.Machine.execCopy f s
  | .copya f => Sys2Proof.Machine.execCopya f s
  | .seqcfg slot off a => Sys2Proof.Machine.execSeqcfg slot off a s
  | .mcopy f => Sys2Proof.Machine.execMcopy f s
  | .tlfetch f => Sys2Proof.Machine.execTlfetch f s
  | .ucopy f => Sys2Proof.Machine.execUcopy f s
  | .gath f => Sys2Proof.Machine.execGath f s
  | .gaths f => Sys2Proof.Machine.execGaths f s
  | .scat f => Sys2Proof.Machine.execScat f s
  | .scatw f => Sys2Proof.Machine.execScatw f s
  | .pin d a beats => Sys2Proof.Machine.execPin d a beats s
  | .unpin d a => Sys2Proof.Machine.execUnpin d a s
  | .xform f => Sys2Proof.Machine.execXform f s
  | .xformv f => Sys2Proof.Machine.execXformv f s
  | .ufill f => Sys2Proof.Machine.execUfill f s
  | .xstat d a => Sys2Proof.Machine.execXstat d a s
  | .atadd sp d a b => Sys2Proof.Machine.execAtadd sp d a b s
  | .atmin flag sp d a b => Sys2Proof.Machine.execAtmin flag sp d a b s
  | .atmax flag sp d a b => Sys2Proof.Machine.execAtmax flag sp d a b s
  | .atand sp d a b => Sys2Proof.Machine.execAtand sp d a b s
  | .ator sp d a b => Sys2Proof.Machine.execAtor sp d a b s
  | .atxor sp d a b => Sys2Proof.Machine.execAtxor sp d a b s
  | .atswp sp d a b => Sys2Proof.Machine.execAtswp sp d a b s
  | .atcas sp d a b c => Sys2Proof.Machine.execAtcas sp d a b c s
  | .atfmin flag sp d a b => Sys2Proof.Machine.execAtfmin flag sp d a b s
  | .atfmax flag sp d a b => Sys2Proof.Machine.execAtfmax flag sp d a b s
  | .atfadd flag sp d a b => Sys2Proof.Machine.execAtfadd flag sp d a b s
  | .gongArr d a n => Sys2Proof.Machine.execGongArr d a n s
  | .gongWait a => Sys2Proof.Machine.execGongWait a s
  | .gongHdl flag sp d a b => Sys2Proof.Machine.execGongHdl flag sp d a b s
  | .gongInit sp a b => Sys2Proof.Machine.execGongInit sp a b s
  | .lstep lead d a b => Sys2Proof.Machine.execLstep lead d a b s
  | .lgraph lead d a b => Sys2Proof.Machine.execLgraph lead d a b s
  | .cmuTab a tag => Sys2Proof.Machine.execCmuTab a tag s
  | .cmuFrm a tag => Sys2Proof.Machine.execCmuFrm a tag s
  | .mpb a tag => Sys2Proof.Machine.execMpb a tag s
  | .belLook a tag => Sys2Proof.Machine.execBelLook a tag s
  | .belDep a tag => Sys2Proof.Machine.execBelDep a tag s
  | .belRes a tag => Sys2Proof.Machine.execBelRes a tag s
  | .belPin a tag => Sys2Proof.Machine.execBelPin a tag s
  | .act bank row => Sys2Proof.Machine.execAct bank row s
  | .rd bank col beat => Sys2Proof.Machine.execRd bank col beat s
  | .wr bank col beat => Sys2Proof.Machine.execWr bank col beat s
  | .pre bank => Sys2Proof.Machine.execPre bank s
  | .prea => Sys2Proof.Machine.execPrea s
  | .refpb bank => Sys2Proof.Machine.execRefpb bank s
  | .rda bank col beat => Sys2Proof.Machine.execRda bank col beat s
  | .wra bank col beat => Sys2Proof.Machine.execWra bank col beat s
  | .ringSet base lines rank => Sys2Proof.Machine.execRingSet base lines rank s
  | .ringSeek rows beat => Sys2Proof.Machine.execRingSeek rows beat s
  | .ringAdv rows beat => Sys2Proof.Machine.execRingAdv rows beat s
  | .ringGong beat => Sys2Proof.Machine.execRingGong beat s
  | .wrm bank col beat mask => Sys2Proof.Machine.execWrm bank col beat mask s
  | .rdz bank col => Sys2Proof.Machine.execRdz bank col s
  | .wrz bank col => Sys2Proof.Machine.execWrz bank col s
  | .dmark beat code => Sys2Proof.Machine.execDmark beat code s
  | .nop => Sys2Proof.Machine.execNop s
  | .trap code => Sys2Proof.Machine.execTrap code s
  | .trapnz a code => Sys2Proof.Machine.execTrapnz a code s
  | .brk code => Sys2Proof.Machine.execBrk code s
  | .svc d a code => Sys2Proof.Machine.execSvc d a code s
  | .event d a code => Sys2Proof.Machine.execEvent d a code s
  | .ckmark code => Sys2Proof.Machine.execCkmark code s
  | .ill body => Sys2Proof.Machine.execIll body s
  | .unassignedOpcode op => Sys2Proof.Machine.execUnassignedOpcode op s
  | .stepOverrun g => Sys2Proof.Machine.execStepOverrun g s
  | .abandonmentFinish g => Sys2Proof.Machine.execAbandonmentFinish g s
  | .trapRecord g => Sys2Proof.Machine.execTrapRecord g s
  | .stepCompletion g => Sys2Proof.Machine.execStepCompletion g s
  | .flagAreaWrite job => Sys2Proof.Machine.execFlagAreaWrite job s
  | .segmentRelease g => Sys2Proof.Machine.execSegmentRelease g s
  | .loopIterationStart g rank strm => Sys2Proof.Machine.execLoopIterationStart g rank strm s
  | .dynamicWaitEnd g rank => Sys2Proof.Machine.execDynamicWaitEnd g rank s
  | .waitBudgetExhausted g rank => Sys2Proof.Machine.execWaitBudgetExhausted g rank s
  | .untimedBeatLanding req move => Sys2Proof.Machine.execUntimedBeatLanding req move s
  | .untimedCompletion req cancelled => Sys2Proof.Machine.execUntimedCompletion req cancelled s
  | .traceForward core => Sys2Proof.Machine.execTraceForward core s
  | .refreshAccrual pch bank => Sys2Proof.Machine.execRefreshAccrual pch bank s
  | .baseDieRefresh pch bank => Sys2Proof.Machine.execBaseDieRefresh pch bank s
  | .abandonPrecharge pch bank => Sys2Proof.Machine.execAbandonPrecharge pch bank s
  | .pooledSlot pch => Sys2Proof.Machine.execPooledSlot pch s
  | .scrub key => Sys2Proof.Machine.execScrub key s
  | .dispatchSlot => Sys2Proof.Machine.execDispatchSlot s
  | .stagingCheck g => Sys2Proof.Machine.execStagingCheck g s
  | .downbeat g => Sys2Proof.Machine.execDownbeat g s
  | .waiterRelease stepId => Sys2Proof.Machine.execWaiterRelease stepId s
  | .futureResolved root va entry => Sys2Proof.Machine.execFutureResolved root va entry s
  | .regionResident job lreg pch rows => Sys2Proof.Machine.execRegionResident job lreg pch rows s
  | .preemption op => Sys2Proof.Machine.execPreemption op s
  | .affinityHoldExpiry op => Sys2Proof.Machine.execAffinityHoldExpiry op s
  | .hangTimeout => Sys2Proof.Machine.execHangTimeout s
  | .queueRecordWrite q rec => Sys2Proof.Machine.execQueueRecordWrite q rec s
  | .versionRegister rec => Sys2Proof.Machine.execVersionRegister rec s
  | .pchModeChange pch mode => Sys2Proof.Machine.execPchModeChange pch mode s
  | .launchPacket off bytes => Sys2Proof.Machine.execLaunchPacket off bytes s
  | .framePacket q bytes => Sys2Proof.Machine.execFramePacket q bytes s
  | .accessUnitConsumed stream => Sys2Proof.Machine.execAccessUnitConsumed stream s
  | .frameOutput stream pic => Sys2Proof.Machine.execFrameOutput stream pic s
  | .frameGongArrival stream => Sys2Proof.Machine.execFrameGongArrival stream s
  | .streamOpen stream engine codec q rate gong => Sys2Proof.Machine.execStreamOpen stream engine codec q rate gong s
  | .layerTableLoad req => Sys2Proof.Machine.execLayerTableLoad req s
  | .frameScoring req => Sys2Proof.Machine.execFrameScoring req s
  | .belfryDeposit req => Sys2Proof.Machine.execBelfryDeposit req s
  | .depositCopyDone req => Sys2Proof.Machine.execDepositCopyDone req s
  | .belfryLookup req => Sys2Proof.Machine.execBelfryLookup req s
  | .belfryResumption req => Sys2Proof.Machine.execBelfryResumption req s
  | .belfryPin req => Sys2Proof.Machine.execBelfryPin req s
  | .rowRepair pch bank row hard => Sys2Proof.Machine.execRowRepair pch bank row hard s
  | .dieSubstitution die => Sys2Proof.Machine.execDieSubstitution die s
  | .substitutionEnd die => Sys2Proof.Machine.execSubstitutionEnd die s
  | .dieAbsent die => Sys2Proof.Machine.execDieAbsent die s
  | .hostWindowWrite off bytes => Sys2Proof.Machine.execHostWindowWrite off bytes s
  | .hostWindowRead off len => Sys2Proof.Machine.execHostWindowRead off len s
  | .invgo val => Sys2Proof.Machine.execInvgo val s
  | .invalidationDone => Sys2Proof.Machine.execInvalidationDone s
  | .econs ring val => Sys2Proof.Machine.execEcons ring val s
  | .rctlGo val => Sys2Proof.Machine.execRctlGo val s
  | .registerWrite bar off val => Sys2Proof.Machine.execRegisterWrite bar off val s
  | .getVersion => Sys2Proof.Machine.execGetVersion s
  | .getCapabilities => Sys2Proof.Machine.execGetCapabilities s
  | .negotiateAlgorithms hash asym => Sys2Proof.Machine.execNegotiateAlgorithms hash asym s
  | .getDigests => Sys2Proof.Machine.execGetDigests s
  | .getCertificate slot off len => Sys2Proof.Machine.execGetCertificate slot off len s
  | .challenge slot nonce => Sys2Proof.Machine.execChallenge slot nonce s
  | .getMeasurements index nonce => Sys2Proof.Machine.execGetMeasurements index nonce s
  | .configurationRequest write reg val => Sys2Proof.Machine.execConfigurationRequest write reg val s
  | .coldReset => Sys2Proof.Machine.execColdReset s
  | .bootStage imgs => Sys2Proof.Machine.execBootStage imgs s
  | .functionLevelReset => Sys2Proof.Machine.execFunctionLevelReset s
  | .thermalHold tempC => Sys2Proof.Machine.execThermalHold tempC s
  | .thermalHoldEnd tempC => Sys2Proof.Machine.execThermalHoldEnd tempC s
  | .powerHold watts => Sys2Proof.Machine.execPowerHold watts s
  | .powerHoldEnd watts => Sys2Proof.Machine.execPowerHoldEnd watts s
  | .thermalShutdown => Sys2Proof.Machine.execThermalShutdown s
  | .jobAbort job => Sys2Proof.Machine.execJobAbort job s
  | .lineRemap unit => Sys2Proof.Machine.execLineRemap unit s

end Sys2Proof.Machine
end

