-- ==== Sys2Proof/Machine/Step.lean ====
section
/-! DEFINITION. One step of the machine. -/
namespace Sys2Proof.Machine

/-- One step: the next thing that happens (log 3). -/
def step (s : State) : Host.Outcome State Fault Refusal :=
  match s.turn with
  | .run i t => exec i t
  | .auto a => .next (a.apply s)
  | .done t => .next t

/-- `s` with the instruction `w` where step fetches its next instruction (log 5). -/
def State.withFetchWord (s : State) (_nbits w : Nat) : State := s.placeWord w

end Sys2Proof.Machine
end

