-- ==== Sys2Proof/Safety.lean ====
section
/-! DEFINITION. The words claims are made in: when a word issues without a fault, the state it leaves, a step that no
fault has touched, and what one event or word may leave alone. -/
namespace Sys2Proof.Machine

/-- A word reads some locations and nothing stands in its way at issue: it decodes in its stream with its widths and codes
(R116, R128, R129), no location read is a timed delivery still pending (R106), none is in a parity group in error (R384),
and in trap mode none is pending at all (R104). -/
def Ctx.clear (x : Ctx) (i : Instr) (reads : List Loc) : Bool :=
  (x.decodeTrap i).isNone &&
  (reads.filterMap (hazardOf x.t true (x.against ⟨reads, .ok {}⟩))).isEmpty &&
  (parityTrap x.s.err.parity x.c.gcore reads).isNone &&
  (x.c.mode != 2 || (x.hazards ⟨reads, .ok {}⟩).isEmpty)

/-- The state a word leaves that issues with effect `e`: the effect, and in record mode the hazards of its reads in HITS and
the record log (R36, R105). -/
def Ctx.issued (x : Ctx) (reads : List Loc) (e : Eff) : State :=
  (x.commit e).modCore x.gid x.who.rank fun c =>
    if x.c.mode = 1 then c.record x.g.dbt x.who (x.hazards ⟨reads, .ok {}⟩) else c

/-- `exec i` answers the next state that effect `e` gives, in every state whose cursor names a running stream that issues `i`
where the word is clear and `cond` holds. -/
def Completes (i : Instr) (reads : Ctx → List Loc) (cond : Ctx → Prop) (e : Ctx → Eff) : Prop :=
  ∀ s x, s.ctx s.cursor i = some x → x.clear i (reads x) = true → cond x →
    exec i s = .next (x.issued (reads x) (e x))

/-- `exec i` answers the state in which the word has met fault `tr` and had no other effect (R41, R108), under the same
conditions. -/
def Faults (i : Instr) (reads : Ctx → List Loc) (cond : Ctx → Prop) (tr : Ctx → Trap) : Prop :=
  ∀ s x, s.ctx s.cursor i = some x → x.clear i (reads x) = true → cond x →
    exec i s = .next (s.raise x.gid s.tlc (some x.who) (tr x))

/-- No condition. -/
def always (_ : Ctx) : Prop := True

/-- The effect of a word whose result is the low bits of `v`, written to `x` operand `d` after `lat` cycles, with flags `fl`
raised on the same cycle (R131, R35). -/
def Ctx.xEff (x : Ctx) (d : Opnd) (v : Int) (lat : Nat) (fl : Flags := 0) : Eff :=
  { claims := [(d.xloc, x.s.tlc + lat)]
    acts := (x.s.tlc + lat, .wx d.start.toNat d.width (low v d.width)) :: (if fl = 0 then [] else [(x.s.tlc + lat, .setFlags fl)]) }

/-- The effect of a word whose results are written to the lanes `m` of `v` operand `d` (R158): nothing for no lane. -/
def Ctx.vEff (x : Ctx) (d : Opnd) (m : Mask) (vals : List Nat) (lat : Nat) (fl : Flags := 0) : Eff :=
  { claims := if m = 0 then [] else [(.v d.start.toNat d.slices m, x.s.tlc + lat)]
    acts := (if m = 0 then [] else [(x.s.tlc + lat, .wv d.start.toNat d.width m vals)]) ++
      (if fl = 0 then [] else [(x.s.tlc + lat, .setFlags fl)]) }

/-- The effect of a word that writes all of mask `k`; a write to k0 is discarded (R28, R159). -/
def Ctx.kEff (x : Ctx) (k : Nat) (bits val : Mask) (lat : Nat) (fl : Flags := 0) : Eff :=
  { claims := if k = 0 then [] else [(.k k bits, x.s.tlc + lat)]
    acts := (if k = 0 then [] else [(x.s.tlc + lat, .wk k bits val)]) ++ (if fl = 0 then [] else [(x.s.tlc + lat, .setFlags fl)]) }

/-- Fewer than 32 untimed requests of a core are outstanding (R213). -/
def Ctx.roomForRequest (x : Ctx) : Bool := decide ((x.g.reqs.filter fun r => r.who.rank == x.who.rank).length < 32)

/-- What issuing an untimed request leaves (R213, R214, R229): the request last in the gang's queue, its tag pending and not done (its
status cleared where no other request of the tag was pending), HD registered, and for `im:` one more request that will land there. -/
def Ctx.requestEff (x : Ctx) (tag : BitVec 4) (kind : ReqKind) (io : BitVec 2) (h : Option (Nat × Except Trap Place)) (im : Bool)
    (due : Option Nat) (first : Nat → List (Nat × Act)) : Eff :=
  let hd : Option (Nat × Place) := match h with | some (v, .ok p) => some (v, p) | _ => none
  let bit : BitVec 16 := 1#16 <<< tag.toNat
  { acts := first x.s.reqSeq ++ (match hd with | some (v, p) => x.registers v p | none => [])
    core := fun c => { c with
      tags := if c.pend &&& bit = 0 then aset tag.toNat ⟨false, 0⟩ c.tags else c.tags
      pend := c.pend ||| bit, done := c.done &&& ~~~bit, imOut := if im then c.imOut + 1 else c.imOut }
    gang := fun g => { g with reqs := g.reqs ++ [
      { id := x.s.reqSeq, who := x.who, tag := tag.toNat, kind := kind, io := io, handle := hd.map fun q => BitVec.ofNat 64 q.1
        block := [], seq := x.s.reqSeq, moves := due.map fun _ => [], ordered := false, items := due.toList.length, drop := false, late := none
        flags := 0, status := none, lastBeat := x.s.tlc, due := due, pages := [], draw := none, got := [], node := none }] }
    dev := fun s =>
      let s := { s with reqSeq := s.reqSeq + 1 }
      if im then s.setInfo x.c.gcore { s.info x.c.gcore with valid := false } else s }

/-- What no word changes on its issue cycle in a core: its files, latches' rows and step registers but for what `Eff.core` of
the few words that have one names. -/
def Core.sameFiles (c d : Core) : Prop :=
  d.x = c.x ∧ d.v = c.v ∧ d.k = c.k ∧ d.acc = c.acc ∧ d.cnt = c.cnt ∧ d.flags = c.flags ∧ d.mode = c.mode ∧
    d.budget = c.budget ∧ d.slots = c.slots ∧ d.outDesc = c.outDesc ∧ d.win = c.win ∧ d.pad = c.pad

/-- The core of a rank of a gang. -/
def State.coreOn (s : State) (gid rank : Nat) : Option Core := (aget gid s.gangs).bind (·.coreAt rank)

/-- The machine keeps its memory in the one canonical form (log 1). -/
def State.Inv (s : State) : Prop := s.mem.wf = true

/-- No step has met a fault. -/
def State.faultless (s : State) : Bool := s.gangs.all fun p => p.2.fault.isNone

/-- A run of steps that each answer a next state. -/
def State.after (s : State) : Nat → Option State
  | 0 => some s
  | n + 1 => match step s with
    | .next t => t.after n
    | _ => none

end Sys2Proof.Machine
end

