-- ==== Sys2Proof/Certificates/Slice0/Obligations.lean ====
section
/-! DEFINITION. The statements about the model, each from the numbered rules of the spec. -/
open Sys2Proof Sys2Proof.Machine


/-! Scalar arithmetic (05_control_instructions). `Completes i reads cond e` (Safety) says: wherever the cursor names a running
stream of a core, the word is clear (it decodes there, and no location it reads is pending, poisoned in parity or, in trap
mode, hazardous) and `cond` holds, `exec i` ANSWERS the next state that effect `e` gives. `x.xEff d v lat fl` writes the low bits
of `v` to operand `d` on issue + lat, and raises flags `fl` on that cycle. -/

/-- R132: the two-operand arithmetic of A = Ext(a) and B = Ext(b), with latency 1, and 3 for MUL and MULH.
R132: logic on the operands extended to 64 bits. -/
def Obligations.TwoOperandInstructions : Prop :=
  (∀ (sg : Bool) (d a b : Opnd),
    Completes (.add sg d a b) (fun _ => [a.xloc, b.xloc]) always (fun x => x.xEff d (x.c.ext sg a + x.c.ext sg b) 1) ∧
    Completes (.sub sg d a b) (fun _ => [a.xloc, b.xloc]) always (fun x => x.xEff d (x.c.ext sg a - x.c.ext sg b) 1) ∧
    Completes (.mul sg d a b) (fun _ => [a.xloc, b.xloc]) always (fun x => x.xEff d (x.c.ext sg a * x.c.ext sg b) 3) ∧
    Completes (.mulh sg d a b) (fun _ => [a.xloc, b.xloc]) always
      (fun x => x.xEff d ((x.c.ext sg a * x.c.ext sg b) / (2 ^ d.width : Nat)) 3) ∧
    Completes (.min sg d a b) (fun _ => [a.xloc, b.xloc]) always
      (fun x => x.xEff d (if x.c.ext sg a ≤ x.c.ext sg b then x.c.ext sg a else x.c.ext sg b) 1) ∧
    Completes (.max sg d a b) (fun _ => [a.xloc, b.xloc]) always
      (fun x => x.xEff d (if x.c.ext sg a ≤ x.c.ext sg b then x.c.ext sg b else x.c.ext sg a) 1) ∧
    Completes (.adds sg d a b) (fun _ => [a.xloc, b.xloc]) always (fun x => x.xEff d (sat (x.c.ext sg a + x.c.ext sg b) d.width sg) 1) ∧
    Completes (.subs sg d a b) (fun _ => [a.xloc, b.xloc]) always (fun x => x.xEff d (sat (x.c.ext sg a - x.c.ext sg b) d.width sg) 1)) ∧
  (∀ (sg : Bool) (d a b : Opnd),
    Completes (.and sg d a b) (fun _ => [a.xloc, b.xloc]) always
      (fun x => x.xEff d (bits64 (· &&& ·) (x.c.ext sg a) (x.c.ext sg b)) 1) ∧
    Completes (.or sg d a b) (fun _ => [a.xloc, b.xloc]) always
      (fun x => x.xEff d (bits64 (· ||| ·) (x.c.ext sg a) (x.c.ext sg b)) 1) ∧
    Completes (.xor sg d a b) (fun _ => [a.xloc, b.xloc]) always
      (fun x => x.xEff d (bits64 (· ^^^ ·) (x.c.ext sg a) (x.c.ext sg b)) 1) ∧
    Completes (.andn sg d a b) (fun _ => [a.xloc, b.xloc]) always
      (fun x => x.xEff d (bits64 (fun p q => p &&& (q ^^^ (2 ^ 64 - 1))) (x.c.ext sg a) (x.c.ext sg b)) 1))

/-- R133: quotient and remainder with the quotient truncated toward zero; a zero divisor writes all ones, and the dividend, and
raises DZ; 18 cycles where every width is at most 32 bits, else 34. -/
def Obligations.DivisionAndRemainder : Prop :=
  ∀ (sg : Bool) (d a b : Opnd),
    Completes (.div sg d a b) (fun _ => [a.xloc, b.xloc]) always
      (fun x => if x.c.ext sg b = 0 then x.xEff d (-1) (if a.width ≤ 32 && b.width ≤ 32 && d.width ≤ 32 then 18 else 34) flagDZ
        else x.xEff d ((x.c.ext sg a).tdiv (x.c.ext sg b)) (if a.width ≤ 32 && b.width ≤ 32 && d.width ≤ 32 then 18 else 34)) ∧
    Completes (.rem sg d a b) (fun _ => [a.xloc, b.xloc]) always
      (fun x => if x.c.ext sg b = 0 then
          x.xEff d (x.c.ext sg a) (if a.width ≤ 32 && b.width ≤ 32 && d.width ≤ 32 then 18 else 34) flagDZ
        else x.xEff d ((x.c.ext sg a).tmod (x.c.ext sg b)) (if a.width ≤ 32 && b.width ≤ 32 && d.width ≤ 32 then 18 else 34))

/-- R134, R137: shifts by the whole unsigned value of b, whatever its size (a shift of the destination's width or more writes zero,
or all ones for a negative value shifted right), the rotation of the destination's width, comparison with the condition of SUB, and the test of one bit of Ext(a). -/
def Obligations.ShiftsAndComparisons : Prop :=
  ∀ (sg : Bool) (d a b : Opnd),
    Completes (.shl sg d a b) (fun _ => [a.xloc, b.xloc]) always
      (fun x => x.xEff d (if d.width ≤ x.c.rd b then 0 else x.c.ext sg a * (2 ^ x.c.rd b : Nat)) 1) ∧
    Completes (.shr sg d a b) (fun _ => [a.xloc, b.xloc]) always
      (fun x => x.xEff d (if d.width ≤ x.c.rd b then (if x.c.ext sg a < 0 then -1 else 0) else x.c.ext sg a / (2 ^ x.c.rd b : Nat)) 1) ∧
    Completes (.rot sg d a b) (fun _ => [a.xloc, b.xloc]) always
      (fun x => x.xEff d (rotr (low (x.c.ext sg a) d.width) d.width (x.c.rd b) : Nat) 1) ∧
    (∀ cc : BitVec 3, Completes (.cmp cc sg d a b) (fun _ => [a.xloc, b.xloc]) always
      (fun x => x.xEff d (if ccHolds cc.toNat (x.c.ext sg a) (x.c.ext sg b) then 1 else 0) 1)) ∧
    Completes (.btst sg d a b) (fun _ => [a.xloc, b.xloc]) always
      (fun x => x.xEff d (x.c.ext sg a / (2 ^ x.c.rd b : Nat) % 2) 1)

/-- R135: the one-operand instructions.
R136, R138: field extraction and insertion (INSR reads d too), SEL, and MOVC, which makes no write at all when b is zero. -/
def Obligations.OneOperandAndSelection : Prop :=
  (∀ (sg : Bool) (d a : Opnd),
    Completes (.mov sg d a) (fun _ => [a.xloc]) always (fun x => x.xEff d (x.c.ext sg a) 1) ∧
    Completes (.abs sg d a) (fun _ => [a.xloc]) always (fun x => x.xEff d (|x.c.ext sg a|) 1) ∧
    Completes (.neg sg d a) (fun _ => [a.xloc]) always (fun x => x.xEff d (-(x.c.ext sg a)) 1) ∧
    Completes (.clz d a) (fun _ => [a.xloc]) always (fun x => x.xEff d (clzN (x.c.rd a) a.width) 1) ∧
    Completes (.ctz d a) (fun _ => [a.xloc]) always (fun x => x.xEff d (ctzN (x.c.rd a) a.width) 1) ∧
    Completes (.popc d a) (fun _ => [a.xloc]) always (fun x => x.xEff d (popcN (x.c.rd a) a.width) 1) ∧
    Completes (.brev d a) (fun _ => [a.xloc]) always (fun x => x.xEff d (brevN (x.c.rd a) a.width) 1)) ∧
  (∀ (sg : Bool) (d a b c : Opnd),
    Completes (.extr sg d a b) (fun _ => [a.xloc, b.xloc]) always
      (fun x => x.xEff d (
        let f := low (x.c.ext sg a / (2 ^ fld (x.c.rd b) 0 6 : Nat)) (fld (x.c.rd b) 6 6 + 1)
        if sg then sext f (fld (x.c.rd b) 6 6 + 1) else f) 1) ∧
    Completes (.insr sg d a b) (fun _ => [a.xloc, b.xloc, d.xloc]) always
      (fun x => x.xEff d (insrR (x.c.rd d) (x.c.ext sg a) (x.c.rd b)) 1) ∧
    Completes (.sel sg d a b c) (fun _ => [a.xloc, b.xloc, c.xloc]) always
      (fun x => x.xEff d (if x.c.ext sg c ≠ 0 then x.c.ext sg a else x.c.ext sg b) 1) ∧
    Completes (.movc sg d a b) (fun _ => [a.xloc, b.xloc]) (fun x => x.c.ext sg b ≠ 0) (fun x => x.xEff d (x.c.ext sg a) 1) ∧
    Completes (.movc sg d a b) (fun _ => [a.xloc, b.xloc]) (fun x => x.c.ext sg b = 0) (fun _ => {}))

/-- R139: the immediate forms; the shift forms take Ext(a) and a count below 64.
R140: LI and LIU, and LIH, which writes slices s + 8 to s + 15 of its 64-bit operand and no other.
R141: address generation. -/
def Obligations.ImmediatesAndAddresses : Prop :=
  (∀ (sg : Bool) (n : BitVec 6) (d a : Opnd) (imm : BitVec 18),
    Completes (.addi d a imm) (fun _ => [a.xloc]) always (fun x => x.xEff d (x.c.sx a + imm.toInt) 1) ∧
    Completes (.andi d a imm) (fun _ => [a.xloc]) always (fun x => x.xEff d (bits64 (· &&& ·) (x.c.sx a) imm.toInt) 1) ∧
    Completes (.ori d a imm) (fun _ => [a.xloc]) always (fun x => x.xEff d (bits64 (· ||| ·) (x.c.sx a) imm.toInt) 1) ∧
    Completes (.xori d a imm) (fun _ => [a.xloc]) always (fun x => x.xEff d (bits64 (· ^^^ ·) (x.c.sx a) imm.toInt) 1) ∧
    Completes (.muli d a imm) (fun _ => [a.xloc]) always (fun x => x.xEff d (x.c.sx a * imm.toInt) 3) ∧
    Completes (.shli sg n d a) (fun _ => [a.xloc]) always (fun x => x.xEff d (x.c.ext sg a * (2 ^ n.toNat : Nat)) 1) ∧
    Completes (.shri sg n d a) (fun _ => [a.xloc]) always (fun x => x.xEff d (x.c.ext sg a / (2 ^ n.toNat : Nat)) 1) ∧
    Completes (.cmpi d a imm) (fun _ => [a.xloc]) always
      (fun x => x.xEff d (if x.c.sx a < imm.toInt then -1 else if x.c.sx a = imm.toInt then 0 else 1) 1)) ∧
  ((∀ (d : Opnd) (imm : BitVec 32),
    Completes (.li d imm) (fun _ => []) always (fun x => x.xEff d imm.toInt 1) ∧
    Completes (.liu d imm) (fun _ => []) always (fun x => x.xEff d imm.toNat 1) ∧
    Completes (.lih d imm) (fun _ => []) always (fun x => x.xEff ⟨d.start + 8, 7⟩ imm.toNat 1)) ∧
  (∀ (sc : BitVec 3) (sg : Bool) (d a b : Opnd) (imm : BitVec 18),
    Completes (.agen sc sg d a b) (fun _ => [a.xloc, b.xloc]) always
      (fun x => x.xEff d (x.c.rd a + x.c.ext sg b * (2 ^ sc.toNat : Nat)) 1) ∧
    Completes (.ageni d a imm) (fun _ => [a.xloc]) always (fun x => x.xEff d (x.c.rd a + 64 * imm.toInt) 1)))

/-- R144 to R146: the checksum continued over the bytes of b, one step of the rolling key, and the halves of masks (XTOK to k0
is discarded). -/
def Obligations.ChecksumKeyAndMaskHalves : Prop :=
  ∀ (hi : Bool) (k : BitVec 3) (d a b : Opnd),
    Completes (.crcx d a b) (fun _ => [a.xloc, b.xloc]) always
      (fun x => x.xEff d (crc64 (x.c.rd a) ((List.range (b.width / 8)).map fun i => fld (x.c.rd b) (8 * i) 8)) 1) ∧
    Completes (.rollk d a b) (fun _ => [a.xloc, b.xloc]) always
      (fun x => x.xEff d ((x.c.rd a * 0x9E3779B97F4A7C15 + x.c.rd b) % 2 ^ 64 : Nat) 3) ∧
    Completes (.ktox hi k d) (fun _ => [.k k.toNat (halfBits hi)]) always
      (fun x => x.xEff d (fld (x.c.kmask k.toNat).toNat (if hi then 64 else 0) 64) 1) ∧
    Completes (.xtok hi k a) (fun _ => [a.xloc]) always
      (fun x => x.kEff k.toNat (halfBits hi) (BitVec.ofNat 128 (x.c.rd a * 2 ^ (if hi then 64 else 0))) 1)

/-- R142, R143, R386, R387, R389: loads of own core memory. Inside the carve-out, where no beat is poisoned, LD takes the little-endian bytes
and FILL the slices: they land on issue + 4, as they stand at the end of the issue cycle, and every line is reached on issue + 1, on
which cycle a beat that cannot be corrected is the word's fault (cause 82); corrections are recorded. A poisoned beat is its fault on
its issue cycle (cause 65), an address outside the carve-out cause 33. -/
def Obligations.ScalarLoads : Prop :=
  ∀ (d a : Opnd) (imm : BitVec 18),
    let ad (x : Ctx) : Int := x.c.rd a + imm.toInt
    let key (x : Ctx) : Nat := cmKey x.c.gcore (ad x).toNat
    let load (n : Nat) (i : Instr) : Prop :=
      Completes i (fun x => a.xloc :: cmLoc (ad x) n)
        (fun x => x.g.inCarve (ad x) n = true ∧ ∀ b ∈ beatsOf (key x) n, x.s.poison.contains b = false)
        (fun x => { claims := [(d.xloc, x.s.tlc + 4)]
                    acts := (x.s.tlc, .xload (ad x).toNat n d.start.toNat d.width (x.s.tlc + 4)) ::
                      bankActs (x.s.tlc + 1) x.c.gcore false (linesOf (ad x).toNat n) }) ∧
      (∀ b, Faults i (fun x => a.xloc :: cmLoc (ad x) n)
        (fun x => x.g.inCarve (ad x) n = true ∧ (beatsOf (key x) n).find? x.s.poison.contains = some b)
        (fun x => { cause := 65, key := b * 32, hi := packBits [(0, 3, 0), (8, 56, (ad x).toNat / 32 * 32 + (b * 32 - key x / 32 * 32))] })) ∧
      Faults i (fun x => a.xloc :: cmLoc (ad x) n) (fun x => x.g.inCarve (ad x) n = false)
        (fun x => { cause := 33, lo := rangeLo 0 (ad x) })
    load (d.width / 8) (.ld d a imm) ∧ load ((d.slices + 1) / 2) (.fill d a imm) ∧
    ∀ (s : State) (gid : Nat) (w : Who) (c : Core) (addr n start width land : Nat), s.coreOf gid w = some c →
      let r := s.fetch (cmKey c.gcore addr) n
      let lands (t : State) : State := t.addAgenda gid [⟨land, w, .wx start width (leNat r.bytes % 2 ^ width)⟩]
      (s.err.upsets = [] → r.bytes = s.mem.bytes (cmKey c.gcore addr) n) ∧
      (r.bad = none → s.readAct gid w (.xload addr n start width land) = lands (s.correctedAll (aget gid s.gangs) 0 r)) ∧
      (∀ u, r.bad = some u → storeOf u = some .core →
        s.readAct gid w (.xload addr n start width land) = lands ((s.correctedAll (aget gid s.gangs) 0 r).addAgenda gid
          [⟨s.tlc + 1, w, .late { cause := 82, key := u, hi := packBits [(0, 3, 0), (8, 56, (addr + u - cmKey c.gcore addr) / 32 * 32)] }⟩]))

/-- R142, R143: stores to own core memory, whose bytes land on issue + 3 at addr in the core's memory; outside the carve-out
the fault is cause 33. -/
def Obligations.ScalarStores : Prop :=
  ∀ (d a : Opnd) (imm : BitVec 18),
    (∀ n, n = d.width / 8 →
      Completes (.st d a imm) (fun _ => [a.xloc, d.xloc]) (fun x => x.g.inCarve (x.c.rd a + imm.toInt) n = true)
        (fun x =>
          { claims := [(.cm (x.c.rd a + imm.toInt).toNat n, x.s.tlc + 3)]
            acts := (x.s.tlc + 3, .mem (cmKey x.c.gcore (x.c.rd a + imm.toInt).toNat) (leBytes n (x.c.rd d)) false) ::
              bankActs (x.s.tlc + 3) x.c.gcore true (linesOf (x.c.rd a + imm.toInt).toNat n) }) ∧
      Faults (.st d a imm) (fun _ => [a.xloc, d.xloc]) (fun x => x.g.inCarve (x.c.rd a + imm.toInt) n = false)
        (fun x => { cause := 33, lo := rangeLo 0 (x.c.rd a + imm.toInt) })) ∧
    (∀ n, n = (d.slices + 1) / 2 →
      Completes (.spill d a imm) (fun _ => [a.xloc, d.xloc]) (fun x => x.g.inCarve (x.c.rd a + imm.toInt) n = true)
        (fun x =>
          { claims := [(.cm (x.c.rd a + imm.toInt).toNat n, x.s.tlc + 3)]
            acts := (x.s.tlc + 3, .mem (cmKey x.c.gcore (x.c.rd a + imm.toInt).toNat) (leBytes n (x.c.rd d)) false) ::
              bankActs (x.s.tlc + 3) x.c.gcore true (linesOf (x.c.rd a + imm.toInt).toNat n) }) ∧
      Faults (.spill d a imm) (fun _ => [a.xloc, d.xloc]) (fun x => x.g.inCarve (x.c.rd a + imm.toInt) n = false)
        (fun x => { cause := 33, lo := rangeLo 0 (x.c.rd a + imm.toInt) }))

/-- R156, R157, R33, R36, R37: MFSR writes the register as it stands, ASYNC and PLANE as they stand once the cycle's other words
have issued (log 25, the model's reading of `as it stands on the issue cycle` for registers that other words change on theirs); MTSR clears
the flags of v, sets CHK.MODE (3 traps with cause 2), makes BUDGET the lesser of itself and v on the next cycle, and traps with cause 33
and reason 2 on a register it may not write; a number without a register traps with cause 2. -/
def Obligations.StepRegisters : Prop :=
  ∀ (d a : Opnd) (num : BitVec 10),
    (srPresent num.toNat = true → num ≠ 19 → num ≠ 21 →
      Completes (.mfsr d num) (fun _ => []) always (fun x => x.xEff d (x.s.stepReg x.g x.c num.toNat) 1)) ∧
    (num = 19 ∨ num = 21 → Completes (.mfsr d num) (fun _ => []) always
      (fun x => { claims := [(d.xloc, x.s.tlc + 1)], acts := [(x.s.tlc, .readReg num.toNat d.start.toNat d.width)] })) ∧
    (∀ (s : State) (gid : Nat) (w : Who) (g : Gang) (c : Core) (st wd : Nat), aget gid s.gangs = some g → s.coreOf gid w = some c →
      s.readAct gid w (.readReg num.toNat st wd) =
        s.addAgenda gid [⟨s.tlc + 1, w, .wx st wd (s.stepReg g c num.toNat % 2 ^ wd)⟩]) ∧
    (srPresent num.toNat = false → ∀ i, i = .mfsr d num ∨ i = .mtsr num a → ∀ s x, s.ctx s.cursor i = some x →
      (∀ e, encode i = some e → streamOk e.op.toNat x.who.strm = true) → exec i s = .next (s.raise x.gid s.tlc (some x.who) { cause := 2 })) ∧
    (∀ (s : State) (gid : Nat) (w : Who) (n : Nat),
      s.landAct gid w (.setBudget n) = s.modCore gid w.rank fun c => { c with budget := min c.budget n }) ∧
    (num = 16 → Completes (.mtsr num a) (fun _ => [a.xloc]) always
      (fun x => { acts := [(x.s.tlc + 1, .clrFlags (BitVec.ofNat 7 (x.c.rd a)))] })) ∧
    (num = 17 → Completes (.mtsr num a) (fun _ => [a.xloc]) (fun x => x.c.rd a % 4 ≠ 3)
      (fun x => { acts := [(x.s.tlc + 1, .setMode (BitVec.ofNat 2 (x.c.rd a)))] })) ∧
    (num = 17 → Faults (.mtsr num a) (fun _ => [a.xloc]) (fun x => x.c.rd a % 4 = 3) (fun _ => { cause := 2 })) ∧
    (num = 18 → Completes (.mtsr num a) (fun _ => [a.xloc]) always
      (fun x => { acts := [(x.s.tlc + 1, .setBudget (x.c.rd a % 2 ^ 32))] })) ∧
    (srPresent num.toNat = true → num ≠ 16 → num ≠ 17 → num ≠ 18 →
      Faults (.mtsr num a) (fun _ => [a.xloc]) always (fun _ => { cause := 33, hi := 2 }))

/-! Branches, loops, waits and boundaries (03_words_timing_assembly, 05_control_instructions). A stream's next word issues on
base + max(IDLE, floor) (R92, R93: `State.dueAt`). -/

/-- R93, R122, R147, R148, R154: a taken branch goes on at its target, whose word issues no earlier than b + 3 (floor 2); a branch
not taken goes on in the ordinary way; BR with COND 0 reads nothing; CALL writes the return address. -/
def Obligations.BranchesTaken : Prop :=
  ∀ (cond : BitVec 3) (a : Opnd) (off : BitVec 24),
    let ok (tgt : Ctx → Int) (x : Ctx) : Prop :=
      6 ≤ tgt x ∧ tgt x < x.s.progLen x.g x.who.rank x.who.strm ∧ ∀ l ∈ x.st.loops, (l.loopPc : Int) < tgt x
    let go (tgt : Ctx → Int) (x : Ctx) : Option (Stream → Stream) :=
      some fun s => { s with pc := (tgt x).toNat, base := x.s.tlc + 1, floor := 2 }
    Completes (.br cond a off) (fun _ => if cond = 0 then [] else [a.xloc])
      (fun x => brTaken cond.toNat (x.c.sx a) = true ∧ ok (fun x => x.st.pc + off.toInt) x)
      (fun x => { flow := go (fun x => x.st.pc + off.toInt) x }) ∧
    Completes (.br cond a off) (fun _ => if cond = 0 then [] else [a.xloc]) (fun x => brTaken cond.toNat (x.c.sx a) = false)
      (fun _ => {}) ∧
    Completes (.call a off) (fun _ => []) (ok (fun x => x.st.pc + off.toInt))
      (fun x => { claims := [(a.xloc, x.s.tlc + 1)]
                  acts := [(x.s.tlc + 1, .wx a.start.toNat a.width ((x.st.pc + 1) % 2 ^ a.width))]
                  flow := go (fun x => x.st.pc + off.toInt) x }) ∧
    Completes (.ret a) (fun _ => [a.xloc]) (ok (fun x => x.c.rd a)) (fun x => { flow := go (fun x => x.c.rd a) x }) ∧
    Completes (.brx a off) (fun _ => [a.xloc]) (ok (fun x => x.c.rd a + off.toInt))
      (fun x => { flow := go (fun x => x.c.rd a + off.toInt) x })

/-- R122, R154: a taken branch outside words 6 to the program's end traps with cause 0; one that lies at or before the LOOP of an
open level traps with cause 16.
R150, R151, R154, R155: LOOP of another level than the next, ENDL without its level, CUE, HOLD, AWAIT and ENDSTEP inside a level, and
ENDSTEP in `c` while a stream of the core is held, trap with cause 16. -/
def Obligations.TargetAndNestFaults : Prop :=
  (∀ (cond : BitVec 3) (a : Opnd) (off : BitVec 24),
    let out (tgt : Ctx → Int) (x : Ctx) : Prop := tgt x < 6 ∨ (x.s.progLen x.g x.who.rank x.who.strm : Int) ≤ tgt x
    let back (tgt : Ctx → Int) (x : Ctx) : Prop := ¬ out tgt x ∧ ∃ l ∈ x.st.loops, tgt x ≤ (l.loopPc : Int)
    let both (i : Instr) (reads : Ctx → List Loc) (taken : Ctx → Prop) (tgt : Ctx → Int) : Prop :=
      Faults i reads (fun x => taken x ∧ out tgt x) (fun _ => { cause := 0 }) ∧
      Faults i reads (fun x => taken x ∧ back tgt x) (fun _ => { cause := 16, lo := 3 })
    both (.br cond a off) (fun _ => if cond = 0 then [] else [a.xloc]) (fun x => brTaken cond.toNat (x.c.sx a) = true)
      (fun x => x.st.pc + off.toInt) ∧
    both (.call a off) (fun _ => []) (fun _ => True) (fun x => x.st.pc + off.toInt) ∧
    both (.ret a) (fun _ => [a.xloc]) (fun _ => True) (fun x => x.c.rd a) ∧
    both (.brx a off) (fun _ => [a.xloc]) (fun _ => True) (fun x => x.c.rd a + off.toInt)) ∧
  (∀ (lvl : BitVec 2) (per : BitVec 20) (mask : BitVec 16) (a : Opnd) (off : BitVec 8),
    Faults (.cue a off) (fun _ => [a.xloc]) (fun x => (if x.g.twoDies then 104 else 16) ≤ off.toNat ∧ x.st.loops ≠ [])
      (fun _ => { cause := 16, lo := 3 }) ∧
    Faults (.loop lvl per) (fun _ => []) (fun x => lvl.toNat ≠ x.st.loops.length) (fun _ => { cause := 16, lo := 3 }) ∧
    Faults (.endl lvl) (fun _ => []) (fun x => ∀ l rest, x.st.loops = l :: rest → l.lvl ≠ lvl.toNat) (fun _ => { cause := 16, lo := 3 }) ∧
    Faults .hold (fun _ => []) (fun x => x.st.loops ≠ []) (fun _ => { cause := 16, lo := 3 }) ∧
    Faults (.await mask) (fun _ => []) (fun x => x.st.loops ≠ []) (fun _ => { cause := 16, lo := 3 }) ∧
    Faults .endstep (fun _ => []) (fun x => x.st.loops ≠ []) (fun _ => { cause := 16, lo := 3 }) ∧
    Faults .endstep (fun _ => []) (fun x => x.st.loops = [] ∧ x.who.strm = .c ∧ x.held = true) (fun _ => { cause := 16, lo := 6 }))

/-- R94, R149, R152, R155, R181, R272: WAIT delays the next word to w + n + 1 + IDLE and does nothing else; HOLD ends the stream's
part in the segment; AWAIT waits on its tags; ENDSTEP ends its stream. Outside every loop level, and for HOLD and ENDSTEP with
the stream's ports released and, in `c`, no stream of the core held, and, in a memory stream, every bank closed.
R96, R150: CUE issues its release offset, at least 16 on one die and 104 on two, with the counts of its operand; outside the
range it traps with cause 2. -/
def Obligations.WaitsEndsAndCues : Prop :=
  (∀ (n : BitVec 32) (mask : BitVec 16),
    Completes (.wait n) (fun _ => []) always
      (fun x => { flow := some fun s => { s with pc := s.pc + 1, base := x.s.tlc + n.toNat + 1, floor := 0 } }) ∧
    Completes .hold (fun _ => []) (fun x => x.st.loops = [] ∧ x.portsTrap = none)
      (fun _ => { flow := some fun s => { s with pc := s.pc + 1, st := .hold } }) ∧
    Completes (.await mask) (fun _ => []) (fun x => x.st.loops = [])
      (fun x => { flow := some fun s => { s with pc := s.pc + 1, st := .wait (.tags mask) x.who } }) ∧
    Completes .endstep (fun _ => [])
      (fun x => x.st.loops = [] ∧ (x.who.strm = .c → x.held = false) ∧ x.portsTrap = none ∧ x.openBank = none)
      (fun _ => { flow := some fun s => { s with st := .ended } })) ∧
  (∀ (a : Opnd) (off : BitVec 8),
    Completes (.cue a off) (fun _ => [a.xloc]) (fun x => (if x.g.twoDies then 104 else 16) ≤ off.toNat ∧ x.st.loops = [])
      (fun x => { gang := fun g => { g with cues := g.cues ++
                    [⟨x.who.rank, x.s.tlc + off.toNat, (List.range 4).map fun j => fld (x.c.rd a) (16 * j) 16, x.who⟩] }
                  flow := some fun s => { s with pc := s.pc + 1, st := .cued } }) ∧
    Faults (.cue a off) (fun _ => [a.xloc]) (fun x => off.toNat < (if x.g.twoDies then 104 else 16)) (fun _ => { cause := 2 }))

/-- R97, R153, R154: LOOP opens the level that comes next, on the cycle and with the period of the gang's first stream to open it,
and with a count of zero goes on after the level's ENDL (after the program where there is none: log 28, the model's choice); ENDL
closes the iteration of the innermost level, and the next word is counted from the iteration's end. -/
def Obligations.LoopsOpenAndClose : Prop :=
  ∀ (lvl : BitVec 2) (per : BitVec 20),
    let opens (x : Ctx) : Nat := (aget lvl.toNat x.st.opened).getD 0
    let first (x : Ctx) := x.g.nest.find? fun e => e.1 == lvl.toNat && e.2.1 == opens x
    let fits (x : Ctx) : Prop := lvl.toNat = x.st.loops.length ∧ ∀ e, first x = some e → e.2.2.1 = x.s.tlc ∧ e.2.2.2 = per.toNat + 1
    let note (x : Ctx) (g : Gang) : Gang := match first x with
      | some _ => g
      | none => { g with nest := g.nest ++ [(lvl.toNat, opens x, x.s.tlc, per.toNat + 1)] }
    let cnt (x : Ctx) : Nat := (x.counts[lvl.toNat]?).getD 0
    Completes (.loop lvl per) (fun _ => []) (fun x => fits x ∧ cnt x ≠ 0)
      (fun x => { gang := note x
                  flow := some fun s => { s with
                    opened := aset lvl.toNat (opens x + 1) s.opened, pc := s.pc + 1, base := x.s.tlc + 1, floor := 0
                    loops := ⟨lvl.toNat, x.s.tlc + 1, per.toNat + 1, cnt x, 0, s.pc + 1, s.pc, none⟩ :: s.loops } }) ∧
    Completes (.loop lvl per) (fun _ => []) (fun x => fits x ∧ cnt x = 0)
      (fun x => { gang := note x
                  flow := some fun s => { s with
                    opened := aset lvl.toNat (opens x + 1) s.opened
                    pc := (findEndl x.s x.g x.who.rank x.who.strm lvl.toNat 16384 (x.st.pc + 1)).getD
                      (x.s.progLen x.g x.who.rank x.who.strm - 1) + 1
                    base := x.s.tlc + 1, floor := 0 } }) ∧
    (∀ l rest, Completes (.endl lvl) (fun _ => []) (fun x => x.st.loops = l :: rest ∧ l.lvl = lvl.toNat ∧ l.endl = none)
      (fun x => { flow := some fun s => { s with
                    pc := if l.iter + 1 < l.count then l.bodyPc else s.pc + 1
                    base := l.origin + (l.iter + 1) * l.period, floor := 0
                    loops := { l with endl := some x.s.tlc } :: rest } }))

/-! System instructions (11_system_trap_instructions). -/

/-- R280 to R282: what the other system instructions do; SVC and EVENT answer 1 while their list or queue has
room, 0 and no entry otherwise. -/
def Obligations.SystemInstructions : Prop :=
  ∀ (d a : Opnd) (code : BitVec 10),
    Completes (.ckmark code) (fun _ => []) always
      (fun x => { flow := some fun s => { s with pc := s.pc + 1, base := x.s.tlc + 1, floor := 0, mark := code } }) ∧
    Completes (.svc d a code) (fun _ => [a.xloc]) (fun x => x.c.svc.length < 4)
      (fun x => { claims := [(d.xloc, x.s.tlc + 1)], acts := [(x.s.tlc + 1, .wx d.start.toNat d.width 1)]
                  core := fun c => { c with svc := c.svc ++ [⟨code, BitVec.ofNat 64 (x.c.rd a), x.who.rank, x.st.pc⟩] } }) ∧
    Completes (.svc d a code) (fun _ => [a.xloc]) (fun x => 4 ≤ x.c.svc.length)
      (fun x => { claims := [(d.xloc, x.s.tlc + 1)], acts := [(x.s.tlc + 1, .wx d.start.toNat d.width 0)] }) ∧
    Completes (.event d a code) (fun _ => [a.xloc]) (fun x => (x.s.info x.c.gcore).trace.length < 16)
      (fun x => { claims := [(d.xloc, x.s.tlc + 1)], acts := [(x.s.tlc + 1, .wx d.start.toNat d.width 1)]
                  dev := fun s => s.setInfo x.c.gcore { x.s.info x.c.gcore with
                    trace := (x.s.info x.c.gcore).trace ++ [x.traceEntry (x.c.rd a) code] } }) ∧
    Completes (.event d a code) (fun _ => [a.xloc]) (fun x => 16 ≤ (x.s.info x.c.gcore).trace.length)
      (fun x => { claims := [(d.xloc, x.s.tlc + 1)], acts := [(x.s.tlc + 1, .wx d.start.toNat d.width 0)] })

/-- R277 to R279, R128, R129: NOP, which has no effect, and the instructions whose effect is to trap: TRAP with cause 4 and its code,
TRAPNZ with cause 4, its code and the value where that is not zero, and no effect where it is, BRK with cause 5 where breakpoints are
enabled, and no effect where they are not, ILL and the unassigned opcodes with cause 0. -/
def Obligations.TrappingInstructions : Prop :=
  ∀ (a : Opnd) (code : BitVec 10) (body : BitVec 46) (op : BitVec 8),
    Completes .nop (fun _ => []) always (fun _ => {}) ∧
    Completes (.trapnz a code) (fun _ => [a.xloc]) (fun x => x.c.rd a = 0) (fun _ => {}) ∧
    Completes (.brk code) (fun _ => []) (fun x => x.g.brken = false) (fun _ => {}) ∧
    Faults (.trap code) (fun _ => []) always (fun _ => { cause := 4, lo := code.toNat }) ∧
    Faults (.trapnz a code) (fun _ => [a.xloc]) (fun x => x.c.rd a ≠ 0) (fun x => { cause := 4, lo := code.toNat, hi := x.c.rd a }) ∧
    Faults (.brk code) (fun _ => []) (fun x => x.g.brken = true) (fun _ => { cause := 5, lo := code.toNat }) ∧
    Faults (.ill body) (fun _ => []) always (fun _ => { cause := 0 }) ∧
    Faults (.unassignedOpcode op) (fun _ => []) always (fun _ => { cause := 0 })

/-! Vector instructions (06_vector_instructions). Sources are read in every lane and written in the active lanes of the governing
mask `x.gov k` (R158); `x.vEff d m vals lat fl` lands lane i of `vals` in lane i of d for every i in m, on issue + lat. -/

/-- R158, R160: the integer instructions act lane by lane as the scalar instruction named, n of a shift being the lane's own. -/
def Obligations.IntegerVectorArithmetic : Prop :=
  ∀ (sg : Bool) (k : BitVec 3) (d a b : Opnd),
    let two (f : Int → Int → Nat → Int) (x : Ctx) : List Nat :=
      (x.c.vrd a).zipWith (fun p q => low (f (ext sg p a.width) (ext sg q b.width) q) d.width) (x.c.vrd b)
    let reads (_ : Ctx) : List Loc := [kloc k.toNat, a.vloc, b.vloc]
    Completes (.vadd sg k d a b) reads always (fun x => x.vEff d (x.gov k) (two (fun p q _ => p + q) x) 2) ∧
    Completes (.vsub sg k d a b) reads always (fun x => x.vEff d (x.gov k) (two (fun p q _ => p - q) x) 2) ∧
    Completes (.vmul sg k d a b) reads always (fun x => x.vEff d (x.gov k) (two (fun p q _ => p * q) x) 4) ∧
    Completes (.vmulh sg k d a b) reads always (fun x => x.vEff d (x.gov k) (two (fun p q _ => (p * q) / (2 ^ d.width : Nat)) x) 4) ∧
    Completes (.vmin sg k d a b) reads always (fun x => x.vEff d (x.gov k) (two (fun p q _ => if p ≤ q then p else q) x) 2) ∧
    Completes (.vmax sg k d a b) reads always (fun x => x.vEff d (x.gov k) (two (fun p q _ => if p ≤ q then q else p) x) 2) ∧
    Completes (.vand sg k d a b) reads always (fun x => x.vEff d (x.gov k) (two (fun p q _ => bits64 (· &&& ·) p q) x) 2) ∧
    Completes (.vor sg k d a b) reads always (fun x => x.vEff d (x.gov k) (two (fun p q _ => bits64 (· ||| ·) p q) x) 2) ∧
    Completes (.vxor sg k d a b) reads always (fun x => x.vEff d (x.gov k) (two (fun p q _ => bits64 (· ^^^ ·) p q) x) 2) ∧
    Completes (.vandn sg k d a b) reads always (fun x => x.vEff d (x.gov k) (two (fun p q _ => bits64 (fun u v => u &&& (v ^^^ (2 ^ 64 - 1))) p q) x) 2) ∧
    Completes (.vadds sg k d a b) reads always (fun x => x.vEff d (x.gov k) (two (fun p q _ => sat (p + q) d.width sg) x) 2) ∧
    Completes (.vsubs sg k d a b) reads always (fun x => x.vEff d (x.gov k) (two (fun p q _ => sat (p - q) d.width sg) x) 2) ∧
    Completes (.vshl sg k d a b) reads always
      (fun x => x.vEff d (x.gov k) (two (fun p _ n => if d.width ≤ n then 0 else p * (2 ^ n : Nat)) x) 2) ∧
    Completes (.vshr sg k d a b) reads always
      (fun x => x.vEff d (x.gov k) (two (fun p _ n => if d.width ≤ n then (if p < 0 then -1 else 0) else p / (2 ^ n : Nat)) x) 2) ∧
    Completes (.vabs sg k d a) (fun _ => [kloc k.toNat, a.vloc]) always
      (fun x => x.vEff d (x.gov k) ((x.c.vrd a).map fun p => low ((ext sg p a.width).natAbs : Int) d.width) 2) ∧
    Completes (.vneg sg k d a) (fun _ => [kloc k.toNat, a.vloc]) always
      (fun x => x.vEff d (x.gov k) ((x.c.vrd a).map fun p => low (-(ext sg p a.width)) d.width) 2) ∧
    Completes (.vmov sg k d a) (fun _ => [kloc k.toNat, a.vloc]) always
      (fun x => x.vEff d (x.gov k) ((x.c.vrd a).map fun p => low (ext sg p a.width) d.width) 2)

/-- R161 to R164: the floating-point arithmetic, rounded once lane by lane (`faddV`, `fmulV`, `fmaV`, `fn1V` of Num), with the flags of
the active lanes only; latency 5 in FP32 and 4 in the narrow formats, 12 for the functions. -/
def Obligations.FloatVectorArithmetic : Prop :=
  ∀ (fmt : BitVec 4) (rnd : BitVec 2) (k : BitVec 3) (d a b c : Opnd),
    let f := fmtOf fmt.toNat
    let lat := if fmt = 0 then 5 else 4
    let eff (lat : Nat) (r : Ctx → List (Nat × Flags)) (x : Ctx) : Eff := x.vEff d (x.gov k) ((r x).map (·.1)) lat
      (flagsOf ((lanesIn (x.gov k)).map fun i => (((r x)[i]?).getD (0, 0)).2))
    let two (g : FVal → FVal → Nat × Flags) (x : Ctx) := (x.fvals fmt a).zipWith g (x.fvals fmt b)
    let three (g : FVal → FVal → FVal → Nat × Flags) (x : Ctx) :=
      ((x.fvals fmt a).zip (x.fvals fmt b)).zipWith (fun p q => g p.1 p.2 q) (x.fvals fmt c)
    let one (g : FVal → Nat × Flags) (x : Ctx) := (x.fvals fmt a).map g
    let r1 (_ : Ctx) : List Loc := [kloc k.toNat, a.vloc]
    let r2 (_ : Ctx) : List Loc := [kloc k.toNat, a.vloc, b.vloc]
    let r3 (_ : Ctx) : List Loc := [kloc k.toNat, a.vloc, b.vloc, c.vloc]
    Completes (.vfadd fmt rnd k d a b) r2 always (eff lat (two (faddV f rnd))) ∧
    Completes (.vfsub fmt rnd k d a b) r2 always (eff lat (two fun p q => faddV f rnd p q.negate)) ∧
    Completes (.vfmul fmt rnd k d a b) r2 always (eff lat (two (fmulV f rnd))) ∧
    Completes (.vfma fmt rnd k d a b c) r3 always (eff lat (three fun p q r => fmaV f rnd p q r)) ∧
    Completes (.vfms fmt rnd k d a b c) r3 always (eff lat (three fun p q r => fmaV f rnd p q r.negate)) ∧
    Completes (.vfnma fmt rnd k d a b c) r3 always (eff lat (three fun p q r => fmaV f rnd p.negate q r)) ∧
    Completes (.vfnms fmt rnd k d a b c) r3 always (eff lat (three fun p q r => fmaV f rnd p.negate q r.negate)) ∧
    Completes (.vfmin fmt k d a b) r2 always (eff 2 (two (fminmaxV f false))) ∧
    Completes (.vfmax fmt k d a b) r2 always (eff 2 (two (fminmaxV f true))) ∧
    Completes (.vfabs fmt k d a) r1 always (eff 2 (one (fsignV f false))) ∧
    Completes (.vfneg fmt k d a) r1 always (eff 2 (one (fsignV f true))) ∧
    Completes (.vsqrt fmt rnd k d a) r1 always (eff 12 (one (fn1V .sqrt f rnd))) ∧
    Completes (.vrcp fmt rnd k d a) r1 always (eff 12 (one (fn1V .rcp f rnd))) ∧
    Completes (.vrsq fmt rnd k d a) r1 always (eff 12 (one (fn1V .rsq f rnd))) ∧
    Completes (.vexp2 fmt rnd k d a) r1 always (eff 12 (one (fn1V .exp2 f rnd))) ∧
    Completes (.vlog2 fmt rnd k d a) r1 always (eff 12 (one (fn1V .log2 f rnd)))

/-- R165, R166, R159: comparisons write all 128 bits, 0 in inactive lanes; mask logic; the count of one bits. -/
def Obligations.ComparisonsAndMasks : Prop :=
  ∀ (cc : BitVec 3) (sg : Bool) (fmt : BitVec 4) (k kd ka kb : BitVec 3) (d a b : Opnd),
    let all := BitVec.allOnes 128
    Completes (.vcmp cc sg k kd a b) (fun _ => [kloc k.toNat, a.vloc, b.vloc]) always
      (fun x => x.kEff kd.toNat all (maskOf ((x.c.vrd a).zipWith (fun p q => ccHolds cc.toNat (ext sg p a.width) (ext sg q b.width)) (x.c.vrd b))
        &&& x.gov k) 2) ∧
    Completes (.vfcmp cc fmt k kd a b) (fun _ => [kloc k.toNat, a.vloc, b.vloc]) always
      (fun x =>
        let r := (x.fvals fmt a).zipWith (fcmpV cc.toNat) (x.fvals fmt b)
        x.kEff kd.toNat all (maskOf (r.map (·.1)) &&& x.gov k) 2
          (flagsOf ((lanesIn (x.gov k)).map fun i => ((r[i]?).getD (false, 0)).2))) ∧
    Completes (.kand kd ka kb) (fun _ => [kloc ka.toNat, kloc kb.toNat]) always (fun x => x.kEff kd.toNat all (x.gov ka &&& x.gov kb) 2) ∧
    Completes (.kor kd ka kb) (fun _ => [kloc ka.toNat, kloc kb.toNat]) always (fun x => x.kEff kd.toNat all (x.gov ka ||| x.gov kb) 2) ∧
    Completes (.kxor kd ka kb) (fun _ => [kloc ka.toNat, kloc kb.toNat]) always (fun x => x.kEff kd.toNat all (x.gov ka ^^^ x.gov kb) 2) ∧
    Completes (.knot kd ka) (fun _ => [kloc ka.toNat]) always (fun x => x.kEff kd.toNat all (~~~(x.gov ka)) 2) ∧
    Completes (.kpopc d ka) (fun _ => [kloc ka.toNat]) always (fun x => x.xEff d ((lanesIn (x.gov ka)).length : Nat) 2)

/-- R64, R168: conversions between formats, lane by lane, with the flags of the active lanes. -/
def Obligations.VectorConversions : Prop :=
  ∀ (st : Bool) (dst src : BitVec 4) (rnd : BitVec 2) (k : BitVec 3) (d a : Opnd),
    let eff (r : Ctx → List (Nat × Flags)) (x : Ctx) : Eff := x.vEff d (x.gov k) ((r x).map (·.1)) 3
      (flagsOf ((lanesIn (x.gov k)).map fun i => (((r x)[i]?).getD (0, 0)).2))
    let reads (_ : Ctx) : List Loc := [kloc k.toNat, a.vloc]
    let int (v : Nat) : Int := ext (intSigned src.toNat) v (fmtBits src.toNat)
    Completes (.vcvt dst src rnd k d a) reads always (eff fun x => (x.fvals src a).map (fcvtV (fmtOf dst.toNat) rnd)) ∧
    Completes (.vcvtfi dst src rnd k d a) reads always (eff fun x => (x.fvals src a).map fun v =>
      let r := fcvtI (fmtBits dst.toNat) (intSigned dst.toNat) rnd v
      (low r.1 (fmtBits dst.toNat), r.2)) ∧
    Completes (.vcvtif dst src rnd k d a) reads always (eff fun x => (x.c.vrd a).map fun v => icvtF (fmtOf dst.toNat) rnd (int v)) ∧
    Completes (.vcvtii st dst src k d a) reads always (eff fun x => (x.c.vrd a).map fun v =>
      (low (if st then sat (int v) (fmtBits dst.toNat) (intSigned dst.toNat) else int v) (fmtBits dst.toNat), 0))

/-- R169, R170: VQNT writes its n blocks into lanes 0 to 16n - 1 and their number into e; VXPD rounds the L elements of the row it
reads into lanes 0 to L - 1. VQNT of adaptive INT blocks, and VXPD of a row that breaks R70, trap with cause 64. -/
def Obligations.BlockQuantiseAndExpand : Prop :=
  ∀ (wid : BitVec 3) (adapt int sg : Bool) (fmt : BitVec 4) (rnd : BitVec 2) (d a c e : Opnd),
    Completes (.vqnt wid adapt int sg d a c e) (fun _ => [a.vloc, c.xloc]) (fun x => fld (x.c.rd c) 12 4 = 0 ∧ ¬(adapt = true ∧ int = true))
      (fun x =>
        let bl := quantRow (wid.toNat + 1) (fld (x.c.rd c) 7 5) adapt int sg 8 (((x.c.vrd a).take (fld (x.c.rd c) 0 7 + 1)).map (fmtOf 0).val)
        let lat := if adapt then 8 else 3
        let m := maskOf ((List.range 128).map fun i => decide (i < 16 * bl.length))
        { claims := [(.v d.start.toNat d.slices m, x.s.tlc + lat), (e.xloc, x.s.tlc + lat)]
          acts := [(x.s.tlc + lat, .wv d.start.toNat d.width m
              ((List.range 128).map fun i => fld (((bl[i / 16]?).map (·.bits)).getD 0) (32 * (i % 16)) 32)),
            (x.s.tlc + lat, .wx e.start.toNat e.width (low bl.length e.width))] ++
            (if flagsOf (bl.map (·.flags)) = 0 then [] else [(x.s.tlc + lat, .setFlags (flagsOf (bl.map (·.flags))))]) }) ∧
    Faults (.vqnt wid adapt int sg d a c e) (fun _ => [a.vloc, c.xloc])
      (fun x => fld (x.c.rd c) 12 4 = 0 ∧ adapt = true ∧ int = true) (fun _ => blkTrap 5 0) ∧
    (∀ vals fm cur, Completes (.vxpd sg fmt rnd d a c) (fun _ => [a.vloc, c.xloc])
      (fun x => fld (x.c.rd c) 7 9 = 0 ∧
        rowRead sg ((List.range 8).map (laneBlock (x.c.vrd a))) (fld (x.c.rd c) 0 7 + 1) 0 [] false = .ok (vals, fm, cur))
      (fun x =>
        let r := vals.map (roundF (fmtOf fmt.toNat) rnd false)
        x.vEff d (maskOf ((List.range 128).map fun i => decide (i < fld (x.c.rd c) 0 7 + 1)))
          (r.map (·.1) ++ List.replicate (128 - (fld (x.c.rd c) 0 7 + 1)) 0) 3 (flagsOf (r.map (·.2)) ||| flagIf fm flagFM))) ∧
    (∀ er, Faults (.vxpd sg fmt rnd d a c) (fun _ => [a.vloc, c.xloc])
      (fun x => fld (x.c.rd c) 7 9 = 0 ∧
        rowRead sg ((List.range 8).map (laneBlock (x.c.vrd a))) (fld (x.c.rd c) 0 7 + 1) 0 [] false = .error er)
      (fun x => blkTrap er.reason ((((List.range 8).map (laneBlock (x.c.vrd a)))[er.blk]?).getD 0)))

/-- R167, R171: lane selection and movement.
R172 to R174: reductions of the active lanes, exactly for integers (0 for none) and by the fixed tree of seven levels for
floats (+0 for none), and running combinations lane by lane. -/
def Obligations.LaneMovementAndReductions : Prop :=
  (∀ (sg : Bool) (k : BitVec 3) (d a b : Opnd),
    let all := BitVec.allOnes 128
    Completes (.vsel k d a b) (fun _ => [kloc k.toNat, a.vloc, b.vloc]) always
      (fun x => x.vEff d all ((((x.c.vrd a).zip (x.c.vrd b)).zip (List.range 128)).map fun p =>
        if (x.gov k).getLsbD p.2 then p.1.1 else p.1.2) 2) ∧
    Completes (.vsplat sg k d a) (fun _ => [kloc k.toNat, a.xloc]) always
      (fun x => x.vEff d (x.gov k) (List.replicate 128 (low (x.c.ext sg a) d.width)) 2) ∧
    Completes (.vbcast k d a b) (fun _ => [kloc k.toNat, a.vloc, b.xloc]) always
      (fun x => x.vEff d (x.gov k) (List.replicate 128 (nth (x.c.vrd a) (x.c.rd b % 128))) 3) ∧
    Completes (.vperm k d a b) (fun _ => [kloc k.toNat, a.vloc, b.vloc]) always
      (fun x => x.vEff d (x.gov k) ((x.c.vrd b).map fun m => if m < 128 then nth (x.c.vrd a) m else 0) 3) ∧
    Completes (.vrot k d a b) (fun _ => [kloc k.toNat, a.vloc, b.xloc]) always
      (fun x => x.vEff d (x.gov k) ((List.range 128).map fun i => nth (x.c.vrd a) ((i + x.c.rd b % 128) % 128)) 3) ∧
    Completes (.vcmpr k d a) (fun _ => [kloc k.toNat, a.vloc]) always
      (fun x => x.vEff d all ((lanesIn (x.gov k)).map (nth (x.c.vrd a)) ++ List.replicate (128 - (lanesIn (x.gov k)).length) 0) 3) ∧
    Completes (.viota k d) (fun _ => [kloc k.toNat]) always
      (fun x => x.vEff d all ((List.range 128).map fun i => ((lanesIn (x.gov k)).filter (· < i)).length) 3) ∧
    Completes (.vgetx sg d a b) (fun _ => [a.vloc, b.xloc]) always
      (fun x => x.xEff d (ext sg (nth (x.c.vrd a) (x.c.rd b % 128)) a.width) 3)) ∧
  (∀ (op : BitVec 3) (fop : BitVec 2) (sg : Bool) (fmt : BitVec 4) (rnd : BitVec 2) (k : BitVec 3) (d a : Opnd),
    let f := fmtOf fmt.toNat
    Completes (.vred op sg k d a) (fun _ => [kloc k.toNat, a.vloc]) always
      (fun x => x.xEff d (redAll op.toNat ((lanesIn (x.gov k)).map fun i => ext sg (nth (x.c.vrd a) i) a.width)) 9) ∧
    Completes (.vscan op sg k d a) (fun _ => [kloc k.toNat, a.vloc]) always
      (fun x => x.vEff d (x.gov k) ((scanGo (redOp op.toNat) (x.gov k) 0 none ((x.c.vrd a).map fun v => ext sg v a.width)).map
        fun v => low (v.getD 0) d.width) 10) ∧
    Completes (.vfred fop fmt rnd k d a) (fun _ => [kloc k.toNat, a.vloc]) always
      (fun x =>
        let l := ((x.c.vrd a).zip (List.range 128)).map fun p => if (x.gov k).getLsbD p.2 then some (fopIn f p.1) else none
        let r := ((treeRed (fredOp f fop.toNat rnd) 7 l).head?.getD none).getD (0, 0)
        x.xEff d r.1 9 r.2) ∧
    Completes (.vfscan fop fmt rnd k d a) (fun x => [kloc k.toNat, .v a.start.toNat a.slices (x.gov k)]) always
      (fun x =>
        let r := scanGo (fredOp f fop.toNat rnd) (x.gov k) 0 none ((x.c.vrd a).map (fopIn f))
        x.vEff d (x.gov k) (r.map fun v => (v.getD (0, 0)).1) 10 (flagsOf (r.map fun v => (v.getD (0, 0)).2))))

/-- R175 to R177, R143, R386, R387, R389: vector loads. Where every byte an active lane reaches lies inside the carve-out and in no
poisoned beat, VLD lands on issue + 5, and VLDS and VLDX on issue + 12 in the active lanes, what memory holds at the end of the issue cycle;
the lines are reached on issue + 1, and + g for lane group g, on which cycle a beat that cannot be corrected is the word's fault (cause
82). A poisoned beat of the lowest lane that has one is its fault on its issue cycle (cause 65), a byte outside cause 33; that the latter names
the lowest such lane's address is the model's choice (log 97). -/
def Obligations.VectorLoads : Prop :=
  ∀ (k : BitVec 3) (d a b : Opnd) (imm : BitVec 18),
    let n := d.width / 8
    let key (x : Ctx) (ad : Int) : Nat := cmKey x.c.gcore ad.toNat
    let psn (x : Ctx) (ad : Int) (n : Nat) : Option Nat := (beatsOf (key x ad) n).find? x.s.poison.contains
    let fault (x : Ctx) (ad : Int) (b : Nat) : Trap :=
      { cause := 65, key := b * 32, hi := packBits [(0, 3, 0), (8, 56, ad.toNat / 32 * 32 + (b * 32 - key x ad / 32 * 32))] }
    let at_ (ads : List Int) (i : Nat) : Int := (ads[i]?).getD 0
    let lanes (reads : List Loc) (ads : Ctx → List Int) (i : Instr) : Prop :=
      let rd (x : Ctx) := kloc k.toNat :: reads ++ ((lanesIn (x.gov k)).map fun i => cmLoc (at_ (ads x) i) n).foldr (· ++ ·) []
      let inside (x : Ctx) : Prop := ∀ i ∈ lanesIn (x.gov k), x.g.inCarve (at_ (ads x) i) n = true
      Completes i rd (fun x => inside x ∧ ∀ i ∈ lanesIn (x.gov k), psn x (at_ (ads x) i) n = none)
        (fun x =>
          { claims := if x.gov k = 0 then [] else [(.v d.start.toNat d.slices (x.gov k), x.s.tlc + 12)]
            acts := (if x.gov k = 0 then [] else
                [(x.s.tlc, .vload ((ads x).map Int.toNat) (x.gov k) n d.start.toNat d.width (x.s.tlc + 12))]) ++
              x.groupActs (x.s.tlc + 1) false (ads x) (lanesIn (x.gov k)) n }) ∧
      (∀ p, Faults i rd (fun x => inside x ∧
          (lanesIn (x.gov k)).findSome? (fun i => (psn x (at_ (ads x) i) n).map fun b => (i, b)) = some p)
        (fun x => fault x (at_ (ads x) p.1) p.2)) ∧
      (∀ j, Faults i rd (fun x => (lanesIn (x.gov k)).find? (fun i => !x.g.inCarve (at_ (ads x) i) n) = some j)
        (fun x => { cause := 33, lo := rangeLo 0 (at_ (ads x) j) }))
    let ad (x : Ctx) : Int := x.c.rd a + imm.toInt
    Completes (.vld d a imm) (fun x => a.xloc :: cmLoc (ad x) (128 * n)) (fun x => x.g.inCarve (ad x) (128 * n) = true ∧ psn x (ad x) (128 * n) = none)
      (fun x => { claims := [(.v d.start.toNat d.slices (BitVec.allOnes 128), x.s.tlc + 5)]
                  acts := (x.s.tlc, .vload [(ad x).toNat] (BitVec.allOnes 128) n d.start.toNat d.width (x.s.tlc + 5)) ::
                    bankActs (x.s.tlc + 1) x.c.gcore false (linesOf (ad x).toNat (128 * n)) }) ∧
    (∀ q, Faults (.vld d a imm) (fun x => a.xloc :: cmLoc (ad x) (128 * n))
      (fun x => x.g.inCarve (ad x) (128 * n) = true ∧ psn x (ad x) (128 * n) = some q) (fun x => fault x (ad x) q)) ∧
    Faults (.vld d a imm) (fun x => a.xloc :: cmLoc (ad x) (128 * n)) (fun x => x.g.inCarve (ad x) (128 * n) = false)
      (fun x => { cause := 33, lo := rangeLo 0 (ad x) }) ∧
    lanes [a.xloc, b.xloc] (fun x => (List.range 128).map fun (i : Nat) => x.c.rd a + (i : Int) * x.c.sx b) (.vlds k d a b) ∧
    lanes [a.xloc, b.vloc] (fun x => (x.c.vrd b).map fun v => ((x.c.rd a + v * n : Nat) : Int)) (.vldx k d a b) ∧
    ∀ (s : State) (gid : Nat) (w : Who) (c : Core) (addr : Nat) (addrs : List Nat) (m : Mask) (size start width land : Nat),
      s.coreOf gid w = some c →
      let lands (t : State) (vals : List Nat) : State := t.addAgenda gid [⟨land, w, .wv start width m vals⟩]
      let one := s.loadRead gid w c.gcore addr (128 * size) (s.tlc + 1)
      let all := (lanesIn m).foldl (fun (q : State × List (Nat × Nat)) i =>
        let r := q.1.loadRead gid w c.gcore ((addrs[i]?).getD 0) size (s.tlc + 1 + i / 16)
        (r.1, q.2 ++ [(i, leNat r.2)])) (s, [])
      let r := s.fetch (cmKey c.gcore addr) size
      let late (u : Nat) : Trap := { cause := 82, key := u, hi := packBits [(0, 3, 0), (8, 56, (addr + u - cmKey c.gcore addr) / 32 * 32)] }
      s.readAct gid w (.vload [addr] m size start width land) =
        lands one.1 ((List.range 128).map fun i => leNat ((one.2.drop (i * size)).take size)) ∧
      (addrs.length = 128 → s.readAct gid w (.vload addrs m size start width land) =
        lands all.1 ((List.range 128).map fun i => (aget i all.2).getD 0)) ∧
      (s.err.upsets = [] → s.loadRead gid w c.gcore addr size 0 = (s, s.mem.bytes (cmKey c.gcore addr) size) ∧
        (addrs.length = 128 → s.readAct gid w (.vload addrs m size start width land) = lands s ((List.range 128).map fun i =>
          if m.getLsbD i then leNat (s.mem.bytes (cmKey c.gcore ((addrs[i]?).getD 0)) size) else 0))) ∧
      (∀ reach, r.bad = none → s.loadRead gid w c.gcore addr size reach = (s.correctedAll (aget gid s.gangs) 0 r, r.bytes)) ∧
      (∀ reach u, r.bad = some u → storeOf u = some .core → s.loadRead gid w c.gcore addr size reach =
        ((s.correctedAll (aget gid s.gangs) 0 r).addAgenda gid [⟨reach, w, .late (late u)⟩], r.bytes))

/-- R175 to R177, R143: vector stores. VST lands on issue + 3; group g of VSTS and VSTX lands, lane by lane, on issue + 3 + g; a byte
outside the carve-out traps with cause 33. -/
def Obligations.VectorStores : Prop :=
  ∀ (k : BitVec 3) (d a b : Opnd) (imm : BitVec 18),
    let n := d.width / 8
    let at_ (ads : List Int) (i : Nat) : Int := (ads[i]?).getD 0
    let lanes (reads : List Loc) (ads : Ctx → List Int) (i : Instr) : Prop :=
      let rd (_ : Ctx) := kloc k.toNat :: d.vloc :: reads
      Completes i rd (fun x => ∀ i ∈ lanesIn (x.gov k), x.g.inCarve (at_ (ads x) i) n = true)
        (fun x =>
          { claims := (lanesIn (x.gov k)).map fun i => (.cm (at_ (ads x) i).toNat n, x.s.tlc + 3 + i / 16)
            acts := ((lanesIn (x.gov k)).map fun i =>
                (x.s.tlc + 3 + i / 16, .mem (cmKey x.c.gcore (at_ (ads x) i).toNat) (leBytes n (nth (x.c.vrd d) i)) false)) ++
              x.groupActs (x.s.tlc + 3) true (ads x) (lanesIn (x.gov k)) n }) ∧
      (∀ j, Faults i rd (fun x => (lanesIn (x.gov k)).find? (fun i => !x.g.inCarve (at_ (ads x) i) n) = some j)
        (fun x => { cause := 33, lo := rangeLo 0 (at_ (ads x) j) }))
    Completes (.vst d a imm) (fun _ => [a.xloc, d.vloc]) (fun x => x.g.inCarve (x.c.rd a + imm.toInt) (128 * n) = true)
      (fun x =>
        { claims := [(.cm (x.c.rd a + imm.toInt).toNat (128 * n), x.s.tlc + 3)]
          acts := (x.s.tlc + 3, .mem (cmKey x.c.gcore (x.c.rd a + imm.toInt).toNat)
              (((x.c.vrd d).map (leBytes n)).foldr (· ++ ·) []) false) ::
            bankActs (x.s.tlc + 3) x.c.gcore true (linesOf (x.c.rd a + imm.toInt).toNat (128 * n)) }) ∧
    Faults (.vst d a imm) (fun _ => [a.xloc, d.vloc]) (fun x => x.g.inCarve (x.c.rd a + imm.toInt) (128 * n) = false)
      (fun x => { cause := 33, lo := rangeLo 0 (x.c.rd a + imm.toInt) }) ∧
    lanes [a.xloc, b.xloc] (fun x => (List.range 128).map fun (i : Nat) => x.c.rd a + (i : Int) * x.c.sx b) (.vsts k d a b) ∧
    lanes [a.xloc, b.vloc] (fun x => (x.c.vrd b).map fun v => ((x.c.rd a + v * n : Nat) : Int)) (.vstx k d a b)

/-! Matrix instructions (07_matrix_instructions). The landing of what they schedule is stated with the actions below. -/

/-- R74, R179, R184 to R187: FEEDA and FEEDB, and their indexed forms, whose row r has the index of lane r (0xFFFF: no row): the rounds of
fetches from the cycle after next on, one row a cycle, and entry j filled 136 cycles after its round begins (later by R186 with `.mc`),
where the descriptor is legal, the port released, and the bytes that may be read of every row inside the carve-out. A fetch of a plain row
takes the k-groups of one line; one of a described row decodes the block its cursor names where what is in hand does not suffice, and
moves the cursor on; the fill gives every receiver's entry the records of its rows, zero k-groups where a row has none. -/
def Obligations.FeedsFillLatches : Prop :=
  ∀ (qb cont mc : Bool) (e : BitVec 7) (cw kn : Opnd),
    let inst : Instr := if qb then .feedb cont mc e cw kn else .feeda cont mc e cw kn
    let instx : Instr := if qb then .feedbx mc e cw kn else .feedax mc e cw kn
    let f (x : Ctx) : FeedDesc := feedDesc qb mc e.toNat (x.c.rd kn) (x.c.rd cw)
    let fx (x : Ctx) : FeedDesc := feedDesc qb mc e.toNat (fld (x.c.rd kn) 0 8) (x.c.rd cw)
    let ixs (x : Ctx) : Nat := fld (x.c.rd kn) 8 10
    let rows (x : Ctx) : List (Option Nat) := (List.range ((f x).rows + 1)).map fun r => some ((f x).base + r * (f x).pitch)
    let rowsx (x : Ctx) : List (Option Nat) := ((x.c.v.toList.map fun l => slices l (ixs x) 16).take ((fx x).rows + 1)).map fun i =>
      if i = 0xFFFF then none else some ((fx x).base + i * (fx x).pitch)
    let ok (f : FeedDesc) (cont : Bool) (rows : List (Option Nat)) (x : Ctx) : Prop :=
      f.fmtOk = true ∧ 1 ≤ f.n ∧ f.n ≤ 128 ∧ f.base % 64 = 0 ∧ f.pitch % 64 = 0 ∧
      (f.fmt ≠ 9 → f.rowOff % 64 = 0 ∧ cont = false) ∧ x.c.ports.feedRel ≤ x.s.tlc ∧
      ∀ p ∈ (List.range 128).zip rows, ∀ b, p.2 = some b →
        (x.feedSpan f cont p.1).2 = 0 ∨ x.g.inCarve ((b + (x.feedSpan f cont p.1).1 : Nat) : Int) (x.feedSpan f cont p.1).2 = true
    let fillAt (f : FeedDesc) (x : Ctx) (j : Nat) : Nat := x.s.tlc + 136 + 128 * (j / f.perRound) + x.mcDelay f.mc
    let eff (f : FeedDesc) (cont : Bool) (rows : List (Option Nat)) (x : Ctx) : Eff :=
      { acts := ((List.range f.rounds).map fun u => ((List.range 128).zip rows).filterMap fun p => match p.2 with
            | some b => some (x.s.tlc + 2 + 128 * u + p.1, Act.feedFetch f b cont u p.1)
            | none => none).foldr (· ++ ·) [] ++ (List.range f.n).map fun j => (fillAt f x j, Act.feedFill f j)
        gang := feedCommit (x.receivers f) f.qb (x.s.tlc + 128 * f.rounds) (fillAt f x (f.n - 1))
          ((List.range f.n).map fun j => ((f.e + j) % 128, fillAt f x j)) x.who.rank }
    Completes inst (fun _ => [cw.xloc, kn.xloc]) (fun x => ok (f x) cont (rows x) x) (fun x => eff (f x) cont (rows x) x) ∧
    Completes instx (fun x => [cw.xloc, kn.xloc] ++ [.v (ixs x) 4 (BitVec.allOnes 128)])
      (fun x => ixs x + 4 ≤ 1024 ∧ x.c.rd kn / 2 ^ 18 = 0 ∧ ok (fx x) false (rowsx x) x) (fun x => eff (fx x) false (rowsx x) x) ∧
    (∀ (s : State) (gid : Nat) (who : Who) (c : Core) (fd : FeedDesc) (src u row : Nat), s.coreOn gid who.rank = some c → s.err.upsets = [] →
      let free (ad : Nat) : Prop := hazardOf s.tlc true c.claims (.cm ad 64) = none ∧ hazardOf s.tlc false c.claims (.cm ad 64) = none
      let bytes (ad : Nat) : List Byte := s.mem.bytes (cmKey c.gcore ad) 64
      let rows (l : List (KRec × Flags)) : State := s.addStash gid ((l.zip (List.range l.length)).map fun p => .krec who (u * fd.perRound + p.2) row p.1.1 p.1.2)
      (fd.fmt ≠ 9 → free (src + fd.rowOff + 64 * u) → s.readAct gid who (.feedFetch fd src cont u row) =
        let ad := src + fd.rowOff + 64 * u
        let b := elemBytes fd.fmt
        rows ((List.range fd.perRound).map fun j => plainRec fd.fmt
          ((List.range 8).map fun i => leNat (((bytes ad).drop (8 * b * j + b * i)).take b)) (s.psnKey (cmKey c.gcore (ad + 8 * b * j)) (8 * b)))) ∧
      let cur := rowStart c fd cont u row
      let need := fd.need u cur.taken
      let give (cur : RowCur) (fl : Flags) : State :=
        (rows ((cur.buf.take need).zip (fl :: List.replicate (need - 1) 0))).modCore gid who.rank fun c => c.modLatch fd.qb fun l =>
          { l with curs := aset row ⟨cur.blk, cur.taken + need, cur.buf.drop need⟩ l.curs }
      (fd.fmt = 9 → need ≤ cur.buf.length → s.readAct gid who (.feedFetch fd src cont u row) = give cur 0) ∧
      (fd.fmt = 9 → cur.buf.length < need → cur.blk < slotBlocks (fd.kl + 1) fd.mmax → free (src + 64 * cur.blk) →
        let ad := src + 64 * cur.blk
        let b := leNat (bytes ad)
        let got := cur.taken + cur.buf.length
        let k := min (count (blkMw b) / 8) ((fd.kl + 8) / 8 - got)
        let recs := (List.range k).map fun j => blockRec b ad j (fd.kl + 1 - 8 * got)
          ((s.psnKey (cmKey c.gcore ad) 32).orElse fun _ => s.psnKey (cmKey c.gcore (ad + (2 + blkMw b * 8 * j / 8))) (blkMw b))
        (∀ why, blkBad b = some why → s.readAct gid who (.feedFetch fd src cont u row) = s.raiseCut gid s.tlc who (blkTrap why b 0 ad)) ∧
        (blkBad b = none → cur.buf.length + k < need →
          s.readAct gid who (.feedFetch fd src cont u row) = s.raiseCut gid s.tlc who (blkTrap 7 b 0 ad)) ∧
        (blkBad b = none → need ≤ cur.buf.length + k →
          s.readAct gid who (.feedFetch fd src cont u row) = give ⟨cur.blk + 1, cur.taken, cur.buf ++ recs⟩ (flagIf (blkFM b) flagFM)))) ∧
    ∀ (s : State) (gid : Nat) (who : Who) (g : Gang) (fd : FeedDesc) (j r : Nat) (c : Core), aget gid s.gangs = some g → s.err.flits = [] →
      r ∈ g.receivers who.rank fd → g.coreAt r = some c →
      let got (row : Nat) : KRec := (g.stash.findSome? fun e => match e with
        | .krec w' j' row' k _ => if w' = who ∧ j' = j ∧ row' = row then some k else none
        | _ => none).getD (zeroRec false)
      ∃ d, (s.landAct gid who (.feedFill fd j)).coreOn gid r = some d ∧ d.acc = c.acc ∧ d.x = c.x ∧ d.v = c.v ∧
        (∃ x, aget ((fd.e + j) % 128) (d.latch fd.qb).entries = some x ∧ x.rows = (List.range 128).map got ∧
          ∀ y, aget ((fd.e + j) % 128) (c.latch fd.qb).entries = some y → x.due = y.due ∧ x.cut = y.cut) ∧
        (∀ k, k ≠ (fd.e + j) % 128 → aget k (d.latch fd.qb).entries = aget k (c.latch fd.qb).entries) ∧
        d.latch (!fd.qb) = c.latch (!fd.qb)

/-- R179, R181, R188, R189, R199: FEEDD fills its entries from `v` one a cycle from the fourth cycle on; QCLR empties entries, and with `.rcu`
forgets the cursors; QSTAT and MSTAT report. A fill that lands gives its entry its rows and leaves every other entry. -/
def Obligations.LatchInstructions : Prop :=
  ∀ (qb rcu : Bool) (e : BitVec 7) (cw kn : Opnd),
    let w (x : Ctx) : Nat := x.c.rd cw
    let n (x : Ctx) : Nat := x.c.rd kn
    let b (x : Ctx) : Nat := elemBytes (fld (w x) 10 4)
    let ent (x : Ctx) (j : Nat) : List (KRec × Flags) := x.c.v.toList.map fun l => plainRec (fld (w x) 10 4)
      ((List.range 8).map fun i => slices l (fld (w x) 0 10 + (8 * j + i) * 2 * b x) (8 * b x)) none
    let filled (x : Ctx) (l : Latch) : Nat := (l.entries.filter fun p => decide (p.2.due ≤ x.s.tlc) && !p.2.cut).length
    (∀ (s : State) (gid : Nat) (who : Who) (c : Core) (q : Bool) (k m : Nat) (rows : List KRec), s.coreOn gid who.rank = some c →
      (∃ d x, (s.landAct gid who (.fill q k rows)).coreOn gid who.rank = some d ∧ aget k (d.latch q).entries = some x ∧ x.rows = rows ∧
        (∀ y, aget k (c.latch q).entries = some y → x.due = y.due ∧ x.cut = y.cut) ∧ (d.latch q).curs = (c.latch q).curs ∧
        ∀ i, i ≠ k → aget i (d.latch q).entries = aget i (c.latch q).entries) ∧
      ∃ d, (s.landAct gid who (.qclr q rcu k m)).coreOn gid who.rank = some d ∧
        (d.latch q).curs = (if rcu then [] else (c.latch q).curs) ∧ d.latch (!q) = c.latch (!q) ∧
        ∀ i, aget i (d.latch q).entries = if ∃ j, j < m ∧ (k + j) % 128 = i then none else aget i (c.latch q).entries) ∧
    Completes (.feedd qb e cw kn) (fun x => [cw.xloc, kn.xloc] ++ [.v (fld (w x) 0 10) (16 * n x * b x) (BitVec.allOnes 128)])
      (fun x => w x / 2 ^ 14 = 0 ∧ fld (w x) 10 4 ≤ 5 ∧ 1 ≤ n x ∧ n x ≤ 128 ∧ fld (w x) 0 10 + 16 * n x * b x ≤ 1024 ∧
        x.c.ports.feedRel ≤ x.s.tlc)
      (fun x => { acts := ((List.range (n x)).map fun j => (x.s.tlc + 4 + j, Act.fill qb ((e.toNat + j) % 128) ((ent x j).map (·.1))) ::
                    flagActs (x.s.tlc + 4 + j) (flagsOf ((ent x j).map (·.2)))).foldr (· ++ ·) []
                  gang := feedCommit [x.who.rank] qb (x.s.tlc + n x) (x.s.tlc + 3 + n x)
                    ((List.range (n x)).map fun j => ((e.toNat + j) % 128, x.s.tlc + 4 + j)) x.who.rank }) ∧
    Completes (.qclr qb rcu e kn) (fun _ => [kn.xloc]) (fun x => 1 ≤ n x ∧ n x ≤ 128)
      (fun x => { acts := [(x.s.tlc + 1, .qclr qb rcu e.toNat (n x))] }) ∧
    Completes (.qstat kn) (fun _ => []) always (fun x => x.xEff kn (packBits [(17, 15, x.c.winQ),
      (16, 1, (decide (x.s.tlc < x.c.ports.feedRel)).toNat), (8, 8, filled x x.c.qb), (0, 8, filled x x.c.qa)]) 1) ∧
    Completes (.mstat kn) (fun _ => []) always (fun x => x.xEff kn (packBits [(0, 21, x.c.ports.arrRel - x.s.tlc),
      (21, 1, (decide (x.s.tlc < x.c.ports.accRel)).toNat)]) 1)

/-- R192, R194, R195: the window's geometry, the pad and the output descriptor are in place on the next cycle, and WINA and WINB
read, pixel by pixel, the taps of their sample positions and fill an entry every 128 cycles. -/
def Obligations.WindowsFillLatches : Prop :=
  ∀ (qb : Bool) (e : BitVec 7) (cw kn : Opnd),
    let inst : Instr := if qb then .winb e cw kn else .wina e cw kn
    let f (x : Ctx) : FeedDesc := feedDesc qb false e.toNat (x.c.rd kn) (x.c.rd cw)
    Completes (.wcfg cw kn) (fun _ => [cw.xloc, kn.xloc]) (fun x => 1 ≤ x.c.rd kn ∧ x.c.rd kn ≤ 4096)
      (fun x => { acts := [(x.s.tlc + 1, .winCfg (BitVec.ofNat 64 (x.c.rd cw)) (x.c.rd kn))] }) ∧
    Completes (.wpadv cw) (fun _ => [cw.xloc]) (fun x => x.c.rd cw / 2 ^ 54 = 0)
      (fun x => { acts := [(x.s.tlc + 1, .winPad (BitVec.ofNat 64 (x.c.rd cw)))] }) ∧
    Completes (.mcfg cw) (fun _ => [cw.xloc]) (fun x => x.c.rd cw / 2 ^ 48 = 0)
      (fun x => { acts := [(x.s.tlc + 1, .outDesc (BitVec.ofNat 64 (x.c.rd cw)))] }) ∧
    ∀ gw c,
      let w := winOf gw c
      let one (x : Ctx) (j r : Nat) : List (Nat × Act) :=
        let at_ := x.s.tlc + 2 + 128 * j + r
        match w.tap x.c.pad (x.c.winQ + j) r with
        | .zero => []
        | .zeroPad => [(at_, .stashRec j r (zeroRec true) 0)]
        | .const => [(at_, .stashRec j r (constRec (f x).fmt x.c.pad).1 (constRec (f x).fmt x.c.pad).2)]
        | .pixel y px g =>
          let ad := (f x).base + (y * w.iw + px) * (f x).pitch
          (at_, .winRead (f x) j r g c ad) ::
            bankActs at_ x.c.gcore false (linesOf (ad + (groupSpan (f x) c g).1) (groupSpan (f x) c g).2)
      Completes inst (fun _ => [cw.xloc, kn.xloc])
        (fun x => x.c.win = some (gw, c) ∧ (f x).fmtOk = true ∧ 1 ≤ (f x).n ∧ (f x).n ≤ 128 ∧
          (if (f x).fmt = 9 then (f x).kl + 1 = c ∧ c ≤ count (f x).mmax ∧ (f x).base % 64 = 0 ∧ (f x).pitch % 64 = 0 else (f x).kl = 0) ∧
          x.c.ports.feedRel ≤ x.s.tlc ∧
          x.g.inCarve (f x).base ((w.ih * w.iw - 1) * (f x).pitch + pixelBytes (f x) c) = true)
        (fun x => { acts := ((List.range (f x).n).map fun j =>
                      ((List.range ((f x).rows + 1)).map (one x j)).foldr (· ++ ·) []).foldr (· ++ ·) [] ++
                        (List.range (f x).n).map fun j => (x.s.tlc + 136 + 128 * j, Act.feedFill (f x) j)
                    core := fun c => { c with winQ := c.winQ + (f x).n }
                    gang := feedCommit [x.who.rank] qb (x.s.tlc + 128 * (f x).n) (x.s.tlc + 8 + 128 * (f x).n)
                      ((List.range (f x).n).map fun j => (((f x).e + j) % 128, x.s.tlc + 136 + 128 * j)) x.who.rank })

/-- R78, R79, R180, R190: MMA, MMAC (its diagonal in the control word) and MMAZ consume pair j on issue + 8·BW·AP·j + 4·⌊j/p⌋ and land six
cycles after the array's release. Consuming a pair takes the records of two filled entries; an entry that is empty or pending is cause 16, a
poisoned record cause 65. The landing gives each cell (of MMAC those up to its diagonal) its promotion windows of p pairs in the order
of k, started from the cell or from zero, and raises their flags; nothing else changes. A window adds the products of its live pairs,
each brought to the window's exponent, in one rounding. -/
def Obligations.MultiplySchedules : Prop :=
  ∀ (p : BitVec 6) (cw kn : Opnd),
    let w (x : Ctx) : Nat := x.c.rd cw
    let n (x : Ctx) : Nat := x.c.rd kn
    let bw (x : Ctx) : Nat := if fld (w x) 2 4 = 15 then 16 else fld (w x) 2 4
    let per (x : Ctx) : Nat := 8 * bw x * (fld (w x) 6 1 + 1)
    let ents (x : Ctx) : List (Nat × Nat) := (List.range (n x)).map fun j => ((fld (w x) 7 7 + j) % 128, (fld (w x) 14 7 + j) % 128)
    let rel (x : Ctx) : Nat := x.s.tlc + per x * n x + 4 * ((n x + (p.toNat + 1) - 1) / (p.toNat + 1))
    let form (i : Instr) (zero causal : Bool) : Prop :=
      Completes i (fun x => [cw.xloc, kn.xloc] ++ (ents x).map (fun e => .lat false e.1) ++ (ents x).map (fun e => .lat true e.2) ++
          mmaCells zero (if causal then some (sext (fld (w x) 21 9) 9) else none))
        (fun x => w x / 2 ^ 30 = 0 ∧ (causal = false → fld (w x) 21 9 = 0) ∧ (2 ≤ fld (w x) 2 4 ∧ fld (w x) 2 4 ≤ 8 ∨ fld (w x) 2 4 = 15) ∧
          1 ≤ n x ∧ n x ≤ 128 ∧ x.c.ports.arrRel ≤ x.s.tlc ∧ x.c.ports.accRel ≤ x.s.tlc)
        (fun x => { acts := ((List.range (n x)).zip (ents x)).map (fun q => (x.s.tlc + per x * q.1 + 4 * (q.1 / (p.toNat + 1)),
                      Act.mmaPair q.1 q.2.1 q.2.2 (bw x) (fld (w x) 6 1 + 1 == 2) (fld (w x) 0 1 == 1) (fld (w x) 1 1 == 1))) ++
                      [(rel x + 6, .mmaLand (n x) (p.toNat + 1) (fld (w x) 0 1 == 1) (fld (w x) 1 1 == 1) zero
                        (if causal then some (sext (fld (w x) 21 9) 9) else none))]
                    core := fun c => c.arrayUse (rel x) (rel x + 6) })
    form (.mma p cw kn) false false ∧ form (.mmac p cw kn) false true ∧ form (.mmaz p cw kn) true false ∧
    (∀ (s : State) (gid : Nat) (who : Who) (g : Gang) (c : Core) (ea eb : LatchEntry) (j a b bw : Nat) (ap2 sa sb : Bool),
      aget gid s.gangs = some g → g.coreAt who.rank = some c →
      (aget a c.qa.entries = some ea → aget b c.qb.entries = some eb → ea.due ≤ s.tlc → eb.due ≤ s.tlc → ea.cut = false → eb.cut = false →
        (∀ r ∈ ea.rows, recBad r sa (decide (r.w > 8) && !ap2) = false) → (∀ r ∈ eb.rows, recBad r sb (decide (r.w > bw)) = false) →
        ((∀ r ∈ ea.rows ++ eb.rows, r.psn = none) → s.useAct gid who (.mmaPair j a b bw ap2 sa sb) = s.addStash gid [.pair who j ea.rows eb.rows]) ∧
        (∀ k, (ea.rows ++ eb.rows).findSome? (·.psn) = some k → s.useAct gid who (.mmaPair j a b bw ap2 sa sb) =
          s.raiseCut gid s.tlc who { cause := 65, key := k, hi := rangeLo 0 ((k % 2 ^ 21 / 32 * 32 : Nat) : Int) })) ∧
      (aget a c.qa.entries = none → ∃ tr : Trap, tr.cause = 16 ∧ s.useAct gid who (.mmaPair j a b bw ap2 sa sb) = s.raiseCut gid s.tlc who tr) ∧
      (aget a c.qa.entries = some ea → s.tlc < ea.due ∨ ea.cut = true →
        ∃ tr : Trap, tr.cause = 16 ∧ s.useAct gid who (.mmaPair j a b bw ap2 sa sb) = s.raiseCut gid s.tlc who tr)) ∧
    (∀ (s : State) (gid : Nat) (who : Who) (g : Gang) (c : Core) (n q : Nat) (sa sb zero : Bool) (diag : Option Int),
      aget gid s.gangs = some g → g.coreAt who.rank = some c →
      let cell (r i old : Nat) : Nat × Flags :=
        if (match diag with | some d => decide ((i : Int) > (r : Int) + d) | none => false) then (old, 0) else
          cellWindows q ((n + q - 1) / q) ((g.pairs who n).map fun pr =>
            cellPair ((pr.1[r]?).getD (zeroRec false)) ((pr.2[i]?).getD (zeroRec false)) sa sb) (if zero then 0 else old, 0)
      let row (r : Nat) : List (Nat × Flags) := ((List.range 128).zip (c.accRow r)).map fun o => cell r o.1 o.2
      ∃ d, (s.landAct gid who (.mmaLand n q sa sb zero diag)).coreOn gid who.rank = some d ∧
        d = { c with acc := d.acc, flags := flagsAfter c.flags 0 (flagsOf ((List.range 128).map fun r => flagsOf ((row r).map (·.2)))) } ∧
        ∀ r : Fin 128, d.acc[r.val] = rowOfCells ((row r.val).map (·.1))) ∧
    (∀ l : List Nat, l.length = 128 → cellsOfRow (rowOfCells l) = l.map (· % 2 ^ 32)) ∧
    ∀ (ew : Int) (acc q k : Nat) (ps : List CellPair) (fl : Flags),
      cellWindows q (k + 1) ps (acc, fl) = cellWindows q k (ps.drop q)
        ((windowCell (windowExp (ps.take q)) acc (ps.take q)).1, fl ||| (windowCell (windowExp (ps.take q)) acc (ps.take q)).2) ∧
      cellWindows q 0 ps (acc, fl) = (acc, fl) ∧
      ((∃ x ∈ ps, x.inv = true) → windowCell ew acc ps = ((fmtOf 0).nan, flagIV)) ∧
      ((∀ x ∈ ps, x.inv = false ∧ x.live = false) → windowCell ew acc ps = (acc, 0)) ∧
      (∀ neg m e, (∀ x ∈ ps, x.inv = false ∧ x.live = true) → (fmtOf 0).val acc = .fin neg m e →
        let sum := (ps.map fun x => (roundAt 0 ⟨x.t, x.e⟩ ew).1).foldl (· + ·) 0
        (windowCell ew acc ps).1 = if sum = 0 then acc else (roundF (fmtOf 0) 0 false ((FVal.fin neg m e).dy.add ⟨sum, ew⟩)).1)

/-- R180, R181, R196, R197, R198: POOLMX and POOLAV consume an entry a cycle and land 4 cycles after the last, 12 with `.fin`; the landing takes
the consumed entries one by one into each row's cells and count, started from the row or afresh, and with `.fin` POOLAV divides by the
count. BOXCFG reads its list line by line; CROPA without its configuration, or before the list has landed, traps with
cause 2. That a list has landed on the cycle after its last line is read, and that a second BOXCFG does not take back the landing of a first
one, are the model's choices (log 45).
R198: CROPA samples the pixels of each row's sample position, four a row with linear weights and one with `.near`, a k-group
every 512 cycles, and the sample counter goes on by 128. -/
def Obligations.PoolingAndSampling : Prop :=
  (∀ (init fin : Bool) (e : BitVec 7) (cw kn : Opnd),
    let w (x : Ctx) : Nat := x.c.rd cw
    let n (x : Ctx) : Nat := x.c.rd kn
    let form (i : Instr) (mx : Bool) : Prop :=
      Completes i (fun x => [cw.xloc, kn.xloc] ++ (List.range (n x)).map (fun j => .lat false ((e.toNat + j) % 128)) ++
          (if init then [] else (List.range 128).map fun r => .acc r (colMask 0 (8 * (fld (w x) 0 4 + 1)))))
        (fun x => w x / 2 ^ 6 = 0 ∧ (mx = true → fld (w x) 4 1 = 0) ∧ 1 ≤ n x ∧ n x ≤ 128 ∧ x.c.ports.arrRel ≤ x.s.tlc ∧
          x.c.ports.accRel ≤ x.s.tlc)
        (fun x => { acts := (List.range (n x)).map (fun j => (x.s.tlc + j, Act.poolEntry j ((e.toNat + j) % 128))) ++
                      [(x.s.tlc + n x + (if fin then 12 else 4), .poolLand (n x) (fld (w x) 0 4 + 1) mx init fin (fld (w x) 4 1 == 1) (fld (w x) 5 1 == 1))]
                    core := fun c => c.arrayUse (x.s.tlc + n x + (if fin then 12 else 4)) (x.s.tlc + n x + (if fin then 12 else 4)) })
    let base (x : Ctx) : Nat := fld (w x) 0 21
    let ls (x : Ctx) : List Nat := linesOf (base x) (16 * n x)
    form (.poolmx init fin e cw kn) true ∧ form (.poolav init fin e cw kn) false ∧
    (∀ (s : State) (gid : Nat) (who : Who) (g : Gang) (c : Core) (x : LatchEntry) (j k : Nat), aget gid s.gangs = some g → g.coreAt who.rank = some c →
      (aget k c.qa.entries = some x → x.due ≤ s.tlc → x.cut = false → (∀ r ∈ x.rows, r.psn = none) →
        s.useAct gid who (.poolEntry j k) = s.addStash gid [.pair who j x.rows []]) ∧
      (aget k c.qa.entries = none → ∃ tr : Trap, tr.cause = 16 ∧ s.useAct gid who (.poolEntry j k) = s.raiseCut gid s.tlc who tr)) ∧
    (∀ (s : State) (gid : Nat) (who : Who) (g : Gang) (c : Core) (m grp : Nat) (mx ini dv incl sg : Bool),
      aget gid s.gangs = some g → g.coreAt who.rank = some c →
      let start (r : Nat) : List Nat := if ini then List.replicate 128 (if mx then (fmtOf 0).signed true (fmtOf 0).infBits else 0) else c.accRow r
      let count (r : Nat) : Nat := if ini && !mx then 0 else (c.cnt.toList[r]?).getD 0
      let taken (r : Nat) : List Nat × Nat × Flags := ((List.range m).zip (g.pairs who m)).foldl (fun st p =>
        poolRow mx incl sg (p.1 % grp) ((p.2.1[r]?).getD (zeroRec false)) st) (start r, count r, 0)
      let out (r : Nat) : List Nat := if dv = true ∧ mx = false then ((List.range 128).zip (taken r).1).map fun p =>
        if 8 * grp ≤ p.1 then p.2 else if (taken r).2.1 = 0 then 0 else (fDivN (p.2, 0) (taken r).2.1).1 else (taken r).1
      ∃ d, (s.landAct gid who (.poolLand m grp mx ini dv incl sg)).coreOn gid who.rank = some d ∧
        d = { c with acc := d.acc, cnt := d.cnt, flags := d.flags } ∧
        ∀ r : Fin 128, d.acc[r.val] = rowOfCells (out r.val) ∧ d.cnt[r.val] = (taken r.val).2.1) ∧
    (∀ (incl sg : Bool) (grp cnt : Nat) (r : KRec) (cells : List Nat) (fl : Flags), cells.length = 128 →
      let v (i : Nat) : FVal := f32v (roundF (fmtOf 0) 0 false ⟨((r.mants sg)[i]?).getD 0, r.e⟩).1
      let each (f : Nat → Nat → Nat) : List Nat := ((List.range 128).zip cells).map fun p => if p.1 / 8 = grp then f (p.1 % 8) p.2 else p.2
      (r.inv = false → r.pd = true → poolRow true incl sg grp r (cells, cnt, fl) = (cells, cnt, fl)) ∧
      (r.inv = false → r.pd = false → (poolRow true incl sg grp r (cells, cnt, fl)).1 = each (fun i o => (fminmaxV (fmtOf 0) true (f32v o) (v i)).1)) ∧
      (r.inv = false → (poolRow false incl sg grp r (cells, cnt, fl)).1 = each (fun i o => (faddV (fmtOf 0) 0 (f32v o) (v i)).1) ∧
        (poolRow false incl sg grp r (cells, cnt, fl)).2.1 = if grp = 0 ∧ (r.pd = false ∨ incl = true) then cnt + 1 else cnt) ∧
      (∀ mx, r.inv = true → (poolRow mx incl sg grp r (cells, cnt, fl)).1 = each (fun _ _ => (fmtOf 0).nan))) ∧
    Completes (.boxcfg cw kn) (fun _ => [cw.xloc, kn.xloc])
      (fun x => w x / 2 ^ 34 = 0 ∧ 1 ≤ n x ∧ n x ≤ 256 ∧ base x % 16 = 0 ∧ x.c.ports.feedRel ≤ x.s.tlc ∧ x.g.inCarve (base x) (16 * n x) = true)
      (fun x =>
        let rel := x.s.tlc + 1 + (ls x).length
        { acts := (((List.range (ls x).length).zip (ls x)).map fun p =>
            (x.s.tlc + 1 + p.1, Act.boxLine (base x) (n x) p.2) :: bankActs (x.s.tlc + 1 + p.1) x.c.gcore false [p.2]).foldr (· ++ ·) []
          core := fun c => { c with box := some ⟨BitVec.ofNat 64 (w x), [], n x, 0, match c.box with
            | some b => if b.landed < rel then b.landed else rel
            | none => rel⟩ }
          gang := feedCommit [] false rel rel [] x.who.rank }) ∧
    Faults (.cropa e cw) (fun _ => [cw.xloc]) (fun x => ∃ gw c b, x.c.win = some (gw, c) ∧ x.c.box = some b ∧ x.s.tlc < b.landed)
      (fun _ => { cause := 2 }) ∧
    Faults (.cropa e cw) (fun _ => [cw.xloc]) (fun x => x.c.win = none ∨ x.c.box = none) (fun _ => { cause := 2 })) ∧
  (∀ (e : BitVec 7) (cw : Opnd) (gw : BitVec 64) (c : Nat) (b : BoxState),
    let w := winOf gw c
    let f (x : Ctx) : FeedDesc := feedDesc false false e.toNat w.groups (x.c.rd cw)
    let near : Bool := fld b.cw.toNat 33 1 == 1
    let smp (x : Ctx) := (List.range ((f x).rows + 1)).map fun r => (r, cropSample b w r)
    let pix (p : CropSample) : List (Nat × Nat) := if near then [(p.ya, p.xa)] else [(p.ya, p.xa), (p.ya, p.xb), (p.yb, p.xa), (p.yb, p.xb)]
    let one (x : Ctx) (g : Nat) (rs : Nat × Option (Option CropSample × Flags)) : List (Nat × Act) :=
      match rs.2 with
      | some (some p, _) =>
        (((List.range 4).zip (pix p)).map fun q =>
          let at_ := x.s.tlc + 2 + 512 * g + 4 * rs.1 + q.1
          let ad := (f x).base + (q.2.1 * w.iw + q.2.2) * (f x).pitch
          (at_, Act.cropPix (f x) g rs.1 q.1 c ad) ::
            bankActs at_ x.c.gcore false (linesOf (ad + (groupSpan (f x) c g).1) (groupSpan (f x) c g).2)).foldr (· ++ ·) []
      | _ => []
    Completes (.cropa e cw) (fun _ => [cw.xloc])
      (fun x => x.c.win = some (gw, c) ∧ x.c.box = some b ∧ b.landed ≤ x.s.tlc ∧ (f x).fmt ≤ 5 ∧ (f x).kl = 0 ∧ (f x).mmax = 0 ∧
        x.c.ports.feedRel ≤ x.s.tlc ∧
        x.g.inCarve (f x).base ((w.ih * w.iw - 1) * (f x).pitch + pixelBytes (f x) c) = true)
      (fun x => { acts := ((List.range (f x).n).map fun g => ((smp x).map (one x g)).foldr (· ++ ·) []).foldr (· ++ ·) [] ++
                    (List.range (f x).n).map fun g => (x.s.tlc + 514 + 512 * g, Act.cropFill (f x) g near
                      ((smp x).map fun p => match p.2 with
                        | some (some q, _) => some (BitVec.ofNat 32 q.wy, BitVec.ofNat 32 q.wx)
                        | _ => none)
                      (if g = 0 then flagsOf ((smp x).map fun p => match p.2 with | some (_, k) => k | none => 0) else 0))
                  core := fun c => { c with box := c.box.map fun b => { b with s0 := b.s0 + 128 } }
                  gang := feedCommit [x.who.rank] false (x.s.tlc + 512 * (f x).n) (x.s.tlc + 2 + 512 * (f x).n)
                    ((List.range (f x).n).map fun g => (((f x).e + g) % 128, x.s.tlc + 514 + 512 * g)) x.who.rank }))

/-- R191: the accumulator port takes its rows one a cycle, row i landing 8 cycles after it starts: ACLR, ALD, ASAV, ARDV, AWRV, ASCL,
ABIAS and ACLMP. A NaN loaded into the accumulator is made canonical (log 26), and VS + 8 ≤ 1024 is what ASCL and ABIAS ask of their
operand (log 82, the model's reading of `VS as ARDV`). A row that lands, and the clearing of a row or column, change those cells and
nothing else of the core. -/
def Obligations.AccumulatorPort : Prop :=
  ∀ (rnd : BitVec 2) (r : BitVec 7) (cw kn : Opnd),
    let n (x : Ctx) : Nat := x.c.rd kn
    let w (x : Ctx) : Nat := x.c.rd cw
    let at_ (x : Ctx) (i : Nat) : Nat := x.s.tlc + i + 8
    let free (x : Ctx) : Prop := x.c.ports.arrLand ≤ x.s.tlc ∧ x.c.ports.accRel ≤ x.s.tlc
    let fits (x : Ctx) (lim : Nat) : Prop := 1 ≤ n x ∧ n x ≤ lim ∧ r.toNat + n x ≤ 128
    let lined (x : Ctx) : Prop := w x / 2 ^ 21 = 0 ∧ w x % 64 = 0 ∧ x.g.inCarve (w x) (512 * n x) = true
    let rows (x : Ctx) : List Loc := [cw.xloc, kn.xloc] ++ accReads r.toNat (n x)
    let eff (x : Ctx) (claims : List (Loc × Nat)) (per : Nat → List (Nat × Act)) : Eff :=
      { claims := claims, acts := ((List.range (n x)).map per).foldr (· ++ ·) [], core := fun c => c.portUse (x.s.tlc + n x + 8) }
    let cells (x : Ctx) (f : Nat → Nat → Nat × Flags) (i : Nat) : List (Nat × Flags) :=
      (x.c.accRow (r.toNat + i)).zipWith f (x.c.v.toList.map fun l => slices l (w x) 32)
    let each (i : Instr) (f : Nat → Nat → Nat × Flags) : Prop :=
      Completes i (fun x => rows x ++ [.v (w x) 8 (BitVec.allOnes 128)])
        (fun x => free x ∧ fits x 128 ∧ w x / 2 ^ 10 = 0 ∧ w x + 8 ≤ 1024)
        (fun x => eff x [] fun i => (at_ x i, .accWrite (r.toNat + i) (rowOfCells ((cells x f i).map (·.1)))) ::
          flagActs (at_ x i) (flagsOf ((cells x f i).map (·.2))))
    Completes (.aclr r kn) (fun _ => [kn.xloc]) (fun x => free x ∧ fits x 128)
      (fun x => eff x [] fun i => [(at_ x i, .accWrite (r.toNat + i) 0)]) ∧
    Completes (.ald r cw kn) (fun _ => [cw.xloc, kn.xloc]) (fun x => free x ∧ fits x 128 ∧ lined x)
      (fun x => eff x [] fun i => (x.s.tlc + i + 1, .aldRow (r.toNat + i) (w x + 512 * i) (at_ x i)) ::
        bankActs (x.s.tlc + i + 1) x.c.gcore false (linesOf (w x + 512 * i) 512)) ∧
    Completes (.asav r cw kn) rows (fun x => free x ∧ fits x 128 ∧ lined x)
      (fun x => eff x ((List.range (n x)).map fun i => (.cm (w x + 512 * i) 512, at_ x i)) fun i =>
        (at_ x i, .mem (cmKey x.c.gcore (w x + 512 * i)) (leBytes 512 ((x.c.acc.toList[r.toNat + i]?).getD 0).toNat) false) ::
          bankActs (at_ x i) x.c.gcore true (linesOf (w x + 512 * i) 512)) ∧
    Completes (.ardv r cw kn) rows (fun x => free x ∧ fits x 32 ∧ w x / 2 ^ 10 = 0 ∧ w x + 8 * n x ≤ 1024)
      (fun x => eff x ((List.range (n x)).map fun i => (.v (w x + 8 * i) 8 (BitVec.allOnes 128), at_ x i)) fun i =>
        [(at_ x i, .wv (w x + 8 * i) 32 (BitVec.allOnes 128) (x.c.accRow (r.toNat + i)))]) ∧
    Completes (.awrv r cw kn) (fun x => [cw.xloc, kn.xloc, .v (w x) (8 * n x) (BitVec.allOnes 128)])
      (fun x => free x ∧ fits x 32 ∧ w x / 2 ^ 10 = 0 ∧ w x + 8 * n x ≤ 1024)
      (fun x => eff x [] fun i => [(at_ x i, .accWrite (r.toNat + i)
        (rowOfCells (x.c.v.toList.map fun l => canonNan (slices l (w x + 8 * i) 32))))]) ∧
    each (.ascl rnd r cw kn) (fun c s => fmulV (fmtOf 0) rnd (f32v c) (f32v s)) ∧
    each (.abias rnd r cw kn) (fun c s => faddV (fmtOf 0) rnd (f32v c) (f32v s)) ∧
    Completes (.aclmp r cw kn) rows
      (fun x => free x ∧ fits x 128 ∧ (f32v (fld (w x) 0 32)).isNan = false ∧ (f32v (fld (w x) 32 32)).isNan = false ∧
        (f32v (fld (w x) 32 32)).ltV true (f32v (fld (w x) 0 32)) = false)
      (fun x => eff x [] fun i => [(at_ x i, .accWrite (r.toNat + i)
        (rowOfCells ((x.c.accRow (r.toNat + i)).map (clampCell (fld (w x) 0 32) (fld (w x) 32 32)))))]) ∧
    (∀ (s : State) (gid : Nat) (who : Who) (c : Core) (i : Nat) (v : Lane), s.coreOn gid who.rank = some c →
      (s.landAct gid who (.accWrite i v)).coreOn gid who.rank = some { c with acc := c.acc.setIfInBounds i v } ∧
      (s.landAct gid who (.accClear false i)).coreOn gid who.rank = some { c with acc := c.acc.setIfInBounds i 0 } ∧
      ∃ d, (s.landAct gid who (.accClear true i)).coreOn gid who.rank = some d ∧ d = { c with acc := d.acc } ∧
        ∀ q : Fin 128, d.acc[q.val] = setSlices c.acc[q.val] (8 * i) 32 0) ∧
    ∀ (s : State) (gid : Nat) (who : Who) (c : Core) (row addr land : Nat), s.coreOn gid who.rank = some c → s.err.upsets = [] →
      hazardOf s.tlc true c.claims (.cm addr 512) = none → hazardOf s.tlc false c.claims (.cm addr 512) = none →
      (∀ b ∈ beatsOf (cmKey c.gcore addr) 512, s.poison.contains b = false) →
      s.readAct gid who (.aldRow row addr land) = s.addAgenda gid [⟨land, who, .accWrite row (rowOfCells ((List.range 128).map fun i =>
        canonNan (leNat (((s.mem.bytes (cmKey c.gcore addr) 512).drop (4 * i)).take 4))))⟩]

/-- R192, R193: the drains write row i (for DRNR column i) 8 cycles after it starts, `base` + i × pitch, and clear it with CLR; the
conversion and its flags are those of `DrainCw.row`. -/
def Obligations.DrainsWriteRows : Prop :=
  ∀ (r : BitVec 7) (cw kn : Opnd),
    let form (i : Instr) (k : Drain) : Prop :=
      let d (x : Ctx) : DrainCw := drainCw k (x.c.rd cw) x.c.outDesc
      let n (x : Ctx) : Nat := x.c.rd kn
      let ad (x : Ctx) (i : Nat) : Nat := (d x).base + i * (d x).pitch
      let at_ (x : Ctx) (i : Nat) : Nat := x.s.tlc + i + 8
      ∀ out : Ctx → Nat → List Byte × Flags,
        Completes i (fun x => [cw.xloc, kn.xloc] ++ (d x).cells k r.toNat (n x))
          (fun x => 1 ≤ n x ∧ n x ≤ 128 ∧ r.toNat + n x ≤ 128 ∧ (d x).ok k (x.c.rd cw) = true ∧ ((d x).fmt = 9 → (d x).slotOk = true) ∧
            x.c.ports.arrLand ≤ x.s.tlc ∧ x.c.ports.accRel ≤ x.s.tlc ∧
            x.g.inCarve (d x).base ((n x - 1) * (d x).pitch + (d x).rowBytes) = true ∧
            ¬ ((d x).fmt = 9 ∧ (d x).adapt = true ∧ (d x).int = true) ∧
            ∀ i, i < n x → (d x).row (x.c.drainSrc k (r.toNat + i)) = .ok (out x i))
          (fun x => { claims := (List.range (n x)).map fun i => (Loc.cm (ad x i) (out x i).1.length, at_ x i)
                      acts := ((List.range (n x)).map fun i =>
                        (if (d x).clr then [(at_ x i, Act.accClear (k == .drnr) (r.toNat + i))] else []) ++
                        ((at_ x i, .mem (cmKey x.c.gcore (ad x i)) (out x i).1 false) ::
                          bankActs (at_ x i) x.c.gcore true (linesOf (ad x i) (out x i).1.length) ++ flagActs (at_ x i) (out x i).2)).foldr (· ++ ·) []
                      core := fun c => c.portUse (x.s.tlc + n x + 8) })
    form (.drn r cw kn) .drn ∧ form (.drna r cw kn) .drna ∧ form (.drnf r cw kn) .drnf ∧ form (.drnr r cw kn) .drnr

/-! Movement (08_movement_instructions). -/

/-- R203 to R212: COPY and COPYA move line k from its reach cycle to its landing cycle, by the times of its path, with the requests of
their banks, the claim on what lands and the count-downs of HD, where every line of both places is in range, the port released,
and, on a far path, the issue on the core's slot. The first line of a COPY that is out of range is cause 33 at its place, the source's first.
R207, R208: a converting or transposing COPY reads its source lines, one conversion a destination line, and lands line k on
issue + 6 + k, one tile later for a transpose; R208 forbids source and destination to meet. -/
def Obligations.TimedCopies : Prop :=
  (∀ (f : FcArgs) (d s : Place),
    let lines (offs : List (Int × Int)) := (List.range offs.length).zip (offs.map fun o => (d.move o.1, s.move o.2))
    let path (x : Ctx) : Path := x.pathTo (if s.isOwn x.who.rank then d else s)
    let tm (x : Ctx) : Nat × Nat × Nat := (path x).times (s.isOwn x.who.rank)
    let last (x : Ctx) (n : Nat) (first : Nat) : Nat := x.s.tlc + first + (tm x).2.2 * (n - 1)
    let fits (x : Ctx) (q : Nat × Option Place × Option Place) : Prop :=
      ∃ a b, q.2 = (some a, some b) ∧ a.inRange x.s x.g 64 = true ∧ b.inRange x.s x.g 64 = true
    let ready (x : Ctx) : Prop :=
      placeOf f.dsp.toNat (x.c.rd f.da) = some d ∧ placeOf f.ssp.toNat (x.c.rd f.sa) = some s ∧
      d.aligned true 64 = true ∧ s.aligned true 64 = true ∧ hdlTrap (x.hdl f) = none ∧
      x.c.ports.rel (path x) ≤ x.s.tlc ∧ ((path x == .lat || path x == .inter) = true → (x.s.tlc - x.g.dbt) % 8 = x.c.gcore % 8) ∧
      (d.space = 1 → x.g.tob.flags / 4 % 2 = 1)
    let eff (x : Ctx) (offs : List (Int × Int)) : Eff :=
      let n := offs.length
      let ls := (lines offs).filterMap fun q => match q.2 with | (some a, some b) => some (q.1, a, b) | _ => none
      let land (k : Nat) : Nat := x.s.tlc + (tm x).2.1 + (tm x).2.2 * k
      let reach (k : Nat) : Nat := x.s.tlc + (tm x).1 + (tm x).2.2 * k
      let cl := ls.map fun (k, a, _) => x.lineClaim a (land k)
      x.copyEff d (path x) n 0 (last x n (tm x).2.1) (cl.map (·.1)).flatten (cl.map (·.2)).flatten
        ((ls.map fun (k, a, b) => (reach k, Act.lineCopy (b.key x.s x.g x.c) (a.key x.s x.g x.c) (land k)) ::
            (x.lineReq b (path x) (reach k) false ++ x.lineReq a (path x) (land k) true)).foldr (· ++ ·) [] ++
          x.hdlActs f (x.hdl f) (last x n (tm x).1) (last x n (tm x).2.1))
    let plain (x : Ctx) : List (Int × Int) := (List.range (x.c.rd f.ln)).map fun k => (((64 * k : Nat) : Int), ((64 * k : Nat) : Int))
    Completes (.copy f) (fun _ => fcReads f true)
      (fun x => f.var = 0 ∧ 1 ≤ x.c.rd f.ln ∧ x.c.rd f.ln ≤ 32768 ∧ ready x ∧ ∀ q ∈ lines (plain x), fits x q) (fun x => eff x (plain x)) ∧
    (∀ (k : Nat) (bad : Place), Faults (.copy f) (fun _ => fcReads f true)
      (fun x => f.var = 0 ∧ 1 ≤ x.c.rd f.ln ∧ x.c.rd f.ln ≤ 32768 ∧ ready x ∧ (∀ q ∈ (lines (plain x)).take k, fits x q) ∧
        ∃ q, (lines (plain x))[k]? = some q ∧ bad.inRange x.s x.g 64 = false ∧
          (q.2.2 = some bad ∨ ∃ b, q.2.2 = some b ∧ b.inRange x.s x.g 64 = true ∧ q.2.1 = some bad))
      fun _ => { cause := 33, lo := rangeLo bad.space (bad.raw : Int), hi := 0 }) ∧
    ∀ ls, Completes (.copya f) (fun _ => fcReads f false)
      (fun x => x.slotTrap (f.aux.toNat % 8) = none ∧
        (if d.space = 1 then affineOf (x.c.slot (f.aux.toNat % 8)) 8 8 else affineOf (x.c.slot (f.aux.toNat % 8)) 64 1) = some ls ∧
        ready x ∧ ∀ q ∈ lines ((List.range (ls.foldl (fun n l => n * l.1) 1)).map (affineLine ls)), fits x q)
      (fun x => eff x ((List.range (ls.foldl (fun n l => n * l.1) 1)).map (affineLine ls)))) ∧
  (∀ (f : FcArgs) (da sa : Nat),
    let n (x : Ctx) : Nat := x.c.rd f.ln
    let var : Nat := f.var.toNat
    let es : Nat := 2 ^ f.es
    let src (x : Ctx) : Nat := match var with | 1 => 32 * n x | 2 => 128 * n x | 3 => 16 * n x | _ => 64 * n x
    let extra : Nat := if var = 4 then 64 / es else 0
    let land (x : Ctx) (k : Nat) : Nat := x.s.tlc + 6 + extra + k
    let key (x : Ctx) (a : Nat) : Nat := cmKey x.c.gcore a
    let one (x : Ctx) (off srcOff len k m : Nat) : List (Nat × Act) :=
      (x.s.tlc + off, Act.conv var f.fmts f.fmtd f.rnd (key x (sa + srcOff)) (key x (da + 64 * k)) m (land x k)) ::
        bankActs (x.s.tlc + off) x.c.gcore false (linesOf (sa + srcOff) len)
    let rd (x : Ctx) : List (List (Nat × Act)) := match var with
      | 1 => (List.range ((n x + 1) / 2)).map fun j => one x (1 + 2 * j) (64 * j) 64 (2 * j) (if n x < 2 * j + 2 then 1 else 2)
      | 2 => (List.range (n x)).map fun k => one x (1 + k) (128 * k) 128 k 1
      | 3 => (List.range (n x / 4)).map fun j => one x (1 + 4 * j) (64 * j) 64 (4 * j) 4
      | _ => (List.range (n x)).map fun k =>
          (x.s.tlc + 1 + k, Act.trnRead (key x (sa + 64 * k)) k) :: (land x k, Act.trnLand (key x (da + 64 * k)) es k) ::
            bankActs (x.s.tlc + 1 + k) x.c.gcore false [(sa + 64 * k) / 64]
    Completes (.copy f) (fun _ => fcReads f true)
      (fun x => f.var ≠ 0 ∧ f.dsp = 0 ∧ f.ssp = 0 ∧ x.c.rd f.da = da ∧ x.c.rd f.sa = sa ∧ da < 2 ^ 21 ∧ sa < 2 ^ 21 ∧
        da % 64 = 0 ∧ sa % 64 = 0 ∧ 1 ≤ n x ∧ n x ≤ 32768 ∧ (var = 3 → n x % 4 = 0) ∧ (var = 4 → n x % (64 / es) = 0) ∧
        hdlTrap (x.hdl f) = none ∧ x.c.ports.loc ≤ x.s.tlc ∧ x.g.inCarve sa (src x) = true ∧ x.g.inCarve da (64 * n x) = true ∧
        meet da (64 * n x) sa (src x) = false)
      (fun x => x.copyEff (.cm da) .loc (n x) extra (land x (n x - 1)) ((List.range (n x)).map fun k => (.cm (da + 64 * k) 64, land x k)) []
        ((rd x).flatten ++ ((List.range (n x)).map fun k => bankActs (land x k) x.c.gcore true [(da + 64 * k) / 64]).flatten ++
          x.hdlActs f (x.hdl f) (match var with
            | 1 => x.s.tlc + 1 + 2 * ((n x + 1) / 2 - 1) | 3 => x.s.tlc + 1 + 4 * (n x / 4 - 1) | _ => x.s.tlc + n x) (land x (n x - 1)))))

/-- R210, R226 to R229: SEQCFG reads its descriptor on the next cycle; XFORM transforms line k on issue + 3 + k, XFORMV on the wheel
cycles of the core's side of its home vault; XSTAT gives the status of a tag, as it stands once the cycle's other words have issued. -/
def Obligations.SequencerAndTransforms : Prop :=
  ∀ (slot : BitVec 3) (off : BitVec 15) (f : FcArgs) (d a : Opnd) (p : Place),
    let ad (x : Ctx) : Nat := x.c.rd a + 64 * off.toNat
    let n (x : Ctx) : Nat := x.c.rd f.ln
    let base (x : Ctx) : Nat := x.c.rd f.da
    let at_ (x : Ctx) (k : Nat) : Nat := wheelCycle (x.s.tlc + 3) (if x.c.gcore % 2 = 0 then 120 else 124) k
    let ready (x : Ctx) (lim : Nat) : Prop := placeOf f.dsp.toNat (base x) = some p ∧ p.aligned true 64 = true ∧
      xformPar f.var.toNat (x.c.rd f.sa) = true ∧ 1 ≤ n x ∧ n x ≤ lim ∧ x.c.ports.xf ≤ x.s.tlc
    Completes (.seqcfg slot off a) (fun _ => [a.xloc]) (fun x => ad x % 64 = 0 ∧ x.g.inCarve (ad x) 64 = true)
      (fun x => { acts := (x.s.tlc + 1, .slotRead slot.toNat (ad x)) :: bankActs (x.s.tlc + 1) x.c.gcore false [ad x / 64]
                  core := fun c => { c with slotAt := aset slot.toNat (x.s.tlc + 4) c.slotAt } }) ∧
    Completes (.xform f) (fun _ => fcReads f true) (fun x => ready x 32768 ∧ x.g.inCarve (base x) (64 * n x) = true)
      (fun x => { claims := (List.range (n x)).map fun k => (.cm (base x + 64 * k) 64, x.s.tlc + 3 + k)
                  acts := ((List.range (n x)).map fun k => x.xformAct f (x.s.tlc + 3 + k) (cmKey x.c.gcore (base x + 64 * k)) ::
                    bankActs (x.s.tlc + 3 + k) x.c.gcore true [base x / 64 + k]).flatten
                  core := fun c => { c with ports := { c.ports with xf := x.s.tlc + n x } } }) ∧
    Completes (.xformv f) (fun _ => fcReads f true)
      (fun x => ready x 4096 ∧ isHome x.c.gcore (base x) = true ∧ (Place.vt (base x)).inRange x.s x.g (64 * n x) = true)
      (fun x => { acts := ((List.range (n x)).map fun k => [x.xformAct f (at_ x k) (vtKey (base x + 64 * k)),
                    (at_ x k, .vbank (base x / 2 ^ 28) (fld (base x) 24 4) (vtBank ((base x + 64 * k) % 2 ^ 24)) .rmw true)]).flatten
                  core := fun c => { c with ports := { c.ports with xf := at_ x (n x - 1) + 1 } } }) ∧
    Completes (.xstat d a) (fun _ => [a.xloc]) (fun x => x.c.rd a ≤ 15)
      (fun x => { claims := [(d.xloc, x.s.tlc + 1)], acts := [(x.s.tlc, .readTag (x.c.rd a) d.start.toNat d.width)] }) ∧
    ∀ (s : State) (gid : Nat) (w : Who) (g : Gang) (c : Core) (k st wd : Nat), aget gid s.gangs = some g → s.coreOf gid w = some c →
      s.readAct gid w (.readTag k st wd) =
        let q := (aget k c.tags).getD ⟨false, 0⟩
        s.addAgenda gid [⟨s.tlc + 1, w, .wx st wd (packBits [(31, 1, q.drop.toNat), (0, 24, q.items)] % 2 ^ wd)⟩]

/-- R213, R214, R216 to R225, R229: the untimed instructions issue a request, where the core has fewer than 32 outstanding, their bases are
in range and their operands legal: the request stands in the gang's queue with its tag pending and not done, the handle of HD
registers, and a request into `im:` marks the plane's copy invalid. That an MCOPY counts one item for its tag, of no pixels too, is the model's choice
(log 83). -/
def Obligations.UntimedRequests : Prop :=
  ∀ (f : FcArgs) (d s : Place) (t : Tile),
    let n (x : Ctx) : Nat := x.c.rd f.ln
    let at_ (x : Ctx) (ud us : Nat) : Prop := placeOf f.dsp.toNat (x.c.rd f.da) = some d ∧ placeOf f.ssp.toNat (x.c.rd f.sa) = some s ∧
      d.aligned false ud = true ∧ s.aligned false us = true
    let dsc (x : Ctx) : Prop := n x % 32 = 0 ∧ n x < 2 ^ 21 ∧ (Place.cm (n x)).inRange x.s x.g 32 = true
    let here (x : Ctx) (p : Place) (k : Nat) : Prop := p.inRange x.s x.g k = true
    let px (x : Ctx) : List (Nat × Nat) := if fld (n x) 32 4 = 1 then t.pixels (n x) else []
    let vtOk (x : Ctx) (p : Place) (offs : List Nat) : Prop :=
      ∀ v, p = .vt v → ∀ o ∈ offs, ((p.move (o : Int)).any fun q => q.inRange x.s x.g t.pb) = true
    let form (i : Instr) (cond : Ctx → Prop) (kind : Ctx → ReqKind) (im : Ctx → Bool) (due : Ctx → Option Nat) : Prop :=
      Completes i (fun _ => fcReads f true) (fun x => x.roomForRequest = true ∧ hdlTrap (x.hdl f) = none ∧ cond x)
        (fun x => x.requestEff f.tag (kind x) (f.mod.extractLsb' 0 2) (x.hdl f) (im x) (due x) fun _ => [])
    form (.ucopy f) (fun x => at_ x 64 64 ∧ 1 ≤ n x ∧ n x ≤ 2 ^ 24 ∧ (d.space = 1 → x.g.tob.flags / 4 % 2 = 1) ∧ here x s (64 * n x) ∧
        here x d (64 * n x)) (fun x => .ucopy d.space s.space d.raw s.raw (n x)) (fun _ => d.space == 1) (fun _ => none) ∧
    form (.ufill f) (fun x => placeOf f.dsp.toNat (x.c.rd f.da) = some d ∧ d.aligned false 64 = true ∧ 1 ≤ n x ∧ n x ≤ 2 ^ 24 ∧ here x d (64 * n x))
      (fun x => .ufill d.space d.raw (BitVec.ofNat 64 (x.c.rd f.sa)) (n x)) (fun _ => false) (fun _ => none) ∧
    form (.gath f) (fun x => at_ x 32 32 ∧ dsc x ∧ here x s 1 ∧ here x d 1) (fun x => .gath (f.var.getLsbD 0) s.space d.raw s.raw (n x))
      (fun _ => false) (fun _ => none) ∧
    form (.scat f) (fun x => at_ x 32 32 ∧ dsc x ∧ here x s 1 ∧ here x d 1) (fun x => .scat d.space d.raw s.raw (n x)) (fun _ => false) (fun _ => none) ∧
    form (.scatw f) (fun x => at_ x 32 32 ∧ dsc x ∧ here x s 1 ∧ here x d 1) (fun x => .scatw s.space d.raw s.raw (n x)) (fun _ => false)
      (fun _ => none) ∧
    form (.gaths f) (fun x => placeOf 0 (x.c.rd f.sa) = some s ∧ s.aligned false 32 = true ∧ x.c.rd f.da % 16 = 0 ∧ x.c.rd f.da < 2 ^ 21 ∧ dsc x ∧
        here x s 1 ∧ here x (.cm (x.c.rd f.da)) 16) (fun x => .gaths f.dsp.toNat (x.c.rd f.da) s.raw (n x)) (fun _ => false) (fun _ => none) ∧
    form (.mcopy f) (fun x => at_ x 32 32 ∧ x.slotTrap (f.aux.toNat % 8) = none ∧ tileOf (x.c.slot (f.aux.toNat % 8)) = some t ∧ here x s 1 ∧
        here x d 1 ∧ vtOk x s ((px x).map (·.2)) ∧ vtOk x d ((px x).map (·.1)) ∧ (fld (n x) 32 4 = 1 → tileOverlap t (n x) d s = false))
      (fun x => .mcopy d.space s.space d.raw s.raw (BitVec.ofNat 64 (n x)) (x.c.slot (f.aux.toNat % 8))) (fun _ => false)
      (fun x => if (px x).isEmpty then some (x.s.tlc + 2) else none) ∧
    form (.tlfetch f) (fun x => at_ x 32 32 ∧ 1 ≤ n x ∧ n x ≤ 65536 ∧ here x s 1 ∧ here x d (32 + 8 * n x))
      (fun x => .tlfetch (f.var.getLsbD 0) s.space d.raw s.raw (n x)) (fun _ => false) (fun _ => none)

/-- R220, R248: the engine commands are untimed requests whose block is read on the next cycle; PIN enters its beats in the die's row
cache where they fit and answers 1 (1 again for a pin the job has), and 0 where they do not; UNPIN takes out what was pinned at its
address, whatever that is, and answers whether anything was. -/
def Obligations.EngineCommandsAndPins : Prop :=
  ∀ (d a : Opnd) (tag : BitVec 4) (beats : BitVec 12),
    let ad (x : Ctx) : Nat := x.c.rd a
    let form (i : Instr) (op : Nat) : Prop :=
      Completes i (fun _ => [a.xloc])
        (fun x => x.roomForRequest = true ∧ ad x % 64 = 0 ∧ ad x < 2 ^ 21 ∧ (Place.cm (ad x)).inRange x.s x.g 64 = true)
        (fun x => x.requestEff tag (.engine op (ad x)) 0 none false none
          fun id => (x.s.tlc + 1, .blockRead id (ad x)) :: bankActs (x.s.tlc + 1) x.c.gcore false [ad x / 64])
    let n : Nat := beats.toNat + 1
    let die (x : Ctx) : Nat := x.c.gcore / 32
    let mine (x : Ctx) : List PinEnt := x.s.pins.filter fun p => p.die == die x
    let had (x : Ctx) : Bool := (mine x).any fun p => p.job == x.g.step.job && p.va == ad x && p.beats == n
    let legal (x : Ctx) : Prop := ad x % 32 = 0 ∧ ad x < 2 ^ 54
    let full (x : Ctx) : Prop := 64 ≤ (mine x).length ∨ 32768 < ((mine x).map (·.beats)).foldl (· + ·) 0 + n
    let hit (x : Ctx) (p : PinEnt) : Bool := p.die == die x && p.job == x.g.step.job && p.va == ad x
    let ans (x : Ctx) (v : Nat) (dev : State → State) : Eff :=
      { claims := [(d.xloc, x.s.tlc + 4)], acts := [(x.s.tlc + 4, .wx d.start.toNat d.width v)], dev := dev }
    form (.cmuTab a tag) 0xC1 ∧ form (.cmuFrm a tag) 0xC2 ∧ form (.mpb a tag) 0xC3 ∧ form (.belLook a tag) 0xC4 ∧ form (.belDep a tag) 0xC5 ∧
    form (.belRes a tag) 0xC6 ∧ form (.belPin a tag) 0xC7 ∧
    Completes (.pin d a beats) (fun _ => [a.xloc]) (fun x => legal x ∧ had x = true) (fun x => x.xEff d 1 4) ∧
    Completes (.pin d a beats) (fun _ => [a.xloc]) (fun x => legal x ∧ had x = false ∧ full x) (fun x => x.xEff d 0 4) ∧
    Completes (.pin d a beats) (fun _ => [a.xloc]) (fun x => legal x ∧ had x = false ∧ ¬ full x)
      (fun x => ans x 1 fun s => { s with pins := s.pins ++ [⟨die x, x.g.step.job, ad x, n⟩] }) ∧
    Completes (.unpin d a) (fun _ => [a.xloc]) always
      (fun x => ans x (x.s.pins.any (hit x)).toNat fun s => { s with pins := s.pins.filter fun p => !hit x p })

/-! Atomics and gongs (09_sync_instructions). -/

/-- R230 to R235: an atomic reaches its word on issue + L and its old value lands on issue + 2·L, where the address is in range and
aligned and, in a vault, the reach is in the issuer's window of the wheel; the word then takes the operation's value. -/
def Obligations.AtomicsReachAndUpdate : Prop :=
  ∀ (flag : Bool) (sp : BitVec 3) (d a b c : Opnd) (p : Place),
    let reach (x : Ctx) : Nat := x.s.tlc + p.lat x.g x.c
    let ready (x : Ctx) : Prop := placeOf sp.toNat (x.c.rd a) = some p ∧
      (p.isOwn x.who.rank = true ∨ wheelFirst x.c.gcore (p.die x.g x.c) ≤ reach x % 128 ∧ reach x % 128 ≤ wheelFirst x.c.gcore (p.die x.g x.c) + 2) ∧
      p.inRange x.s x.g (b.width / 8) = true ∧ p.raw % (b.width / 8) = 0
    let form (i : Instr) (op : AtOp) (flag : Bool) (cs : List Opnd) (third : Ctx → Nat) : Prop :=
      Completes i (fun _ => [a.xloc, b.xloc] ++ cs.map Opnd.xloc) ready
        (fun x => { claims := (if p.isOwn x.who.rank then [(.cm p.raw (b.width / 8), reach x)] else []) ++ [(d.xloc, x.s.tlc + 2 * p.lat x.g x.c)]
                    acts := (reach x, .atomic op flag (p.key x.s x.g x.c) b.width (x.c.rd b) (third x) d.start.toNat (x.s.tlc + 2 * p.lat x.g x.c)) ::
                      (if p.isOwn x.who.rank then bankActs (reach x) x.c.gcore true (linesOf p.raw (b.width / 8))
                      else [(reach x, Act.vbank (p.die x.g x.c) (fld p.raw 24 4) (vtBank (p.raw % 2 ^ 24)) .rmw true)]) })
    form (.atadd sp d a b) .add false [] (fun _ => 0) ∧ form (.atmin flag sp d a b) .min flag [] (fun _ => 0) ∧
    form (.atmax flag sp d a b) .max flag [] (fun _ => 0) ∧ form (.atand sp d a b) .and false [] (fun _ => 0) ∧
    form (.ator sp d a b) .or false [] (fun _ => 0) ∧ form (.atxor sp d a b) .xor false [] (fun _ => 0) ∧
    form (.atswp sp d a b) .swp false [] (fun _ => 0) ∧ form (.atcas sp d a b c) .cas false [c] (fun x => x.c.rd c) ∧
    form (.atfmin flag sp d a b) .fmin flag [] (fun _ => 0) ∧ form (.atfmax flag sp d a b) .fmax flag [] (fun _ => 0) ∧
    form (.atfadd flag sp d a b) .fadd flag [] (fun _ => 0) ∧
    ∀ (s : State) (gid : Nat) (w : Who) (op : AtOp) (key wd vb vc dst land : Nat),
      s.opFlit gid w key = none → (s.fetch key (wd / 8)).psn = false → (s.fetch key (wd / 8)).bad = none → (s.fetch key (wd / 8)).fixed = [] →
      s.atomic gid w op flag key wd vb vc dst land =
        (s.store key (leBytes (wd / 8) (op.apply flag wd (leNat (s.fetch key (wd / 8)).bytes) vb vc).1)).modGang gid fun g =>
          { g with agenda := g.agenda ++ (((land, Act.wx dst wd (leNat (s.fetch key (wd / 8)).bytes)) ::
              flagActs land (op.apply flag wd (leNat (s.fetch key (wd / 8)).bytes) vb vc).2).map fun q => (⟨q.1, w, q.2⟩ : Timed)) }

/-- R239 to R244, R247: GONG.INIT takes effect on issue + L; GONG.HDL makes a handle of the generation of b, or of the one the gong is in
L cycles later; GONG.ARR registers its handle and defers an arrival, where fewer than 8 completion entries wait (else it answers
0); GONG.WAIT waits; LSTEP and LGRAPH defer a launch, answer 0 where they cannot and 2 in another rank than the leader's. Which gong operations
are requesters of a bank is log 29's reading, and that GONG.HDL.cur at a gong of the own core is none is log 96's. -/
def Obligations.GongInstructions : Prop :=
  ∀ (cur lead : Bool) (sp : BitVec 3) (d a b : Opnd) (n : BitVec 12) (p : Place),
    let room (x : Ctx) : Prop := x.c.compl.length < 8
    let later (x : Ctx) (v : Nat) (e : Compl) (acts : List (Nat × Act)) : Eff :=
      { claims := [(d.xloc, x.s.tlc + 1)], acts := (x.s.tlc + 1, .wx d.start.toNat d.width v) :: acts
        core := fun c => { c with compl := c.compl ++ [e] } }
    let launch (i : Instr) (bad : Nat → Bool) (entry : Nat → Nat → Nat → Compl) : Prop :=
      let legal (x : Ctx) : Prop := x.c.rd b < 1024 ∧ bad (x.c.rd a) = false
      Completes i (fun _ => [a.xloc, b.xloc]) (fun x => legal x ∧ lead = true ∧ x.who.rank ≠ 0) (fun x => x.xEff d 2 1) ∧
      Completes i (fun _ => [a.xloc, b.xloc]) (fun x => legal x ∧ (lead = true → x.who.rank = 0) ∧ room x)
        (fun x => later x 1 (entry (x.c.rd a) (x.c.rd b) x.st.pc) []) ∧
      Completes i (fun _ => [a.xloc, b.xloc]) (fun x => legal x ∧ (lead = true → x.who.rank = 0) ∧ ¬ room x) (fun x => x.xEff d 0 1)
    Completes (.gongInit sp a b) (fun _ => [a.xloc, b.xloc]) (fun x => x.c.rd b ≠ 0 ∧ x.gongAt sp.toNat (x.c.rd a) = .ok p)
      (fun x =>
        let at_ := x.s.tlc + p.lat x.g x.c
        { claims := if p.isOwn x.who.rank then [(.cm (p.raw % 2 ^ 21) 16, at_)] else []
          acts := (at_, .gongInit (p.key x.s x.g x.c) (BitVec.ofNat 32 (x.c.rd b))) ::
            if p.isOwn x.who.rank then bankActs at_ x.c.gcore true (linesOf (p.raw % 2 ^ 21) 16) else x.peerBank p at_ true }) ∧
    Completes (.gongHdl cur sp d a b) (fun _ => if cur then [a.xloc] else [a.xloc, b.xloc])
      (fun x => cur = false ∧ x.gongAt sp.toNat (x.c.rd a) = .ok p) (fun x => x.xEff d (packHandle (x.c.rd b % 16) sp.toNat p.raw) 1) ∧
    Completes (.gongHdl cur sp d a b) (fun _ => if cur then [a.xloc] else [a.xloc, b.xloc])
      (fun x => cur = true ∧ x.gongAt sp.toNat (x.c.rd a) = .ok p)
      (fun x =>
        let l := p.lat x.g x.c
        { claims := [(d.xloc, x.s.tlc + 2 * l)]
          acts := (x.s.tlc + l, .gongHdl (BitVec.ofNat 64 (packHandle 0 sp.toNat p.raw)) (p.key x.s x.g x.c) d.start.toNat (x.s.tlc + 2 * l)) ::
            x.peerBank p (x.s.tlc + l) false }) ∧
    Completes (.gongArr d a n) (fun _ => [a.xloc]) (fun x => x.handle (x.c.rd a) false = .ok p ∧ room x)
      (fun x => later x 1 (.arrive (BitVec.ofNat 64 (x.c.rd a)) n.toNat x.st.pc) (x.registers (x.c.rd a) p)) ∧
    Completes (.gongArr d a n) (fun _ => [a.xloc]) (fun x => x.handle (x.c.rd a) false = .ok p ∧ ¬ room x) (fun x => x.xEff d 0 1) ∧
    Completes (.gongWait a) (fun _ => [a.xloc]) (fun x => x.st.loops = [] ∧ x.handle (x.c.rd a) false = .ok p)
      (fun x => { flow := some fun s => { s with pc := s.pc + 1, st := .wait (.gong (BitVec.ofNat 64 (x.c.rd a)) (p.lat x.g x.c)) x.who } }) ∧
    launch (.lstep lead d a b) (fun v => v % 256 != 0) (fun v q w => .lstep v q w) ∧
    launch (.lgraph lead d a b) (fun v => v / 2 ^ 28 != 0) (fun v q w => .lgraph v q w)

/-! Memory streams (10_memory_stream_instructions). -/

/-- R258 to R266, R270: ACT, PRE, PREA and REFPB, where no parameter of the timing table and no bank state forbids them: ACT opens the
physical row of the region's row, PRE and PREA close active banks and leave others, REFPB lowers the bank's debt by one. -/
def Obligations.RowCommands : Prop :=
  ∀ (bank : BitVec 4) (row : BitVec 16) (m : MStream) (phys : Nat),
    let p (x : Ctx) : Pch := x.s.pch m.pch
    let changes (i : Instr) (ok : Ctx → Prop) (f : Ctx → Pch → Pch) : Prop :=
      Completes i (fun _ => []) (fun x => x.m = some m ∧ ok x) (fun x => { dev := fun s => s.modPch m.pch (f x) })
    let active (x : Ctx) : List Nat := (List.range 16).filter fun b => ((p x).bankAt b x.s.tlc).row.isSome
    changes (.act bank row) (fun x => (p x).broken opAct bank.toNat x.s.tlc = [] ∧ m.rows[m.rb + row.toNat]? = some phys)
      (fun x q => q.activate x.s.tlc bank.toNat phys) ∧
    changes (.pre bank) (fun x => ((p x).bankAt bank.toNat x.s.tlc).row.isSome = true → (p x).broken opPre bank.toNat x.s.tlc = [])
      (fun x q => q.precharge x.s.tlc opPre bank.toNat) ∧
    changes .prea (fun x => ∀ b ∈ active x, (p x).broken opPrea b x.s.tlc = [])
      (fun x q => (active x).foldl (fun q b => q.precharge x.s.tlc opPrea b) q) ∧
    changes (.refpb bank) (fun x => (p x).broken opRefpb bank.toNat x.s.tlc = [] ∧ -8 ≤ (p x).debtAfter bank.toNat x.s.tlc - 1)
      (fun x q => q.refresh x.s.tlc bank.toNat) ∧
    ∀ tr, Faults (.act bank row) (fun _ => [])
      (fun x => x.m = some m ∧ x.timingTrap m opAct ((p x).broken opAct bank.toNat x.s.tlc) = some tr) (fun _ => tr)

/-- R256, R257, R263, R264: the column commands on an open row: RD and RDA deliver the column's 32 bytes to a ring beat 136 cycles later,
RDZ reads and delivers nothing, WR and WRA store the 32 bytes that stood in the ring beat 20 cycles earlier, WRM the 4-byte groups
of its mask, WRZ zeros. -/
def Obligations.ColumnCommands : Prop :=
  ∀ (bank : BitVec 4) (col : BitVec 5) (beat : BitVec 13) (mask : BitVec 8) (m : MStream) (addr phys : Nat) (r : RingRead),
    let p (x : Ctx) : Pch := x.s.pch m.pch
    let k : Nat := colKey m.pch phys bank.toNat col.toNat
    let opened (op : Nat) (x : Ctx) : Prop := x.m = some m ∧ (p x).broken op bank.toNat x.s.tlc = [] ∧
      ((p x).bankAt bank.toNat x.s.tlc).row = some phys
    let read (i : Instr) (op : Nat) : Prop :=
      Completes i (fun _ => []) (fun x => opened op x ∧ m.beat beat.toNat = some addr)
        (fun x =>
          let v := x.s.fetch k 32
          { deliver := (x.deliverRing m addr v.bytes (v.psn || v.bad.isSome)).1, acts := (x.deliverRing m addr v.bytes (v.psn || v.bad.isSome)).2
            dev := fun s => x.deliverNote m addr ((s.modPch m.pch fun q => q.column x.s.tlc op bank.toNat).colNote x.gid v (some (x.ringKey m addr))) })
    let write (i : Instr) (op : Nat) (mask : BitVec 8) : Prop :=
      Completes i (fun _ => []) (fun x => opened op x ∧ m.beat beat.toNat = some addr ∧ x.ringFetch m addr = .ok r)
        (fun x =>
          let old := x.s.fetch k 32
          { gang := x.ringLog m r
            dev := fun s =>
              let s := s.modPch m.pch fun q => q.column x.s.tlc op bank.toNat
              let s := if op = opWrm then s.colNote x.gid old (if mask = BitVec.allOnes 8 then none else some k) else s
              (x.ringNote m r k s).store k (((List.range 32).zip (r.rd.bytes.zip old.bytes)).map fun q => if mask.getLsbD (q.1 / 4) then q.2.1 else q.2.2)
                (r.psn || (op == opWrm && !decide (mask = BitVec.allOnes 8) && (old.psn || old.bad.isSome))) })
    read (.rd bank col beat) opRd ∧ read (.rda bank col beat) opRda ∧
    Completes (.rdz bank col) (fun _ => []) (opened opRdz)
      (fun x => { dev := fun s => (s.modPch m.pch fun q => q.column x.s.tlc opRdz bank.toNat).colNote x.gid (x.s.fetch k 32) none }) ∧
    write (.wr bank col beat) opWr (BitVec.allOnes 8) ∧ write (.wra bank col beat) opWra (BitVec.allOnes 8) ∧
    write (.wrm bank col beat mask) opWrm mask ∧
    Completes (.wrz bank col) (fun _ => []) (opened opWrz)
      (fun x => { dev := fun s => (s.modPch m.pch fun q => q.column x.s.tlc opWrz bank.toNat).store k (List.replicate 32 0) })

/-- R256, R267 to R269: RING.SET, RING.SEEK and RING.ADV change the stream's ring for every later command; RING.GONG fetches a handle
from its beat and counts it down on issue + 136; DMARK delivers its mark to its beat. -/
def Obligations.RingCommands : Prop :=
  ∀ (base rows : BitVec 16) (lines beat : BitVec 13) (rank : BitVec 6) (code : BitVec 8) (m : MStream) (addr : Nat) (r : RingRead),
    let changes (i : Instr) (ok : Ctx → Prop) (f : MStream → MStream) : Prop :=
      Completes i (fun _ => []) (fun x => x.m = some m ∧ ok x) (fun _ => { gang := fun g => g.modMem m.n f })
    changes (.ringSet base lines rank)
      (fun x => rank.toNat < x.g.cores.length ∧ x.g.inCarve ((64 * base.toNat : Nat) : Int) (64 * (lines.toNat + 1)) = true)
      (fun m => { m with rank := rank.toNat, base := base.toNat, lines := lines.toNat + 1, cur := 0 }) ∧
    changes (.ringSeek rows beat) (fun _ => beat.toNat < 2 * m.lines) (fun m => { m with cur := beat.toNat, rb := rows.toNat }) ∧
    changes (.ringAdv rows beat) (fun _ => m.lines ≠ 0 ∧ 0 ≤ (m.rb : Int) + rows.toInt ∧ (m.rb : Int) + rows.toInt ≤ 49151)
      (fun q => { q with cur := (q.cur + beat.toNat) % (2 * q.lines), rb := ((m.rb : Int) + rows.toInt).toNat }) ∧
    Completes (.ringGong beat) (fun _ => [])
      (fun x => x.m = some m ∧ m.beat beat.toNat = some addr ∧ x.ringFetch m addr = .ok r ∧ r.psn = false)
      (fun x => { gang := x.ringLog m r
                  acts := (x.s.tlc + 136, .ringRegist (BitVec.ofNat 64 (leNat (r.rd.bytes.take 8)))) ::
                    (match x.handle (leNat (r.rd.bytes.take 8)) false with | .ok p => x.peerBank p (x.s.tlc + 136) true | .error _ => [])
                  dev := x.ringNote m r (x.ringKey m addr) }) ∧
    Completes (.dmark beat code) (fun _ => []) (fun x => x.m = some m ∧ m.beat beat.toNat = some addr)
      (fun x => { deliver := (x.deliverRing m addr ((x.s.pch m.pch).mark x.s.tlc m.n code) false).1
                  acts := (x.deliverRing m addr ((x.s.pch m.pch).mark x.s.tlc m.n code) false).2
                  dev := x.deliverNote m addr })

/-! The machine: steps, encodings, landings, memory, faults. -/

/-- R89, R92, R116, R386 (the order of inputs, events and words is the model's: log 3): an input that is due runs as its row; with none
due and no event before the words of the cycle, the first due word is fetched from the plane or sequencer store where its stream
stands, and step is exec of the instruction it decodes to, at that state with the cursor on the stream and the corrections of the
fetch recorded; a word that decodes to none faults at issue. With no word due what the gangs do of themselves takes place, then the
gong arrivals and advances of the cycle, then the device's other own events, and then the cycle ends. -/
def Obligations.StepRunsDecodedWord : Prop :=
  ∀ (s : State),
    (∀ i t, s.nextInput = some (i, t) → step s = exec i t) ∧
    (s.nextInput = none →
      (∀ a, s.early = some a → step s = .next (a.apply s)) ∧
      (∀ gid g rank st, s.early = none → s.dueWord = some (gid, g, rank, st) →
        let s' : State := { s with cursor := ⟨gid, rank, st.id⟩ }
        (∀ rs i, s'.fetchInstr g rank st = (rs, .ok i) → step s = exec i (s'.fetched g rs)) ∧
        (∀ rs tr, s'.fetchInstr g rank st = (rs, .error tr) →
          step s = .next ((s'.fetched g rs).raise gid s.tlc (some ⟨rank, st.id, st.pc, s.tlc⟩) tr))) ∧
      (s.early = none → s.dueWord = none →
        (∀ a, s.lateGangs = some a → step s = .next (a.apply s)) ∧
        (s.lateGangs = none → s.gongQ ≠ [] → step s = .next s.gongsDone) ∧
        (s.lateGangs = none → s.gongQ = [] → (∀ a, s.lateEvent = some a → step s = .next (a.apply s)) ∧
          (s.lateEvent = none → step s = .next s.nextCycle)))) ∧
    (∀ g rank st r i, s.wordAt g rank st.id st.pc = some r → r.bad = none → wordsOf r.word = 1 → decode st.id r.word none = .ok i →
      s.fetchInstr g rank st = ([r], .ok i)) ∧
    (∀ g rank st r q i, s.wordAt g rank st.id st.pc = some r → r.bad = none → wordsOf r.word = 2 →
      s.wordAt g rank st.id (st.pc + 1) = some q → q.bad = none → decode st.id r.word (some q.word) = .ok i →
      s.fetchInstr g rank st = ([r, q], .ok i)) ∧
    (∀ g rank c pc id, g.coreAt rank = some c → id.isMem = false → pc < (s.info c.gcore).len →
      s.wordAt g rank id pc = some (s.fetch (imKey c.gcore (s.info c.gcore).active (8 * pc)) 8)) ∧
    (∀ g rank n m pc, g.memAt n.val = some m → m.entry ≤ pc → pc < m.entry + m.len →
      s.wordAt g rank (.d n) pc = some (s.fetch (seqKey m.pch (8 * (pc - m.entry))) 8))

/-- R87, R90, R117 to R128: words put together field by field as the formats place them decode to the instructions they stand for. -/
def Obligations.SpecWordsDecode : Prop :=
  -- F3: IDLE 3, OP 0x00, d x0:32, a x8:32, b x16:32, S
  decode .c (3#10 ++ 0x00#8 ++ (0#10 ++ 7#4) ++ (8#10 ++ 7#4) ++ (16#10 ++ 7#4) ++ 8#4) none
    = .ok (.add true ⟨0, 7⟩ ⟨8, 7⟩ ⟨16, 7⟩) ∧
  -- FW: OP 0x1D LI x32:32
  decode .c (0#10 ++ 0x1D#8 ++ (32#10 ++ 7#4) ++ 0xDEADBEEF#32) none = .ok (.li ⟨32, 7⟩ 0xDEADBEEF) ∧
  -- FB: OP 0x26 BR x4:32, offset -1, condition 2
  decode .c (0#10 ++ 0x26#8 ++ (4#10 ++ 7#4) ++ 0xFFFFFF#24 ++ 0#5 ++ 2#3) none = .ok (.br 2 ⟨4, 7⟩ 0xFFFFFF) ∧
  -- a first word of opcode 0x14 needs its continuation
  decode .c (0#10 ++ 0x14#8 ++ 0#14 ++ 0#14 ++ 0#14 ++ 0#4) none = .error (.continuation false) ∧
  -- NOP, and an opcode above 0xDF
  decode .v (5#10 ++ 0xD8#8 ++ 0#46) none = .ok .nop ∧
  decode .c (0#10 ++ 0xE3#8 ++ 77#46) none = .ok (.unassignedOpcode 0xE3) ∧
  -- a scalar opcode in the m stream, and a reserved field that is not zero
  decode .m (0#10 ++ 0x00#8 ++ 0#14 ++ 0#14 ++ 0#14 ++ 0#4) none = .error .wrongStream ∧
  decode .c (0#10 ++ 0x00#8 ++ (0#10 ++ 7#4) ++ (0#10 ++ 7#4) ++ (0#10 ++ 7#4) ++ 1#4) none = .error (.field false)

/-- R87, R89, R115 to R130: decoding the words of a well-formed instruction, after any number of idle cycles and in any stream where its
opcode is valid, gives that instruction with every operand as it was, and the IDLE field is read back. Every constructor of Instr that
has words is covered, every field at every value well-formedness admits. -/
def Obligations.DecodeEncodeAgree : Prop :=
  ∀ (i : Instr) (e : Enc) (idle : BitVec 10) (st : StreamId), encode i = some e → i.wf = true → streamOk e.op.toNat st = true →
    ∃ w rest, e.words idle = w :: rest ∧ decode st w rest.head? = .ok i ∧ idleOf w = idle.toNat ∧ wordsOf w = rest.length + 1 ∧ opOf w = e.op.toNat

/-- R326, R331, R332, R397, R402, R422: what cold reset leaves, as far as the spec says: no step runs, the first job will be number 1, no
decision has been made, records count from 0, the host's registers read 0, DSTAT with STAGE, DIES and READY among them. Memory is in its
canonical form; that it lists nothing is the model's choice (log 1). -/
def Obligations.ResetState : Prop :=
  State.reset.gangs = [] ∧ State.reset.sched.nextJob = 1 ∧ State.reset.sched.decisions = 0 ∧ (∀ q, (State.reset.queue q).deficit = 0) ∧
    State.reset.err.seq = 0 ∧ State.reset.host.invSeq = 0 ∧ State.reset.root.stage = 0 ∧ State.reset.root.ready = false ∧
    (∀ bar off, State.reset.registerRead bar off = 0) ∧ State.reset.Inv

/-- The memory a state lists keeps its one canonical form on every step, from every state, whatever the step does. The form is the model's
design choice (log 1) and no rule's; the spec's side of it, that memory is bytes which read as last written, is R308's. -/
def Obligations.MemoryStaysCanonical : Prop :=
  ∀ s t : State, s.Inv → step s = .next t → t.Inv

/-- R308, R387 (log 1): a store changes the bytes it writes and no other byte, whatever lies there; a read of memory reads them back, a
beat becomes poisoned by a poisoned write that reaches it, stays so where a clean write reaches only part of it or none, is clean after
a clean write of the whole, and canonical memory stays so. -/
def Obligations.StoresWriteBytes : Prop :=
  ∀ (s : State) (k a : Nat) (bs : List Byte) (psn : Bool), s.Inv →
    (s.store k bs psn).mem.read a = (if k ≤ a ∧ a < k + bs.length then (bs[a - k]?).getD 0 else s.mem.read a) ∧
    (s.store k bs psn).Inv ∧ (s.store k bs psn).mem.bytes k bs.length = bs ∧
    (s.store k bs psn).gangs = s.gangs ∧ (s.store k bs psn).tlc = s.tlc ∧
    (∀ b, (32 * b + 32 ≤ k ∨ k + bs.length ≤ 32 * b) → ((s.store k bs psn).poison.contains b = s.poison.contains b)) ∧
    (∀ b, psn = false → k ≤ 32 * b → 32 * b + 32 ≤ k + bs.length → (s.store k bs psn).poison.contains b = false) ∧
    (∀ b, psn = false → ¬ (k ≤ 32 * b ∧ 32 * b + 32 ≤ k + bs.length) → (s.store k bs psn).poison.contains b = s.poison.contains b) ∧
    (∀ b, psn = true → bs ≠ [] → k < 32 * b + 32 → 32 * b < k + bs.length → (s.store k bs psn).poison.contains b = true)

/-- R21, R35, R37, R90, R102, R131, R158, R159, R295: what a landing writes: the slices of its operand and no others, in the lanes of its mask
and no others, the named bits of one mask and no other; no byte of memory, no other core, and of its own core nothing else. And when it
does: as a cycle ends its reads and consumptions take place, and what is still to come stays in the agenda; on the next cycle the clears of
flags come first, then the requests that end, then, where no request meets another in a bank, no landing another landing, and nothing is
counted down or updated in its bank, every act due lands that its word's fault has not cut off: registers, latches, accumulators and
configuration, then memory, whose bytes read back. -/
def Obligations.LandingsWriteFiles : Prop :=
  (∀ (f : Lane) (st wd v i : Nat), i < 4096 →
    (setSlices f st wd v).getLsbD i = if 4 * st ≤ i ∧ i < 4 * st + wd then v.testBit (i - 4 * st) else f.getLsbD i) ∧
  ∀ (s : State) (gid : Nat) (w : Who) (c : Core), s.coreOn gid w.rank = some c →
    (∀ st wd v, let t := s.landAct gid w (.wx st wd v)
      t.coreOn gid w.rank = some { c with x := setSlices c.x st wd v } ∧ t.mem = s.mem ∧ ∀ g r, (g, r) ≠ (gid, w.rank) → t.coreOn g r = s.coreOn g r) ∧
    (∀ st wd m vs, let t := s.landAct gid w (.wv st wd m vs)
      (∃ d, t.coreOn gid w.rank = some d ∧ d = { c with v := d.v } ∧
        ∀ i : Fin 128, d.v[i.val] = if m.getLsbD i.val then setSlices c.v[i.val] st wd ((vs[i.val]?).getD 0) else c.v[i.val]) ∧
      t.mem = s.mem ∧ ∀ g r, (g, r) ≠ (gid, w.rank) → t.coreOn g r = s.coreOn g r) ∧
    (∀ k b v, let t := s.landAct gid w (.wk k b v)
      (∃ d, t.coreOn gid w.rank = some d ∧ d = { c with k := d.k } ∧
        ∀ j : Fin 8, d.k[j.val] = if j.val = k then (c.k[j.val] &&& ~~~b) ||| (v &&& b) else c.k[j.val]) ∧
      t.mem = s.mem ∧ ∀ g r, (g, r) ≠ (gid, w.rank) → t.coreOn g r = s.coreOn g r) ∧
    (∀ f, (s.landAct gid w (.setFlags f)).coreOn gid w.rank = some { c with flags := c.flags ||| f }) ∧
    (∀ f, (s.landAct gid w (.clrFlags f)).coreOn gid w.rank = some { c with flags := c.flags &&& ~~~f }) ∧
    (∀ m, (s.landAct gid w (.setMode m)).coreOn gid w.rank = some { c with mode := m }) ∧
    (∀ n, (s.landAct gid w (.setBudget n)).coreOn gid w.rank = some { c with budget := min c.budget n }) ∧
    s.nextCycle = ((s.upkeep.endCycle.flitsFixed.clears.requestsEnd).beginCycle State.pre).settle.evalHeads ∧
    (let u := s.endReads.relinkAll
     s.endCycle.tlc = u.tlc + 1 ∧ s.endCycle.mem = u.mem ∧ (s.gongQ = [] → s.endReads = (s.foldActs s.dueActs State.readAct).foldActs s.dueActs State.useAct) ∧
     ∀ i g, aget i u.gangs = some g → ∃ h, aget i s.endCycle.gangs = some h ∧ h.agenda = g.agenda.filter fun a => decide (u.tlc < a.at_)) ∧
    (∀ (f : State → Nat → Who → Act → State) (p : Nat × Timed) (rest : List (Nat × Timed)), s.foldActs [] f = s ∧
      s.foldActs (p :: rest) f = (if s.stands p then f s p.1 p.2.who p.2.act else s).foldActs rest f) ∧
    (∀ i g a, (i, g) ∈ s.gangs → a ∈ g.agenda → a.at_ ≤ s.tlc → (i, a) ∈ s.dueActs) ∧
    s.clears = s.foldActs (s.dueActs.filter fun p => p.2.act.isClear) State.landAct ∧
    (∀ pre : State → State,
      let due := s.dueActs
      let reqs := s.bankReqs pre due
      let lands := due.filter fun p => p.2.act.isLanding
      let landed := ((({ s with used := usedBanks reqs } : State).foldActs (lands.filter fun p => p.2.act.isQclr) State.landAct).foldActs
        (lands.filter fun p => !p.2.act.isQclr) State.landAct).memWrites lands reqs []
      s.dueBeats = [] → (∀ p ∈ due, p.2.act.registers = false ∧ p.2.act.counts = false ∧ p.2.act.inBank = false) →
      (∀ p ∈ lands, ∀ q ∈ due, q.2.act.mayFault = true → p.1 = q.1 → p.2.who ≠ q.2.who) → reqGroups reqs.length reqs = [] →
      (∀ i g, (i, g) ∈ s.gangs → ((due.filter fun p => p.1 == i).map (·.2)).Pairwise fun a b => g.clash a b = none ∧ g.clash b a = none) →
      landed.gongQ = [] → (∀ p ∈ lands, landed.stands p = true) → s.beginCycle pre = landed) ∧
    (∀ (k a : Nat) (bs : List Byte) (psn : Bool) (t : Timed) (reqs : List BankReq), s.Inv → t.act = .mem k bs psn → s.stands (gid, t) = true →
      storeOf k = some .core →
      (s.memWrites [(gid, t)] reqs []).mem.read a = if k ≤ a ∧ a < k + bs.length then (bs[a - k]?).getD 0 else s.mem.read a)

/-- R41, R91, R92, R108: the frame of every program word, whether it takes effect or faults: on its issue cycle exec answers a next state
in which the cycle number, every other gang and, for every instruction but WR, WRA, WRM and WRZ, every byte of memory are as they were,
and every core of the step keeps its slice files, masks, accumulator, cnt registers, FLAGS, MODE, BUDGET and CNT slots: what a word
writes to them lands later. -/
def Obligations.IssueFrame : Prop :=
  ∀ (i : Instr) (p : Ctx → Plan) (s : State) (x : Ctx), planOf i = some p → s.ctx s.cursor i = some x →
    ∃ t, exec i s = .next t ∧ t.tlc = s.tlc ∧ (∀ g, g ≠ x.gid → aget g t.gangs = aget g s.gangs) ∧
      (∀ r c, s.coreOn x.gid r = some c → ∃ d, t.coreOn x.gid r = some d ∧ c.sameFiles d) ∧
      ((match i with
        | .wr _ _ _ | .wra _ _ _ | .wrm _ _ _ _ | .wrz _ _ => False
        | _ => True) → ∀ a, t.mem.read a = s.mem.read a)

/-- R104 to R108, R129, R384: the fault a word meets at issue is the one of lowest cause among all it meets: of its decoding, of its own
rule, of an early read of a timed delivery (cause 16), of a parity group in error and, in trap mode, of a pending write (cause 17). With
none it takes effect, and in record mode HITS counts its hazards up to 65535. -/
def Obligations.IssueFaults : Prop :=
  ∀ (i : Instr) (p : Ctx → Plan) (s : State) (x : Ctx), planOf i = some p → s.ctx s.cursor i = some x →
    (∀ tr, tr ∈ x.traps i (p x) → ∃ low, low ∈ x.traps i (p x) ∧ (∀ u ∈ x.traps i (p x), low.cause ≤ u.cause) ∧
      exec i s = .next (s.raise x.gid s.tlc (some x.who) low)) ∧
    (∀ l h, x.decodeTrap i = none → l ∈ (p x).reads → hazardOf s.tlc true (x.against (p x)) l = some h →
      ∃ low, low.cause ≤ 16 ∧ exec i s = .next (s.raise x.gid s.tlc (some x.who) low)) ∧
    (x.decodeTrap i = none → x.c.mode = 2 → x.hazards (p x) ≠ [] →
      ∃ low, low.cause ≤ 17 ∧ exec i s = .next (s.raise x.gid s.tlc (some x.who) low)) ∧
    (∀ e, (p x).res = .ok e → x.traps i (p x) = [] →
      exec i s = .next (x.issued (p x).reads e) ∧
      (x.c.mode = 1 → ∀ c, (x.commit e).coreOn x.gid x.who.rank = some c → ∃ d, (x.issued (p x).reads e).coreOn x.gid x.who.rank = some d ∧
        d.hits = min (c.hits + (x.hazards (p x)).length) 65535 ∧ d.log.length ≤ max c.log.length 32))

/-- R41, R103, R107, R108, R284: what detecting a fault on cycle t does to a step. The first fault fixes f and ends the step; among faults of
cycle f the first by stream, rank and cause stands; a later one up to f + 32 only counts in MORE, up to 255, and after that not even
this. The stream of the faulting word, a memory stream's too, stops at once for a fault at issue and with the cycle for a later one; core-local
state, every other stream and the cycles of what has issued stay as they are. Two landings of one cycle on one location are cause 17 of the
first word and neither lands; two requests to one bank of core memory are cause 18 of the first. -/
def Obligations.FaultRecord : Prop :=
  ∀ (g : Gang) (t : Nat) (w : Option Who) (tr : Trap),
    (g.fault = none → (g.raise t w tr).fault = some ⟨t, w, tr⟩ ∧ (g.raise t w tr).more = 0 ∧
      (g.phase = .running → (g.raise t w tr).phase = .ending)) ∧
    (∀ f, g.fault = some f → (g.raise t w tr).phase = g.phase ∧
      (t = f.f → (⟨t, w, tr⟩ : FaultRec).before f = true → (g.raise t w tr).fault = some ⟨t, w, tr⟩) ∧
      (t ≠ f.f ∨ (⟨t, w, tr⟩ : FaultRec).before f = false → (g.raise t w tr).fault = some f) ∧
      (t ≤ f.f + 32 → (g.raise t w tr).more = min (g.more + 1) 255) ∧
      (f.f + 32 < t → (g.raise t w tr).more = g.more)) ∧
    (∀ a b : FaultRec, ∀ u v, a.who = some u → b.who = some v → (a.before b = true ↔
      u.strm.code < v.strm.code ∨ u.strm.code = v.strm.code ∧ (u.rank < v.rank ∨ u.rank = v.rank ∧ a.trap.cause < b.trap.cause))) ∧
    (∀ u st, w = some u → g.strm u.rank u.strm = some st →
      (g.raise t w tr).strm u.rank u.strm = some (if u.issue = t then { st with st := .stopped } else { st with stopAt := some t })) ∧
    (∀ st : Stream, st.stopAt = some t → st.endCycle = { st with st := .stopped, stopAt := none }) ∧
    (∀ r id, (∀ u, w = some u → id ≠ u.strm ∨ (id.isMem = false ∧ r ≠ u.rank)) → (g.raise t w tr).strm r id = g.strm r id) ∧
    (∀ n m, (g.raise t w tr).memAt n = some m → ∃ m', g.memAt n = some m' ∧ m = { m' with strm := m.strm }) ∧
    (∀ (s : State) (gid : Nat) (a b : Timed) (sp ix : Nat), a.act.lands = true → b.act.lands = true → whoLt b.who a.who = false →
      g.clash a b = some (sp, ix) →
      s.collide gid g [a, b] = ((((s.raise gid s.tlc (some a.who) { cause := 17, lo := packBits [(0, 3, sp), (3, 21, ix), (24, 1, 1)]
                                                                    due := s.tlc - g.dbt, other := some b.who }).modGang gid fun g =>
        g.cut a.who s.tlc).drop (gid, a)).drop (gid, b))) ∧
    (∀ (s : State) (gid : Nat) (a b : BankReq), a.gid = gid → b.gid = gid → a.vault = none →
      s.bankConflict [a, b] = (s.raise gid s.tlc (some a.who) { cause := 18, other := some b.who
                                                                lo := packBits [(1, 5, a.bank), (10, 3, a.bank / 1024), (13, 5, a.bank / 32)] }).modGang gid
        fun g => if g.matrixWord a.who then g.cut a.who s.tlc else g) ∧
    (g.raise t w tr).agenda = g.agenda ∧ (g.raise t w tr).reqs = g.reqs ∧
    ∀ r c, g.coreAt r = some c → ∃ d, (g.raise t w tr).coreAt r = some d ∧ d = { c with streams := d.streams }

/-! Device steps that no word brings about (01, 04, 12 to 18). Where its condition holds, each answers the next state its rule
gives; the model raises them itself or takes them from its inbox (log 3). -/

/-- R23, R24, R27, R122, R255, R335: a step is staged and begins. A staging check raises the fault of an image it cannot read, or else swaps
the planes of the cores that took the image, stages the memory streams and sets the time; a downbeat, where staging is over, on a
multiple of 128 cycles outside a hold, starts the step on that cycle, with every core's files, masks, latches, accumulator, step registers
and the streams its image has, at the entry table's words, as R27 has them. A stream's first word then issues on DBT + IDLE, and one at or
beyond the program's end is cause 0. When within R336's bounds a stage ends (log 24), where a ring is declared (log 34) and what is staged again
(log 64) are the model's choices; the accumulator of an ACCRES operator is R44's and left out here. -/
def Obligations.StepBegins : Prop :=
  ∀ (s : State) (gid : Nat) (g : Gang), aget gid s.gangs = some g →
    (∀ since (u : State) (tr : Trap), g.phase = .placed since → since ≤ s.tlc → s.imageOf g = (u, .error tr) →
      exec (.stagingCheck gid) s = .next (u.dispatchFault gid g tr)) ∧
    (∀ since (u : State) (bs : List Byte) (ms : List (Nat × Nat × List Nat)), g.phase = .placed since → since ≤ s.tlc → s.imageOf g = (u, .ok bs) →
      (if g.cells.all (u.staged g.tob) then g.tob.pcrc else crc32 bs) = g.tob.pcrc → entriesOk (imageWords bs) g.tob.plen = true →
      let d := u.declare (imageWords bs) g.tob
      memWords d.sched.rings (imageWords bs) g.tob = .ok ms → d.checkpointTrap g.step.op g.tob g.step.n g.cells.length = none →
      exec (.stagingCheck gid) s = .next ((ms.foldl (fun (s : State) m => s.stageMem gid g m)
        ((g.cells.filter fun c => !d.staged g.tob c).foldl (fun (s : State) c => s.swapPlane g.tob bs c) d)).modGang gid fun h =>
          { h with phase := .staged (d.tlc + d.stageTime g) })) ∧
    ∀ ready, g.phase = .staged ready → ready ≤ s.tlc → s.tlc % 128 = 0 → s.root.thermalHold = false → s.root.powerHold = false →
      (∀ m ∈ g.mems, (s.pch m.pch).settled s.tlc = true) →
      let first := g.cells.headD 0
      let ws := imageWords (s.fetch (imKey first (s.info first).active 0) 48).bytes
      let start (id : StreamId) (pc : Nat) : Stream :=
        { id := id, pc := pc, base := s.tlc, floor := 0, st := .run, mark := 0, loops := [], opened := [], stopAt := none }
      (∃ t h, exec (.downbeat gid) s = .next t ∧ aget gid t.gangs = some h ∧ h.phase = .running ∧ h.dbt = s.tlc ∧ h.segStart = s.tlc ∧
        t.tlc = s.tlc ∧ h.cores.length = g.cells.length ∧ h.mems.length = g.mems.length ∧
        (∀ r cell, g.cells[r]? = some cell → ∃ c, h.coreAt r = some c ∧ (g.tob.acc = false → c.acc = Vector.replicate 128 0) ∧
          c.gcore = cell ∧ c.rank = r ∧ c.idx = tobIndex g.tob g.step.n r ∧ c.x = BitVec.ofNat 4096 (leNat g.tob.args) ∧ c.v = Vector.replicate 128 0 ∧
          c.k = (Vector.replicate 8 0).setIfInBounds 0 (BitVec.allOnes 128) ∧ c.cnt = Vector.replicate 128 0 ∧ c.qa = ⟨[], []⟩ ∧ c.qb = ⟨[], []⟩ ∧
          c.flags = 0 ∧ c.mode = BitVec.ofNat 2 g.tob.chkm ∧ c.hits = 0 ∧ c.budget = g.tob.wbud ∧ c.pend = 0 ∧ c.done = 0 ∧
          c.counts = [0, 0, 0, 0] ∧ c.slots = [] ∧ c.outDesc = 0 ∧ c.win = none ∧ c.pad = 0 ∧ c.winQ = 0 ∧ c.box = none ∧ c.compl = [] ∧ c.svc = [] ∧
          c.claims = [] ∧ c.streams = ((List.range 5).zip [StreamId.c, .m, .v, .l, .s]).filterMap fun p =>
            if entryPresent (entryOf ws p.1) then some (start p.2 (entryAddr (entryOf ws p.1))) else none) ∧
        ∀ (i : Nat) (m : MStream), g.mems[i]? = some m → m.len ≠ 0 → ∃ m' : MStream, h.mems[i]? = some m' ∧ m'.n = m.n ∧ m'.pch = m.pch ∧ m'.len = m.len ∧
          m'.counts = [0, 0, 0, 0] ∧ m'.strm = start m.strm.id m.entry) ∧
      (∀ q r id pc w, s.wordAt q r id pc = some w → s.dueAt q r (start id pc) = s.tlc + idleOf w.word) ∧
      (∀ q r c st, q.coreAt r = some c → st.id.isMem = false → (s.info c.gcore).len ≤ st.pc → s.fetchInstr q r st = ([], .error { cause := 0 })) ∧
      ∀ q r n m st, st.id = .d n → q.memAt n.val = some m → m.entry + m.len ≤ st.pc → s.fetchInstr q r st = ([], .error { cause := 0 })

/-- R22, R26, R41, R42, R43, R45, R237, R238, R243, R247, R328: a running step ends. One that runs past 2^21 cycles is ending, with cause 23; one
whose streams have all issued ENDSTEP and that leaves nothing to land completes: its cores are free, its trace is handed over, its
TOB has its flags and counts one step more, and its completion entries take effect in order, rank by rank: an arrival joins the cycle's
gong updates, a launch enters its queue or, where it cannot, is reported. A gong whose counts have reached zero advances: next
generation, counts reloaded, its waiters freed. An abandoned attempt of which everything has landed is closed, with nothing left to land
or to credit, and memory as its landed writes have left it, but for the gongs it credits. Both find the count-downs of the cycle made. -/
def Obligations.StepEnds : Prop :=
  ∀ (s : State) (gid : Nat) (g : Gang),
    (aget gid s.gangs = some g → g.phase = .running → g.fault = none → g.dbt + 2 ^ 21 + 1 ≤ s.tlc →
      ∃ t h, exec (.stepOverrun gid) s = .next t ∧ aget gid t.gangs = some h ∧ h.phase = .ending ∧ h.fault = some ⟨s.tlc, none, { cause := 23 }⟩ ∧
        t.mem = s.mem) ∧
    (let u := s.gongCounts []
     aget gid u.gangs = some g → g.phase = .running → g.atEnd = true → u.quiescent g = true → u.tlc ≤ g.dbt + 2 ^ 21 →
      ∃ t, exec (.stepCompletion gid) s = .next t ∧ aget gid t.gangs = none ∧
        ((∀ c ∈ g.cores, c.compl = []) → g.tob.arrives = false → g.step.mc = none →
          t.sched.lastMove = u.tlc ∧ t.sched.claveLogs = u.sched.claveLogs ++ g.cores.map (fun c => (g.step.id, c.rank, c.hits, c.log)) ∧
          ∀ j e, u.job g.step.job = some j → j.tobs[g.step.tobIdx]? = some e → ∃ j' e', t.job g.step.job = some j' ∧
            j'.tobs[g.step.tobIdx]? = some e' ∧ e'.done = e.done + 1 ∧ e'.flagw = e.flagw ||| g.cores.foldl (fun f c => f ||| c.flags) 0) ∧
        (g.tob.arrives = false → g.tob.acc = false → g.tob.regions = [] → g.step.mc = none → g.refs = [] →
          let es := (g.cores.map fun c => c.compl.map fun e => (c, e)).flatten
          let v := ((List.range es.length).zip es).foldl (fun s p => s.complEntry g p.1 p.2.1 p.2.2) (u.modJob g.step.job fun j =>
            { j with tobs := j.tobs.modify g.step.tobIdx fun e => { e with flagw := e.flagw ||| g.cores.foldl (fun f c => f ||| c.flags) 0, done := e.done + 1 } })
          let w := ({ v with sched := { v.sched with
            lastMove := v.tlc, claveLogs := v.sched.claveLogs ++ g.cores.map fun c => (g.step.id, c.rank, c.hits, c.log)
            services := v.sched.services ++ (g.cores.map fun c => c.svc.map fun e => (g.step.job, e)).flatten } } : State).dropGang gid
          w.jobFinished g.step.job = false → t = w)) ∧
    (∀ (c : Core) (i n waddr tob q : Nat) (h : BitVec 64), s.err.flits = [] →
      (storeOf (s.handleKey g c h) = some .core → s.complEntry g i c (.arrive h n waddr) = { s with gongQ := s.gongQ ++
        [{ key := s.handleKey g c h, ord := (3, g.cells.headD 0 / 32, g.cells.headD 0 % 32, i, 0), kind := 3, n := n, handle := h, gang := g.id
           who := some ⟨c.rank, .c, waddr, s.tlc⟩ }] }) ∧
      (s.jobLive g.step.job = true → (s.addTob g.step.job q tob).2 = true → s.complEntry g i c (.lstep tob q waddr) = (s.addTob g.step.job q tob).1) ∧
      (s.jobLive g.step.job = false → s.complEntry g i c (.lstep tob q waddr) = { s with sched := { s.sched with
        events := s.sched.events ++ [(52, c.rank, waddr, BitVec.ofNat 64 tob)] } }) ∧
      ∀ graph v, s.launch q (.graph graph) { tag := 0xFFFFFFFF, flaga := 0, flagn := 0, brken := false, quiet := false, viaPort := false } = (v, none) →
        s.complEntry g i c (.lgraph graph q waddr) = v) ∧
    (∀ key, s.Inv → s.err.upsets = [] → (s.gong key).arr = 0 → (s.gong key).inb = 0 → (s.gong key).out = 0 → s.advancedNow key = false → s.gongTrap key (0, 0) = none →
      let t := s.gongAdvance key
      (t.gong key).gen = ((s.gong key).gen + 1) % 16 ∧ (t.gong key).arr = (s.gong key).rarr ∧ (t.gong key).inb = (s.gong key).rin ∧
        (t.gong key).out = (s.gong key).rout ∧ t.advancedNow key = true ∧ ∀ w ∈ t.sched.waiters, ∀ h n, w.on ≠ .gong key h n) ∧
    (∀ key, (s.gong key).arr ≠ 0 ∨ (s.gong key).inb ≠ 0 ∨ (s.gong key).out ≠ 0 → s.gongAdvance key = s) ∧
    (let u := s.gongCounts []
     ∀ f : FaultRec, aget gid u.gangs = some g → g.phase = .ending → g.fault = some f → f.f + 33 ≤ u.tlc → u.quiescent g = true →
      ∃ t h, exec (.abandonmentFinish gid) s = .next t ∧ aget gid t.gangs = some h ∧ h.phase = .closed u.tlc ∧ h.agenda = [] ∧ h.applied = [] ∧
        h.refs = [] ∧ h.fault = some f ∧ ∀ c ∈ h.cores, c.streams = [] ∧ c.flags = 0 ∧ c.compl = [])

/-- R46, R284, R285, R286, R326, R327: what follows a step. A closed attempt is recorded and gone: the record has its number, and after a first
fault of the program's own the step is READY again at the head of its queue, after a second its job has ended. The record has the fields of
R285, those of a word zero and STRM 31 where the fault has none (R286), DISP 2 after a first fault and 3 after a second. A job that has ended and
has no steps left has its flag bytes written and is gone; a live job that firmware aborts has ended, with none of its steps READY
or waiting. -/
def Obligations.StepAftermath : Prop :=
  ∀ (s : State) (gid job : Nat),
    (∀ (g : Gang) (a : Nat) (f : FaultRec), aget gid s.gangs = some g → g.phase = .closed a → g.fault = some f →
      ∃ t, exec (.trapRecord gid) s = .next t ∧ aget gid t.gangs = none ∧ t.sched.trapSeq = (s.sched.trapSeq + 1) % 2 ^ 32 ∧
        (s.jobLive g.step.job = true → g.tob.noRestart = false → mcCause f.trap.cause = false → f.trap.cause ≠ 32 → f.trap.cause ≠ 34 →
          f.trap.cause ≠ 49 →
          (g.step.errs = 0 → (t.queue g.queue).front = { g.step with errs := 1 } :: (s.queue g.queue).front) ∧
          (1 ≤ g.step.errs → t.jobLive g.step.job = false))) ∧
    (∀ (g : Gang) (a : Nat) (f : FaultRec), aget gid s.gangs = some g → g.phase = .closed a → g.fault = some f → mcCause f.trap.cause = false →
      (ringAt s.sched.trapMem 0 s.sched.trapSeq s.sched.trapRing.length 1).2 ≠ 0 →
      let who := f.who.getD ⟨0, .c, 0, 0⟩
      let core := (g.cells[who.rank]?).getD 0
      let word := if f.who.isSome ∧ f.trap.cause ≠ 20 then g.words.head? else none
      let two := word.any fun w => wordsOf w == 2
      let waddr := if f.who.isSome ∧ f.trap.cause ≠ 20 then who.waddr else 0
      ∃ t r, exec (.trapRecord gid) s = .next t ∧ t.sched.trapRing = s.sched.trapRing ++ [r] ∧
        (∀ e ∈ [(0, 8, f.trap.cause), (12, 4, min g.step.attempt 15), (16, 8, g.more), (24, 5, if f.who.isSome then who.strm.code else 31),
            (32, 6, who.rank), (40, 5, core), (45, 3, core / 32), (48, 4, s.pdie (core / 32)), (52, 8, (word.map opOf).getD 0), (60, 1, two.toNat),
            (61, 1, f.trap.other.isSome.toNat), (64, 14, waddr), (80, 14, if f.trap.inCont then waddr + 1 else waddr), (96, 24, f.f - g.dbt),
            (128, 64, g.dbt), (192, 64, g.tobAddr), (352, 10, g.queue), (384, 32, g.step.job), (416, 10, g.marks.2.toNat), (426, 10, g.marks.1.toNat),
            (440, 8, min s.sched.trapLost 255), (448, 5, (f.trap.other.map (·.strm.code)).getD 0), (456, 6, (f.trap.other.map (·.rank)).getD 0),
            (464, 14, (f.trap.other.map (·.waddr)).getD 0), (480, 24, if f.trap.cause = 16 ∨ f.trap.cause = 17 then f.trap.due else 0),
            (512, 64, f.trap.lo), (576, 64, f.trap.hi), (640, 64, (word.getD 0).toNat), (704, 64, if two then ((g.words[1]?).getD 0).toNat else 0),
            (768, 32, s.sched.trapSeq)], fld r.toNat e.1 e.2.1 = e.2.2 % 2 ^ e.2.1) ∧
        (∀ i < 6, fld r.toNat (256 + 16 * i) 16 = ((tobIndex g.tob g.step.n who.rank)[i]?).getD 0 % 2 ^ 16) ∧
        (s.jobLive g.step.job = true → g.tob.noRestart = false → f.trap.cause ≠ 32 → f.trap.cause ≠ 34 → f.trap.cause ≠ 49 →
          fld r.toNat 8 2 = if g.step.errs = 0 then 2 else 3)) ∧
    (∀ j how, s.job job = some j → j.ended = some how → (∀ q ∈ s.gangs, q.2.step.job ≠ job) →
      ∃ t, exec (.flagAreaWrite job) s = .next t ∧ t.job job = none ∧
        t.mem = (if j.flaga = 0 then s else (s.virtPut j.root j.flaga (j.flagBytes.take j.flagn)).1).mem) ∧
    (s.jobLive job = true → ∃ t j, exec (.jobAbort job) s = .next t ∧ t.job job = some j ∧ j.ended = some .abort ∧
      (∀ q ∈ t.sched.queues, ∀ st ∈ q.2.front, st.job ≠ job) ∧ ∀ w ∈ t.sched.waiters, w.step.job ≠ job)

/-- R37, R94, R96, R97, R150, R151, R152, R213, R244, R374: what happens to a running step between its words: the release of a segment, from
whose cycle every stream that waits at the boundary runs on, its next word counted from it, with the counts of its core's CUE, and a memory
stream with those of rank 0's; the next iteration of a level; the end of a dynamic wait, the budget that a core's wait takes cycle by
cycle, and the end of one whose budget is spent, whatever other fault its stream meets on that cycle; an untimed beat's landing, a request's
end, and a deposit's, which makes its node valid. -/
def Obligations.StepEvents : Prop :=
  ∀ (s : State) (gid rank id mv : Nat) (strm : StreamId) (g : Gang), aget gid s.gangs = some g → g.live = true →
    (g.allCued = true ∧ g.releaseAt = s.tlc ∧ g.releaseFaults s.tlc = [] →
      let counts (r : Nat) (old : List Nat) : List Nat := ((g.cues.find? fun q => q.rank == r).map (·.counts)).getD old
      let go (st : Stream) : Stream := if st.st = .hold ∨ st.st = .cued then { st with st := .run, base := s.tlc, floor := 0, opened := [] } else st
      exec (.segmentRelease gid) s = .next { s with gangs := aset gid { g with
        segStart := s.tlc, cues := [], nest := []
        cores := g.cores.map fun c => { c with counts := counts c.rank c.counts, streams := c.streams.map go }
        mems := g.mems.map fun m => { m with counts := counts 0 m.counts, strm := go m.strm } } s.gangs }) ∧
    (g.allCued = true ∧ g.releaseAt = s.tlc → ∀ r c st, g.coreAt r = some c → st ∈ c.streams → st.id ≠ .c → (st.st = .run ∨ st.st = .ended) →
      ∃ f ∈ g.releaseFaults s.tlc, f.1.rank = r ∧ f.1.strm = st.id ∧ f.2.cause = 16 ∧ f.2.lo = 2) ∧
    (∀ r c st, g.coreAt r = some c → c.strm .c = some st → ∃ d, (g.endCycle s.tlc).coreAt r = some d ∧
      ((∀ w who, st.st ≠ .wait w who) → d.budget = c.budget) ∧ ∀ w who, st.st = .wait w who → d.budget = c.budget - 1) ∧
    (∀ st l r, g.strm rank strm = some st → st.st = .run → st.loops = l :: r → boundaryLevel s.tlc st.loops = some l → l.endl.isSome = true →
      exec (.loopIterationStart gid rank strm) s = .next (s.modGang gid fun g => g.modStrm rank strm Stream.iterate)) ∧
    (∀ c m who, g.waitOf rank = some (c, .tags m, who) → c.pend &&& m = 0 →
      exec (.dynamicWaitEnd gid rank) s = .next ((s.modGang gid fun g => g.modStrm rank .c fun st =>
        { st with st := .run, base := s.tlc + 1, floor := 0 }).addAgenda gid [⟨s.tlc + 1, who, .clrDone m⟩])) ∧
    (∀ c h lat who, g.waitOf rank = some (c, .gong h lat, who) → s.gongWaitEnds (s.handleKey g c h) h lat who.issue = true →
      exec (.dynamicWaitEnd gid rank) s = .next (s.modGang gid fun g => g.modStrm rank .c fun st =>
        { st with st := .run, base := s.tlc + 1, floor := 0 })) ∧
    (∀ c m who, g.waitOf rank = some (c, .tags m, who) → c.pend &&& m ≠ 0 → c.budget = 0 →
      exec (.waitBudgetExhausted gid rank) s = .next ((s.raise gid s.tlc (some who) { cause := 49, lo := m.toNat, hi := 0 }).modGang gid fun g =>
        { g.modStrm rank .c (fun st => { st with st := .stopped }) with wait := if g.fault.any fun f => f.who == some who && f.trap.cause == 49 then some .now else g.wait })) ∧
    (let u := s.startReq id
     ∀ gid' g' r ms m, u.reqAt id = some (gid', g', r) → g'.moves = true → r.moves = some ms → ms[r.pick ms mv]? = some m →
      u.moveWaits u.used id m = false →
      let t := (u.modReq id fun q => { q with moves := some (ms.eraseIdx (r.pick ms mv)), lastBeat := u.tlc }).landMove u gid' r m
      exec (.untimedBeatLanding id mv) s = .next { t with used := bankMark m.dst ++ t.used }) ∧
    (∀ gid' g' r, (s.startReq id).reqAt id = some (gid', g', r) → g'.live = true → r.mayComplete (s.startReq id).tlc = true → r.late = none →
      (∀ op a, r.kind ≠ .engine op a) →
      exec (.untimedCompletion id false) s = .next ((((s.startReq id).poolDrop id).modGang gid' fun g => g.dropReq r).reqCounts gid' g' r)) ∧
    ∀ gid' g' r addr n v, s.reqAt id = some (gid', g', r) → r.kind = .engine 0xC5 addr → r.node = some n → s.depWait id = none → r.late = none →
      g'.live = true → r.mayComplete s.tlc = true → s.node n = some v → v.state = 1 → (s.completeReq id false).reqAt id = none →
      ∃ t, exec (.depositCopyDone id) s = .next t ∧ t.node n = some { v with state := 2 } ∧ t.reqAt id = none

/-- R270, R271, R273, R281, R300, R301: pseudo-channels and traces: accrual on the bank's own cycles, the base die's refresh and precharge,
the pooled slot, which opens the row of the oldest request that may (that it may once its ACT breaks no timing is log 51's reading), the change
of mode of a free channel in which firmware keeps no region of its own (log 88), and a trace entry forwarded. -/
def Obligations.ChannelEvents : Prop :=
  ∀ (s : State) (n b core : Nat) (m : PchMode),
    (s.tlc % 5850 = 365 * b → b < 16 → s.ticked.contains (2, n * 16 + b) = false → (s.pch n).lease = none → (s.pch n).mode ≠ .pooled →
      exec (.refreshAccrual n b) s =
        .next ((s.tickOnce 2 (n * 16 + b)).modPch n fun p => { p with debt := p.debt.set b ((s.pch n).debtOf b + 1) })) ∧
    ((s.pch n).lease = none → (s.pch n).quiet = false → (s.pch n).mode ≠ .retired → 0 < (s.pch n).debtOf b →
      (s.pch n).broken opRefpb b s.tlc = [] → exec (.baseDieRefresh n b) s = .next (s.modPch n fun p => p.refresh s.tlc b)) ∧
    (∀ gid g f row, (s.pch n).bankAt b s.tlc = .active row → (s.pch n).broken opPre b s.tlc = [] → (s.pch n).lease = some gid →
      aget gid s.gangs = some g → g.phase = .ending → g.fault = some f →
      (f.f + 32 < s.tlc ∨ (f.f < s.tlc ∧ ∃ m ∈ g.mems, m.pch = n ∧ (m.strm.st = .ended ∨ m.strm.st = .stopped))) →
      exec (.abandonPrecharge n b) s = .next (s.modPch n fun p => p.precharge s.tlc opPre b)) ∧
    (s.tlc % 6 = 0 → (s.pch n).mode = .pooled → s.ticked.contains (1, n) = false →
      let waits (q : PoolReq) : Prop := q.start = none ∧ (s.pch n).broken opAct q.bank s.tlc = []
      ((∀ q ∈ (s.pch n).pool, ¬ waits q) → exec (.pooledSlot n) s = .next (s.tickOnce 1 n)) ∧
      ∀ l q r, (s.pch n).pool = l ++ q :: r → (∀ p ∈ l, ¬ waits p) → waits q →
        exec (.pooledSlot n) s = .next ((s.tickOnce 1 n).modPch n fun p => p.serveRow s.tlc q)) ∧
    (n < 512 → s.pchFree n = true → s.firmwareIn n = false → exec (.pchModeChange n m) s = .next (s.modPch n fun p => { p with mode := m })) ∧
    ∀ e rest, (s.info core).trace = e :: rest → exec (.traceForward core) s =
      .next { s.setInfo core { s.info core with trace := rest } with sched := { s.sched with traceRing := s.sched.traceRing ++ [e] } }

/-- R50, R306, R321, R324, R328, R331, R332, R335, R337, R338, R341: the scheduler's own steps: a slot every 16 cycles outside a hold, which dispatches the
head that the round of its class reaches to its place, waiters released at the
head of their queue, pre-emption, which saves each segment's bytes and poisoned beats, the end of an affinity hold, regions and futures of the pager, queue and version records, and
the hang record. That a record which clears EN holds an enabled queue (log 86), that a hang record's entries reach memory only as the cycle
ends (log 88), that cores with a running step save nothing yet, and when a hold ends (log 55), are the model's choices. -/
def Obligations.SchedulerEvents : Prop :=
  ∀ (s : State) (id op job lreg pch q root va : Nat) (rows : List Nat) (entry : BitVec 64) (qr : BitVec 128) (vr : BitVec 512),
    (s.tlc % 16 = 0 → s.ticked.contains (0, 0) = false → s.root.thermalHold = false → s.root.powerHold = false →
      exec .dispatchSlot s = .next (match (s.tickOnce 0 0).grantReserve.chooseClass with
        | none => (s.tickOnce 0 0).grantReserve
        | some c => ((s.tickOnce 0 0).grantReserve.serve c).grantReserve)) ∧
    (let u := s.tickOnce 0 0
     ∀ (c : Nat) (st : QStep) (t : TobEnt) (cells : List Nat) (j : Job), s.tlc % 16 = 0 → s.ticked.contains (0, 0) = false →
       s.root.thermalHold = false → s.root.powerHold = false → s.sched.reservations = [] → u.chooseClass = some c → u.classQueues c = [q] →
       aget c s.sched.classPtr = some q → u.readyHead q = some (st, t) → t.tob.steplen ≤ (s.queue q).deficit → u.place st t.tob = some cells →
       u.keptMet st.op t.tob cells = [] → t.tob.named = [] → s.job st.job = some j →
       ∃ v g, exec .dispatchSlot s = .next v ∧ aget s.sched.nextId v.gangs = some g ∧ g.step = { st with attempt := st.attempt + 1 } ∧
         g.queue = q ∧ g.tob = t.tob ∧ g.cells = cells ∧ g.phase = .placed s.tlc ∧ (v.queue q).front = (s.queue q).front.drop 1 ∧
         (v.queue q).deficit = (s.queue q).deficit - t.tob.steplen ∧ (v.queue q).pass = 0 ∧ v.sched.decisions = s.sched.decisions + 1) ∧
    (∀ w, (s.sched.waiters.find? fun w => w.step.id == id) = some w → s.waiterMet w = true →
      ∃ t, exec (.waiterRelease id) s = .next t ∧ (t.queue w.q).front = w.step :: (s.queue w.q).front ∧
        (∀ v ∈ t.sched.waiters, v.step.id ≠ id) ∧ t.sched.lastMove = s.tlc) ∧
    ((∀ k ∈ s.sched.kept, k.op = op → k.saved = none → k.held = false ∧ ∀ g ∈ s.gangs, g.2.live = true → g.2.cells.contains k.core = false) →
      exec (.preemption op) s = .next (s.preempt op)) ∧
    (∀ k, s.sched.kept = [k] → k.op = op → k.saved = none → k.held = false → k.rank ≠ noRank → (∀ g ∈ s.gangs, g.2.live = true → g.2.cells.contains k.core = false) →
      let segs := (if k.acc then [(2031616, 65536)] else []) ++ k.regions.map fun r => (64 * r.1, 64 * r.2)
      (∀ a ∈ segs, (s.fetch (cmKey k.core a.1) a.2).bad = none ∧ (s.fetch (cmKey k.core a.1) a.2).fixed = []) →
      exec (.preemption op) s = .next { s with sched := { s.sched with kept := [{ k with held := false, saved := some (segs.map fun a =>
        ((s.fetch (cmKey k.core a.1) a.2).bytes, (List.range (a.2 / 32)).filter fun i => s.poison.contains (cmKey k.core a.1 / 32 + i))) }] } }) ∧
    exec (.affinityHoldExpiry op) s = .next { s with sched := { s.sched with kept := s.sched.kept.map fun k =>
      if k.op == op && (k.held && decide (k.since + (s.queue k.q).affw * 128 ≤ s.tlc)) then { k with held := false } else k } } ∧
    (s.jobLive job = true → (s.pch pch).mode = .timed → lreg < 64 → pch < 512 → rows.length ≤ 49152 →
      (∀ r ∈ rows, r < 49152 ∧ s.rowRetired pch r = false) →
      ∃ t, exec (.regionResident job lreg pch rows) s = .next t ∧
        t.sched.regions = (s.sched.regions.filter fun r => !(r.job == job && r.lreg == lreg)) ++ [⟨job, lreg, pch, rows⟩] ∧
        t.sched.waiters.length = s.sched.waiters.length) ∧
    (∀ k, s.stopEntry va 5 0 root = some k → (leNat (s.physRead k 8).bytes).testBit 5 = true →
      s.leafRetired (s.stopLevel va 5 0 root) entry.toNat = false → (∀ w ∈ s.sched.waiters, ∀ r v, w.on ≠ .page r v) →
      exec (.futureResolved root va entry) s = .next (s.physWrite k (leBytes 8 entry.toNat) false)) ∧
    (∀ v : BitVec 128, v = qr &&& ~~~0xFF3E → q < 1024 → (s.queue q).en = false → fld v.toNat 32 6 ≠ 0 → fld v.toNat 38 24 ≠ 0 →
      exec (.queueRecordWrite q qr) s = .next (s.modQueue q fun x => { x with rec_ := v })) ∧
    (q < 1024 → (s.queue q).en = true → qr.getLsbD 0 = false →
      exec (.queueRecordWrite q qr) s = .next (s.modQueue q fun x => { x with rec_ := x.rec_ &&& ~~~1 })) ∧
    (fld vr.toNat 0 16 < 4096 → fld vr.toNat 16 16 ≠ 0 →
      (∀ x ∈ s.sched.versions, ¬ (x.graph = fld vr.toNat 0 16 ∧ x.version = fld vr.toNat 16 16)) →
      exec (.versionRegister vr) s = .next ({ s with sched := { s.sched with versions :=
        (s.sched.versions.map fun x => if x.graph == fld vr.toNat 0 16 then { x with current := false } else x) ++
          [({ graph := fld vr.toNat 0 16, version := fld vr.toNat 16 16, rec_ := vr, current := true } : Version)] } } : State).freeVersions) ∧
    (s.hangDue = true → ∃ t, exec .hangTimeout s = .next t ∧ t.sched.hangSeq = (s.sched.hangSeq + 1) % 2 ^ 32 ∧ t.sched.lastHang = s.tlc ∧
      t.mem = s.mem ∧ t.gangs = s.gangs ∧ t.sched.queues = s.sched.queues)

/-- R344 to R350, R404 to R408: launch and frame packets and the codec streams: a write of 64 bytes to a port launches what it names or
is rejected with an event, a stream opens, an access unit is read and its event posted, a decoded frame goes to the oldest output set or
waits for one, and the frame gong has its arrivals once the frame's beats have landed. What a standard decodes is uninterpreted, and a frame
asked for out of turn, or one that the units read do not have, outputs nothing (log 13); that the rest of a frame's beats land as its gong has
the arrival is the model's choice (log 93). -/
def Obligations.LaunchAndCodec : Prop :=
  ∀ (s : State) (off q n engine codec rate : Nat) (gong : BitVec 64) (b : List Byte),
    (4 * 2 ^ 20 ≤ off → exec (.launchPacket off b) s = .next s) ∧
    (off < 4 * 2 ^ 20 → off % 4096 ≠ 0 ∨ b.length ≠ 64 ∨ s.root.ready = false →
      exec (.launchPacket off b) s = .next (s.countHi.event 8 (some (off / 4096)) 0 0 0 0 0)) ∧
    (off < 4 * 2 ^ 20 → off % 4096 = 0 → b.length = 64 → s.root.ready = true → bfld b 0 1 ≠ 3 → packetMalformed b = true →
      exec (.launchPacket off b) s = .next (s.event 4 (some (off / 4096)) (bfld b 4 4) 0 1 0 0)) ∧
    (∀ u, off < 4 * 2 ^ 20 → off % 4096 = 0 → b.length = 64 → s.root.ready = true → bfld b 0 1 ≠ 3 → packetMalformed b = false →
      s.launch (off / 4096) (packetWanted b) (packetArgs b) = (u, none) → exec (.launchPacket off b) s = .next (u.evalHead (off / 4096))) ∧
    (q < 1024 → b.length ≠ 64 ∨ s.root.ready = false → exec (.framePacket q b) s = .next (s.countHi.event 8 (some q) 0 0 0 0 0)) ∧
    (∀ why, q < 1024 → b.length = 64 → s.root.ready = true → bfld b 0 1 = 3 → s.frameReject q b = some why →
      exec (.framePacket q b) s = .next (s.event 4 (some q) (bfld b 4 4) 0 why 0 0)) ∧
    (∀ c, q < 1024 → b.length = 64 → s.root.ready = true → bfld b 0 1 = 3 → s.frameReject q b = none → s.stream (bfld b 2 2) = some c → c.held = none →
      exec (.framePacket q b) s = .next (s.modStream (bfld b 2 2) fun c => c.give b)) ∧
    (∀ c p o rest, q < 1024 → b.length = 64 → s.root.ready = true → bfld b 0 1 = 3 → s.frameReject q b = none → s.stream (bfld b 2 2) = some c →
      c.held = some p → (c.give b).outs = o :: rest →
      exec (.framePacket q b) s = .next ((s.modStream (bfld b 2 2) fun c => c.give b).emit (c.give b) p o)) ∧
    (∀ c va tag ln rest t bs, s.stream n = some c → c.units = (va, ln, tag) :: rest → c.held = none →
      s.virtBytes (s.queue c.q).root va ln = (t, .ok bs) →
      exec (.accessUnitConsumed n) s = .next (if c.flush = true ∧ (s.nextFrame c).isSome = true then s else (t.modStream n fun c => { c with
        units := rest, eos := (c.eos.map (· - 1)).filter (0 < ·), flush := c.eos.contains 1
        read := (if c.flush then [] else c.read) ++ [some bs], shown := if c.flush then 0 else c.shown }).event 5 (some c.q) tag.toNat 0 n 0 0)) ∧
    (∀ c, s.stream n = some c → c.held = none → exec (.frameOutput n c.shown) s = .next (match s.nextFrame c, c.outs with
      | none, _ => s
      | some p, [] => s.modStream n fun d => { d with held := some p }
      | some p, o :: _ => s.emit c p o)) ∧
    (∀ c pic, s.stream n = some c → c.shown ≠ pic → exec (.frameOutput n pic) s = .next s) ∧
    (∀ c, s.stream n = some c → c.owed ≠ 0 →
      let f := (c.frame + 2 ^ 32 - c.owed) % 2 ^ 32
      let t := (s.codecPut c (c.writes.filter fun w => w.1 == f)).modStream n fun c =>
        { c with owed := c.owed - 1, writes := c.writes.filter fun w => w.1 != f }
      t.diePresent (fld c.gong.toNat 0 31 / 2 ^ 28) = true → exec (.frameGongArrival n) s = .next { t with gongQ := t.gongQ ++ [{
        key := vtKey (fld c.gong.toNat 0 31), ord := (4, c.engine, 0, 0, 0), kind := 5, n := 1, handle := c.gong, gang := 0, who := none }] }) ∧
    (s.stream n = none → n < 512 → engine < 16 → codec ≤ 2 → q < 1024 →
      let c : CodecStream := {
        stream := n, engine := engine, codec := codec, q := q, rate := rate, gong := gong, units := [], eos := [], outs := [], frame := 0,
        lastErr := false, lastPic := none, held := none, owed := 0, read := [], shown := 0, flush := false, writes := [] }
      exec (.streamOpen n engine codec q rate gong) s = .next { s with codec := aset n c s.codec })

/-- R248 to R251, R351 to R377: the engines serve a command whose block has been read: a layer table is loaded, a first frame is scored
and its bitmaps written, a lookup answers its deepest confirmed node, a deposit takes a node, a resumption lists the extents of a
chain, a pin holds a node; and fields out of range, busy slots, stale frames and unknown nodes are answered with the CODE, COUNT and VALUE of
R251. That a scoring leaves its slot's layers as they are until it completes is the model's choice (log 66). -/
def Obligations.EngineAnswers : Prop :=
  ∀ (s u u' : State) (id gid addr : Nat) (g : Gang) (r : Req) (c : Core) (bs : List Byte),
    let asks (op : Nat) : Prop := s.engineReq id op = some (gid, g, r, c, addr)
    let b := r.block
    let slot := bfld b 0 2
    let fault : Host.Outcome State Fault Refusal := .next (s.setWork id g c (.fault { cause := 2 }))
    let block (code count value : Nat) : List Byte := leBytes 4 code ++ leBytes 4 count ++ leBytes 8 value
    let answers (u : State) (work : List Work) (code count value : Nat) : Host.Outcome State Fault Refusal :=
      .next (u.setWork id g c { work := work ++ putAt (.cm (addr + 48)) (block code count value), items := 0, ordered := true })
    let serves (op : Nat) : Prop := asks op ∧ s.mayServe id = true ∧ s.belfry.pool.isSome = true
    let d := s.nextDraw
    let drawn : Host.Outcome State Fault Refusal := .next (d.setWork id g c (.fault { cause := 2 }))
    (asks 0xC1 → 512 ≤ slot → exec (.layerTableLoad id) s = drawn) ∧
    (asks 0xC1 → blockClean b [(0, 12)] = true → slot < 512 → 1 ≤ bfld b 3 1 → bfld b 2 1 + bfld b 3 1 ≤ 64 → hvOk (bfld b 4 8) = true →
      bfld b 12 1 ≤ 1 →
      ((s.cmuSlot slot).busy.isSome = true → exec (.layerTableLoad id) s = answers d [] 2 (bfld b 3 1) 0) ∧
      ((s.cmuSlot slot).busy = none → d.readAt id g c (.hv (bfld b 4 8)) (8 * bfld b 3 1) = (u, .ok bs) → (elemsOf 8 bs).all layerOk = true →
        ∃ v : CmuSlot, exec (.layerTableLoad id) s = answers (u.setCmu slot v) [] 0 (bfld b 3 1) 0 ∧ v.busy = none ∧
          (bfld b 12 1 = 1 → v.last = none ∧ v.size = none) ∧ (bfld b 12 1 = 0 → v.last = (s.cmuSlot slot).last ∧ v.size = (s.cmuSlot slot).size) ∧
          ∀ i (_ : i < (elemsOf 8 bs).length), aget (bfld b 2 1 + i) v.layers = some ⟨BitVec.ofNat 64 (((elemsOf 8 bs)[i]?).getD 0), true, []⟩)) ∧
    (asks 0xC2 → 512 ≤ slot → exec (.frameScoring id) s = fault) ∧
    (∀ hd, asks 0xC2 → (s.cmuSlot slot).busy = none → blockClean b [(0, 2), (4, 27)] = true → slot < 512 → bfld b 2 1 ≤ 3 → hvOk (bfld b 8 8) = true →
      hvOk (bfld b 16 8) = true → bfld b 24 4 % 32 = 0 → 64 ≤ bfld b 24 4 → bfld b 24 4 ≤ 524288 →
      (d.setCmu slot { s.cmuSlot slot with busy := some id, next := none }).readAt id g c (.hv (bfld b 8 8)) 32 = (u, .ok hd) →
      bfld hd 4 4 = bfld b 4 4 → 64 ≤ bfld hd 0 2 → bfld hd 0 2 ≤ 4096 → 64 ≤ bfld hd 2 2 → bfld hd 2 2 ≤ 2304 →
      let w := bfld hd 0 2
      let h := bfld hd 2 2
      let on := enabledLayers (s.cmuSlot slot).layers
      (on.map fun p => (geoOf p.2.entry w h).ntx * (geoOf p.2.entry w h).nty).foldl (· + ·) 0 ≤ 8192 →
      (∀ l, (s.cmuSlot slot).last = some l → bfld b 4 4 < l → exec (.frameScoring id) s = answers u [] 3 0 0) ∧
      ((s.cmuSlot slot).last = none → u.readAt id g c (.hv (bfld b 8 8 + 32)) (8 * (ceilDiv w 16 * ceilDiv h 16)) = (u', .ok bs) →
        let sized : Bool := match (s.cmuSlot slot).size with
          | some z => !(z == (w, h))
          | none => false
        let sc := on.map fun p => scoreLayer p.1 p.2 (geoOf p.2.entry w h) (decide (bfld b 2 1 ≠ 0) || bfld hd 8 1 % 4 != 0) sized (bfld b 4 4)
          (bfld b 24 4) (elemsOf 8 bs)
        ∃ v : CmuSlot, v.busy = some id ∧ v.layers = (s.cmuSlot slot).layers ∧ (∃ l, v.next = some (l, bfld b 4 4, (w, h))) ∧
          exec (.frameScoring id) s = answers (u'.setCmu slot v) ((sc.map fun x => putAt (.hv (bfld b 16 8 + x.layer * bfld b 24 4)) x.bytes).flatten)
            0 ((sc.map (·.n)).foldl (· + ·) 0) (sc.foldl (fun m x => if x.whole then m + 2 ^ x.layer else m) 0))) ∧
    (asks 0xC5 → s.mayServe id = true →
      (s.belfry.pool = none → exec (.belfryDeposit id) s = fault) ∧
      (∀ base size w, s.belfry.pool = some (base, size) → s.depWait id = some w →
        exec (.belfryDeposit id) s = .next ((s.stopWait id).depServe gid g r c addr base size w)) ∧
      (∀ base size us pk pd, s.belfry.pool = some (base, size) → s.depWait id = none → blockClean b [(0, 2), (8, 24)] = true → 4 ≤ bfld b 2 1 → bfld b 2 1 ≤ 12 →
        hvOk (bfld b 8 8) = true → bfld b 8 8 % 32 = 0 → hvOk (bfld b 16 8) = true → bfld b 16 8 % 32 = 0 → bfld b 24 1 ≤ 8 →
        d.depositParent g.root slot (bfld b 2 1) = some (pk, pd) → d.belRead id g c (bfld b 8 8) (32 * 2 ^ bfld b 2 1) = (u, .ok us) →
        u.belRead id g c (bfld b 16 8) (16 * bfld b 24 1) = (u', .ok bs) →
        ((List.range (bfld b 24 1)).map fun i => (bs.drop (16 * i)).take 16).all extentOk = true →
        let key := rollUnits pk (unitsOf (2 ^ bfld b 2 1) us)
        let exts := ((List.range (bfld b 24 1)).map fun i => (bs.drop (16 * i)).take 16).map extentOf
        let need := runLen (bfld b 2 1) (exts.map (·.2))
        (∀ v ∈ u'.belfry.nodes, v.2.key.toNat ≠ key) →
        (makeRoom slot (poolGranules size) need (u'.belfry.nodes.length + 1) u'.belfry.nodes = none → exec (.belfryDeposit id) s =
          answers { u' with belfry := { u'.belfry with drop := u'.belfry.drop + 1 } } [] 2 0 0) ∧
        ∀ nodes n run, makeRoom slot (poolGranules size) need (u'.belfry.nodes.length + 1) u'.belfry.nodes = some (nodes, n, run) →
          let v : Node := {
            key := BitVec.ofNat 64 key, stamp := u'.tlc, domain := g.root, rung := run, runl := need, parent := slot,
            depth := pd + 1, ref := 0, logg := bfld b 2 1, next := bfld b 24 1, state := 1, child := 0 }
          ∃ t : State, t.belfry.nodes = aset n v (amod slot (fun w => { w with child := w.child + 1, ref := w.ref + 1 }) nodes) ∧
            t.gangs = u'.gangs ∧ t.mem = u'.mem ∧
            exec (.belfryDeposit id) s = .next ((t.takeRef gid n).setDeposit id g c addr n run base (bfld b 2 1) (bfld b 8 8) exts))) ∧
    (asks 0xC4 → s.mayServe id = true → s.belfry.pool = none → exec (.belfryLookup id) s = drawn) ∧
    (serves 0xC4 → blockClean b [(0, 12)] = true → hvOk (bfld b 0 8) = true → bfld b 0 8 % 32 = 0 →
      1 ≤ bfld b 8 4 → bfld b 8 4 ≤ 2 ^ 24 → 4 ≤ bfld b 12 1 → bfld b 12 1 ≤ 12 →
      let gran := 2 ^ bfld b 12 1
      let sp := bfld b 8 4 / gran
      d.belRead id g c (bfld b 0 8) (32 * (sp * gran)) = (u, .ok bs) →
      let keys := boundaryKeys gran sp 0 (unitsOf (sp * gran) bs)
      (u.probe g.root (bfld b 12 1) keys = none → exec (.belfryLookup id) s = answers u [] 3 0 0xFFFF) ∧
      ∀ h m v rej, u.probe g.root (bfld b 12 1) keys = some h → u.confirm bs (u.pathOf h) none = (u', .ok (some m, rej)) → u'.node m = some v →
        exec (.belfryLookup id) s = answers (u'.takeRef gid m) [] 0 (v.depth * gran) (m + rej.toNat * 2 ^ 32)) ∧
    (serves 0xC6 → blockClean b [(0, 1), (4, 9)] = true → bfld b 4 4 % 16 = 0 → bfld b 8 2 ≠ 0 → g.inCarve (bfld b 4 4) (16 + 16 * bfld b 8 2) = true →
      (s.nodeIn g.root slot = none → exec (.belfryResumption id) s = answers d [] 3 0 0) ∧
      ∀ v es, s.nodeIn g.root slot = some v → v.state = 2 → d.chain (d.pathOf slot) = (u, .ok es) →
        exec (.belfryResumption id) s = answers (((d.pathOf slot).foldl (fun (s : State) m => s.modNode m fun v => { v with stamp := s.tlc }) u).takeRef gid slot)
          (putAt (.cm (bfld b 4 4)) ((leBytes 4 es.length ++ leBytes 2 v.depth ++ leBytes 1 v.logg ++ leBytes 9 0) ++
            ((es.take (bfld b 8 2)).map (leBytes 16)).flatten)) 0 (es.take (bfld b 8 2)).length 0) ∧
    (serves 0xC7 → blockClean b [(0, 2)] = true → bfld b 2 1 ≤ 1 →
      (s.nodeIn g.root slot = none → exec (.belfryPin id) s = answers s [] 3 0 0) ∧
      ∀ v, s.nodeIn g.root slot = some v → v.state ≠ 1 →
        (s.belfry.pins.contains (slot, g.step.job) = (bfld b 2 1 == 0) → exec (.belfryPin id) s = answers s [] 1 0 0) ∧
        (bfld b 2 1 = 0 → s.belfry.pins.contains (slot, g.step.job) = false →
          exec (.belfryPin id) s = answers { (s.modNode slot fun v => { v with ref := v.ref + 1 }) with
            belfry := { (s.modNode slot fun v => { v with ref := v.ref + 1 }).belfry with pins := s.belfry.pins ++ [(slot, g.step.job)] } } [] 0 0 0))

/-- R389, R390, R393 to R396: a scrub corrects what it can and is to write it back; a row of a free channel that nothing maps is repaired
or, without a resource left, retired; a line goes to a spare line while its bank has one, and after the last its core is left without
steps; the spare die; an absent die. A repaired row's and a remapped line's old contents are lost (log 31); which repair resources
are left, and whether the spare die works, is free. That steps without a downbeat leave their cores, and that a core's mark waits for
a running step (log 94), which jobs count as a die's (log 32) and what a substitution's record names (log 80) are the model's choices. -/
def Obligations.ReliabilityEvents : Prop :=
  ∀ (s : State) (key pch bank row unit d orig : Nat) (hard : Bool),
    (let k := key / 32 * 32
     let r := s.fetch k 32
     let u := s.correctedAll none 1 r
     s.mayScrub k = true → r.bad = none →
      exec (.scrub key) s = .next { u with err := { u.err with writeback := u.err.writeback ++ r.fixed.map fun k => (k, s.tlc) } }) ∧
    (pch < 512 → bank < 16 → row < 49152 → s.pchFree pch = true → s.rowMapped pch bank row = false →
      ∃ t, exec (.rowRepair pch bank row hard) s = .next t ∧ t.fresh = s.fresh + 1 ∧ t.gangs = s.gangs ∧
        if (hard && s.err.repairs.contains (rowUnit pch bank row, false) || Config.repairLeft s.fresh) = true then
          (rowUnit pch bank row, hard) ∈ t.err.repairs
        else rowUnit pch bank row ∈ t.err.rows) ∧
    (let line := unit / 64 * 64
     let core := (line - 2 ^ 49) / 2 ^ 21
     let cb := core * 32 + cmBank ((line - 2 ^ 49) % 2 ^ 21)
     let vb := (line - 2 ^ 48) / 2 ^ 24 * 16 + vtBank ((line - 2 ^ 48) % 2 ^ 24)
     (storeOf line = some .core → aget (mcUnit 82 line) s.err.lasting = some orig → (aget cb s.err.spareCm).getD 0 < 4 →
       ∃ t, exec (.lineRemap unit) s = .next t ∧ aget cb t.err.spareCm = some ((aget cb s.err.spareCm).getD 0 + 1) ∧ t.fresh = s.fresh + 1 ∧
         t.gangs = s.gangs) ∧
     (storeOf line = some .vault → aget (mcUnit 81 line) s.err.lasting = some orig → (aget vb s.err.spareVt).getD 0 < 16 →
       ∃ t, exec (.lineRemap unit) s = .next t ∧ aget vb t.err.spareVt = some ((aget vb s.err.spareVt).getD 0 + 1) ∧ t.fresh = s.fresh + 1 ∧
         t.gangs = s.gangs) ∧
     (storeOf line = some .core → aget (mcUnit 82 line) s.err.lasting = some orig → 4 ≤ (aget cb s.err.spareCm).getD 0 →
       (∀ g ∈ s.gangs, g.2.cells.contains core = true → ∃ n, g.2.phase = .placed n ∨ g.2.phase = .staged n) →
       exec (.lineRemap unit) s = .next (((s.unplace (· == core)).markUnusable core).lineRecord 82 line orig 5 4))) ∧
    (d < 8 → s.root.spareUsed = false → s.root.spareFailed = false → s.root.substituting = none → s.root.absent.contains d = false →
      exec (.dieSubstitution d) s =
        .next ((({ s with root := { s.root with substituting := some d, aborted := false } } : State).unplace (onDie d)).status 2)) ∧
    (s.root.substituting = some d → s.root.aborted = true → s.root.spareFailed = false →
      ∃ t, exec (.substitutionEnd d) s = .next t ∧
        if Config.spareWorks = true then
          t.root.substituting = none ∧ t.root.spareUsed = true ∧ t.root.dieMap = s.root.dieMap.set d 8 ∧ ∀ k, keyOnDie d k = true → t.mem.read k = 0
        else t.root.substituting = some d ∧ t.root.spareFailed = true ∧ t.mem = s.mem) ∧
    (d < 8 → s.root.absent.contains d = false → s.root.spareUsed = true ∨ s.root.spareFailed = true →
      let sub := if s.root.substituting = some d then none else s.root.substituting
      exec (.dieAbsent d) s = .next ((({ s with root := { s.root with
        absent := insertNat d s.root.absent, substituting := sub, aborted := s.root.aborted && sub.isSome } } : State).unplace (onDie d)).status (4 + 256 * d)))

/-- R401 to R403, R409, R415, R419, R422, R423: the host's accesses: the window, the registers, the check of a recovery image, the event rings and
invalidations. That ECONS is judged modulo 2^32 and that ARM is written with it are the model's choices (log 36). -/
def Obligations.HostAccesses : Prop :=
  ∀ (s : State) (off n ring : Nat) (bs : List Byte) (val : BitVec 64),
    (s.root.ready = false → exec (.hostWindowWrite off bs) s = .next s ∧
      exec (.hostWindowRead off n) s = .next (s.sendHost (.readData (List.replicate n 0)))) ∧
    (s.root.ready = true → s.windowBarred off bs.length = false →
      exec (.hostWindowWrite off bs) s = .next ((s.windowPieces off bs.length).foldl (fun (s : State) p =>
        (s.poolSpan none p.1 p.2.2 true).physWrite p.1 ((bs.drop p.2.1).take p.2.2) false) s)) ∧
    (∀ a k, s.root.ready = true → s.windowPieces off n = [(a, 0, k)] → s.barred a k = false → (s.physRead a k).bad = none →
      (s.physRead a k).psn = false → exec (.hostWindowRead off n) s = .next (((s.poolSpan none a k false).correctedAll none 2 (s.physRead a k)).sendHost
        (.readData (s.physRead a k).bytes))) ∧
    (∀ a k, s.root.ready = true → s.windowPieces off n = [(a, 0, k)] → s.barred a k = true →
      exec (.hostWindowRead off n) s = .next (s.countLo.sendHost (.readData (List.replicate k 0xFF)))) ∧
    (val.getLsbD 0 = true → s.root.ready = true → s.host.invQueue.length < 8 →
      exec (.invgo val) s = .next { s with host := { s.host with invQueue := s.host.invQueue ++
        [(s.host.invRoot.toNat, s.host.invVa.toNat / 4096, s.host.invCnt.toNat, s.reqSeq)] } }) ∧
    (val.getLsbD 0 = true → s.root.ready = true → 8 ≤ s.host.invQueue.length → exec (.invgo val) s = .next s.countLo) ∧
    (∀ e rest, s.host.invQueue = e :: rest → s.invalidationReady e = true →
      exec .invalidationDone s = .next (({ s with
        tlb := s.tlb.filter (fun x => !inInvalidation e x.root x.page)
        host := { s.host with invQueue := rest, invSeq := s.host.invSeq + 1 } } : State).event
        6 none 0 0 (s.host.invSeq + 1).toNat 0 0)) ∧
    (ring < 16 → s.root.ready = true → val.getLsbD 63 = false → (s.ring ring).held = [] →
      exec (.econs ring val) s = .next (s.modRing ring fun r =>
        { r with cons := if 2 ^ 31 ≤ (r.prod - val.truncate 32).toNat then r.prod else val.truncate 32, arm := false })) ∧
    (s.root.waiting = none → exec (.rctlGo val) s = .next s) ∧
    (∀ k, s.root.waiting = some k → val.getLsbD 63 = false →
      exec (.rctlGo val) s = .next { s with host := { s.host with rctlPage := fld val.toNat 0 7 } }) ∧
    (∀ k, s.root.waiting = some k → val.getLsbD 63 = true →
      let u : State := { s with host := { s.host with rctlPage := fld val.toNat 0 7 } }
      let head := (s.fetch 0 17408).bytes
      let img : Image := ⟨head ++ (s.fetch 17408 (bfld head 8 4)).bytes⟩
      exec (.rctlGo val) s = .next { u with root := match imageFault s.root img with
        | none => { u.root.load img with fail := 0, waiting := none }
        | some w => { u.root with fail := w + 16 * (img.kind % 16) } }) ∧
    (s.root.ready = true → exec (.registerWrite 0 0x8 val) s =
      .next { s with host := { s.host with winbase := BitVec.ofNat 64 (fld val.toNat 30 18 * 2 ^ 30) } }) ∧
    (s.root.ready = true → exec (.registerWrite 0 0x300 val) s =
      .next { s with host := { s.host with powcap := BitVec.ofNat 64 (fld val.toNat 0 11) } }) ∧
    (s.root.ready = false → exec (.registerWrite 0 0x8 val) s = .next s)

/-- R400, R418 to R427: resets, the checks of an image, boot stages, the root controller's answers, and the holds of power and temperature. The
model's choices: what a cold reset keeps, and that it leaves stage 0 (log 23); one status event for each hold (log 43); and of SPDM the codes,
the fields and the transcript they make, the order of the requests and the answer to one out of order (log 33). -/
def Obligations.BootAndRoot : Prop :=
  ∀ (s : State) (imgs : List Image) (hash asym cfg : BitVec 32) (slot off len t w reg : Nat) (nonce : BitVec 256),
    let noted (u : State) (log : List Byte) : State := { u with root := { u.root with spdmLog := log } }
    let answer (u : State) (name : String) (req body : List Byte) (code : Byte) : Host.Outcome State Fault Refusal :=
      .next ((noted u (u.root.spdmLog ++ req ++ (code :: body))).sendHost (.spdm name body [] []))
    let signed (name : String) (req body : List Byte) (code : Byte) : Host.Outcome State Fault Refusal :=
      let log := s.root.spdmLog ++ req ++ (code :: body)
      let th := leBytes 48 (Config.sha384 log).toNat
      .next ((noted s log).sendHost (.spdm name body (Config.rsaSign th) (Config.slhSign th)))
    let asks : List Byte := leBytes 1 slot ++ leBytes 32 nonce.toNat
    let image (kind : Nat) : Option Image := imgs.find? fun i => i.kind == kind
    let runs (f : RootCtl → RootCtl) : Prop := exec (.bootStage imgs) s = .next { s with root := f s.root }
    let open_ : Prop := s.root.powered = true ∧ 2 ≤ s.root.stage
    (exec .coldReset s = .next { State.reset with
        fresh := s.fresh, inbox := s.inbox, host := { HostIf.reset with bus := s.host.bus, out := s.host.out, cfg := [] }
        root := { RootCtl.reset with counters := s.root.counters, revoked := s.root.revoked, dieMap := s.root.dieMap, spareUsed := s.root.spareUsed
                                     spareFailed := s.root.spareFailed, fail := if s.root.powered then 0 else 0xF0 }
        err := { ErrState.reset with repairs := s.err.repairs.filter fun e => e.2 } }) ∧
    (∀ i : Image, imageFault s.root i = none ↔ (1 ≤ i.kind ∧ i.kind ≤ 4 ∧ i.plain = true) ∧
      (i.slot ≤ 3 ∧ (i.kind, i.slot) ∉ s.root.revoked ∧ Config.sha384 ((i.bytes.drop 64).take 432) = Config.keyDigest i.kind i.slot) ∧
      (s.root.counter i.kind ≤ i.svn ∧ i.svn ≤ 63) ∧ Config.rsaVerify (i.bytes.take 496) ((i.bytes.drop 496).take 384) = true ∧
      Config.slhVerify (i.bytes.take 496) ((i.bytes.drop 880).take 16224) = true ∧ Config.sha384 i.body = BitVec.ofNat 384 (bfld i.bytes 16 48)) ∧
    (s.root.powered = true → s.root.waiting = none → s.root.ready = false →
      (s.root.stage = 2 → (image 1 = none → runs fun r => { r with stage := 3 }) ∧ ∀ i, image 1 = some i → runs fun r =>
        match imageFault s.root i with
        | none => { r.load i with stage := 3 }
        | some _ => { r with stage := 3 }) ∧
      (s.root.stage = 3 → (s.root.has 2 = true → runs fun r => { r with stage := 4 }) ∧
        (s.root.has 2 = false → (image 2 = none → runs fun r => { r with fail := 33, waiting := some 2 }) ∧ ∀ i, image 2 = some i → runs fun r =>
          match imageFault s.root i with
          | none => { r.load i with stage := 4 }
          | some n => { r with fail := n + 32, waiting := some 2 })) ∧
      (s.root.stage = 6 → s.root.has 3 = false → s.root.has 4 = false → (image 3 = none → runs fun r => { r with fail := 49, waiting := some 3 }) ∧
        ∀ i, image 3 = some i → runs fun r =>
          match imageFault s.root i, image 4 with
          | some n, _ => { r with fail := n + 48, waiting := some 3 }
          | none, none => { r.load i with fail := 65, waiting := some 4 }
          | none, some j => match imageFault s.root j with
            | none => { (r.load i).load j with stage := 7 }
            | some n => { r.load i with fail := n + 64, waiting := some 4 }) ∧
      (s.root.stage = 0 ∨ s.root.stage = 1 ∨ s.root.stage = 4 ∨ s.root.stage = 8 →
        exec (.bootStage imgs) s = .next (s.modRoot fun r => { r with stage := r.stage + 1 })) ∧
      (s.root.stage = 7 → exec (.bootStage imgs) s = .next (s.firmwareSetup.modRoot fun r => { r with stage := r.stage + 1 })) ∧
      (s.root.stage = 5 → exec (.bootStage imgs) s = .next { s.modRoot (fun r => { r with stage := r.stage + 1 }) with tlc := 0 }) ∧
      (s.root.stage = 9 → exec (.bootStage imgs) s = .next (s.modRoot fun r => { r.commitCounters with ready := true }))) ∧
    (exec .functionLevelReset s = .next (
      let u := (s.sched.jobs.map (·.1)).foldl State.endQuiet s
      { u with
        sched := { u.sched with queues := u.sched.queues.map fun q => (q.1, { q.2 with rec_ := q.2.rec_ &&& ~~~1 }) }
        host := { u.host with rings := u.host.rings.map (fun r => (r.1, { r.2 with esize := r.2.esize &&& 0x7FFFFFFF, cons := 0, arm := false }))
                              pwin := [], winbase := 0 }
        root := { u.root with ready := false } })) ∧
    (exec .getVersion s = if s.root.powered = true ∧ 2 ≤ s.root.stage then
        answer (s.modRoot fun r => { r with spdmVersion := true, spdmAlgs := false, spdmLog := [] }) "VERSION" [0x84] [0x12, 0x13] 0x04 else .next s) ∧
    (open_ → s.root.spdmVersion = false → exec .getCapabilities s = .next (s.sendHost (.spdm "ERROR" [] [] []))) ∧
    (open_ → s.root.spdmVersion = true → exec .getCapabilities s = answer s "CAPABILITIES" [0xE1] (leBytes 4 0x16) 0x61 ∧
      exec (.negotiateAlgorithms hash asym) s =
        answer (s.modRoot fun r => { r with spdmAlgs := hash.getLsbD 1 && asym.getLsbD 3 }) "ALGORITHMS"
          (0xE3 :: (leBytes 4 hash.toNat ++ leBytes 4 asym.toNat)) (leBytes 4 (if hash.getLsbD 1 then 2 else 0) ++ leBytes 4 (if asym.getLsbD 3 then 8 else 0)) 0x63) ∧
    (open_ → s.root.spdmAlgs = true → exec .getDigests s = answer s "DIGESTS" [0x81] (leBytes 48 (Config.sha384 Config.certChain).toNat) 0x01 ∧
      exec (.getCertificate 0 off len) s = answer s "CERTIFICATE" (0x82 :: (leBytes 2 off ++ leBytes 2 len)) ((Config.certChain.drop off).take len) 0x02 ∧
      (slot = 0 → exec (.challenge slot nonce) s = signed "CHALLENGE_AUTH" (0x83 :: asks) (leBytes 48 (Config.sha384 Config.certChain).toNat) 0x03) ∧
      (slot = 0 → exec (.getMeasurements slot nonce) s = signed "MEASUREMENTS" (0xE0 :: asks) [6] 0x60) ∧
      (1 ≤ slot → slot ≤ 6 → exec (.getMeasurements slot nonce) s = signed "MEASUREMENTS" (0xE0 :: asks) (s.measurement slot) 0x60) ∧
      (slot ≠ 0 → exec (.challenge slot nonce) s = .next (s.sendHost (.spdm "ERROR" [] [] [])))) ∧
    (s.root.powered = true → s.root.stage ≤ 1 → exec (.configurationRequest true reg cfg) s = .next (s.sendHost (.config none))) ∧
    (s.root.powered = true → 2 ≤ s.root.stage →
      exec (.configurationRequest false reg cfg) s = .next (s.sendHost (.config (some (Config.configRead s.host.cfg reg))))) ∧
    (110 ≤ t → s.root.thermalHold = false → exec (.thermalHold t) s =
      .next ((s.modRoot fun r => { r with junction := t % 256, thermalHold := true }).status 5)) ∧
    (t < 110 → exec (.thermalHold t) s = .next (s.modRoot fun r => { r with junction := t % 256 })) ∧
    (t < 100 → s.root.thermalHold = true → exec (.thermalHoldEnd t) s =
      .next ((s.modRoot fun r => { r with junction := t % 256, thermalHold := false }).status 6)) ∧
    (110 ≤ t → s.root.thermalHold = false → exec (.thermalHoldEnd t) s =
      .next ((s.modRoot fun r => { r with junction := t % 256, thermalHold := true }).status 5)) ∧
    (100 ≤ t → t < 110 ∨ s.root.thermalHold = true → exec (.thermalHoldEnd t) s = .next (s.modRoot fun r => { r with junction := t % 256 })) ∧
    (s.powerCap < w → s.root.powerHold = false → exec (.powerHold w) s = .next ((s.modRoot fun r => { r with powerHold := true }).status 5)) ∧
    (w ≤ s.powerCap → s.root.powerHold = true → exec (.powerHoldEnd w) s = .next ((s.modRoot fun r => { r with powerHold := false }).status 6)) ∧
    (120 ≤ s.root.junction → s.root.powered = true → ∃ u, exec .thermalShutdown s = .next u ∧ u.root.powered = false ∧ u.root.junction = s.root.junction ∧
      u.gangs = [] ∧ u.host.bus = s.host.bus)
end

