-- ==== Sys2Proof/Laws/Bits.lean ====
section
/-! SUPPORT. The fields of a packed record: each of the disjoint fields that `packBits` joins reads back. -/
namespace Sys2Proof.Machine

/-- Two bit ranges, each an offset and a width, do not meet. -/
def bitsApart (a b : Nat × Nat) : Prop := a.1 + a.2 ≤ b.1 ∨ b.1 + b.2 ≤ a.1

/-- The ranges of a packed record do not meet. -/
def fieldsApart (l : List (Nat × Nat × Nat)) : Prop := (l.map fun e => (e.1, e.2.1)).Pairwise bitsApart

theorem packBits_append (a b : List (Nat × Nat × Nat)) : packBits (a ++ b) = packBits a + packBits b := by
  induction a with
  | nil => simp [packBits]
  | cons e t ih => obtain ⟨o, w, v⟩ := e; simp [packBits, ih, Nat.add_assoc]

/-- A number whose field at `o` is zero, in its parts above and below the field. -/
theorem split_of_fld_zero {b o w : Nat} (h : fld b o w = 0) : b = b / 2 ^ (o + w) * 2 ^ (o + w) + b % 2 ^ o := by
  have h1 := Nat.div_add_mod b (2 ^ o)
  have h2 := Nat.div_add_mod (b / 2 ^ o) (2 ^ w)
  unfold fld at h
  rw [h, Nat.div_div_eq_div_mul, ← Nat.pow_add] at h2
  rw [← h2] at h1
  rw [Nat.pow_add] at *
  calc b = _ := h1.symm
    _ = _ := by ring

/-- A field set where nothing stood. -/
theorem fld_add_same {b o w x : Nat} (h : fld b o w = 0) (hx : x < 2 ^ w) : fld (x * 2 ^ o + b) o w = x := by
  have e := split_of_fld_zero h
  have lt : b % 2 ^ o < 2 ^ o := Nat.mod_lt _ (by positivity)
  have : x * 2 ^ o + b = (b / 2 ^ (o + w) * 2 ^ w + x) * 2 ^ o + b % 2 ^ o := by
    conv => lhs; rw [e]
    rw [Nat.pow_add]; ring
  unfold fld
  rw [this, Nat.add_comm, Nat.add_mul_div_right _ _ (by positivity), Nat.div_eq_of_lt lt, Nat.zero_add, Nat.add_comm, Nat.add_mul_mod_self_right,
    Nat.mod_eq_of_lt hx]

/-- It changes no other field. -/
theorem fld_add_apart {b o w x lo n : Nat} (h : fld b o w = 0) (hx : x < 2 ^ w) (ha : bitsApart (o, w) (lo, n)) :
    fld (x * 2 ^ o + b) lo n = fld b lo n := by
  have e := split_of_fld_zero h
  have lt : b % 2 ^ o < 2 ^ o := Nat.mod_lt _ (by positivity)
  unfold fld
  rcases ha with ha | ha <;> simp only at ha
  · obtain ⟨d, rfl⟩ := Nat.exists_eq_add_of_le ha
    have hs : x * 2 ^ o + b % 2 ^ o < 2 ^ (o + w) := by
      rw [Nat.pow_add]; nlinarith [Nat.pos_of_ne_zero (show (2 : Nat) ^ o ≠ 0 by positivity)]
    have hb : b % 2 ^ o < 2 ^ (o + w) := lt_of_le_of_lt (Nat.le_add_left _ _) hs
    have e1 : x * 2 ^ o + b = (x * 2 ^ o + b % 2 ^ o) + b / 2 ^ (o + w) * 2 ^ (o + w) := by omega
    have q1 : (x * 2 ^ o + b) / 2 ^ (o + w) = b / 2 ^ (o + w) := by
      rw [e1, Nat.add_mul_div_right _ _ (by positivity), Nat.div_eq_of_lt hs, Nat.zero_add]
    rw [Nat.pow_add, ← Nat.div_div_eq_div_mul, ← Nat.div_div_eq_div_mul, q1]
  · obtain ⟨d, rfl⟩ := Nat.exists_eq_add_of_le ha
    have e1 : x * 2 ^ (lo + n + d) + b = b + (x * 2 ^ d) * 2 ^ n * 2 ^ lo := by rw [Nat.pow_add, Nat.pow_add]; ring
    rw [e1, Nat.add_mul_div_right _ _ (by positivity), Nat.add_mul_mod_self_right]

/-- Where no field of a record lies, it is zero. -/
theorem fld_packBits_apart {l : List (Nat × Nat × Nat)} {lo n : Nat} (hp : fieldsApart l) (h : ∀ e ∈ l, bitsApart (e.1, e.2.1) (lo, n)) :
    fld (packBits l) lo n = 0 := by
  induction l generalizing lo n with
  | nil => simp [packBits, fld]
  | cons e t ih =>
    obtain ⟨o, w, v⟩ := e
    unfold fieldsApart at hp
    rw [List.map_cons, List.pairwise_cons] at hp
    have z : fld (packBits t) o w = 0 := ih hp.2 fun e he => (hp.1 (e.1, e.2.1) (List.mem_map.2 ⟨e, he, rfl⟩)).symm
    rw [packBits, fld_add_apart z (Nat.mod_lt _ (by positivity)) (h _ List.mem_cons_self)]
    exact ih hp.2 fun e he => h e (List.mem_cons_of_mem _ he)

/-- Each field of a record reads back. -/
theorem fld_packBits {l : List (Nat × Nat × Nat)} (hp : fieldsApart l) {e : Nat × Nat × Nat} (he : e ∈ l) :
    fld (packBits l) e.1 e.2.1 = e.2.2 % 2 ^ e.2.1 := by
  induction l with
  | nil => simp at he
  | cons d t ih =>
    obtain ⟨o, w, v⟩ := d
    unfold fieldsApart at hp
    rw [List.map_cons, List.pairwise_cons] at hp
    have z : fld (packBits t) o w = 0 :=
      fld_packBits_apart hp.2 fun e he => (hp.1 (e.1, e.2.1) (List.mem_map.2 ⟨e, he, rfl⟩)).symm
    rcases List.mem_cons.1 he with rfl | he
    · exact fld_add_same z (Nat.mod_lt _ (by positivity))
    · rw [packBits, fld_add_apart z (Nat.mod_lt _ (by positivity)) (hp.1 _ (List.mem_map.2 ⟨e, he, rfl⟩))]
      exact ih hp.2 he

/-- A field inside a vector of bits, where the number it was made of is cut. -/
theorem fld_ofNat {m lo n v : Nat} (h : lo + n ≤ m) : fld (BitVec.ofNat m v).toNat lo n = fld v lo n := by
  obtain ⟨d, rfl⟩ := Nat.exists_eq_add_of_le h
  unfold fld
  rw [BitVec.toNat_ofNat, Nat.add_assoc, Nat.pow_add, Nat.mod_mul_right_div_self, Nat.pow_add, Nat.mod_mul_right_mod]

end Sys2Proof.Machine
end

