-- ==== Sys2Proof/Laws/Decode.lean ====
section
/-! SUPPORT. Field by field, each body format reads back what its writer put there, and so do the values packed inside a field. -/
namespace Sys2Proof

@[simp] theorem F3.of_body (d a b : Opnd) (m : BitVec 4) : F3.of (f3Body d a b m) = ⟨d, a, b, m⟩ := by
  obtain ⟨ds, dw⟩ := d; obtain ⟨as, aw⟩ := a; obtain ⟨bs, bw⟩ := b
  simp only [F3.of, f3Body, opndAt, Opnd.bits, F3.mk.injEq, Opnd.mk.injEq]
  refine ⟨⟨?_, ?_⟩, ⟨?_, ?_⟩, ⟨?_, ?_⟩, ?_⟩ <;> (ext i hi; simp only [BitVec.getElem_extractLsb', BitVec.getLsbD_append]; grind)

@[simp] theorem F3X.of_body (c e : Opnd) (aux : BitVec 6) (fmt2 fmt : BitVec 4) (rnd : BitVec 2) :
    F3X.of (f3xBody c e aux fmt2 fmt rnd) = ⟨c, e, aux, fmt2, fmt, 0, rnd⟩ := by
  obtain ⟨cs, cw⟩ := c; obtain ⟨es, ew⟩ := e
  simp only [F3X.of, f3xBody, opndAt, Opnd.bits, F3X.mk.injEq, Opnd.mk.injEq]
  refine ⟨⟨?_, ?_⟩, ⟨?_, ?_⟩, ?_, ?_, ?_, ?_, ?_⟩ <;> (ext i hi; simp only [BitVec.getElem_extractLsb', BitVec.getLsbD_append]; grind)

@[simp] theorem FI.of_body (d a : Opnd) (n : BitVec 18) : FI.of (fiBody d a n) = ⟨d, a, n⟩ := by
  obtain ⟨ds, dw⟩ := d; obtain ⟨as, aw⟩ := a
  simp only [FI.of, fiBody, opndAt, Opnd.bits, FI.mk.injEq, Opnd.mk.injEq]
  refine ⟨⟨?_, ?_⟩, ⟨?_, ?_⟩, ?_⟩ <;> (ext i hi; simp only [BitVec.getElem_extractLsb', BitVec.getLsbD_append]; grind)

@[simp] theorem FW.of_body (d : Opnd) (n : BitVec 32) : FW.of (fwBody d n) = ⟨d, n⟩ := by
  obtain ⟨ds, dw⟩ := d
  simp only [FW.of, fwBody, opndAt, Opnd.bits, FW.mk.injEq, Opnd.mk.injEq]
  refine ⟨⟨?_, ?_⟩, ?_⟩ <;> (ext i hi; simp only [BitVec.getElem_extractLsb', BitVec.getLsbD_append]; grind)

@[simp] theorem FB.of_body (a : Opnd) (off : BitVec 24) (cond : BitVec 3) : FB.of (fbBody a off cond) = ⟨a, off, 0, cond⟩ := by
  obtain ⟨as, aw⟩ := a
  simp only [FB.of, fbBody, opndAt, Opnd.bits, FB.mk.injEq, Opnd.mk.injEq]
  refine ⟨⟨?_, ?_⟩, ?_, ?_, ?_⟩ <;> (ext i hi; simp only [BitVec.getElem_extractLsb', BitVec.getLsbD_append]; grind)

@[simp] theorem FS.of_body (d a : Opnd) (num : BitVec 10) : FS.of (fsBody d a num) = ⟨d, a, num, 0⟩ := by
  obtain ⟨ds, dw⟩ := d; obtain ⟨as, aw⟩ := a
  simp only [FS.of, fsBody, opndAt, Opnd.bits, FS.mk.injEq, Opnd.mk.injEq]
  refine ⟨⟨?_, ?_⟩, ⟨?_, ?_⟩, ?_, ?_⟩ <;> (ext i hi; simp only [BitVec.getElem_extractLsb', BitVec.getLsbD_append]; grind)

@[simp] theorem FM.of_body (cw kn : Opnd) (pw : BitVec 6) (e : BitVec 7) (m : BitVec 4) : FM.of (fmBody cw kn pw e m) = ⟨cw, kn, pw, false, e, m⟩ := by
  obtain ⟨cs, cc⟩ := cw; obtain ⟨ks, kc⟩ := kn
  simp only [FM.of, fmBody, opndAt, Opnd.bits, FM.mk.injEq, Opnd.mk.injEq]
  refine ⟨⟨?_, ?_⟩, ⟨?_, ?_⟩, ?_, ?_, ?_, ?_⟩
  on_goal 6 => simp only [BitVec.getLsbD_append]; grind
  all_goals (ext i hi; simp only [BitVec.getElem_extractLsb', BitVec.getLsbD_append]; grind)

@[simp] theorem FcArgs.of_bodies (f : FcArgs) : FcArgs.of (fcBody f) (fcxBody f) = f := by
  obtain ⟨dsp, ssp, ⟨das, daw⟩, ⟨sas, saw⟩, tag, var, mod, ⟨lns, lnw⟩, ⟨hds, hdw⟩, hv, aux⟩ := f
  simp only [FcArgs.of, fcBody, fcxBody, opndAt, Opnd.bits, FcArgs.mk.injEq, Opnd.mk.injEq]
  refine ⟨?_, ?_, ⟨?_, ?_⟩, ⟨?_, ?_⟩, ?_, ?_, ?_, ⟨?_, ?_⟩, ⟨?_, ?_⟩, ?_, ?_⟩
  on_goal 14 => simp only [BitVec.getLsbD_append, BitVec.getLsbD_ofBool]; grind
  all_goals (ext i hi; simp only [BitVec.getElem_extractLsb', BitVec.getLsbD_append]; grind)

@[simp] theorem FD.of_body (bank : BitVec 4) (row : BitVec 16) (col : BitVec 5) (beat : BitVec 13) (m : BitVec 8) :
    FD.of (fdBody bank row col beat m) = ⟨bank, row, col, beat, m⟩ := by
  simp only [FD.of, fdBody, FD.mk.injEq]
  refine ⟨?_, ?_, ?_, ?_, ?_⟩ <;> (ext i hi; simp only [BitVec.getElem_extractLsb', BitVec.getLsbD_append]; grind)

/-! Inside fields. -/

@[simp] theorem extract_low {n m : Nat} (x : BitVec n) (h : n ≤ m) : (x.setWidth m).extractLsb' 0 n = x := by
  ext i hi; simp only [BitVec.getElem_extractLsb', BitVec.getLsbD_setWidth]; grind
@[simp] theorem extract_high {n m k : Nat} (x : BitVec n) : (x.setWidth m).extractLsb' n k = 0#k := by
  ext i hi; simp only [BitVec.getElem_extractLsb', BitVec.getLsbD_setWidth]; grind
@[simp] theorem extract_pair_high {n k m : Nat} (x : BitVec n) (y : BitVec k) (h : n + k ≤ m) :
    ((x ++ y).setWidth m).extractLsb' k n = x := by
  ext i hi; simp only [BitVec.getElem_extractLsb', BitVec.getLsbD_setWidth, BitVec.getLsbD_append]; grind
@[simp] theorem extract_pair_low {n k m : Nat} (x : BitVec n) (y : BitVec k) (h : n + k ≤ m) :
    ((x ++ y).setWidth m).extractLsb' 0 k = y := by
  ext i hi; simp only [BitVec.getElem_extractLsb', BitVec.getLsbD_setWidth, BitVec.getLsbD_append]; grind


@[simp] theorem modS_sg (sg : Bool) (sub : BitVec 3) : (modS sg sub)[3] = sg := by cases sg <;> revert sub <;> decide
@[simp] theorem modS_sub (sg : Bool) (sub : BitVec 3) : (modS sg sub).extractLsb' 0 3 = sub := by cases sg <;> revert sub <;> decide
@[simp] theorem mod2_hi (hi lo : Bool) : (mod2 hi lo)[1] = hi := by revert hi lo; decide
@[simp] theorem mod2_lo (hi lo : Bool) : (mod2 hi lo)[0] = lo := by revert hi lo; decide
@[simp] theorem mod2_top (hi lo : Bool) : (mod2 hi lo).extractLsb' 2 2 = 0 := by revert hi lo; decide
@[simp] theorem bit4_lo (b : Bool) : (bit4 b)[0] = b := by revert b; decide
@[simp] theorem bit4_top (b : Bool) : (bit4 b).extractLsb' 1 3 = 0 := by revert b; decide
@[simp] theorem bit6_lo (b : Bool) : (bit6 b)[0] = b := by revert b; decide
@[simp] theorem bit6_top (b : Bool) : (bit6 b).extractLsb' 1 5 = 0 := by revert b; decide
@[simp] theorem aux2_lo (op : BitVec 2) : (aux2 op).extractLsb' 0 2 = op := by revert op; decide
@[simp] theorem aux2_top (op : BitVec 2) : (aux2 op).extractLsb' 2 4 = 0 := by revert op; decide
@[simp] theorem maskNo_maskOpnd (k : BitVec 3) : maskNo (maskOpnd k) = k := by revert k; decide
@[simp] theorem maskOk_maskOpnd (k : BitVec 3) : maskOk (maskOpnd k) = true := by revert k; decide
@[simp] theorem maskNo_maskCcOpnd (k cc : BitVec 3) : maskNo (maskCcOpnd k cc) = k := by revert k cc; decide
@[simp] theorem maskCc_maskCcOpnd (k cc : BitVec 3) : maskCc (maskCcOpnd k cc) = cc := by revert k cc; decide
@[simp] theorem maskCcOk_maskCcOpnd (k cc : BitVec 3) : maskCcOk (maskCcOpnd k cc) = true := by revert k cc; decide
@[simp] theorem qntAux_wid (w : BitVec 3) (a i sg : Bool) : (qntAux w a i sg).extractLsb' 3 3 = w := by revert w a i sg; decide
@[simp] theorem qntAux_adapt (w : BitVec 3) (a i sg : Bool) : (qntAux w a i sg)[2] = a := by revert w a i sg; decide
@[simp] theorem qntAux_int (w : BitVec 3) (a i sg : Bool) : (qntAux w a i sg)[1] = i := by revert w a i sg; decide
@[simp] theorem qntAux_sg (w : BitVec 3) (a i sg : Bool) : (qntAux w a i sg)[0] = sg := by revert w a i sg; decide
@[simp] theorem shImm_n (sg : Bool) (n : BitVec 6) : (shImm sg n).extractLsb' 0 6 = n := by
  ext i hi; simp only [shImm, BitVec.getElem_extractLsb', BitVec.getLsbD_append]; grind
@[simp] theorem shImm_sg (sg : Bool) (n : BitVec 6) : (shImm sg n)[6] = sg := by
  unfold shImm; rw [BitVec.getElem_append]; cases sg <;> rfl
@[simp] theorem shImm_top (sg : Bool) (n : BitVec 6) : (shImm sg n).extractLsb' 7 11 = 0 := by
  ext i hi; simp only [shImm, BitVec.getElem_extractLsb', BitVec.getLsbD_append]; grind

@[simp] theorem mod2_false_top (b : Bool) : (mod2 false b).extractLsb' 1 3 = 0#3 := by revert b; decide
@[simp] theorem loop_lvl (lvl : BitVec 2) (per : BitVec 20) : ((lvl ++ per).setWidth 32).extractLsb' 20 2 = lvl := extract_pair_high lvl per (by decide)
@[simp] theorem loop_per (lvl : BitVec 2) (per : BitVec 20) : ((lvl ++ per).setWidth 32).extractLsb' 0 20 = per := extract_pair_low lvl per (by decide)
@[simp] theorem slot_low (off : BitVec 15) (slot : BitVec 3) : (off ++ slot).extractLsb' 0 3 = slot := by
  ext i hi; simp only [BitVec.getElem_extractLsb', BitVec.getLsbD_append]; grind
@[simp] theorem slot_off (off : BitVec 15) (slot : BitVec 3) : (off ++ slot).extractLsb' 3 15 = off := by
  ext i hi; simp only [BitVec.getElem_extractLsb', BitVec.getLsbD_append]; grind

/-! Words. -/

@[simp] theorem bodyOf_word (idle : BitVec 10) (op : BitVec 8) (body : BitVec 46) : bodyOf (idle ++ op ++ body) = body := by
  unfold bodyOf; ext i hi; simp only [BitVec.getElem_extractLsb', BitVec.getLsbD_append]; grind
@[simp] theorem opOf_word (idle : BitVec 10) (op : BitVec 8) (body : BitVec 46) : opOf (idle ++ op ++ body) = op.toNat := by
  unfold opOf; congr 1; ext i hi; simp only [BitVec.getElem_extractLsb', BitVec.getLsbD_append]; grind
@[simp] theorem idleOf_word (idle : BitVec 10) (op : BitVec 8) (body : BitVec 46) : idleOf (idle ++ op ++ body) = idle.toNat := by
  unfold idleOf; congr 1; ext i hi; simp only [BitVec.getElem_extractLsb', BitVec.getLsbD_append]; grind
@[simp] theorem bodyOf_cont (x : BitVec 46) : bodyOf ((0 : BitVec 18) ++ x) = x := by
  unfold bodyOf; ext i hi; simp only [BitVec.getElem_extractLsb', BitVec.getLsbD_append]; grind
@[simp] theorem top_cont (x : BitVec 46) : ((0 : BitVec 18) ++ x : BitVec 64).extractLsb' 46 18 = 0 := by
  ext i hi; simp only [BitVec.getElem_extractLsb', BitVec.getLsbD_append]; grind

end Sys2Proof
end

