-- ==== Sys2Proof/Laws/Issue.lean ====
section
/-! SUPPORT. What issuing a word can do, said once: it answers a next state for every running stream, the state of its
effect where nothing stands in its way, and the state of its first fault otherwise. -/
namespace Sys2Proof.Machine

/-- A context is the cursor's gang, core and stream in the state it was made from. -/
theorem State.ctx_s {s : State} {cur : Cursor} {i : Instr} {x : Ctx} (h : s.ctx cur i = some x) : x.s = s := by
  unfold State.ctx at h
  split at h
  · exact absurd h (by simp)
  · split at h
    · cases h; rfl
    · exact absurd h (by simp)

theorem State.ctx_gid {s : State} {cur : Cursor} {i : Instr} {x : Ctx} (h : s.ctx cur i = some x) : x.gid = cur.gang := by
  unfold State.ctx at h
  split at h
  · exact absurd h (by simp)
  · split at h
    · cases h; rfl
    · exact absurd h (by simp)

theorem Ctx.against_reads (x : Ctx) (p : Plan) : x.against p = x.against ⟨p.reads, .ok {}⟩ := rfl
theorem Ctx.hazards_reads (x : Ctx) (p : Plan) : x.hazards p = x.hazards ⟨p.reads, .ok {}⟩ := rfl
theorem Ctx.hazardsBy_reads (x : Ctx) (p : Plan) (cs : List Claim) : x.hazardsBy p cs = x.hazardsBy ⟨p.reads, .ok {}⟩ cs := rfl

/-- A clear word that no check of its own refuses meets no fault. -/
theorem Ctx.traps_clear {x : Ctx} {i : Instr} {reads : List Loc} {e : Eff} (h : x.clear i reads = true) :
    x.traps i ⟨reads, .ok e⟩ = [] := by
  simp only [Ctx.clear, Bool.and_eq_true, Option.isNone_iff_eq_none, List.isEmpty_iff, Bool.or_eq_true, bne_iff_ne] at h
  obtain ⟨⟨⟨h1, h2⟩, h3⟩, h4⟩ := h
  unfold Ctx.hazards at h4
  unfold Ctx.traps Ctx.trapsBy
  rw [Ctx.against_reads, Ctx.hazardsBy_reads]
  simp only [h1, h2, h3, List.map_nil, Option.toList_none, List.append_nil, List.nil_append]
  split
  · rcases h4 with h4 | h4
    · exact absurd ‹x.c.mode = 2› h4
    · simp [h4]
  · rfl

/-- A clear word that a check of its own refuses meets that fault alone. -/
theorem Ctx.traps_fault {x : Ctx} {i : Instr} {reads : List Loc} {tr : Trap} (h : x.clear i reads = true) :
    x.traps i ⟨reads, .error tr⟩ = [tr] := by
  simp only [Ctx.clear, Bool.and_eq_true, Option.isNone_iff_eq_none, List.isEmpty_iff, Bool.or_eq_true, bne_iff_ne] at h
  obtain ⟨⟨⟨h1, h2⟩, h3⟩, h4⟩ := h
  unfold Ctx.hazards at h4
  unfold Ctx.traps Ctx.trapsBy
  rw [Ctx.against_reads, Ctx.hazardsBy_reads]
  simp only [h1, h2, h3, List.map_nil, Option.toList_none, List.append_nil]
  split
  · rcases h4 with h4 | h4
    · exact absurd ‹x.c.mode = 2› h4
    · simp [h4]
  · rfl

theorem Ctx.run_clear {x : Ctx} {i : Instr} {reads : List Loc} {e : Eff} (h : x.clear i reads = true) :
    x.run i ⟨reads, .ok e⟩ = x.issued reads e := by
  simp only [Ctx.run, Ctx.traps_clear h, lowestTrap]
  rfl

theorem Ctx.run_fault {x : Ctx} {i : Instr} {reads : List Loc} {tr : Trap} (h : x.clear i reads = true) :
    x.run i ⟨reads, .error tr⟩ = x.s.raise x.gid x.s.tlc (some x.who) tr := by
  simp only [Ctx.run, Ctx.traps_fault h, lowestTrap]
  rfl

/-- A plan that writes one operand has the effect of writing it. Rewrite with these three: unfolding both sides makes the kernel
evaluate masks. -/
theorem Ctx.xPlan_eq (x : Ctx) (reads : List Loc) (d : Opnd) (v : Int) (lat : Nat) (fl : Flags) :
    x.xPlan reads d v lat fl = ⟨reads, .ok (x.xEff d v lat fl)⟩ := rfl
theorem Ctx.vPlan_eq (x : Ctx) (reads : List Loc) (d : Opnd) (m : Mask) (vals : List Nat) (lat : Nat) (fl : Flags) :
    x.vPlan reads d m vals lat fl = ⟨reads, .ok (x.vEff d m vals lat fl)⟩ := rfl
theorem Ctx.kPlan_eq (x : Ctx) (reads : List Loc) (k : Nat) (bits val : Mask) (lat : Nat) (fl : Flags) :
    x.kPlan reads k bits val lat fl = ⟨reads, .ok (x.kEff k bits val lat fl)⟩ := rfl

/-- A meaning that is its plan, issued, completes where the plan has an effect. -/
theorem Completes.of_plan {i : Instr} {plan : Ctx → Plan} {reads : Ctx → List Loc} {cond : Ctx → Prop} {e : Ctx → Eff}
    (hi : ∀ s, exec i s = issue i plan s) (hp : ∀ x, cond x → plan x = ⟨reads x, .ok (e x)⟩) : Completes i reads cond e := by
  intro s x hx hc hcond
  rw [hi, issue, hx]
  simp only [hp x hcond, Ctx.run_clear hc]

/-- A meaning that is its plan, issued, faults where the plan does. -/
theorem Faults.of_plan {i : Instr} {plan : Ctx → Plan} {reads : Ctx → List Loc} {cond : Ctx → Prop} {tr : Ctx → Trap}
    (hi : ∀ s, exec i s = issue i plan s) (hp : ∀ x, cond x → plan x = ⟨reads x, .error (tr x)⟩) : Faults i reads cond tr := by
  intro s x hx hc hcond
  rw [hi, issue, hx]
  simp only [hp x hcond, Ctx.run_fault hc, State.ctx_s hx]

/-- Issuing answers a next state for every cursor that names a stream: the word's own fault is a next state too. -/
theorem issue_next {i : Instr} {plan : Ctx → Plan} {s : State} {x : Ctx} (h : s.ctx s.cursor i = some x) :
    issue i plan s = .next (x.run i (plan x)) := by
  simp only [issue, h]

/-- An issue either has the plan's whole effect or meets one fault and has none (R41, R108). -/
theorem Ctx.run_cases (x : Ctx) (i : Instr) (p : Plan) :
    (∃ tr, x.run i p = x.s.raise x.gid x.t (some x.who) tr) ∨ (∃ e, p.res = .ok e ∧ x.run i p = x.issued p.reads e) := by
  unfold Ctx.run
  split
  · exact .inl ⟨_, rfl⟩
  · exact .inl ⟨_, rfl⟩
  · exact .inr ⟨_, ‹_›, rfl⟩

end Sys2Proof.Machine
end

