-- ==== Sys2Proof/Laws/Frame.lean ====
section
/-! SUPPORT. The frame of a word's issue: what a plan's effect may change on its issue cycle, said once for each way of making a
plan, and the plan every program word's meaning issues. -/
namespace Sys2Proof.Machine

theorem Core.sameFiles_refl (c : Core) : c.sameFiles c := ⟨rfl,rfl,rfl,rfl,rfl,rfl,rfl,rfl,rfl,rfl,rfl,rfl⟩
/-- What an effect changes on its issue cycle lies outside the files of cores, the cycle and the other gangs (R91, R102). -/
def Eff.Frame (e : Eff) : Prop :=
  (∀ c : Core, c.sameFiles (e.core c)) ∧ (∀ g, (e.gang g).cores = g.cores) ∧ ∀ s, (e.dev s).gangs = s.gangs ∧ (e.dev s).tlc = s.tlc

/-- Every effect of a plan has that frame, and leaves memory alone unless the plan may store at issue (`st`). -/
def Plan.Framed (st : Bool) (p : Plan) : Prop := ∀ e, p.res = .ok e → e.Frame ∧ (st = false → ∀ s, (e.dev s).mem = s.mem)

theorem Framed.error {st r tr} : Plan.Framed st ⟨r, .error tr⟩ := fun e h => by cases h

theorem Framed.bad {st a b c d f} : Plan.Framed st (Plan.bad a b c d f) := fun e h => by cases h
/-- A plan has the frame where its three issue-cycle updates have it. -/
theorem Framed.ok {st r e} (h1 : ∀ c : Core, c.sameFiles (e.core c)) (h2 : ∀ g, (e.gang g).cores = g.cores)
   (h3 : ∀ s, (e.dev s).gangs = s.gangs ∧ (e.dev s).tlc = s.tlc ∧ (st = false → (e.dev s).mem = s.mem)) : Plan.Framed st ⟨r, .ok e⟩ := fun e h' => by
  cases h'; exact ⟨⟨h1, h2, fun s => ⟨(h3 s).1, (h3 s).2.1⟩⟩, fun h s => (h3 s).2.2 h⟩
/-- A plan whose effect is landings on later cycles and a flow has the frame. -/
theorem Framed.plain {st r a b c d} : Plan.Framed st ⟨r, .ok { claims := a, deliver := b, acts := c, flow := d }⟩ :=
  Framed.ok (fun c => c.sameFiles_refl) (fun _ => rfl) (fun _ => ⟨rfl, rfl, fun _ => rfl⟩)

theorem Framed.core {st r a b c d} {f : Core → Core} (h : ∀ c : Core, c.sameFiles (f c)) : Plan.Framed st ⟨r, .ok { claims := a, deliver := b, acts := c, flow := d, core := f }⟩ :=
  Framed.ok h (fun _ => rfl) (fun _ => ⟨rfl, rfl, fun _ => rfl⟩)

theorem Framed.dev {st r a b c d} {f : State → State} (h : ∀ s, (f s).gangs = s.gangs ∧ (f s).tlc = s.tlc ∧ (f s).mem = s.mem) : Plan.Framed st ⟨r, .ok { claims := a, deliver := b, acts := c, flow := d, dev := f }⟩ :=
  Framed.ok (fun c => c.sameFiles_refl) (fun _ => rfl) (fun s => ⟨(h s).1, (h s).2.1, fun _ => (h s).2.2⟩)

theorem Framed.gang {st r a b c d} {f : Gang → Gang} (h : ∀ g, (f g).cores = g.cores) : Plan.Framed st ⟨r, .ok { claims := a, deliver := b, acts := c, flow := d, gang := f }⟩ :=
  Framed.ok (fun c => c.sameFiles_refl) h (fun _ => ⟨rfl, rfl, fun _ => rfl⟩)

theorem Framed.xPlan {st} {x : Ctx} {a b c d f} : Plan.Framed st (x.xPlan a b c d f) := Framed.plain

theorem Framed.vPlan {st} {x : Ctx} {a b c d f g} : Plan.Framed st (x.vPlan a b c d f g) := Framed.plain

theorem Framed.kPlan {st} {x : Ctx} {a b c d f g} : Plan.Framed st (x.kPlan a b c d f g) := Framed.plain
/-- So has a plan of a memory stream. -/
theorem Framed.withMem {st} {x : Ctx} {f} (h : ∀ m p, Plan.Framed st (f m p)) : Plan.Framed st (x.withMem f) := by
  unfold Ctx.withMem; (repeat' split) <;> first | exact Framed.bad | exact h _ _

theorem State.corrected_frame (s : State) (g n a) : (s.corrected g n a).gangs = s.gangs ∧ (s.corrected g n a).tlc = s.tlc ∧ (s.corrected g n a).mem = s.mem := by
  unfold State.corrected
  split
  · exact ⟨rfl, rfl, rfl⟩
  · dsimp only; split
    · split <;> exact ⟨rfl, rfl, rfl⟩
    · exact ⟨rfl, rfl, rfl⟩

theorem State.correctedAll_frame (s : State) (g n r) : (s.correctedAll g n r).gangs = s.gangs ∧ (s.correctedAll g n r).tlc = s.tlc ∧ (s.correctedAll g n r).mem = s.mem := by
  unfold State.correctedAll
  generalize r.fixed = l
  induction l generalizing s with
  | nil => exact ⟨rfl, rfl, rfl⟩
  | cons a t ih =>
    rw [List.foldl_cons]
    obtain ⟨h1, h2, h3⟩ := ih (s.corrected g n a)
    obtain ⟨a1, a2, a3⟩ := State.corrected_frame s g n a
    exact ⟨h1.trans a1, h2.trans a2, h3.trans a3⟩

theorem State.correctedFold_frame (g n) (l : List (Nat × Read)) (s : State) : (l.foldl (fun s p => s.correctedAll g n p.2) s).gangs = s.gangs ∧ (l.foldl (fun s p => s.correctedAll g n p.2) s).tlc = s.tlc ∧ (l.foldl (fun s p => s.correctedAll g n p.2) s).mem = s.mem := by
  induction l generalizing s with
  | nil => exact ⟨rfl, rfl, rfl⟩
  | cons a t ih =>
    rw [List.foldl_cons]
    obtain ⟨h1, h2, h3⟩ := ih (s.correctedAll g n a.2)
    obtain ⟨a1, a2, a3⟩ := State.correctedAll_frame s g n a.2
    exact ⟨h1.trans a1, h2.trans a2, h3.trans a3⟩

theorem State.movedBad_frame (s : State) (g n r d) : (s.movedBad g n r d).gangs = s.gangs ∧ (s.movedBad g n r d).tlc = s.tlc ∧ (s.movedBad g n r d).mem = s.mem := by
  unfold State.movedBad
  (repeat' split) <;> exact ⟨rfl, rfl, rfl⟩

theorem State.colNote_frame (s : State) (g r d) : (s.colNote g r d).gangs = s.gangs ∧ (s.colNote g r d).tlc = s.tlc ∧ (s.colNote g r d).mem = s.mem := by
  unfold State.colNote
  obtain ⟨a,b,c⟩ := State.movedBad_frame (s.correctedAll (aget g s.gangs) 2 r) (aget g s.gangs) 2 r d
  obtain ⟨a',b',c'⟩ := State.correctedAll_frame s (aget g s.gangs) 2 r
  exact ⟨a.trans a', b.trans b', c.trans c'⟩

theorem State.store_frame (s : State) (k bs p) : (s.store k bs p).gangs = s.gangs ∧ (s.store k bs p).tlc = s.tlc := by
  unfold State.store; split <;> exact ⟨rfl, rfl⟩

theorem Core.sameFiles_of {c d : Core} (h1 : d.x = c.x ∧ d.v = c.v ∧ d.k = c.k) (h2 : d.acc = c.acc ∧ d.cnt = c.cnt ∧ d.flags = c.flags ∧ d.mode = c.mode ∧
    d.budget = c.budget ∧ d.slots = c.slots ∧ d.outDesc = c.outDesc ∧ d.win = c.win ∧ d.pad = c.pad) : c.sameFiles d := ⟨h1.1, h1.2.1, h1.2.2, h2⟩
/-- So has an untimed request. -/
theorem Framed.request {st} {x : Ctx} {a b c d e f g h i} : Plan.Framed st (x.request a b c d e f g h i) := by
  unfold Ctx.request; dsimp only
  split
  · exact Framed.error
  · refine Framed.ok ?_ ?_ ?_
    · intro c; exact ⟨rfl,rfl,rfl,rfl,rfl,rfl,rfl,rfl,rfl,rfl,rfl,rfl⟩
    · intro g; rfl
    · intro s; dsimp only; split <;> exact ⟨rfl, rfl, fun _ => rfl⟩
/-- So has a timed copy. -/
theorem Framed.copyEff {st r} {x : Ctx} {d path a b c e f g} : Plan.Framed st ⟨r, .ok (x.copyEff d path a b c e f g)⟩ := by
  unfold Ctx.copyEff; refine Framed.ok ?_ ?_ ?_
  · intro c; exact ⟨rfl,rfl,rfl,rfl,rfl,rfl,rfl,rfl,rfl,rfl,rfl,rfl⟩
  · intro g; rfl
  · intro s; dsimp only; split <;> exact ⟨rfl, rfl, fun _ => rfl⟩

/-- A program word's meaning is its plan, issued. -/
theorem exec_of_planOf {i : Instr} {p : Ctx → Plan} (h : planOf i = some p) (s : State) : exec i s = issue i p s := by
  cases i <;> first | (cases h; rfl) | exact absurd h (by simp [planOf])

end Sys2Proof.Machine
end

