-- ==== Sys2Proof/Laws/State.lean ====
section
/-! SUPPORT. What each update of the state leaves alone: one lemma for each field and update, and the lists of keyed values that
the fields hold. -/
namespace Sys2Proof.Machine

/-! Lists of keyed values. -/

@[simp] theorem aget_nil {α : Type} (k : Nat) : aget k ([] : List (Nat × α)) = none := rfl

/-- Changing the value under a key changes what is found there and under no other key. -/
theorem aget_amod {α : Type} (k j : Nat) (f : α → α) (l : List (Nat × α)) :
    aget k (amod j f l) = if k = j then (aget k l).map f else aget k l := by
  induction l with
  | nil => simp [amod]
  | cons a t ih =>
    obtain ⟨a, w⟩ := a
    unfold amod
    split
    · subst_vars
      by_cases h : k = a
      · subst h; simp [aget]
      · simp [aget, h, Ne.symm h]
    · by_cases h : a = k
      · subst h; simp [aget, *]
      · simp [aget, h, ih]

@[simp] theorem aget_amod_self {α : Type} (k : Nat) (f : α → α) (l : List (Nat × α)) : aget k (amod k f l) = (aget k l).map f := by
  simp [aget_amod]

theorem aget_amod_ne {α : Type} {k j : Nat} (h : k ≠ j) (f : α → α) (l : List (Nat × α)) : aget k (amod j f l) = aget k l := by
  simp [aget_amod, h]

@[simp] theorem aget_aset_self {α : Type} (k : Nat) (v : α) (l : List (Nat × α)) : aget k (aset k v l) = some v := by
  induction l with
  | nil => simp [aset, aget]
  | cons a t ih =>
    obtain ⟨a, w⟩ := a
    unfold aset
    split
    · simp [aget]
    · split
      · simp [aget]
      · rw [aget, if_neg (by omega)]; exact ih

theorem aget_aset_ne {α : Type} {k j : Nat} (v : α) (l : List (Nat × α)) (h : k ≠ j) : aget k (aset j v l) = aget k l := by
  induction l with
  | nil => simp [aset, aget, Ne.symm h]
  | cons a t ih =>
    obtain ⟨a, w⟩ := a
    unfold aset
    split
    · simp [aget, Ne.symm h]
    · split
      · subst_vars; simp [aget, Ne.symm h]
      · simp [aget, ih]

@[simp] theorem aget_adel_self {α : Type} (k : Nat) (l : List (Nat × α)) : aget k (adel k l) = none := by
  induction l with
  | nil => rfl
  | cons a t ih =>
    obtain ⟨a, w⟩ := a
    unfold adel
    rw [List.filter_cons]
    split
    · unfold aget; simp_all [adel]
    · exact ih

/-- The first entry under a key is what `aget` finds. -/
theorem find_of_aget {α : Type} {k : Nat} {v : α} {l : List (Nat × α)} (h : aget k l = some v) :
    (l.find? fun p => p.1 == k) = some (k, v) := by
  induction l with
  | nil => cases h
  | cons a t ih =>
    obtain ⟨a, w⟩ := a
    unfold aget at h
    split at h
    · cases h; subst_vars; rw [List.find?_cons_of_pos (by simp)]
    · rename_i hne; rw [List.find?_cons_of_neg (by simpa using hne)]; exact ih h

/-! Updates of the state. -/

@[simp] theorem State.modGang_tlc (s : State) (id : Nat) (f : Gang → Gang) : (s.modGang id f).tlc = s.tlc := rfl
@[simp] theorem State.modGang_cursor (s : State) (id : Nat) (f : Gang → Gang) : (s.modGang id f).cursor = s.cursor := rfl
@[simp] theorem State.modGang_mem (s : State) (id : Nat) (f : Gang → Gang) : (s.modGang id f).mem = s.mem := rfl
@[simp] theorem State.modGang_poison (s : State) (id : Nat) (f : Gang → Gang) : (s.modGang id f).poison = s.poison := rfl
@[simp] theorem State.modGang_memLog (s : State) (id : Nat) (f : Gang → Gang) : (s.modGang id f).memLog = s.memLog := rfl
@[simp] theorem State.modGang_used (s : State) (id : Nat) (f : Gang → Gang) : (s.modGang id f).used = s.used := rfl
@[simp] theorem State.modGang_ticked (s : State) (id : Nat) (f : Gang → Gang) : (s.modGang id f).ticked = s.ticked := rfl
@[simp] theorem State.modGang_infos (s : State) (id : Nat) (f : Gang → Gang) : (s.modGang id f).infos = s.infos := rfl
@[simp] theorem State.modGang_pchs (s : State) (id : Nat) (f : Gang → Gang) : (s.modGang id f).pchs = s.pchs := rfl
@[simp] theorem State.modGang_gongQ (s : State) (id : Nat) (f : Gang → Gang) : (s.modGang id f).gongQ = s.gongQ := rfl
@[simp] theorem State.modGang_gongLog (s : State) (id : Nat) (f : Gang → Gang) : (s.modGang id f).gongLog = s.gongLog := rfl
@[simp] theorem State.modGang_sched (s : State) (id : Nat) (f : Gang → Gang) : (s.modGang id f).sched = s.sched := rfl
@[simp] theorem State.modGang_pins (s : State) (id : Nat) (f : Gang → Gang) : (s.modGang id f).pins = s.pins := rfl
@[simp] theorem State.modGang_tlb (s : State) (id : Nat) (f : Gang → Gang) : (s.modGang id f).tlb = s.tlb := rfl
@[simp] theorem State.modGang_cmu (s : State) (id : Nat) (f : Gang → Gang) : (s.modGang id f).cmu = s.cmu := rfl
@[simp] theorem State.modGang_belfry (s : State) (id : Nat) (f : Gang → Gang) : (s.modGang id f).belfry = s.belfry := rfl
@[simp] theorem State.modGang_codec (s : State) (id : Nat) (f : Gang → Gang) : (s.modGang id f).codec = s.codec := rfl
@[simp] theorem State.modGang_host (s : State) (id : Nat) (f : Gang → Gang) : (s.modGang id f).host = s.host := rfl
@[simp] theorem State.modGang_root (s : State) (id : Nat) (f : Gang → Gang) : (s.modGang id f).root = s.root := rfl
@[simp] theorem State.modGang_err (s : State) (id : Nat) (f : Gang → Gang) : (s.modGang id f).err = s.err := rfl
@[simp] theorem State.modGang_fresh (s : State) (id : Nat) (f : Gang → Gang) : (s.modGang id f).fresh = s.fresh := rfl
@[simp] theorem State.modGang_reqSeq (s : State) (id : Nat) (f : Gang → Gang) : (s.modGang id f).reqSeq = s.reqSeq := rfl
@[simp] theorem State.modGang_inbox (s : State) (id : Nat) (f : Gang → Gang) : (s.modGang id f).inbox = s.inbox := rfl

@[simp] theorem State.modCore_tlc (s : State) (id r : Nat) (f : Core → Core) : (s.modCore id r f).tlc = s.tlc := rfl
@[simp] theorem State.modCore_cursor (s : State) (id r : Nat) (f : Core → Core) : (s.modCore id r f).cursor = s.cursor := rfl
@[simp] theorem State.modCore_mem (s : State) (id r : Nat) (f : Core → Core) : (s.modCore id r f).mem = s.mem := rfl
@[simp] theorem State.modCore_poison (s : State) (id r : Nat) (f : Core → Core) : (s.modCore id r f).poison = s.poison := rfl
@[simp] theorem State.modCore_memLog (s : State) (id r : Nat) (f : Core → Core) : (s.modCore id r f).memLog = s.memLog := rfl
@[simp] theorem State.modCore_used (s : State) (id r : Nat) (f : Core → Core) : (s.modCore id r f).used = s.used := rfl
@[simp] theorem State.modCore_ticked (s : State) (id r : Nat) (f : Core → Core) : (s.modCore id r f).ticked = s.ticked := rfl
@[simp] theorem State.modCore_infos (s : State) (id r : Nat) (f : Core → Core) : (s.modCore id r f).infos = s.infos := rfl
@[simp] theorem State.modCore_pchs (s : State) (id r : Nat) (f : Core → Core) : (s.modCore id r f).pchs = s.pchs := rfl
@[simp] theorem State.modCore_gongQ (s : State) (id r : Nat) (f : Core → Core) : (s.modCore id r f).gongQ = s.gongQ := rfl
@[simp] theorem State.modCore_gongLog (s : State) (id r : Nat) (f : Core → Core) : (s.modCore id r f).gongLog = s.gongLog := rfl
@[simp] theorem State.modCore_sched (s : State) (id r : Nat) (f : Core → Core) : (s.modCore id r f).sched = s.sched := rfl
@[simp] theorem State.modCore_pins (s : State) (id r : Nat) (f : Core → Core) : (s.modCore id r f).pins = s.pins := rfl
@[simp] theorem State.modCore_tlb (s : State) (id r : Nat) (f : Core → Core) : (s.modCore id r f).tlb = s.tlb := rfl
@[simp] theorem State.modCore_cmu (s : State) (id r : Nat) (f : Core → Core) : (s.modCore id r f).cmu = s.cmu := rfl
@[simp] theorem State.modCore_belfry (s : State) (id r : Nat) (f : Core → Core) : (s.modCore id r f).belfry = s.belfry := rfl
@[simp] theorem State.modCore_codec (s : State) (id r : Nat) (f : Core → Core) : (s.modCore id r f).codec = s.codec := rfl
@[simp] theorem State.modCore_host (s : State) (id r : Nat) (f : Core → Core) : (s.modCore id r f).host = s.host := rfl
@[simp] theorem State.modCore_root (s : State) (id r : Nat) (f : Core → Core) : (s.modCore id r f).root = s.root := rfl
@[simp] theorem State.modCore_err (s : State) (id r : Nat) (f : Core → Core) : (s.modCore id r f).err = s.err := rfl
@[simp] theorem State.modCore_fresh (s : State) (id r : Nat) (f : Core → Core) : (s.modCore id r f).fresh = s.fresh := rfl
@[simp] theorem State.modCore_reqSeq (s : State) (id r : Nat) (f : Core → Core) : (s.modCore id r f).reqSeq = s.reqSeq := rfl
@[simp] theorem State.modCore_inbox (s : State) (id r : Nat) (f : Core → Core) : (s.modCore id r f).inbox = s.inbox := rfl

@[simp] theorem State.setInfo_tlc (s : State) (g : Nat) (i : CoreInfo) : (s.setInfo g i).tlc = s.tlc := rfl
@[simp] theorem State.setInfo_cursor (s : State) (g : Nat) (i : CoreInfo) : (s.setInfo g i).cursor = s.cursor := rfl
@[simp] theorem State.setInfo_mem (s : State) (g : Nat) (i : CoreInfo) : (s.setInfo g i).mem = s.mem := rfl
@[simp] theorem State.setInfo_poison (s : State) (g : Nat) (i : CoreInfo) : (s.setInfo g i).poison = s.poison := rfl
@[simp] theorem State.setInfo_memLog (s : State) (g : Nat) (i : CoreInfo) : (s.setInfo g i).memLog = s.memLog := rfl
@[simp] theorem State.setInfo_used (s : State) (g : Nat) (i : CoreInfo) : (s.setInfo g i).used = s.used := rfl
@[simp] theorem State.setInfo_ticked (s : State) (g : Nat) (i : CoreInfo) : (s.setInfo g i).ticked = s.ticked := rfl
@[simp] theorem State.setInfo_gangs (s : State) (g : Nat) (i : CoreInfo) : (s.setInfo g i).gangs = s.gangs := rfl
@[simp] theorem State.setInfo_pchs (s : State) (g : Nat) (i : CoreInfo) : (s.setInfo g i).pchs = s.pchs := rfl
@[simp] theorem State.setInfo_gongQ (s : State) (g : Nat) (i : CoreInfo) : (s.setInfo g i).gongQ = s.gongQ := rfl
@[simp] theorem State.setInfo_gongLog (s : State) (g : Nat) (i : CoreInfo) : (s.setInfo g i).gongLog = s.gongLog := rfl
@[simp] theorem State.setInfo_sched (s : State) (g : Nat) (i : CoreInfo) : (s.setInfo g i).sched = s.sched := rfl
@[simp] theorem State.setInfo_pins (s : State) (g : Nat) (i : CoreInfo) : (s.setInfo g i).pins = s.pins := rfl
@[simp] theorem State.setInfo_tlb (s : State) (g : Nat) (i : CoreInfo) : (s.setInfo g i).tlb = s.tlb := rfl
@[simp] theorem State.setInfo_cmu (s : State) (g : Nat) (i : CoreInfo) : (s.setInfo g i).cmu = s.cmu := rfl
@[simp] theorem State.setInfo_belfry (s : State) (g : Nat) (i : CoreInfo) : (s.setInfo g i).belfry = s.belfry := rfl
@[simp] theorem State.setInfo_codec (s : State) (g : Nat) (i : CoreInfo) : (s.setInfo g i).codec = s.codec := rfl
@[simp] theorem State.setInfo_host (s : State) (g : Nat) (i : CoreInfo) : (s.setInfo g i).host = s.host := rfl
@[simp] theorem State.setInfo_root (s : State) (g : Nat) (i : CoreInfo) : (s.setInfo g i).root = s.root := rfl
@[simp] theorem State.setInfo_err (s : State) (g : Nat) (i : CoreInfo) : (s.setInfo g i).err = s.err := rfl
@[simp] theorem State.setInfo_fresh (s : State) (g : Nat) (i : CoreInfo) : (s.setInfo g i).fresh = s.fresh := rfl
@[simp] theorem State.setInfo_reqSeq (s : State) (g : Nat) (i : CoreInfo) : (s.setInfo g i).reqSeq = s.reqSeq := rfl
@[simp] theorem State.setInfo_inbox (s : State) (g : Nat) (i : CoreInfo) : (s.setInfo g i).inbox = s.inbox := rfl

@[simp] theorem State.modPch_tlc (s : State) (n : Nat) (f : Pch → Pch) : (s.modPch n f).tlc = s.tlc := rfl
@[simp] theorem State.modPch_cursor (s : State) (n : Nat) (f : Pch → Pch) : (s.modPch n f).cursor = s.cursor := rfl
@[simp] theorem State.modPch_mem (s : State) (n : Nat) (f : Pch → Pch) : (s.modPch n f).mem = s.mem := rfl
@[simp] theorem State.modPch_poison (s : State) (n : Nat) (f : Pch → Pch) : (s.modPch n f).poison = s.poison := rfl
@[simp] theorem State.modPch_memLog (s : State) (n : Nat) (f : Pch → Pch) : (s.modPch n f).memLog = s.memLog := rfl
@[simp] theorem State.modPch_used (s : State) (n : Nat) (f : Pch → Pch) : (s.modPch n f).used = s.used := rfl
@[simp] theorem State.modPch_ticked (s : State) (n : Nat) (f : Pch → Pch) : (s.modPch n f).ticked = s.ticked := rfl
@[simp] theorem State.modPch_gangs (s : State) (n : Nat) (f : Pch → Pch) : (s.modPch n f).gangs = s.gangs := rfl
@[simp] theorem State.modPch_infos (s : State) (n : Nat) (f : Pch → Pch) : (s.modPch n f).infos = s.infos := rfl
@[simp] theorem State.modPch_gongQ (s : State) (n : Nat) (f : Pch → Pch) : (s.modPch n f).gongQ = s.gongQ := rfl
@[simp] theorem State.modPch_gongLog (s : State) (n : Nat) (f : Pch → Pch) : (s.modPch n f).gongLog = s.gongLog := rfl
@[simp] theorem State.modPch_sched (s : State) (n : Nat) (f : Pch → Pch) : (s.modPch n f).sched = s.sched := rfl
@[simp] theorem State.modPch_pins (s : State) (n : Nat) (f : Pch → Pch) : (s.modPch n f).pins = s.pins := rfl
@[simp] theorem State.modPch_tlb (s : State) (n : Nat) (f : Pch → Pch) : (s.modPch n f).tlb = s.tlb := rfl
@[simp] theorem State.modPch_cmu (s : State) (n : Nat) (f : Pch → Pch) : (s.modPch n f).cmu = s.cmu := rfl
@[simp] theorem State.modPch_belfry (s : State) (n : Nat) (f : Pch → Pch) : (s.modPch n f).belfry = s.belfry := rfl
@[simp] theorem State.modPch_codec (s : State) (n : Nat) (f : Pch → Pch) : (s.modPch n f).codec = s.codec := rfl
@[simp] theorem State.modPch_host (s : State) (n : Nat) (f : Pch → Pch) : (s.modPch n f).host = s.host := rfl
@[simp] theorem State.modPch_root (s : State) (n : Nat) (f : Pch → Pch) : (s.modPch n f).root = s.root := rfl
@[simp] theorem State.modPch_err (s : State) (n : Nat) (f : Pch → Pch) : (s.modPch n f).err = s.err := rfl
@[simp] theorem State.modPch_fresh (s : State) (n : Nat) (f : Pch → Pch) : (s.modPch n f).fresh = s.fresh := rfl
@[simp] theorem State.modPch_reqSeq (s : State) (n : Nat) (f : Pch → Pch) : (s.modPch n f).reqSeq = s.reqSeq := rfl
@[simp] theorem State.modPch_inbox (s : State) (n : Nat) (f : Pch → Pch) : (s.modPch n f).inbox = s.inbox := rfl

@[simp] theorem State.tickOnce_tlc (s : State) (k n : Nat) : (s.tickOnce k n).tlc = s.tlc := rfl
@[simp] theorem State.tickOnce_cursor (s : State) (k n : Nat) : (s.tickOnce k n).cursor = s.cursor := rfl
@[simp] theorem State.tickOnce_mem (s : State) (k n : Nat) : (s.tickOnce k n).mem = s.mem := rfl
@[simp] theorem State.tickOnce_poison (s : State) (k n : Nat) : (s.tickOnce k n).poison = s.poison := rfl
@[simp] theorem State.tickOnce_memLog (s : State) (k n : Nat) : (s.tickOnce k n).memLog = s.memLog := rfl
@[simp] theorem State.tickOnce_used (s : State) (k n : Nat) : (s.tickOnce k n).used = s.used := rfl
@[simp] theorem State.tickOnce_gangs (s : State) (k n : Nat) : (s.tickOnce k n).gangs = s.gangs := rfl
@[simp] theorem State.tickOnce_infos (s : State) (k n : Nat) : (s.tickOnce k n).infos = s.infos := rfl
@[simp] theorem State.tickOnce_pchs (s : State) (k n : Nat) : (s.tickOnce k n).pchs = s.pchs := rfl
@[simp] theorem State.tickOnce_gongQ (s : State) (k n : Nat) : (s.tickOnce k n).gongQ = s.gongQ := rfl
@[simp] theorem State.tickOnce_gongLog (s : State) (k n : Nat) : (s.tickOnce k n).gongLog = s.gongLog := rfl
@[simp] theorem State.tickOnce_sched (s : State) (k n : Nat) : (s.tickOnce k n).sched = s.sched := rfl
@[simp] theorem State.tickOnce_pins (s : State) (k n : Nat) : (s.tickOnce k n).pins = s.pins := rfl
@[simp] theorem State.tickOnce_tlb (s : State) (k n : Nat) : (s.tickOnce k n).tlb = s.tlb := rfl
@[simp] theorem State.tickOnce_cmu (s : State) (k n : Nat) : (s.tickOnce k n).cmu = s.cmu := rfl
@[simp] theorem State.tickOnce_belfry (s : State) (k n : Nat) : (s.tickOnce k n).belfry = s.belfry := rfl
@[simp] theorem State.tickOnce_codec (s : State) (k n : Nat) : (s.tickOnce k n).codec = s.codec := rfl
@[simp] theorem State.tickOnce_host (s : State) (k n : Nat) : (s.tickOnce k n).host = s.host := rfl
@[simp] theorem State.tickOnce_root (s : State) (k n : Nat) : (s.tickOnce k n).root = s.root := rfl
@[simp] theorem State.tickOnce_err (s : State) (k n : Nat) : (s.tickOnce k n).err = s.err := rfl
@[simp] theorem State.tickOnce_fresh (s : State) (k n : Nat) : (s.tickOnce k n).fresh = s.fresh := rfl
@[simp] theorem State.tickOnce_reqSeq (s : State) (k n : Nat) : (s.tickOnce k n).reqSeq = s.reqSeq := rfl
@[simp] theorem State.tickOnce_inbox (s : State) (k n : Nat) : (s.tickOnce k n).inbox = s.inbox := rfl

@[simp] theorem State.drop_tlc (s : State) (p : Nat × Timed) : (s.drop p).tlc = s.tlc := rfl
@[simp] theorem State.drop_cursor (s : State) (p : Nat × Timed) : (s.drop p).cursor = s.cursor := rfl
@[simp] theorem State.drop_mem (s : State) (p : Nat × Timed) : (s.drop p).mem = s.mem := rfl
@[simp] theorem State.drop_poison (s : State) (p : Nat × Timed) : (s.drop p).poison = s.poison := rfl
@[simp] theorem State.drop_memLog (s : State) (p : Nat × Timed) : (s.drop p).memLog = s.memLog := rfl
@[simp] theorem State.drop_used (s : State) (p : Nat × Timed) : (s.drop p).used = s.used := rfl
@[simp] theorem State.drop_ticked (s : State) (p : Nat × Timed) : (s.drop p).ticked = s.ticked := rfl
@[simp] theorem State.drop_infos (s : State) (p : Nat × Timed) : (s.drop p).infos = s.infos := rfl
@[simp] theorem State.drop_pchs (s : State) (p : Nat × Timed) : (s.drop p).pchs = s.pchs := rfl
@[simp] theorem State.drop_gongQ (s : State) (p : Nat × Timed) : (s.drop p).gongQ = s.gongQ := rfl
@[simp] theorem State.drop_gongLog (s : State) (p : Nat × Timed) : (s.drop p).gongLog = s.gongLog := rfl
@[simp] theorem State.drop_sched (s : State) (p : Nat × Timed) : (s.drop p).sched = s.sched := rfl
@[simp] theorem State.drop_pins (s : State) (p : Nat × Timed) : (s.drop p).pins = s.pins := rfl
@[simp] theorem State.drop_tlb (s : State) (p : Nat × Timed) : (s.drop p).tlb = s.tlb := rfl
@[simp] theorem State.drop_cmu (s : State) (p : Nat × Timed) : (s.drop p).cmu = s.cmu := rfl
@[simp] theorem State.drop_belfry (s : State) (p : Nat × Timed) : (s.drop p).belfry = s.belfry := rfl
@[simp] theorem State.drop_codec (s : State) (p : Nat × Timed) : (s.drop p).codec = s.codec := rfl
@[simp] theorem State.drop_host (s : State) (p : Nat × Timed) : (s.drop p).host = s.host := rfl
@[simp] theorem State.drop_root (s : State) (p : Nat × Timed) : (s.drop p).root = s.root := rfl
@[simp] theorem State.drop_err (s : State) (p : Nat × Timed) : (s.drop p).err = s.err := rfl
@[simp] theorem State.drop_fresh (s : State) (p : Nat × Timed) : (s.drop p).fresh = s.fresh := rfl
@[simp] theorem State.drop_reqSeq (s : State) (p : Nat × Timed) : (s.drop p).reqSeq = s.reqSeq := rfl
@[simp] theorem State.drop_inbox (s : State) (p : Nat × Timed) : (s.drop p).inbox = s.inbox := rfl

@[simp] theorem State.addAgenda_tlc (s : State) (g : Nat) (l : List Timed) : (s.addAgenda g l).tlc = s.tlc := rfl
@[simp] theorem State.addAgenda_cursor (s : State) (g : Nat) (l : List Timed) : (s.addAgenda g l).cursor = s.cursor := rfl
@[simp] theorem State.addAgenda_mem (s : State) (g : Nat) (l : List Timed) : (s.addAgenda g l).mem = s.mem := rfl
@[simp] theorem State.addAgenda_poison (s : State) (g : Nat) (l : List Timed) : (s.addAgenda g l).poison = s.poison := rfl
@[simp] theorem State.addAgenda_memLog (s : State) (g : Nat) (l : List Timed) : (s.addAgenda g l).memLog = s.memLog := rfl
@[simp] theorem State.addAgenda_used (s : State) (g : Nat) (l : List Timed) : (s.addAgenda g l).used = s.used := rfl
@[simp] theorem State.addAgenda_ticked (s : State) (g : Nat) (l : List Timed) : (s.addAgenda g l).ticked = s.ticked := rfl
@[simp] theorem State.addAgenda_infos (s : State) (g : Nat) (l : List Timed) : (s.addAgenda g l).infos = s.infos := rfl
@[simp] theorem State.addAgenda_pchs (s : State) (g : Nat) (l : List Timed) : (s.addAgenda g l).pchs = s.pchs := rfl
@[simp] theorem State.addAgenda_gongQ (s : State) (g : Nat) (l : List Timed) : (s.addAgenda g l).gongQ = s.gongQ := rfl
@[simp] theorem State.addAgenda_gongLog (s : State) (g : Nat) (l : List Timed) : (s.addAgenda g l).gongLog = s.gongLog := rfl
@[simp] theorem State.addAgenda_sched (s : State) (g : Nat) (l : List Timed) : (s.addAgenda g l).sched = s.sched := rfl
@[simp] theorem State.addAgenda_pins (s : State) (g : Nat) (l : List Timed) : (s.addAgenda g l).pins = s.pins := rfl
@[simp] theorem State.addAgenda_tlb (s : State) (g : Nat) (l : List Timed) : (s.addAgenda g l).tlb = s.tlb := rfl
@[simp] theorem State.addAgenda_cmu (s : State) (g : Nat) (l : List Timed) : (s.addAgenda g l).cmu = s.cmu := rfl
@[simp] theorem State.addAgenda_belfry (s : State) (g : Nat) (l : List Timed) : (s.addAgenda g l).belfry = s.belfry := rfl
@[simp] theorem State.addAgenda_codec (s : State) (g : Nat) (l : List Timed) : (s.addAgenda g l).codec = s.codec := rfl
@[simp] theorem State.addAgenda_host (s : State) (g : Nat) (l : List Timed) : (s.addAgenda g l).host = s.host := rfl
@[simp] theorem State.addAgenda_root (s : State) (g : Nat) (l : List Timed) : (s.addAgenda g l).root = s.root := rfl
@[simp] theorem State.addAgenda_err (s : State) (g : Nat) (l : List Timed) : (s.addAgenda g l).err = s.err := rfl
@[simp] theorem State.addAgenda_fresh (s : State) (g : Nat) (l : List Timed) : (s.addAgenda g l).fresh = s.fresh := rfl
@[simp] theorem State.addAgenda_reqSeq (s : State) (g : Nat) (l : List Timed) : (s.addAgenda g l).reqSeq = s.reqSeq := rfl
@[simp] theorem State.addAgenda_inbox (s : State) (g : Nat) (l : List Timed) : (s.addAgenda g l).inbox = s.inbox := rfl

@[simp] theorem State.addStash_tlc (s : State) (g : Nat) (l : List Stash) : (s.addStash g l).tlc = s.tlc := rfl
@[simp] theorem State.addStash_cursor (s : State) (g : Nat) (l : List Stash) : (s.addStash g l).cursor = s.cursor := rfl
@[simp] theorem State.addStash_mem (s : State) (g : Nat) (l : List Stash) : (s.addStash g l).mem = s.mem := rfl
@[simp] theorem State.addStash_poison (s : State) (g : Nat) (l : List Stash) : (s.addStash g l).poison = s.poison := rfl
@[simp] theorem State.addStash_memLog (s : State) (g : Nat) (l : List Stash) : (s.addStash g l).memLog = s.memLog := rfl
@[simp] theorem State.addStash_used (s : State) (g : Nat) (l : List Stash) : (s.addStash g l).used = s.used := rfl
@[simp] theorem State.addStash_ticked (s : State) (g : Nat) (l : List Stash) : (s.addStash g l).ticked = s.ticked := rfl
@[simp] theorem State.addStash_infos (s : State) (g : Nat) (l : List Stash) : (s.addStash g l).infos = s.infos := rfl
@[simp] theorem State.addStash_pchs (s : State) (g : Nat) (l : List Stash) : (s.addStash g l).pchs = s.pchs := rfl
@[simp] theorem State.addStash_gongQ (s : State) (g : Nat) (l : List Stash) : (s.addStash g l).gongQ = s.gongQ := rfl
@[simp] theorem State.addStash_gongLog (s : State) (g : Nat) (l : List Stash) : (s.addStash g l).gongLog = s.gongLog := rfl
@[simp] theorem State.addStash_sched (s : State) (g : Nat) (l : List Stash) : (s.addStash g l).sched = s.sched := rfl
@[simp] theorem State.addStash_pins (s : State) (g : Nat) (l : List Stash) : (s.addStash g l).pins = s.pins := rfl
@[simp] theorem State.addStash_tlb (s : State) (g : Nat) (l : List Stash) : (s.addStash g l).tlb = s.tlb := rfl
@[simp] theorem State.addStash_cmu (s : State) (g : Nat) (l : List Stash) : (s.addStash g l).cmu = s.cmu := rfl
@[simp] theorem State.addStash_belfry (s : State) (g : Nat) (l : List Stash) : (s.addStash g l).belfry = s.belfry := rfl
@[simp] theorem State.addStash_codec (s : State) (g : Nat) (l : List Stash) : (s.addStash g l).codec = s.codec := rfl
@[simp] theorem State.addStash_host (s : State) (g : Nat) (l : List Stash) : (s.addStash g l).host = s.host := rfl
@[simp] theorem State.addStash_root (s : State) (g : Nat) (l : List Stash) : (s.addStash g l).root = s.root := rfl
@[simp] theorem State.addStash_err (s : State) (g : Nat) (l : List Stash) : (s.addStash g l).err = s.err := rfl
@[simp] theorem State.addStash_fresh (s : State) (g : Nat) (l : List Stash) : (s.addStash g l).fresh = s.fresh := rfl
@[simp] theorem State.addStash_reqSeq (s : State) (g : Nat) (l : List Stash) : (s.addStash g l).reqSeq = s.reqSeq := rfl
@[simp] theorem State.addStash_inbox (s : State) (g : Nat) (l : List Stash) : (s.addStash g l).inbox = s.inbox := rfl

@[simp] theorem State.modReq_tlc (s : State) (n : Nat) (f : Req → Req) : (s.modReq n f).tlc = s.tlc := rfl
@[simp] theorem State.modReq_cursor (s : State) (n : Nat) (f : Req → Req) : (s.modReq n f).cursor = s.cursor := rfl
@[simp] theorem State.modReq_mem (s : State) (n : Nat) (f : Req → Req) : (s.modReq n f).mem = s.mem := rfl
@[simp] theorem State.modReq_poison (s : State) (n : Nat) (f : Req → Req) : (s.modReq n f).poison = s.poison := rfl
@[simp] theorem State.modReq_memLog (s : State) (n : Nat) (f : Req → Req) : (s.modReq n f).memLog = s.memLog := rfl
@[simp] theorem State.modReq_used (s : State) (n : Nat) (f : Req → Req) : (s.modReq n f).used = s.used := rfl
@[simp] theorem State.modReq_ticked (s : State) (n : Nat) (f : Req → Req) : (s.modReq n f).ticked = s.ticked := rfl
@[simp] theorem State.modReq_infos (s : State) (n : Nat) (f : Req → Req) : (s.modReq n f).infos = s.infos := rfl
@[simp] theorem State.modReq_pchs (s : State) (n : Nat) (f : Req → Req) : (s.modReq n f).pchs = s.pchs := rfl
@[simp] theorem State.modReq_gongQ (s : State) (n : Nat) (f : Req → Req) : (s.modReq n f).gongQ = s.gongQ := rfl
@[simp] theorem State.modReq_gongLog (s : State) (n : Nat) (f : Req → Req) : (s.modReq n f).gongLog = s.gongLog := rfl
@[simp] theorem State.modReq_sched (s : State) (n : Nat) (f : Req → Req) : (s.modReq n f).sched = s.sched := rfl
@[simp] theorem State.modReq_pins (s : State) (n : Nat) (f : Req → Req) : (s.modReq n f).pins = s.pins := rfl
@[simp] theorem State.modReq_tlb (s : State) (n : Nat) (f : Req → Req) : (s.modReq n f).tlb = s.tlb := rfl
@[simp] theorem State.modReq_cmu (s : State) (n : Nat) (f : Req → Req) : (s.modReq n f).cmu = s.cmu := rfl
@[simp] theorem State.modReq_belfry (s : State) (n : Nat) (f : Req → Req) : (s.modReq n f).belfry = s.belfry := rfl
@[simp] theorem State.modReq_codec (s : State) (n : Nat) (f : Req → Req) : (s.modReq n f).codec = s.codec := rfl
@[simp] theorem State.modReq_host (s : State) (n : Nat) (f : Req → Req) : (s.modReq n f).host = s.host := rfl
@[simp] theorem State.modReq_root (s : State) (n : Nat) (f : Req → Req) : (s.modReq n f).root = s.root := rfl
@[simp] theorem State.modReq_err (s : State) (n : Nat) (f : Req → Req) : (s.modReq n f).err = s.err := rfl
@[simp] theorem State.modReq_fresh (s : State) (n : Nat) (f : Req → Req) : (s.modReq n f).fresh = s.fresh := rfl
@[simp] theorem State.modReq_reqSeq (s : State) (n : Nat) (f : Req → Req) : (s.modReq n f).reqSeq = s.reqSeq := rfl
@[simp] theorem State.modReq_inbox (s : State) (n : Nat) (f : Req → Req) : (s.modReq n f).inbox = s.inbox := rfl

@[simp] theorem State.poolDrop_tlc (s : State) (n : Nat) : (s.poolDrop n).tlc = s.tlc := rfl
@[simp] theorem State.poolDrop_cursor (s : State) (n : Nat) : (s.poolDrop n).cursor = s.cursor := rfl
@[simp] theorem State.poolDrop_mem (s : State) (n : Nat) : (s.poolDrop n).mem = s.mem := rfl
@[simp] theorem State.poolDrop_poison (s : State) (n : Nat) : (s.poolDrop n).poison = s.poison := rfl
@[simp] theorem State.poolDrop_memLog (s : State) (n : Nat) : (s.poolDrop n).memLog = s.memLog := rfl
@[simp] theorem State.poolDrop_used (s : State) (n : Nat) : (s.poolDrop n).used = s.used := rfl
@[simp] theorem State.poolDrop_ticked (s : State) (n : Nat) : (s.poolDrop n).ticked = s.ticked := rfl
@[simp] theorem State.poolDrop_gangs (s : State) (n : Nat) : (s.poolDrop n).gangs = s.gangs := rfl
@[simp] theorem State.poolDrop_infos (s : State) (n : Nat) : (s.poolDrop n).infos = s.infos := rfl
@[simp] theorem State.poolDrop_gongQ (s : State) (n : Nat) : (s.poolDrop n).gongQ = s.gongQ := rfl
@[simp] theorem State.poolDrop_gongLog (s : State) (n : Nat) : (s.poolDrop n).gongLog = s.gongLog := rfl
@[simp] theorem State.poolDrop_sched (s : State) (n : Nat) : (s.poolDrop n).sched = s.sched := rfl
@[simp] theorem State.poolDrop_pins (s : State) (n : Nat) : (s.poolDrop n).pins = s.pins := rfl
@[simp] theorem State.poolDrop_tlb (s : State) (n : Nat) : (s.poolDrop n).tlb = s.tlb := rfl
@[simp] theorem State.poolDrop_cmu (s : State) (n : Nat) : (s.poolDrop n).cmu = s.cmu := rfl
@[simp] theorem State.poolDrop_belfry (s : State) (n : Nat) : (s.poolDrop n).belfry = s.belfry := rfl
@[simp] theorem State.poolDrop_codec (s : State) (n : Nat) : (s.poolDrop n).codec = s.codec := rfl
@[simp] theorem State.poolDrop_host (s : State) (n : Nat) : (s.poolDrop n).host = s.host := rfl
@[simp] theorem State.poolDrop_root (s : State) (n : Nat) : (s.poolDrop n).root = s.root := rfl
@[simp] theorem State.poolDrop_err (s : State) (n : Nat) : (s.poolDrop n).err = s.err := rfl
@[simp] theorem State.poolDrop_fresh (s : State) (n : Nat) : (s.poolDrop n).fresh = s.fresh := rfl
@[simp] theorem State.poolDrop_reqSeq (s : State) (n : Nat) : (s.poolDrop n).reqSeq = s.reqSeq := rfl
@[simp] theorem State.poolDrop_inbox (s : State) (n : Nat) : (s.poolDrop n).inbox = s.inbox := rfl

@[simp] theorem State.setQueue_tlc (s : State) (q : Nat) (v : Queue) : (s.setQueue q v).tlc = s.tlc := rfl
@[simp] theorem State.setQueue_cursor (s : State) (q : Nat) (v : Queue) : (s.setQueue q v).cursor = s.cursor := rfl
@[simp] theorem State.setQueue_mem (s : State) (q : Nat) (v : Queue) : (s.setQueue q v).mem = s.mem := rfl
@[simp] theorem State.setQueue_poison (s : State) (q : Nat) (v : Queue) : (s.setQueue q v).poison = s.poison := rfl
@[simp] theorem State.setQueue_memLog (s : State) (q : Nat) (v : Queue) : (s.setQueue q v).memLog = s.memLog := rfl
@[simp] theorem State.setQueue_used (s : State) (q : Nat) (v : Queue) : (s.setQueue q v).used = s.used := rfl
@[simp] theorem State.setQueue_ticked (s : State) (q : Nat) (v : Queue) : (s.setQueue q v).ticked = s.ticked := rfl
@[simp] theorem State.setQueue_gangs (s : State) (q : Nat) (v : Queue) : (s.setQueue q v).gangs = s.gangs := rfl
@[simp] theorem State.setQueue_infos (s : State) (q : Nat) (v : Queue) : (s.setQueue q v).infos = s.infos := rfl
@[simp] theorem State.setQueue_pchs (s : State) (q : Nat) (v : Queue) : (s.setQueue q v).pchs = s.pchs := rfl
@[simp] theorem State.setQueue_gongQ (s : State) (q : Nat) (v : Queue) : (s.setQueue q v).gongQ = s.gongQ := rfl
@[simp] theorem State.setQueue_gongLog (s : State) (q : Nat) (v : Queue) : (s.setQueue q v).gongLog = s.gongLog := rfl
@[simp] theorem State.setQueue_pins (s : State) (q : Nat) (v : Queue) : (s.setQueue q v).pins = s.pins := rfl
@[simp] theorem State.setQueue_tlb (s : State) (q : Nat) (v : Queue) : (s.setQueue q v).tlb = s.tlb := rfl
@[simp] theorem State.setQueue_cmu (s : State) (q : Nat) (v : Queue) : (s.setQueue q v).cmu = s.cmu := rfl
@[simp] theorem State.setQueue_belfry (s : State) (q : Nat) (v : Queue) : (s.setQueue q v).belfry = s.belfry := rfl
@[simp] theorem State.setQueue_codec (s : State) (q : Nat) (v : Queue) : (s.setQueue q v).codec = s.codec := rfl
@[simp] theorem State.setQueue_host (s : State) (q : Nat) (v : Queue) : (s.setQueue q v).host = s.host := rfl
@[simp] theorem State.setQueue_root (s : State) (q : Nat) (v : Queue) : (s.setQueue q v).root = s.root := rfl
@[simp] theorem State.setQueue_err (s : State) (q : Nat) (v : Queue) : (s.setQueue q v).err = s.err := rfl
@[simp] theorem State.setQueue_fresh (s : State) (q : Nat) (v : Queue) : (s.setQueue q v).fresh = s.fresh := rfl
@[simp] theorem State.setQueue_reqSeq (s : State) (q : Nat) (v : Queue) : (s.setQueue q v).reqSeq = s.reqSeq := rfl
@[simp] theorem State.setQueue_inbox (s : State) (q : Nat) (v : Queue) : (s.setQueue q v).inbox = s.inbox := rfl

@[simp] theorem State.modJob_tlc (s : State) (n : Nat) (f : Job → Job) : (s.modJob n f).tlc = s.tlc := rfl
@[simp] theorem State.modJob_cursor (s : State) (n : Nat) (f : Job → Job) : (s.modJob n f).cursor = s.cursor := rfl
@[simp] theorem State.modJob_mem (s : State) (n : Nat) (f : Job → Job) : (s.modJob n f).mem = s.mem := rfl
@[simp] theorem State.modJob_poison (s : State) (n : Nat) (f : Job → Job) : (s.modJob n f).poison = s.poison := rfl
@[simp] theorem State.modJob_memLog (s : State) (n : Nat) (f : Job → Job) : (s.modJob n f).memLog = s.memLog := rfl
@[simp] theorem State.modJob_used (s : State) (n : Nat) (f : Job → Job) : (s.modJob n f).used = s.used := rfl
@[simp] theorem State.modJob_ticked (s : State) (n : Nat) (f : Job → Job) : (s.modJob n f).ticked = s.ticked := rfl
@[simp] theorem State.modJob_gangs (s : State) (n : Nat) (f : Job → Job) : (s.modJob n f).gangs = s.gangs := rfl
@[simp] theorem State.modJob_infos (s : State) (n : Nat) (f : Job → Job) : (s.modJob n f).infos = s.infos := rfl
@[simp] theorem State.modJob_pchs (s : State) (n : Nat) (f : Job → Job) : (s.modJob n f).pchs = s.pchs := rfl
@[simp] theorem State.modJob_gongQ (s : State) (n : Nat) (f : Job → Job) : (s.modJob n f).gongQ = s.gongQ := rfl
@[simp] theorem State.modJob_gongLog (s : State) (n : Nat) (f : Job → Job) : (s.modJob n f).gongLog = s.gongLog := rfl
@[simp] theorem State.modJob_pins (s : State) (n : Nat) (f : Job → Job) : (s.modJob n f).pins = s.pins := rfl
@[simp] theorem State.modJob_tlb (s : State) (n : Nat) (f : Job → Job) : (s.modJob n f).tlb = s.tlb := rfl
@[simp] theorem State.modJob_cmu (s : State) (n : Nat) (f : Job → Job) : (s.modJob n f).cmu = s.cmu := rfl
@[simp] theorem State.modJob_belfry (s : State) (n : Nat) (f : Job → Job) : (s.modJob n f).belfry = s.belfry := rfl
@[simp] theorem State.modJob_codec (s : State) (n : Nat) (f : Job → Job) : (s.modJob n f).codec = s.codec := rfl
@[simp] theorem State.modJob_host (s : State) (n : Nat) (f : Job → Job) : (s.modJob n f).host = s.host := rfl
@[simp] theorem State.modJob_root (s : State) (n : Nat) (f : Job → Job) : (s.modJob n f).root = s.root := rfl
@[simp] theorem State.modJob_err (s : State) (n : Nat) (f : Job → Job) : (s.modJob n f).err = s.err := rfl
@[simp] theorem State.modJob_fresh (s : State) (n : Nat) (f : Job → Job) : (s.modJob n f).fresh = s.fresh := rfl
@[simp] theorem State.modJob_reqSeq (s : State) (n : Nat) (f : Job → Job) : (s.modJob n f).reqSeq = s.reqSeq := rfl
@[simp] theorem State.modJob_inbox (s : State) (n : Nat) (f : Job → Job) : (s.modJob n f).inbox = s.inbox := rfl

@[simp] theorem State.toWaiter_tlc (s : State) (q : Nat) (st : QStep) (on : WaitOn) : (s.toWaiter q st on).tlc = s.tlc := rfl
@[simp] theorem State.toWaiter_cursor (s : State) (q : Nat) (st : QStep) (on : WaitOn) : (s.toWaiter q st on).cursor = s.cursor := rfl
@[simp] theorem State.toWaiter_mem (s : State) (q : Nat) (st : QStep) (on : WaitOn) : (s.toWaiter q st on).mem = s.mem := rfl
@[simp] theorem State.toWaiter_poison (s : State) (q : Nat) (st : QStep) (on : WaitOn) : (s.toWaiter q st on).poison = s.poison := rfl
@[simp] theorem State.toWaiter_memLog (s : State) (q : Nat) (st : QStep) (on : WaitOn) : (s.toWaiter q st on).memLog = s.memLog := rfl
@[simp] theorem State.toWaiter_used (s : State) (q : Nat) (st : QStep) (on : WaitOn) : (s.toWaiter q st on).used = s.used := rfl
@[simp] theorem State.toWaiter_ticked (s : State) (q : Nat) (st : QStep) (on : WaitOn) : (s.toWaiter q st on).ticked = s.ticked := rfl
@[simp] theorem State.toWaiter_gangs (s : State) (q : Nat) (st : QStep) (on : WaitOn) : (s.toWaiter q st on).gangs = s.gangs := rfl
@[simp] theorem State.toWaiter_infos (s : State) (q : Nat) (st : QStep) (on : WaitOn) : (s.toWaiter q st on).infos = s.infos := rfl
@[simp] theorem State.toWaiter_pchs (s : State) (q : Nat) (st : QStep) (on : WaitOn) : (s.toWaiter q st on).pchs = s.pchs := rfl
@[simp] theorem State.toWaiter_gongQ (s : State) (q : Nat) (st : QStep) (on : WaitOn) : (s.toWaiter q st on).gongQ = s.gongQ := rfl
@[simp] theorem State.toWaiter_gongLog (s : State) (q : Nat) (st : QStep) (on : WaitOn) : (s.toWaiter q st on).gongLog = s.gongLog := rfl
@[simp] theorem State.toWaiter_pins (s : State) (q : Nat) (st : QStep) (on : WaitOn) : (s.toWaiter q st on).pins = s.pins := rfl
@[simp] theorem State.toWaiter_tlb (s : State) (q : Nat) (st : QStep) (on : WaitOn) : (s.toWaiter q st on).tlb = s.tlb := rfl
@[simp] theorem State.toWaiter_cmu (s : State) (q : Nat) (st : QStep) (on : WaitOn) : (s.toWaiter q st on).cmu = s.cmu := rfl
@[simp] theorem State.toWaiter_belfry (s : State) (q : Nat) (st : QStep) (on : WaitOn) : (s.toWaiter q st on).belfry = s.belfry := rfl
@[simp] theorem State.toWaiter_codec (s : State) (q : Nat) (st : QStep) (on : WaitOn) : (s.toWaiter q st on).codec = s.codec := rfl
@[simp] theorem State.toWaiter_host (s : State) (q : Nat) (st : QStep) (on : WaitOn) : (s.toWaiter q st on).host = s.host := rfl
@[simp] theorem State.toWaiter_root (s : State) (q : Nat) (st : QStep) (on : WaitOn) : (s.toWaiter q st on).root = s.root := rfl
@[simp] theorem State.toWaiter_err (s : State) (q : Nat) (st : QStep) (on : WaitOn) : (s.toWaiter q st on).err = s.err := rfl
@[simp] theorem State.toWaiter_fresh (s : State) (q : Nat) (st : QStep) (on : WaitOn) : (s.toWaiter q st on).fresh = s.fresh := rfl
@[simp] theorem State.toWaiter_reqSeq (s : State) (q : Nat) (st : QStep) (on : WaitOn) : (s.toWaiter q st on).reqSeq = s.reqSeq := rfl
@[simp] theorem State.toWaiter_inbox (s : State) (q : Nat) (st : QStep) (on : WaitOn) : (s.toWaiter q st on).inbox = s.inbox := rfl

@[simp] theorem State.wake_tlc (s : State) (f : WaitOn → Bool) : (s.wake f).tlc = s.tlc := rfl
@[simp] theorem State.wake_cursor (s : State) (f : WaitOn → Bool) : (s.wake f).cursor = s.cursor := rfl
@[simp] theorem State.wake_mem (s : State) (f : WaitOn → Bool) : (s.wake f).mem = s.mem := rfl
@[simp] theorem State.wake_poison (s : State) (f : WaitOn → Bool) : (s.wake f).poison = s.poison := rfl
@[simp] theorem State.wake_memLog (s : State) (f : WaitOn → Bool) : (s.wake f).memLog = s.memLog := rfl
@[simp] theorem State.wake_used (s : State) (f : WaitOn → Bool) : (s.wake f).used = s.used := rfl
@[simp] theorem State.wake_ticked (s : State) (f : WaitOn → Bool) : (s.wake f).ticked = s.ticked := rfl
@[simp] theorem State.wake_gangs (s : State) (f : WaitOn → Bool) : (s.wake f).gangs = s.gangs := rfl
@[simp] theorem State.wake_infos (s : State) (f : WaitOn → Bool) : (s.wake f).infos = s.infos := rfl
@[simp] theorem State.wake_pchs (s : State) (f : WaitOn → Bool) : (s.wake f).pchs = s.pchs := rfl
@[simp] theorem State.wake_gongQ (s : State) (f : WaitOn → Bool) : (s.wake f).gongQ = s.gongQ := rfl
@[simp] theorem State.wake_gongLog (s : State) (f : WaitOn → Bool) : (s.wake f).gongLog = s.gongLog := rfl
@[simp] theorem State.wake_pins (s : State) (f : WaitOn → Bool) : (s.wake f).pins = s.pins := rfl
@[simp] theorem State.wake_tlb (s : State) (f : WaitOn → Bool) : (s.wake f).tlb = s.tlb := rfl
@[simp] theorem State.wake_cmu (s : State) (f : WaitOn → Bool) : (s.wake f).cmu = s.cmu := rfl
@[simp] theorem State.wake_belfry (s : State) (f : WaitOn → Bool) : (s.wake f).belfry = s.belfry := rfl
@[simp] theorem State.wake_codec (s : State) (f : WaitOn → Bool) : (s.wake f).codec = s.codec := rfl
@[simp] theorem State.wake_host (s : State) (f : WaitOn → Bool) : (s.wake f).host = s.host := rfl
@[simp] theorem State.wake_root (s : State) (f : WaitOn → Bool) : (s.wake f).root = s.root := rfl
@[simp] theorem State.wake_err (s : State) (f : WaitOn → Bool) : (s.wake f).err = s.err := rfl
@[simp] theorem State.wake_fresh (s : State) (f : WaitOn → Bool) : (s.wake f).fresh = s.fresh := rfl
@[simp] theorem State.wake_reqSeq (s : State) (f : WaitOn → Bool) : (s.wake f).reqSeq = s.reqSeq := rfl
@[simp] theorem State.wake_inbox (s : State) (f : WaitOn → Bool) : (s.wake f).inbox = s.inbox := rfl

@[simp] theorem State.complEvent_tlc (s : State) (c r w : Nat) (h : BitVec 64) : (s.complEvent c r w h).tlc = s.tlc := rfl
@[simp] theorem State.complEvent_cursor (s : State) (c r w : Nat) (h : BitVec 64) : (s.complEvent c r w h).cursor = s.cursor := rfl
@[simp] theorem State.complEvent_mem (s : State) (c r w : Nat) (h : BitVec 64) : (s.complEvent c r w h).mem = s.mem := rfl
@[simp] theorem State.complEvent_poison (s : State) (c r w : Nat) (h : BitVec 64) : (s.complEvent c r w h).poison = s.poison := rfl
@[simp] theorem State.complEvent_memLog (s : State) (c r w : Nat) (h : BitVec 64) : (s.complEvent c r w h).memLog = s.memLog := rfl
@[simp] theorem State.complEvent_used (s : State) (c r w : Nat) (h : BitVec 64) : (s.complEvent c r w h).used = s.used := rfl
@[simp] theorem State.complEvent_ticked (s : State) (c r w : Nat) (h : BitVec 64) : (s.complEvent c r w h).ticked = s.ticked := rfl
@[simp] theorem State.complEvent_gangs (s : State) (c r w : Nat) (h : BitVec 64) : (s.complEvent c r w h).gangs = s.gangs := rfl
@[simp] theorem State.complEvent_infos (s : State) (c r w : Nat) (h : BitVec 64) : (s.complEvent c r w h).infos = s.infos := rfl
@[simp] theorem State.complEvent_pchs (s : State) (c r w : Nat) (h : BitVec 64) : (s.complEvent c r w h).pchs = s.pchs := rfl
@[simp] theorem State.complEvent_gongQ (s : State) (c r w : Nat) (h : BitVec 64) : (s.complEvent c r w h).gongQ = s.gongQ := rfl
@[simp] theorem State.complEvent_gongLog (s : State) (c r w : Nat) (h : BitVec 64) : (s.complEvent c r w h).gongLog = s.gongLog := rfl
@[simp] theorem State.complEvent_pins (s : State) (c r w : Nat) (h : BitVec 64) : (s.complEvent c r w h).pins = s.pins := rfl
@[simp] theorem State.complEvent_tlb (s : State) (c r w : Nat) (h : BitVec 64) : (s.complEvent c r w h).tlb = s.tlb := rfl
@[simp] theorem State.complEvent_cmu (s : State) (c r w : Nat) (h : BitVec 64) : (s.complEvent c r w h).cmu = s.cmu := rfl
@[simp] theorem State.complEvent_belfry (s : State) (c r w : Nat) (h : BitVec 64) : (s.complEvent c r w h).belfry = s.belfry := rfl
@[simp] theorem State.complEvent_codec (s : State) (c r w : Nat) (h : BitVec 64) : (s.complEvent c r w h).codec = s.codec := rfl
@[simp] theorem State.complEvent_host (s : State) (c r w : Nat) (h : BitVec 64) : (s.complEvent c r w h).host = s.host := rfl
@[simp] theorem State.complEvent_root (s : State) (c r w : Nat) (h : BitVec 64) : (s.complEvent c r w h).root = s.root := rfl
@[simp] theorem State.complEvent_err (s : State) (c r w : Nat) (h : BitVec 64) : (s.complEvent c r w h).err = s.err := rfl
@[simp] theorem State.complEvent_fresh (s : State) (c r w : Nat) (h : BitVec 64) : (s.complEvent c r w h).fresh = s.fresh := rfl
@[simp] theorem State.complEvent_reqSeq (s : State) (c r w : Nat) (h : BitVec 64) : (s.complEvent c r w h).reqSeq = s.reqSeq := rfl
@[simp] theorem State.complEvent_inbox (s : State) (c r w : Nat) (h : BitVec 64) : (s.complEvent c r w h).inbox = s.inbox := rfl

@[simp] theorem State.setCmu_tlc (s : State) (n : Nat) (v : CmuSlot) : (s.setCmu n v).tlc = s.tlc := rfl
@[simp] theorem State.setCmu_cursor (s : State) (n : Nat) (v : CmuSlot) : (s.setCmu n v).cursor = s.cursor := rfl
@[simp] theorem State.setCmu_mem (s : State) (n : Nat) (v : CmuSlot) : (s.setCmu n v).mem = s.mem := rfl
@[simp] theorem State.setCmu_poison (s : State) (n : Nat) (v : CmuSlot) : (s.setCmu n v).poison = s.poison := rfl
@[simp] theorem State.setCmu_memLog (s : State) (n : Nat) (v : CmuSlot) : (s.setCmu n v).memLog = s.memLog := rfl
@[simp] theorem State.setCmu_used (s : State) (n : Nat) (v : CmuSlot) : (s.setCmu n v).used = s.used := rfl
@[simp] theorem State.setCmu_ticked (s : State) (n : Nat) (v : CmuSlot) : (s.setCmu n v).ticked = s.ticked := rfl
@[simp] theorem State.setCmu_gangs (s : State) (n : Nat) (v : CmuSlot) : (s.setCmu n v).gangs = s.gangs := rfl
@[simp] theorem State.setCmu_infos (s : State) (n : Nat) (v : CmuSlot) : (s.setCmu n v).infos = s.infos := rfl
@[simp] theorem State.setCmu_pchs (s : State) (n : Nat) (v : CmuSlot) : (s.setCmu n v).pchs = s.pchs := rfl
@[simp] theorem State.setCmu_gongQ (s : State) (n : Nat) (v : CmuSlot) : (s.setCmu n v).gongQ = s.gongQ := rfl
@[simp] theorem State.setCmu_gongLog (s : State) (n : Nat) (v : CmuSlot) : (s.setCmu n v).gongLog = s.gongLog := rfl
@[simp] theorem State.setCmu_sched (s : State) (n : Nat) (v : CmuSlot) : (s.setCmu n v).sched = s.sched := rfl
@[simp] theorem State.setCmu_pins (s : State) (n : Nat) (v : CmuSlot) : (s.setCmu n v).pins = s.pins := rfl
@[simp] theorem State.setCmu_tlb (s : State) (n : Nat) (v : CmuSlot) : (s.setCmu n v).tlb = s.tlb := rfl
@[simp] theorem State.setCmu_belfry (s : State) (n : Nat) (v : CmuSlot) : (s.setCmu n v).belfry = s.belfry := rfl
@[simp] theorem State.setCmu_codec (s : State) (n : Nat) (v : CmuSlot) : (s.setCmu n v).codec = s.codec := rfl
@[simp] theorem State.setCmu_host (s : State) (n : Nat) (v : CmuSlot) : (s.setCmu n v).host = s.host := rfl
@[simp] theorem State.setCmu_root (s : State) (n : Nat) (v : CmuSlot) : (s.setCmu n v).root = s.root := rfl
@[simp] theorem State.setCmu_err (s : State) (n : Nat) (v : CmuSlot) : (s.setCmu n v).err = s.err := rfl
@[simp] theorem State.setCmu_fresh (s : State) (n : Nat) (v : CmuSlot) : (s.setCmu n v).fresh = s.fresh := rfl
@[simp] theorem State.setCmu_reqSeq (s : State) (n : Nat) (v : CmuSlot) : (s.setCmu n v).reqSeq = s.reqSeq := rfl
@[simp] theorem State.setCmu_inbox (s : State) (n : Nat) (v : CmuSlot) : (s.setCmu n v).inbox = s.inbox := rfl

@[simp] theorem State.modNode_tlc (s : State) (n : Nat) (f : Node → Node) : (s.modNode n f).tlc = s.tlc := rfl
@[simp] theorem State.modNode_cursor (s : State) (n : Nat) (f : Node → Node) : (s.modNode n f).cursor = s.cursor := rfl
@[simp] theorem State.modNode_mem (s : State) (n : Nat) (f : Node → Node) : (s.modNode n f).mem = s.mem := rfl
@[simp] theorem State.modNode_poison (s : State) (n : Nat) (f : Node → Node) : (s.modNode n f).poison = s.poison := rfl
@[simp] theorem State.modNode_memLog (s : State) (n : Nat) (f : Node → Node) : (s.modNode n f).memLog = s.memLog := rfl
@[simp] theorem State.modNode_used (s : State) (n : Nat) (f : Node → Node) : (s.modNode n f).used = s.used := rfl
@[simp] theorem State.modNode_ticked (s : State) (n : Nat) (f : Node → Node) : (s.modNode n f).ticked = s.ticked := rfl
@[simp] theorem State.modNode_gangs (s : State) (n : Nat) (f : Node → Node) : (s.modNode n f).gangs = s.gangs := rfl
@[simp] theorem State.modNode_infos (s : State) (n : Nat) (f : Node → Node) : (s.modNode n f).infos = s.infos := rfl
@[simp] theorem State.modNode_pchs (s : State) (n : Nat) (f : Node → Node) : (s.modNode n f).pchs = s.pchs := rfl
@[simp] theorem State.modNode_gongQ (s : State) (n : Nat) (f : Node → Node) : (s.modNode n f).gongQ = s.gongQ := rfl
@[simp] theorem State.modNode_gongLog (s : State) (n : Nat) (f : Node → Node) : (s.modNode n f).gongLog = s.gongLog := rfl
@[simp] theorem State.modNode_sched (s : State) (n : Nat) (f : Node → Node) : (s.modNode n f).sched = s.sched := rfl
@[simp] theorem State.modNode_pins (s : State) (n : Nat) (f : Node → Node) : (s.modNode n f).pins = s.pins := rfl
@[simp] theorem State.modNode_tlb (s : State) (n : Nat) (f : Node → Node) : (s.modNode n f).tlb = s.tlb := rfl
@[simp] theorem State.modNode_cmu (s : State) (n : Nat) (f : Node → Node) : (s.modNode n f).cmu = s.cmu := rfl
@[simp] theorem State.modNode_codec (s : State) (n : Nat) (f : Node → Node) : (s.modNode n f).codec = s.codec := rfl
@[simp] theorem State.modNode_host (s : State) (n : Nat) (f : Node → Node) : (s.modNode n f).host = s.host := rfl
@[simp] theorem State.modNode_root (s : State) (n : Nat) (f : Node → Node) : (s.modNode n f).root = s.root := rfl
@[simp] theorem State.modNode_err (s : State) (n : Nat) (f : Node → Node) : (s.modNode n f).err = s.err := rfl
@[simp] theorem State.modNode_fresh (s : State) (n : Nat) (f : Node → Node) : (s.modNode n f).fresh = s.fresh := rfl
@[simp] theorem State.modNode_reqSeq (s : State) (n : Nat) (f : Node → Node) : (s.modNode n f).reqSeq = s.reqSeq := rfl
@[simp] theorem State.modNode_inbox (s : State) (n : Nat) (f : Node → Node) : (s.modNode n f).inbox = s.inbox := rfl

@[simp] theorem State.modStream_tlc (s : State) (n : Nat) (f : CodecStream → CodecStream) : (s.modStream n f).tlc = s.tlc := rfl
@[simp] theorem State.modStream_cursor (s : State) (n : Nat) (f : CodecStream → CodecStream) : (s.modStream n f).cursor = s.cursor := rfl
@[simp] theorem State.modStream_mem (s : State) (n : Nat) (f : CodecStream → CodecStream) : (s.modStream n f).mem = s.mem := rfl
@[simp] theorem State.modStream_poison (s : State) (n : Nat) (f : CodecStream → CodecStream) : (s.modStream n f).poison = s.poison := rfl
@[simp] theorem State.modStream_memLog (s : State) (n : Nat) (f : CodecStream → CodecStream) : (s.modStream n f).memLog = s.memLog := rfl
@[simp] theorem State.modStream_used (s : State) (n : Nat) (f : CodecStream → CodecStream) : (s.modStream n f).used = s.used := rfl
@[simp] theorem State.modStream_ticked (s : State) (n : Nat) (f : CodecStream → CodecStream) : (s.modStream n f).ticked = s.ticked := rfl
@[simp] theorem State.modStream_gangs (s : State) (n : Nat) (f : CodecStream → CodecStream) : (s.modStream n f).gangs = s.gangs := rfl
@[simp] theorem State.modStream_infos (s : State) (n : Nat) (f : CodecStream → CodecStream) : (s.modStream n f).infos = s.infos := rfl
@[simp] theorem State.modStream_pchs (s : State) (n : Nat) (f : CodecStream → CodecStream) : (s.modStream n f).pchs = s.pchs := rfl
@[simp] theorem State.modStream_gongQ (s : State) (n : Nat) (f : CodecStream → CodecStream) : (s.modStream n f).gongQ = s.gongQ := rfl
@[simp] theorem State.modStream_gongLog (s : State) (n : Nat) (f : CodecStream → CodecStream) : (s.modStream n f).gongLog = s.gongLog := rfl
@[simp] theorem State.modStream_sched (s : State) (n : Nat) (f : CodecStream → CodecStream) : (s.modStream n f).sched = s.sched := rfl
@[simp] theorem State.modStream_pins (s : State) (n : Nat) (f : CodecStream → CodecStream) : (s.modStream n f).pins = s.pins := rfl
@[simp] theorem State.modStream_tlb (s : State) (n : Nat) (f : CodecStream → CodecStream) : (s.modStream n f).tlb = s.tlb := rfl
@[simp] theorem State.modStream_cmu (s : State) (n : Nat) (f : CodecStream → CodecStream) : (s.modStream n f).cmu = s.cmu := rfl
@[simp] theorem State.modStream_belfry (s : State) (n : Nat) (f : CodecStream → CodecStream) : (s.modStream n f).belfry = s.belfry := rfl
@[simp] theorem State.modStream_host (s : State) (n : Nat) (f : CodecStream → CodecStream) : (s.modStream n f).host = s.host := rfl
@[simp] theorem State.modStream_root (s : State) (n : Nat) (f : CodecStream → CodecStream) : (s.modStream n f).root = s.root := rfl
@[simp] theorem State.modStream_err (s : State) (n : Nat) (f : CodecStream → CodecStream) : (s.modStream n f).err = s.err := rfl
@[simp] theorem State.modStream_fresh (s : State) (n : Nat) (f : CodecStream → CodecStream) : (s.modStream n f).fresh = s.fresh := rfl
@[simp] theorem State.modStream_reqSeq (s : State) (n : Nat) (f : CodecStream → CodecStream) : (s.modStream n f).reqSeq = s.reqSeq := rfl
@[simp] theorem State.modStream_inbox (s : State) (n : Nat) (f : CodecStream → CodecStream) : (s.modStream n f).inbox = s.inbox := rfl

@[simp] theorem State.modRing_tlc (s : State) (g : Nat) (f : Ring → Ring) : (s.modRing g f).tlc = s.tlc := rfl
@[simp] theorem State.modRing_cursor (s : State) (g : Nat) (f : Ring → Ring) : (s.modRing g f).cursor = s.cursor := rfl
@[simp] theorem State.modRing_mem (s : State) (g : Nat) (f : Ring → Ring) : (s.modRing g f).mem = s.mem := rfl
@[simp] theorem State.modRing_poison (s : State) (g : Nat) (f : Ring → Ring) : (s.modRing g f).poison = s.poison := rfl
@[simp] theorem State.modRing_memLog (s : State) (g : Nat) (f : Ring → Ring) : (s.modRing g f).memLog = s.memLog := rfl
@[simp] theorem State.modRing_used (s : State) (g : Nat) (f : Ring → Ring) : (s.modRing g f).used = s.used := rfl
@[simp] theorem State.modRing_ticked (s : State) (g : Nat) (f : Ring → Ring) : (s.modRing g f).ticked = s.ticked := rfl
@[simp] theorem State.modRing_gangs (s : State) (g : Nat) (f : Ring → Ring) : (s.modRing g f).gangs = s.gangs := rfl
@[simp] theorem State.modRing_infos (s : State) (g : Nat) (f : Ring → Ring) : (s.modRing g f).infos = s.infos := rfl
@[simp] theorem State.modRing_pchs (s : State) (g : Nat) (f : Ring → Ring) : (s.modRing g f).pchs = s.pchs := rfl
@[simp] theorem State.modRing_gongQ (s : State) (g : Nat) (f : Ring → Ring) : (s.modRing g f).gongQ = s.gongQ := rfl
@[simp] theorem State.modRing_gongLog (s : State) (g : Nat) (f : Ring → Ring) : (s.modRing g f).gongLog = s.gongLog := rfl
@[simp] theorem State.modRing_sched (s : State) (g : Nat) (f : Ring → Ring) : (s.modRing g f).sched = s.sched := rfl
@[simp] theorem State.modRing_pins (s : State) (g : Nat) (f : Ring → Ring) : (s.modRing g f).pins = s.pins := rfl
@[simp] theorem State.modRing_tlb (s : State) (g : Nat) (f : Ring → Ring) : (s.modRing g f).tlb = s.tlb := rfl
@[simp] theorem State.modRing_cmu (s : State) (g : Nat) (f : Ring → Ring) : (s.modRing g f).cmu = s.cmu := rfl
@[simp] theorem State.modRing_belfry (s : State) (g : Nat) (f : Ring → Ring) : (s.modRing g f).belfry = s.belfry := rfl
@[simp] theorem State.modRing_codec (s : State) (g : Nat) (f : Ring → Ring) : (s.modRing g f).codec = s.codec := rfl
@[simp] theorem State.modRing_root (s : State) (g : Nat) (f : Ring → Ring) : (s.modRing g f).root = s.root := rfl
@[simp] theorem State.modRing_err (s : State) (g : Nat) (f : Ring → Ring) : (s.modRing g f).err = s.err := rfl
@[simp] theorem State.modRing_fresh (s : State) (g : Nat) (f : Ring → Ring) : (s.modRing g f).fresh = s.fresh := rfl
@[simp] theorem State.modRing_reqSeq (s : State) (g : Nat) (f : Ring → Ring) : (s.modRing g f).reqSeq = s.reqSeq := rfl
@[simp] theorem State.modRing_inbox (s : State) (g : Nat) (f : Ring → Ring) : (s.modRing g f).inbox = s.inbox := rfl

@[simp] theorem State.sendHost_tlc (s : State) (o : HostOut) : (s.sendHost o).tlc = s.tlc := rfl
@[simp] theorem State.sendHost_cursor (s : State) (o : HostOut) : (s.sendHost o).cursor = s.cursor := rfl
@[simp] theorem State.sendHost_mem (s : State) (o : HostOut) : (s.sendHost o).mem = s.mem := rfl
@[simp] theorem State.sendHost_poison (s : State) (o : HostOut) : (s.sendHost o).poison = s.poison := rfl
@[simp] theorem State.sendHost_memLog (s : State) (o : HostOut) : (s.sendHost o).memLog = s.memLog := rfl
@[simp] theorem State.sendHost_used (s : State) (o : HostOut) : (s.sendHost o).used = s.used := rfl
@[simp] theorem State.sendHost_ticked (s : State) (o : HostOut) : (s.sendHost o).ticked = s.ticked := rfl
@[simp] theorem State.sendHost_gangs (s : State) (o : HostOut) : (s.sendHost o).gangs = s.gangs := rfl
@[simp] theorem State.sendHost_infos (s : State) (o : HostOut) : (s.sendHost o).infos = s.infos := rfl
@[simp] theorem State.sendHost_pchs (s : State) (o : HostOut) : (s.sendHost o).pchs = s.pchs := rfl
@[simp] theorem State.sendHost_gongQ (s : State) (o : HostOut) : (s.sendHost o).gongQ = s.gongQ := rfl
@[simp] theorem State.sendHost_gongLog (s : State) (o : HostOut) : (s.sendHost o).gongLog = s.gongLog := rfl
@[simp] theorem State.sendHost_sched (s : State) (o : HostOut) : (s.sendHost o).sched = s.sched := rfl
@[simp] theorem State.sendHost_pins (s : State) (o : HostOut) : (s.sendHost o).pins = s.pins := rfl
@[simp] theorem State.sendHost_tlb (s : State) (o : HostOut) : (s.sendHost o).tlb = s.tlb := rfl
@[simp] theorem State.sendHost_cmu (s : State) (o : HostOut) : (s.sendHost o).cmu = s.cmu := rfl
@[simp] theorem State.sendHost_belfry (s : State) (o : HostOut) : (s.sendHost o).belfry = s.belfry := rfl
@[simp] theorem State.sendHost_codec (s : State) (o : HostOut) : (s.sendHost o).codec = s.codec := rfl
@[simp] theorem State.sendHost_root (s : State) (o : HostOut) : (s.sendHost o).root = s.root := rfl
@[simp] theorem State.sendHost_err (s : State) (o : HostOut) : (s.sendHost o).err = s.err := rfl
@[simp] theorem State.sendHost_fresh (s : State) (o : HostOut) : (s.sendHost o).fresh = s.fresh := rfl
@[simp] theorem State.sendHost_reqSeq (s : State) (o : HostOut) : (s.sendHost o).reqSeq = s.reqSeq := rfl
@[simp] theorem State.sendHost_inbox (s : State) (o : HostOut) : (s.sendHost o).inbox = s.inbox := rfl

@[simp] theorem State.modRoot_tlc (s : State) (f : RootCtl → RootCtl) : (s.modRoot f).tlc = s.tlc := rfl
@[simp] theorem State.modRoot_cursor (s : State) (f : RootCtl → RootCtl) : (s.modRoot f).cursor = s.cursor := rfl
@[simp] theorem State.modRoot_mem (s : State) (f : RootCtl → RootCtl) : (s.modRoot f).mem = s.mem := rfl
@[simp] theorem State.modRoot_poison (s : State) (f : RootCtl → RootCtl) : (s.modRoot f).poison = s.poison := rfl
@[simp] theorem State.modRoot_memLog (s : State) (f : RootCtl → RootCtl) : (s.modRoot f).memLog = s.memLog := rfl
@[simp] theorem State.modRoot_used (s : State) (f : RootCtl → RootCtl) : (s.modRoot f).used = s.used := rfl
@[simp] theorem State.modRoot_ticked (s : State) (f : RootCtl → RootCtl) : (s.modRoot f).ticked = s.ticked := rfl
@[simp] theorem State.modRoot_gangs (s : State) (f : RootCtl → RootCtl) : (s.modRoot f).gangs = s.gangs := rfl
@[simp] theorem State.modRoot_infos (s : State) (f : RootCtl → RootCtl) : (s.modRoot f).infos = s.infos := rfl
@[simp] theorem State.modRoot_pchs (s : State) (f : RootCtl → RootCtl) : (s.modRoot f).pchs = s.pchs := rfl
@[simp] theorem State.modRoot_gongQ (s : State) (f : RootCtl → RootCtl) : (s.modRoot f).gongQ = s.gongQ := rfl
@[simp] theorem State.modRoot_gongLog (s : State) (f : RootCtl → RootCtl) : (s.modRoot f).gongLog = s.gongLog := rfl
@[simp] theorem State.modRoot_sched (s : State) (f : RootCtl → RootCtl) : (s.modRoot f).sched = s.sched := rfl
@[simp] theorem State.modRoot_pins (s : State) (f : RootCtl → RootCtl) : (s.modRoot f).pins = s.pins := rfl
@[simp] theorem State.modRoot_tlb (s : State) (f : RootCtl → RootCtl) : (s.modRoot f).tlb = s.tlb := rfl
@[simp] theorem State.modRoot_cmu (s : State) (f : RootCtl → RootCtl) : (s.modRoot f).cmu = s.cmu := rfl
@[simp] theorem State.modRoot_belfry (s : State) (f : RootCtl → RootCtl) : (s.modRoot f).belfry = s.belfry := rfl
@[simp] theorem State.modRoot_codec (s : State) (f : RootCtl → RootCtl) : (s.modRoot f).codec = s.codec := rfl
@[simp] theorem State.modRoot_host (s : State) (f : RootCtl → RootCtl) : (s.modRoot f).host = s.host := rfl
@[simp] theorem State.modRoot_err (s : State) (f : RootCtl → RootCtl) : (s.modRoot f).err = s.err := rfl
@[simp] theorem State.modRoot_fresh (s : State) (f : RootCtl → RootCtl) : (s.modRoot f).fresh = s.fresh := rfl
@[simp] theorem State.modRoot_reqSeq (s : State) (f : RootCtl → RootCtl) : (s.modRoot f).reqSeq = s.reqSeq := rfl
@[simp] theorem State.modRoot_inbox (s : State) (f : RootCtl → RootCtl) : (s.modRoot f).inbox = s.inbox := rfl

@[simp] theorem State.markUnusable_tlc (s : State) (n : Nat) : (s.markUnusable n).tlc = s.tlc := rfl
@[simp] theorem State.markUnusable_cursor (s : State) (n : Nat) : (s.markUnusable n).cursor = s.cursor := rfl
@[simp] theorem State.markUnusable_mem (s : State) (n : Nat) : (s.markUnusable n).mem = s.mem := rfl
@[simp] theorem State.markUnusable_poison (s : State) (n : Nat) : (s.markUnusable n).poison = s.poison := rfl
@[simp] theorem State.markUnusable_memLog (s : State) (n : Nat) : (s.markUnusable n).memLog = s.memLog := rfl
@[simp] theorem State.markUnusable_used (s : State) (n : Nat) : (s.markUnusable n).used = s.used := rfl
@[simp] theorem State.markUnusable_ticked (s : State) (n : Nat) : (s.markUnusable n).ticked = s.ticked := rfl
@[simp] theorem State.markUnusable_gangs (s : State) (n : Nat) : (s.markUnusable n).gangs = s.gangs := rfl
@[simp] theorem State.markUnusable_infos (s : State) (n : Nat) : (s.markUnusable n).infos = s.infos := rfl
@[simp] theorem State.markUnusable_pchs (s : State) (n : Nat) : (s.markUnusable n).pchs = s.pchs := rfl
@[simp] theorem State.markUnusable_gongQ (s : State) (n : Nat) : (s.markUnusable n).gongQ = s.gongQ := rfl
@[simp] theorem State.markUnusable_gongLog (s : State) (n : Nat) : (s.markUnusable n).gongLog = s.gongLog := rfl
@[simp] theorem State.markUnusable_sched (s : State) (n : Nat) : (s.markUnusable n).sched = s.sched := rfl
@[simp] theorem State.markUnusable_pins (s : State) (n : Nat) : (s.markUnusable n).pins = s.pins := rfl
@[simp] theorem State.markUnusable_tlb (s : State) (n : Nat) : (s.markUnusable n).tlb = s.tlb := rfl
@[simp] theorem State.markUnusable_cmu (s : State) (n : Nat) : (s.markUnusable n).cmu = s.cmu := rfl
@[simp] theorem State.markUnusable_belfry (s : State) (n : Nat) : (s.markUnusable n).belfry = s.belfry := rfl
@[simp] theorem State.markUnusable_codec (s : State) (n : Nat) : (s.markUnusable n).codec = s.codec := rfl
@[simp] theorem State.markUnusable_host (s : State) (n : Nat) : (s.markUnusable n).host = s.host := rfl
@[simp] theorem State.markUnusable_root (s : State) (n : Nat) : (s.markUnusable n).root = s.root := rfl
@[simp] theorem State.markUnusable_fresh (s : State) (n : Nat) : (s.markUnusable n).fresh = s.fresh := rfl
@[simp] theorem State.markUnusable_reqSeq (s : State) (n : Nat) : (s.markUnusable n).reqSeq = s.reqSeq := rfl
@[simp] theorem State.markUnusable_inbox (s : State) (n : Nat) : (s.markUnusable n).inbox = s.inbox := rfl

/-! What a changed gang, core or channel is found as. -/

theorem State.modGang_self (s : State) (id : Nat) (f : Gang → Gang) : aget id (s.modGang id f).gangs = (aget id s.gangs).map f :=
  aget_amod_self id f s.gangs
theorem State.modGang_other (s : State) {g id : Nat} (h : g ≠ id) (f : Gang → Gang) :
    aget g (s.modGang id f).gangs = aget g s.gangs := aget_amod_ne h f s.gangs
@[simp] theorem State.pch_modPch (s : State) (n : Nat) (f : Pch → Pch) : (s.modPch n f).pch n = f (s.pch n) := by
  simp [State.pch, State.modPch]
@[simp] theorem State.info_setInfo (s : State) (g : Nat) (i : CoreInfo) : (s.setInfo g i).info g = i := by
  simp [State.info, State.setInfo]
@[simp] theorem State.ring_modRing (s : State) (g : Nat) (f : Ring → Ring) : (s.modRing g f).ring g = f (s.ring g) := by
  simp [State.ring, State.modRing]

/-! Updates of a gang and of a core. -/

@[simp] theorem Gang.modCore_id (g : Gang) (r : Nat) (f : Core → Core) : (g.modCore r f).id = g.id := rfl
@[simp] theorem Gang.modCore_step (g : Gang) (r : Nat) (f : Core → Core) : (g.modCore r f).step = g.step := rfl
@[simp] theorem Gang.modCore_queue (g : Gang) (r : Nat) (f : Core → Core) : (g.modCore r f).queue = g.queue := rfl
@[simp] theorem Gang.modCore_tobAddr (g : Gang) (r : Nat) (f : Core → Core) : (g.modCore r f).tobAddr = g.tobAddr := rfl
@[simp] theorem Gang.modCore_tob (g : Gang) (r : Nat) (f : Core → Core) : (g.modCore r f).tob = g.tob := rfl
@[simp] theorem Gang.modCore_root (g : Gang) (r : Nat) (f : Core → Core) : (g.modCore r f).root = g.root := rfl
@[simp] theorem Gang.modCore_brken (g : Gang) (r : Nat) (f : Core → Core) : (g.modCore r f).brken = g.brken := rfl
@[simp] theorem Gang.modCore_cells (g : Gang) (r : Nat) (f : Core → Core) : (g.modCore r f).cells = g.cells := rfl
@[simp] theorem Gang.modCore_phase (g : Gang) (r : Nat) (f : Core → Core) : (g.modCore r f).phase = g.phase := rfl
@[simp] theorem Gang.modCore_dbt (g : Gang) (r : Nat) (f : Core → Core) : (g.modCore r f).dbt = g.dbt := rfl
@[simp] theorem Gang.modCore_segStart (g : Gang) (r : Nat) (f : Core → Core) : (g.modCore r f).segStart = g.segStart := rfl
@[simp] theorem Gang.modCore_cues (g : Gang) (r : Nat) (f : Core → Core) : (g.modCore r f).cues = g.cues := rfl
@[simp] theorem Gang.modCore_nest (g : Gang) (r : Nat) (f : Core → Core) : (g.modCore r f).nest = g.nest := rfl
@[simp] theorem Gang.modCore_mems (g : Gang) (r : Nat) (f : Core → Core) : (g.modCore r f).mems = g.mems := rfl
@[simp] theorem Gang.modCore_agenda (g : Gang) (r : Nat) (f : Core → Core) : (g.modCore r f).agenda = g.agenda := rfl
@[simp] theorem Gang.modCore_stash (g : Gang) (r : Nat) (f : Core → Core) : (g.modCore r f).stash = g.stash := rfl
@[simp] theorem Gang.modCore_reqs (g : Gang) (r : Nat) (f : Core → Core) : (g.modCore r f).reqs = g.reqs := rfl
@[simp] theorem Gang.modCore_fault (g : Gang) (r : Nat) (f : Core → Core) : (g.modCore r f).fault = g.fault := rfl
@[simp] theorem Gang.modCore_more (g : Gang) (r : Nat) (f : Core → Core) : (g.modCore r f).more = g.more := rfl
@[simp] theorem Gang.modCore_wait (g : Gang) (r : Nat) (f : Core → Core) : (g.modCore r f).wait = g.wait := rfl
@[simp] theorem Gang.modCore_refs (g : Gang) (r : Nat) (f : Core → Core) : (g.modCore r f).refs = g.refs := rfl
@[simp] theorem Gang.modCore_marks (g : Gang) (r : Nat) (f : Core → Core) : (g.modCore r f).marks = g.marks := rfl
@[simp] theorem Gang.modCore_replays (g : Gang) (r : Nat) (f : Core → Core) : (g.modCore r f).replays = g.replays := rfl
@[simp] theorem Gang.modCore_applied (g : Gang) (r : Nat) (f : Core → Core) : (g.modCore r f).applied = g.applied := rfl

@[simp] theorem Core.modStrm_gcore (c : Core) (id : StreamId) (f : Stream → Stream) : (c.modStrm id f).gcore = c.gcore := rfl
@[simp] theorem Core.modStrm_rank (c : Core) (id : StreamId) (f : Stream → Stream) : (c.modStrm id f).rank = c.rank := rfl
@[simp] theorem Core.modStrm_idx (c : Core) (id : StreamId) (f : Stream → Stream) : (c.modStrm id f).idx = c.idx := rfl
@[simp] theorem Core.modStrm_res (c : Core) (id : StreamId) (f : Stream → Stream) : (c.modStrm id f).res = c.res := rfl
@[simp] theorem Core.modStrm_x (c : Core) (id : StreamId) (f : Stream → Stream) : (c.modStrm id f).x = c.x := rfl
@[simp] theorem Core.modStrm_v (c : Core) (id : StreamId) (f : Stream → Stream) : (c.modStrm id f).v = c.v := rfl
@[simp] theorem Core.modStrm_k (c : Core) (id : StreamId) (f : Stream → Stream) : (c.modStrm id f).k = c.k := rfl
@[simp] theorem Core.modStrm_acc (c : Core) (id : StreamId) (f : Stream → Stream) : (c.modStrm id f).acc = c.acc := rfl
@[simp] theorem Core.modStrm_cnt (c : Core) (id : StreamId) (f : Stream → Stream) : (c.modStrm id f).cnt = c.cnt := rfl
@[simp] theorem Core.modStrm_qa (c : Core) (id : StreamId) (f : Stream → Stream) : (c.modStrm id f).qa = c.qa := rfl
@[simp] theorem Core.modStrm_qb (c : Core) (id : StreamId) (f : Stream → Stream) : (c.modStrm id f).qb = c.qb := rfl
@[simp] theorem Core.modStrm_flags (c : Core) (id : StreamId) (f : Stream → Stream) : (c.modStrm id f).flags = c.flags := rfl
@[simp] theorem Core.modStrm_mode (c : Core) (id : StreamId) (f : Stream → Stream) : (c.modStrm id f).mode = c.mode := rfl
@[simp] theorem Core.modStrm_hits (c : Core) (id : StreamId) (f : Stream → Stream) : (c.modStrm id f).hits = c.hits := rfl
@[simp] theorem Core.modStrm_log (c : Core) (id : StreamId) (f : Stream → Stream) : (c.modStrm id f).log = c.log := rfl
@[simp] theorem Core.modStrm_budget (c : Core) (id : StreamId) (f : Stream → Stream) : (c.modStrm id f).budget = c.budget := rfl
@[simp] theorem Core.modStrm_pend (c : Core) (id : StreamId) (f : Stream → Stream) : (c.modStrm id f).pend = c.pend := rfl
@[simp] theorem Core.modStrm_done (c : Core) (id : StreamId) (f : Stream → Stream) : (c.modStrm id f).done = c.done := rfl
@[simp] theorem Core.modStrm_tags (c : Core) (id : StreamId) (f : Stream → Stream) : (c.modStrm id f).tags = c.tags := rfl
@[simp] theorem Core.modStrm_counts (c : Core) (id : StreamId) (f : Stream → Stream) : (c.modStrm id f).counts = c.counts := rfl
@[simp] theorem Core.modStrm_slots (c : Core) (id : StreamId) (f : Stream → Stream) : (c.modStrm id f).slots = c.slots := rfl
@[simp] theorem Core.modStrm_slotAt (c : Core) (id : StreamId) (f : Stream → Stream) : (c.modStrm id f).slotAt = c.slotAt := rfl
@[simp] theorem Core.modStrm_outDesc (c : Core) (id : StreamId) (f : Stream → Stream) : (c.modStrm id f).outDesc = c.outDesc := rfl
@[simp] theorem Core.modStrm_win (c : Core) (id : StreamId) (f : Stream → Stream) : (c.modStrm id f).win = c.win := rfl
@[simp] theorem Core.modStrm_pad (c : Core) (id : StreamId) (f : Stream → Stream) : (c.modStrm id f).pad = c.pad := rfl
@[simp] theorem Core.modStrm_winQ (c : Core) (id : StreamId) (f : Stream → Stream) : (c.modStrm id f).winQ = c.winQ := rfl
@[simp] theorem Core.modStrm_box (c : Core) (id : StreamId) (f : Stream → Stream) : (c.modStrm id f).box = c.box := rfl
@[simp] theorem Core.modStrm_compl (c : Core) (id : StreamId) (f : Stream → Stream) : (c.modStrm id f).compl = c.compl := rfl
@[simp] theorem Core.modStrm_svc (c : Core) (id : StreamId) (f : Stream → Stream) : (c.modStrm id f).svc = c.svc := rfl
@[simp] theorem Core.modStrm_ports (c : Core) (id : StreamId) (f : Stream → Stream) : (c.modStrm id f).ports = c.ports := rfl
@[simp] theorem Core.modStrm_claims (c : Core) (id : StreamId) (f : Stream → Stream) : (c.modStrm id f).claims = c.claims := rfl
@[simp] theorem Core.modStrm_imOut (c : Core) (id : StreamId) (f : Stream → Stream) : (c.modStrm id f).imOut = c.imOut := rfl

/-- A core of a gang whose core `r` was changed. -/
theorem Gang.coreAt_modCore (g : Gang) (r q : Nat) (f : Core → Core) :
    (g.modCore r f).coreAt q = if r = q then (g.coreAt q).map f else g.coreAt q := by
  unfold Gang.coreAt Gang.modCore
  rw [List.getElem?_modify]
  split <;> simp_all

end Sys2Proof.Machine
end

