-- ==== Sys2Proof/Laws/Memory.lean ====
section
/-! SUPPORT. Memory: a read after a write, and the canonical form, which every operation on memory keeps (log 1). -/
namespace Sys2Proof.Machine

/-- The canonical form from a lower bound holds from any smaller one. -/
theorem Mem.wfFrom_mono {lo lo' : Nat} (h : lo' ≤ lo) {m : Mem} (hw : Mem.wfFrom lo m = true) : Mem.wfFrom lo' m = true := by
  cases m with
  | nil => rfl
  | cons a t =>
    obtain ⟨a, b⟩ := a
    simp only [Mem.wfFrom, Bool.and_eq_true, decide_eq_true_eq] at hw ⊢
    exact ⟨⟨h.trans hw.1.1, hw.1.2⟩, hw.2⟩

/-- Below the first address nothing is listed. -/
theorem Mem.read_below {lo k : Nat} (h : k < lo) {m : Mem} (hw : Mem.wfFrom lo m = true) : m.read k = 0 := by
  induction m generalizing lo with
  | nil => rfl
  | cons a t ih =>
    obtain ⟨a, b⟩ := a
    simp only [Mem.wfFrom, Bool.and_eq_true, decide_eq_true_eq] at hw
    rw [Mem.read, if_neg (by omega)]
    exact ih (lo := a + 1) (by omega) hw.2

theorem Mem.wfFrom_write {lo k : Nat} (v : Byte) (h : lo ≤ k) {m : Mem} (hw : Mem.wfFrom lo m = true) :
    Mem.wfFrom lo (m.write k v) = true := by
  induction m generalizing lo with
  | nil => unfold Mem.write; split <;> simp_all [Mem.wfFrom]
  | cons a t ih =>
    obtain ⟨a, b⟩ := a
    simp only [Mem.wfFrom, Bool.and_eq_true, decide_eq_true_eq] at hw
    obtain ⟨⟨h1, h2⟩, h3⟩ := hw
    unfold Mem.write
    (repeat' split) <;> simp_all [Mem.wfFrom]
    · exact Mem.wfFrom_mono (by omega) h3
    · exact ih (by omega) h3

/-- One byte written is read back, and every other byte is as it was. -/
theorem Mem.read_write_from {lo : Nat} (k a : Nat) (v : Byte) {m : Mem} (hw : Mem.wfFrom lo m = true) :
    (m.write k v).read a = if a = k then v else m.read a := by
  induction m generalizing lo with
  | nil =>
    unfold Mem.write
    by_cases hv : v = 0
    · subst hv; simp [Mem.read]
    · rw [if_neg hv]
      by_cases h : a = k
      · simp [Mem.read, h]
      · simp [Mem.read, h, Ne.symm h]
  | cons p t ih =>
    obtain ⟨p, b⟩ := p
    simp only [Mem.wfFrom, Bool.and_eq_true, decide_eq_true_eq] at hw
    have hb : p ≥ a → Mem.read a t = 0 := fun h => Mem.read_below (lo := p + 1) (by omega) hw.2
    have ht := ih hw.2
    unfold Mem.write
    by_cases h1 : k < p
    · rw [if_pos h1]
      by_cases hv : v = 0
      · rw [if_pos hv]
        by_cases ha : a = k
        · rw [if_pos ha, Mem.read, if_neg (by omega), hb (by omega), hv]
        · rw [if_neg ha]
      · rw [if_neg hv]
        by_cases ha : a = k
        · simp [Mem.read, ha]
        · simp [Mem.read, ha, Ne.symm ha]
    · rw [if_neg h1]
      by_cases h2 : k = p
      · rw [if_pos h2]
        by_cases hv : v = 0
        · rw [if_pos hv]
          by_cases ha : a = k
          · rw [if_pos ha, hb (by omega), hv]
          · rw [if_neg ha, Mem.read, if_neg (by omega)]
        · rw [if_neg hv]
          by_cases ha : a = k
          · simp [Mem.read, ha]
          · rw [if_neg ha, Mem.read, if_neg (by omega), Mem.read, if_neg (by omega)]
      · rw [if_neg h2, Mem.read]
        by_cases hp : p = a
        · rw [if_pos hp, if_neg (by omega), Mem.read, if_pos hp]
        · rw [if_neg hp, ht, Mem.read, if_neg hp]

theorem Mem.wf_nil : Mem.wf [] = true := rfl
theorem Mem.wf_write {m : Mem} (k : Nat) (v : Byte) (hw : m.wf = true) : (m.write k v).wf = true :=
  Mem.wfFrom_write v (Nat.zero_le k) hw
theorem Mem.read_write {m : Mem} (k a : Nat) (v : Byte) (hw : m.wf = true) : (m.write k v).read a = if a = k then v else m.read a :=
  Mem.read_write_from k a v hw

theorem Mem.wf_put {m : Mem} (k : Nat) (bs : List Byte) (hw : m.wf = true) : (m.put k bs).wf = true := by
  induction bs generalizing k m with
  | nil => exact hw
  | cons b bs ih => exact ih (k + 1) (Mem.wf_write k b hw)

/-- Bytes written are read back, and every other byte is as it was. -/
theorem Mem.read_put {m : Mem} (k a : Nat) (bs : List Byte) (hw : m.wf = true) :
    (m.put k bs).read a = if k ≤ a ∧ a < k + bs.length then (bs[a - k]?).getD 0 else m.read a := by
  induction bs generalizing k m with
  | nil => rw [Mem.put, if_neg (by simp)]
  | cons b bs ih =>
    rw [Mem.put, ih (k + 1) (Mem.wf_write k b hw), Mem.read_write k a b hw]
    simp only [List.length_cons]
    by_cases h : a = k
    · subst h; simp
    · by_cases h2 : k ≤ a ∧ a < k + (bs.length + 1)
      · rw [if_pos h2, if_pos (by omega), show a - k = (a - (k + 1)) + 1 by omega, List.getElem?_cons_succ]
      · rw [if_neg h2, if_neg (by omega), if_neg h]

theorem Mem.length_bytes (m : Mem) (k n : Nat) : (m.bytes k n).length = n := by
  induction n generalizing k with
  | zero => rfl
  | succ n ih => simp [Mem.bytes, ih]

theorem Mem.getElem?_bytes (m : Mem) (k n i : Nat) : (m.bytes k n)[i]? = if i < n then some (m.read (k + i)) else none := by
  induction n generalizing k i with
  | zero => simp [Mem.bytes]
  | succ n ih =>
    cases i with
    | zero => simp [Mem.bytes]
    | succ i => simp [Mem.bytes, ih, Nat.add_assoc, Nat.add_comm 1]

theorem Mem.bytes_put {m : Mem} (k : Nat) (bs : List Byte) (hw : m.wf = true) : (m.put k bs).bytes k bs.length = bs := by
  apply List.ext_getElem?
  intro i
  rw [Mem.getElem?_bytes, Mem.read_put k _ bs hw]
  by_cases h : i < bs.length
  · simp [h]
  · simp [h]

/-- Dropping entries keeps the form. -/
theorem Mem.wfFrom_filter {lo : Nat} (p : Host.Cell → Bool) {m : Mem} (hw : Mem.wfFrom lo m = true) :
    Mem.wfFrom lo (m.filter p) = true := by
  induction m generalizing lo with
  | nil => rfl
  | cons a t ih =>
    obtain ⟨a, b⟩ := a
    simp only [Mem.wfFrom, Bool.and_eq_true, decide_eq_true_eq] at hw
    rw [List.filter_cons]
    split
    · simp only [Mem.wfFrom, Bool.and_eq_true, decide_eq_true_eq]
      exact ⟨hw.1, ih hw.2⟩
    · exact Mem.wfFrom_mono (by omega) (ih hw.2)
theorem Mem.wf_filter (p : Host.Cell → Bool) {m : Mem} (hw : m.wf = true) : Mem.wf (m.filter p) = true := Mem.wfFrom_filter p hw

/-- Two canonical memories that read alike are one list. -/
theorem Mem.eq_of_read {lo : Nat} {m n : Mem} (hm : Mem.wfFrom lo m = true) (hn : Mem.wfFrom lo n = true)
    (h : ∀ a, m.read a = n.read a) : m = n := by
  induction m generalizing n lo with
  | nil =>
    cases n with
    | nil => rfl
    | cons q u =>
      obtain ⟨q, c⟩ := q
      simp only [Mem.wfFrom, Bool.and_eq_true, bne_iff_ne] at hn
      have := h q
      simp only [Mem.read, if_true] at this
      exact absurd this.symm hn.1.2
  | cons p t ih =>
    obtain ⟨p, b⟩ := p
    cases n with
    | nil =>
      simp only [Mem.wfFrom, Bool.and_eq_true, bne_iff_ne] at hm
      have := h p
      simp only [Mem.read, if_true] at this
      exact absurd this hm.1.2
    | cons q u =>
      obtain ⟨q, c⟩ := q
      simp only [Mem.wfFrom, Bool.and_eq_true, bne_iff_ne, decide_eq_true_eq] at hm hn
      have hpq : p = q := by
        rcases Nat.lt_trichotomy p q with hl | he | hl
        · have := h p
          rw [Mem.read, if_pos rfl, Mem.read, if_neg (by omega), Mem.read_below (lo := q + 1) (by omega) hn.2] at this
          exact absurd this hm.1.2
        · exact he
        · have := h q
          rw [Mem.read, if_neg (by omega), Mem.read_below (lo := p + 1) (by omega) hm.2, Mem.read, if_pos rfl] at this
          exact absurd this.symm hn.1.2
      subst hpq
      have hbc : b = c := by simpa [Mem.read] using h p
      subst hbc
      rw [ih hm.2 hn.2]
      intro a
      rcases Nat.lt_or_ge p a with hl | hl
      · have := h a
        rwa [Mem.read, if_neg (by omega), Mem.read, if_neg (by omega)] at this
      · rw [Mem.read_below (lo := p + 1) (by omega) hm.2, Mem.read_below (lo := p + 1) (by omega) hn.2]

/-! The store operation. -/

@[simp] theorem State.store_nil (s : State) (k : Nat) (psn : Bool) : s.store k [] psn = s := rfl

theorem State.store_mem (s : State) (k : Nat) (bs : List Byte) (psn : Bool) : (s.store k bs psn).mem = s.mem.put k bs := by
  unfold State.store
  cases bs <;> rfl

@[simp] theorem State.store_gangs (s : State) (k : Nat) (bs : List Byte) (psn : Bool) : (s.store k bs psn).gangs = s.gangs := by
  unfold State.store
  cases bs <;> rfl

@[simp] theorem State.store_tlc (s : State) (k : Nat) (bs : List Byte) (psn : Bool) : (s.store k bs psn).tlc = s.tlc := by
  unfold State.store
  cases bs <;> rfl

@[simp] theorem State.store_sched (s : State) (k : Nat) (bs : List Byte) (psn : Bool) : (s.store k bs psn).sched = s.sched := by
  unfold State.store
  cases bs <;> rfl

/-- A store keeps the canonical form. -/
theorem State.store_inv {s : State} (k : Nat) (bs : List Byte) (psn : Bool) (h : s.Inv) : (s.store k bs psn).Inv := by
  unfold State.Inv
  rw [State.store_mem]
  exact Mem.wf_put k bs h

/-- A store changes the bytes it writes and no other. -/
theorem State.read_store {s : State} (k a : Nat) (bs : List Byte) (psn : Bool) (h : s.Inv) :
    (s.store k bs psn).mem.read a = if k ≤ a ∧ a < k + bs.length then (bs[a - k]?).getD 0 else s.mem.read a := by
  rw [State.store_mem]
  exact Mem.read_put k a bs h

/-- An update that leaves memory alone keeps the canonical form. -/
theorem State.Inv.of_mem {s t : State} (h : s.Inv) (he : t.mem = s.mem) : t.Inv := by
  unfold State.Inv
  rw [he]
  exact h

/-- A fold of updates that each keep the canonical form keeps it. -/
theorem State.Inv.foldl {α : Type} {f : State → α → State} (hf : ∀ s a, State.Inv s → State.Inv (f s a)) (l : List α) {s : State} (h : s.Inv) :
    State.Inv (l.foldl f s) := by
  induction l generalizing s with
  | nil => exact h
  | cons a t ih => exact ih (hf s a h)

/-- Reset memory lists nothing. -/
theorem reset_inv : State.reset.Inv := rfl

end Sys2Proof.Machine
end

