-- ==== Sys2Proof/Laws/PerInstr.lean ====
section
/-! SUPPORT. Laws of the syntax, one lemma for each instruction. RoundTrip: the body a word is encoded with is laid out as its
opcode's format reads it, and it has a continuation exactly where its opcode takes one. -/
set_option linter.unusedSimpArgs false
set_option Elab.async false
namespace Sys2Proof.Laws

/-- The layout of an instruction's encoding is read back as the instruction (R115 to R128). A device step has no encoding. -/
def RoundTrip.Statement (i : Instr) : Prop :=
  ∀ e, encode i = some e → decodeBody e.op.toNat e.body (e.cont.getD 0) = .ok i ∧ e.cont.isSome = twoWords e.op.toNat ∧ e.op.toNat < 0xE0

theorem RoundTrip.add (sg : Bool) (d a b : Opnd) : RoundTrip.Statement (.add sg d a b) := by
  intro e h; cases h; exact ⟨by simp [decodeBody, decode0, need], by simp [twoWords], by simp⟩
theorem RoundTrip.sub (sg : Bool) (d a b : Opnd) : RoundTrip.Statement (.sub sg d a b) := by
  intro e h; cases h; exact ⟨by simp [decodeBody, decode0, need], by simp [twoWords], by simp⟩
theorem RoundTrip.mul (sg : Bool) (d a b : Opnd) : RoundTrip.Statement (.mul sg d a b) := by
  intro e h; cases h; exact ⟨by simp [decodeBody, decode0, need], by simp [twoWords], by simp⟩
theorem RoundTrip.mulh (sg : Bool) (d a b : Opnd) : RoundTrip.Statement (.mulh sg d a b) := by
  intro e h; cases h; exact ⟨by simp [decodeBody, decode0, need], by simp [twoWords], by simp⟩
theorem RoundTrip.div (sg : Bool) (d a b : Opnd) : RoundTrip.Statement (.div sg d a b) := by
  intro e h; cases h; exact ⟨by simp [decodeBody, decode0, need], by simp [twoWords], by simp⟩
theorem RoundTrip.rem (sg : Bool) (d a b : Opnd) : RoundTrip.Statement (.rem sg d a b) := by
  intro e h; cases h; exact ⟨by simp [decodeBody, decode0, need], by simp [twoWords], by simp⟩
theorem RoundTrip.min (sg : Bool) (d a b : Opnd) : RoundTrip.Statement (.min sg d a b) := by
  intro e h; cases h; exact ⟨by simp [decodeBody, decode0, need], by simp [twoWords], by simp⟩
theorem RoundTrip.max (sg : Bool) (d a b : Opnd) : RoundTrip.Statement (.max sg d a b) := by
  intro e h; cases h; exact ⟨by simp [decodeBody, decode0, need], by simp [twoWords], by simp⟩
theorem RoundTrip.and (sg : Bool) (d a b : Opnd) : RoundTrip.Statement (.and sg d a b) := by
  intro e h; cases h; exact ⟨by simp [decodeBody, decode0, need], by simp [twoWords], by simp⟩
theorem RoundTrip.or (sg : Bool) (d a b : Opnd) : RoundTrip.Statement (.or sg d a b) := by
  intro e h; cases h; exact ⟨by simp [decodeBody, decode0, need], by simp [twoWords], by simp⟩
theorem RoundTrip.xor (sg : Bool) (d a b : Opnd) : RoundTrip.Statement (.xor sg d a b) := by
  intro e h; cases h; exact ⟨by simp [decodeBody, decode0, need], by simp [twoWords], by simp⟩
theorem RoundTrip.andn (sg : Bool) (d a b : Opnd) : RoundTrip.Statement (.andn sg d a b) := by
  intro e h; cases h; exact ⟨by simp [decodeBody, decode0, need], by simp [twoWords], by simp⟩
theorem RoundTrip.shl (sg : Bool) (d a b : Opnd) : RoundTrip.Statement (.shl sg d a b) := by
  intro e h; cases h; exact ⟨by simp [decodeBody, decode0, need], by simp [twoWords], by simp⟩
theorem RoundTrip.shr (sg : Bool) (d a b : Opnd) : RoundTrip.Statement (.shr sg d a b) := by
  intro e h; cases h; exact ⟨by simp [decodeBody, decode0, need], by simp [twoWords], by simp⟩
theorem RoundTrip.rot (sg : Bool) (d a b : Opnd) : RoundTrip.Statement (.rot sg d a b) := by
  intro e h; cases h; exact ⟨by simp [decodeBody, decode0, need], by simp [twoWords], by simp⟩
theorem RoundTrip.clz (d a : Opnd) : RoundTrip.Statement (.clz d a) := by
  intro e h; cases h; exact ⟨by simp [decodeBody, decode0, need], by simp [twoWords], by simp⟩
theorem RoundTrip.popc (d a : Opnd) : RoundTrip.Statement (.popc d a) := by
  intro e h; cases h; exact ⟨by simp [decodeBody, decode1, need], by simp [twoWords], by simp⟩
theorem RoundTrip.extr (sg : Bool) (d a b : Opnd) : RoundTrip.Statement (.extr sg d a b) := by
  intro e h; cases h; exact ⟨by simp [decodeBody, decode1, need], by simp [twoWords], by simp⟩
theorem RoundTrip.insr (sg : Bool) (d a b : Opnd) : RoundTrip.Statement (.insr sg d a b) := by
  intro e h; cases h; exact ⟨by simp [decodeBody, decode1, need], by simp [twoWords], by simp⟩
theorem RoundTrip.cmp (sf : BitVec 3) (sg : Bool) (d a b : Opnd) : RoundTrip.Statement (.cmp sf sg d a b) := by
  intro e h; cases h; exact ⟨by simp [decodeBody, decode1, need], by simp [twoWords], by simp⟩
theorem RoundTrip.sel (sg : Bool) (d a b c : Opnd) : RoundTrip.Statement (.sel sg d a b c) := by
  intro e h; cases h; exact ⟨by simp [decodeBody, decode1, need2], by simp [twoWords], by simp⟩
theorem RoundTrip.mov (sg : Bool) (d a : Opnd) : RoundTrip.Statement (.mov sg d a) := by
  intro e h; cases h; exact ⟨by simp [decodeBody, decode1, need], by simp [twoWords], by simp⟩
theorem RoundTrip.addi (d a : Opnd) (imm : BitVec 18) : RoundTrip.Statement (.addi d a imm) := by
  intro e h; cases h; exact ⟨by simp [decodeBody, decode1, need], by simp [twoWords], by simp⟩
theorem RoundTrip.andi (d a : Opnd) (imm : BitVec 18) : RoundTrip.Statement (.andi d a imm) := by
  intro e h; cases h; exact ⟨by simp [decodeBody, decode1, need], by simp [twoWords], by simp⟩
theorem RoundTrip.ori (d a : Opnd) (imm : BitVec 18) : RoundTrip.Statement (.ori d a imm) := by
  intro e h; cases h; exact ⟨by simp [decodeBody, decode1, need], by simp [twoWords], by simp⟩
theorem RoundTrip.xori (d a : Opnd) (imm : BitVec 18) : RoundTrip.Statement (.xori d a imm) := by
  intro e h; cases h; exact ⟨by simp [decodeBody, decode1, need], by simp [twoWords], by simp⟩
theorem RoundTrip.shli (sg : Bool) (n : BitVec 6) (d a : Opnd) : RoundTrip.Statement (.shli sg n d a) := by
  intro e h; cases h; exact ⟨by simp [decodeBody, decode1, need], by simp [twoWords], by simp⟩
theorem RoundTrip.shri (sg : Bool) (n : BitVec 6) (d a : Opnd) : RoundTrip.Statement (.shri sg n d a) := by
  intro e h; cases h; exact ⟨by simp [decodeBody, decode1, need], by simp [twoWords], by simp⟩
theorem RoundTrip.cmpi (d a : Opnd) (imm : BitVec 18) : RoundTrip.Statement (.cmpi d a imm) := by
  intro e h; cases h; exact ⟨by simp [decodeBody, decode1, need], by simp [twoWords], by simp⟩
theorem RoundTrip.li (d : Opnd) (imm : BitVec 32) : RoundTrip.Statement (.li d imm) := by
  intro e h; cases h; exact ⟨by simp [decodeBody, decode1, need], by simp [twoWords], by simp⟩
theorem RoundTrip.liu (d : Opnd) (imm : BitVec 32) : RoundTrip.Statement (.liu d imm) := by
  intro e h; cases h; exact ⟨by simp [decodeBody, decode1, need], by simp [twoWords], by simp⟩
theorem RoundTrip.lih (d : Opnd) (imm : BitVec 32) : RoundTrip.Statement (.lih d imm) := by
  intro e h; cases h; exact ⟨by simp [decodeBody, decode1, need], by simp [twoWords], by simp⟩
theorem RoundTrip.agen (sf : BitVec 3) (sg : Bool) (d a b : Opnd) : RoundTrip.Statement (.agen sf sg d a b) := by
  intro e h; cases h; exact ⟨by simp [decodeBody, decode2, need], by simp [twoWords], by simp⟩
theorem RoundTrip.ageni (d a : Opnd) (imm : BitVec 18) : RoundTrip.Statement (.ageni d a imm) := by
  intro e h; cases h; exact ⟨by simp [decodeBody, decode2, need], by simp [twoWords], by simp⟩
theorem RoundTrip.ld (d a : Opnd) (imm : BitVec 18) : RoundTrip.Statement (.ld d a imm) := by
  intro e h; cases h; exact ⟨by simp [decodeBody, decode2, need], by simp [twoWords], by simp⟩
theorem RoundTrip.st (d a : Opnd) (imm : BitVec 18) : RoundTrip.Statement (.st d a imm) := by
  intro e h; cases h; exact ⟨by simp [decodeBody, decode2, need], by simp [twoWords], by simp⟩
theorem RoundTrip.spill (d a : Opnd) (imm : BitVec 18) : RoundTrip.Statement (.spill d a imm) := by
  intro e h; cases h; exact ⟨by simp [decodeBody, decode2, need], by simp [twoWords], by simp⟩
theorem RoundTrip.fill (d a : Opnd) (imm : BitVec 18) : RoundTrip.Statement (.fill d a imm) := by
  intro e h; cases h; exact ⟨by simp [decodeBody, decode2, need], by simp [twoWords], by simp⟩
theorem RoundTrip.br (cond : BitVec 3) (a : Opnd) (off : BitVec 24) : RoundTrip.Statement (.br cond a off) := by
  intro e h; cases h; exact ⟨by simp [decodeBody, decode2, need], by simp [twoWords], by simp⟩
theorem RoundTrip.call (a : Opnd) (off : BitVec 24) : RoundTrip.Statement (.call a off) := by
  intro e h; cases h; exact ⟨by simp [decodeBody, decode2, need], by simp [twoWords], by simp⟩
theorem RoundTrip.ret (a : Opnd) : RoundTrip.Statement (.ret a) := by
  intro e h; cases h; exact ⟨by simp [decodeBody, decode2, need], by simp [twoWords], by simp⟩
theorem RoundTrip.brx (a : Opnd) (off : BitVec 24) : RoundTrip.Statement (.brx a off) := by
  intro e h; cases h; exact ⟨by simp [decodeBody, decode2, need], by simp [twoWords], by simp⟩
theorem RoundTrip.loop (lvl : BitVec 2) (per : BitVec 20) : RoundTrip.Statement (.loop lvl per) := by
  intro e h; cases h; exact ⟨by simp [decodeBody, decode2, need], by simp [twoWords], by simp⟩
theorem RoundTrip.endl (lvl : BitVec 2) : RoundTrip.Statement (.endl lvl) := by
  intro e h; cases h; exact ⟨by simp [decodeBody, decode2, need], by simp [twoWords], by simp⟩
theorem RoundTrip.cue (a : Opnd) (off : BitVec 8) : RoundTrip.Statement (.cue a off) := by
  intro e h; cases h; exact ⟨by simp [decodeBody, decode2, need], by simp [twoWords], by simp⟩
theorem RoundTrip.hold : RoundTrip.Statement (.hold) := by
  intro e h; cases h; exact ⟨by simp [decodeBody, decode2, need], by simp [twoWords], by simp⟩
theorem RoundTrip.wait (n : BitVec 32) : RoundTrip.Statement (.wait n) := by
  intro e h; cases h; exact ⟨by simp [decodeBody, decode2, need], by simp [twoWords], by simp⟩
theorem RoundTrip.await (mask : BitVec 16) : RoundTrip.Statement (.await mask) := by
  intro e h; cases h; exact ⟨by simp [decodeBody, decode2, need], by simp [twoWords], by simp⟩
theorem RoundTrip.endstep : RoundTrip.Statement (.endstep) := by
  intro e h; cases h; exact ⟨by simp [decodeBody, decode3, need], by simp [twoWords], by simp⟩
theorem RoundTrip.mfsr (d : Opnd) (num : BitVec 10) : RoundTrip.Statement (.mfsr d num) := by
  intro e h; cases h; exact ⟨by simp [decodeBody, decode3, need], by simp [twoWords], by simp⟩
theorem RoundTrip.mtsr (num : BitVec 10) (a : Opnd) : RoundTrip.Statement (.mtsr num a) := by
  intro e h; cases h; exact ⟨by simp [decodeBody, decode3, need], by simp [twoWords], by simp⟩
theorem RoundTrip.abs (sg : Bool) (d a : Opnd) : RoundTrip.Statement (.abs sg d a) := by
  intro e h; cases h; exact ⟨by simp [decodeBody, decode3, need], by simp [twoWords], by simp⟩
theorem RoundTrip.neg (sg : Bool) (d a : Opnd) : RoundTrip.Statement (.neg sg d a) := by
  intro e h; cases h; exact ⟨by simp [decodeBody, decode3, need], by simp [twoWords], by simp⟩
theorem RoundTrip.adds (sg : Bool) (d a b : Opnd) : RoundTrip.Statement (.adds sg d a b) := by
  intro e h; cases h; exact ⟨by simp [decodeBody, decode3, need], by simp [twoWords], by simp⟩
theorem RoundTrip.subs (sg : Bool) (d a b : Opnd) : RoundTrip.Statement (.subs sg d a b) := by
  intro e h; cases h; exact ⟨by simp [decodeBody, decode3, need], by simp [twoWords], by simp⟩
theorem RoundTrip.muli (d a : Opnd) (imm : BitVec 18) : RoundTrip.Statement (.muli d a imm) := by
  intro e h; cases h; exact ⟨by simp [decodeBody, decode3, need], by simp [twoWords], by simp⟩
theorem RoundTrip.ctz (d a : Opnd) : RoundTrip.Statement (.ctz d a) := by
  intro e h; cases h; exact ⟨by simp [decodeBody, decode3, need], by simp [twoWords], by simp⟩
theorem RoundTrip.brev (d a : Opnd) : RoundTrip.Statement (.brev d a) := by
  intro e h; cases h; exact ⟨by simp [decodeBody, decode3, need], by simp [twoWords], by simp⟩
theorem RoundTrip.crcx (d a b : Opnd) : RoundTrip.Statement (.crcx d a b) := by
  intro e h; cases h; exact ⟨by simp [decodeBody, decode3, need], by simp [twoWords], by simp⟩
theorem RoundTrip.rollk (d a b : Opnd) : RoundTrip.Statement (.rollk d a b) := by
  intro e h; cases h; exact ⟨by simp [decodeBody, decode3, need], by simp [twoWords], by simp⟩
theorem RoundTrip.ktox (hi : Bool) (k : BitVec 3) (d : Opnd) : RoundTrip.Statement (.ktox hi k d) := by
  intro e h; cases h; exact ⟨by simp [decodeBody, decode3, need], by simp [twoWords], by simp⟩
theorem RoundTrip.xtok (hi : Bool) (k : BitVec 3) (a : Opnd) : RoundTrip.Statement (.xtok hi k a) := by
  intro e h; cases h; exact ⟨by simp [decodeBody, decode3, need], by simp [twoWords], by simp⟩
theorem RoundTrip.btst (sg : Bool) (d a b : Opnd) : RoundTrip.Statement (.btst sg d a b) := by
  intro e h; cases h; exact ⟨by simp [decodeBody, decode3, need], by simp [twoWords], by simp⟩
theorem RoundTrip.movc (sg : Bool) (d a b : Opnd) : RoundTrip.Statement (.movc sg d a b) := by
  intro e h; cases h; exact ⟨by simp [decodeBody, decode3, need], by simp [twoWords], by simp⟩
theorem RoundTrip.vadd (sg : Bool) (k : BitVec 3) (d a b : Opnd) : RoundTrip.Statement (.vadd sg k d a b) := by
  intro e h; cases h; exact ⟨by simp [decodeBody, decode4, need], by simp [twoWords], by simp⟩
theorem RoundTrip.vsub (sg : Bool) (k : BitVec 3) (d a b : Opnd) : RoundTrip.Statement (.vsub sg k d a b) := by
  intro e h; cases h; exact ⟨by simp [decodeBody, decode4, need], by simp [twoWords], by simp⟩
theorem RoundTrip.vmul (sg : Bool) (k : BitVec 3) (d a b : Opnd) : RoundTrip.Statement (.vmul sg k d a b) := by
  intro e h; cases h; exact ⟨by simp [decodeBody, decode4, need], by simp [twoWords], by simp⟩
theorem RoundTrip.vmulh (sg : Bool) (k : BitVec 3) (d a b : Opnd) : RoundTrip.Statement (.vmulh sg k d a b) := by
  intro e h; cases h; exact ⟨by simp [decodeBody, decode4, need], by simp [twoWords], by simp⟩
theorem RoundTrip.vmin (sg : Bool) (k : BitVec 3) (d a b : Opnd) : RoundTrip.Statement (.vmin sg k d a b) := by
  intro e h; cases h; exact ⟨by simp [decodeBody, decode4, need], by simp [twoWords], by simp⟩
theorem RoundTrip.vmax (sg : Bool) (k : BitVec 3) (d a b : Opnd) : RoundTrip.Statement (.vmax sg k d a b) := by
  intro e h; cases h; exact ⟨by simp [decodeBody, decode4, need], by simp [twoWords], by simp⟩
theorem RoundTrip.vand (sg : Bool) (k : BitVec 3) (d a b : Opnd) : RoundTrip.Statement (.vand sg k d a b) := by
  intro e h; cases h; exact ⟨by simp [decodeBody, decode4, need], by simp [twoWords], by simp⟩
theorem RoundTrip.vor (sg : Bool) (k : BitVec 3) (d a b : Opnd) : RoundTrip.Statement (.vor sg k d a b) := by
  intro e h; cases h; exact ⟨by simp [decodeBody, decode4, need], by simp [twoWords], by simp⟩
theorem RoundTrip.vxor (sg : Bool) (k : BitVec 3) (d a b : Opnd) : RoundTrip.Statement (.vxor sg k d a b) := by
  intro e h; cases h; exact ⟨by simp [decodeBody, decode4, need], by simp [twoWords], by simp⟩
theorem RoundTrip.vandn (sg : Bool) (k : BitVec 3) (d a b : Opnd) : RoundTrip.Statement (.vandn sg k d a b) := by
  intro e h; cases h; exact ⟨by simp [decodeBody, decode4, need], by simp [twoWords], by simp⟩
theorem RoundTrip.vshl (sg : Bool) (k : BitVec 3) (d a b : Opnd) : RoundTrip.Statement (.vshl sg k d a b) := by
  intro e h; cases h; exact ⟨by simp [decodeBody, decode4, need], by simp [twoWords], by simp⟩
theorem RoundTrip.vshr (sg : Bool) (k : BitVec 3) (d a b : Opnd) : RoundTrip.Statement (.vshr sg k d a b) := by
  intro e h; cases h; exact ⟨by simp [decodeBody, decode4, need], by simp [twoWords], by simp⟩
theorem RoundTrip.vabs (sg : Bool) (k : BitVec 3) (d a : Opnd) : RoundTrip.Statement (.vabs sg k d a) := by
  intro e h; cases h; exact ⟨by simp [decodeBody, decode4, need], by simp [twoWords], by simp⟩
theorem RoundTrip.vneg (sg : Bool) (k : BitVec 3) (d a : Opnd) : RoundTrip.Statement (.vneg sg k d a) := by
  intro e h; cases h; exact ⟨by simp [decodeBody, decode4, need], by simp [twoWords], by simp⟩
theorem RoundTrip.vadds (sg : Bool) (k : BitVec 3) (d a b : Opnd) : RoundTrip.Statement (.vadds sg k d a b) := by
  intro e h; cases h; exact ⟨by simp [decodeBody, decode4, need], by simp [twoWords], by simp⟩
theorem RoundTrip.vsubs (sg : Bool) (k : BitVec 3) (d a b : Opnd) : RoundTrip.Statement (.vsubs sg k d a b) := by
  intro e h; cases h; exact ⟨by simp [decodeBody, decode4, need], by simp [twoWords], by simp⟩
theorem RoundTrip.vfadd (fmt : BitVec 4) (rnd : BitVec 2) (k : BitVec 3) (d a b : Opnd) : RoundTrip.Statement (.vfadd fmt rnd k d a b) := by
  intro e h; cases h; exact ⟨by simp [decodeBody, decode5, need2], by simp [twoWords], by simp⟩
theorem RoundTrip.vfsub (fmt : BitVec 4) (rnd : BitVec 2) (k : BitVec 3) (d a b : Opnd) : RoundTrip.Statement (.vfsub fmt rnd k d a b) := by
  intro e h; cases h; exact ⟨by simp [decodeBody, decode5, need2], by simp [twoWords], by simp⟩
theorem RoundTrip.vfmul (fmt : BitVec 4) (rnd : BitVec 2) (k : BitVec 3) (d a b : Opnd) : RoundTrip.Statement (.vfmul fmt rnd k d a b) := by
  intro e h; cases h; exact ⟨by simp [decodeBody, decode5, need2], by simp [twoWords], by simp⟩
theorem RoundTrip.vfma (fmt : BitVec 4) (rnd : BitVec 2) (k : BitVec 3) (d a b c : Opnd) : RoundTrip.Statement (.vfma fmt rnd k d a b c) := by
  intro e h; cases h; exact ⟨by simp [decodeBody, decode5, need2], by simp [twoWords], by simp⟩
theorem RoundTrip.vfms (fmt : BitVec 4) (rnd : BitVec 2) (k : BitVec 3) (d a b c : Opnd) : RoundTrip.Statement (.vfms fmt rnd k d a b c) := by
  intro e h; cases h; exact ⟨by simp [decodeBody, decode5, need2], by simp [twoWords], by simp⟩
theorem RoundTrip.vfnma (fmt : BitVec 4) (rnd : BitVec 2) (k : BitVec 3) (d a b c : Opnd) : RoundTrip.Statement (.vfnma fmt rnd k d a b c) := by
  intro e h; cases h; exact ⟨by simp [decodeBody, decode5, need2], by simp [twoWords], by simp⟩
theorem RoundTrip.vfnms (fmt : BitVec 4) (rnd : BitVec 2) (k : BitVec 3) (d a b c : Opnd) : RoundTrip.Statement (.vfnms fmt rnd k d a b c) := by
  intro e h; cases h; exact ⟨by simp [decodeBody, decode5, need2], by simp [twoWords], by simp⟩
theorem RoundTrip.vfmin (fmt : BitVec 4) (k : BitVec 3) (d a b : Opnd) : RoundTrip.Statement (.vfmin fmt k d a b) := by
  intro e h; cases h; exact ⟨by simp [decodeBody, decode5, need2], by simp [twoWords], by simp⟩
theorem RoundTrip.vfmax (fmt : BitVec 4) (k : BitVec 3) (d a b : Opnd) : RoundTrip.Statement (.vfmax fmt k d a b) := by
  intro e h; cases h; exact ⟨by simp [decodeBody, decode5, need2], by simp [twoWords], by simp⟩
theorem RoundTrip.vfabs (fmt : BitVec 4) (k : BitVec 3) (d a : Opnd) : RoundTrip.Statement (.vfabs fmt k d a) := by
  intro e h; cases h; exact ⟨by simp [decodeBody, decode5, need2], by simp [twoWords], by simp⟩
theorem RoundTrip.vfneg (fmt : BitVec 4) (k : BitVec 3) (d a : Opnd) : RoundTrip.Statement (.vfneg fmt k d a) := by
  intro e h; cases h; exact ⟨by simp [decodeBody, decode5, need2], by simp [twoWords], by simp⟩
theorem RoundTrip.vsqrt (fmt : BitVec 4) (rnd : BitVec 2) (k : BitVec 3) (d a : Opnd) : RoundTrip.Statement (.vsqrt fmt rnd k d a) := by
  intro e h; cases h; exact ⟨by simp [decodeBody, decode5, need2], by simp [twoWords], by simp⟩
theorem RoundTrip.vrcp (fmt : BitVec 4) (rnd : BitVec 2) (k : BitVec 3) (d a : Opnd) : RoundTrip.Statement (.vrcp fmt rnd k d a) := by
  intro e h; cases h; exact ⟨by simp [decodeBody, decode5, need2], by simp [twoWords], by simp⟩
theorem RoundTrip.vrsq (fmt : BitVec 4) (rnd : BitVec 2) (k : BitVec 3) (d a : Opnd) : RoundTrip.Statement (.vrsq fmt rnd k d a) := by
  intro e h; cases h; exact ⟨by simp [decodeBody, decode5, need2], by simp [twoWords], by simp⟩
theorem RoundTrip.vexp2 (fmt : BitVec 4) (rnd : BitVec 2) (k : BitVec 3) (d a : Opnd) : RoundTrip.Statement (.vexp2 fmt rnd k d a) := by
  intro e h; cases h; exact ⟨by simp [decodeBody, decode5, need2], by simp [twoWords], by simp⟩
theorem RoundTrip.vlog2 (fmt : BitVec 4) (rnd : BitVec 2) (k : BitVec 3) (d a : Opnd) : RoundTrip.Statement (.vlog2 fmt rnd k d a) := by
  intro e h; cases h; exact ⟨by simp [decodeBody, decode5, need2], by simp [twoWords], by simp⟩
theorem RoundTrip.vcmp (cc : BitVec 3) (sg : Bool) (k kd : BitVec 3) (a b : Opnd) : RoundTrip.Statement (.vcmp cc sg k kd a b) := by
  intro e h; cases h; exact ⟨by simp [decodeBody, decode6, need], by simp [twoWords], by simp⟩
theorem RoundTrip.vfcmp (cc : BitVec 3) (fmt : BitVec 4) (k kd : BitVec 3) (a b : Opnd) : RoundTrip.Statement (.vfcmp cc fmt k kd a b) := by
  intro e h; cases h; exact ⟨by simp [decodeBody, decode6, need2], by simp [twoWords], by simp⟩
theorem RoundTrip.kand (kd ka kb : BitVec 3) : RoundTrip.Statement (.kand kd ka kb) := by
  intro e h; cases h; exact ⟨by simp [decodeBody, decode6, need], by simp [twoWords], by simp⟩
theorem RoundTrip.kor (kd ka kb : BitVec 3) : RoundTrip.Statement (.kor kd ka kb) := by
  intro e h; cases h; exact ⟨by simp [decodeBody, decode6, need], by simp [twoWords], by simp⟩
theorem RoundTrip.kxor (kd ka kb : BitVec 3) : RoundTrip.Statement (.kxor kd ka kb) := by
  intro e h; cases h; exact ⟨by simp [decodeBody, decode6, need], by simp [twoWords], by simp⟩
theorem RoundTrip.knot (kd ka : BitVec 3) : RoundTrip.Statement (.knot kd ka) := by
  intro e h; cases h; exact ⟨by simp [decodeBody, decode6, need], by simp [twoWords], by simp⟩
theorem RoundTrip.kpopc (d : Opnd) (ka : BitVec 3) : RoundTrip.Statement (.kpopc d ka) := by
  intro e h; cases h; exact ⟨by simp [decodeBody, decode6, need], by simp [twoWords], by simp⟩
theorem RoundTrip.vsel (k : BitVec 3) (d a b : Opnd) : RoundTrip.Statement (.vsel k d a b) := by
  intro e h; cases h; exact ⟨by simp [decodeBody, decode6, need], by simp [twoWords], by simp⟩
theorem RoundTrip.vcvt (dst src : BitVec 4) (rnd : BitVec 2) (k : BitVec 3) (d a : Opnd) : RoundTrip.Statement (.vcvt dst src rnd k d a) := by
  intro e h; cases h; exact ⟨by simp [decodeBody, decode6, need2], by simp [twoWords], by simp⟩
theorem RoundTrip.vcvtfi (dst src : BitVec 4) (rnd : BitVec 2) (k : BitVec 3) (d a : Opnd) : RoundTrip.Statement (.vcvtfi dst src rnd k d a) := by
  intro e h; cases h; exact ⟨by simp [decodeBody, decode6, need2], by simp [twoWords], by simp⟩
theorem RoundTrip.vcvtif (dst src : BitVec 4) (rnd : BitVec 2) (k : BitVec 3) (d a : Opnd) : RoundTrip.Statement (.vcvtif dst src rnd k d a) := by
  intro e h; cases h; exact ⟨by simp [decodeBody, decode6, need2], by simp [twoWords], by simp⟩
theorem RoundTrip.vcvtii (sat : Bool) (dst src : BitVec 4) (k : BitVec 3) (d a : Opnd) : RoundTrip.Statement (.vcvtii sat dst src k d a) := by
  intro e h; cases h; exact ⟨by simp [decodeBody, decode6, need2], by simp [twoWords], by simp⟩
theorem RoundTrip.vqnt (wid : BitVec 3) (adapt int sg : Bool) (d a c e : Opnd) : RoundTrip.Statement (.vqnt wid adapt int sg d a c e) := by
  intro e h; cases h; exact ⟨by simp [decodeBody, decode6, need2], by simp [twoWords], by simp⟩
theorem RoundTrip.vxpd (sg : Bool) (fmt : BitVec 4) (rnd : BitVec 2) (d a c : Opnd) : RoundTrip.Statement (.vxpd sg fmt rnd d a c) := by
  intro e h; cases h; exact ⟨by simp [decodeBody, decode6, need2], by simp [twoWords], by simp⟩
theorem RoundTrip.vsplat (sg : Bool) (k : BitVec 3) (d a : Opnd) : RoundTrip.Statement (.vsplat sg k d a) := by
  intro e h; cases h; exact ⟨by simp [decodeBody, decode6, need], by simp [twoWords], by simp⟩
theorem RoundTrip.vbcast (k : BitVec 3) (d a b : Opnd) : RoundTrip.Statement (.vbcast k d a b) := by
  intro e h; cases h; exact ⟨by simp [decodeBody, decode6, need], by simp [twoWords], by simp⟩
theorem RoundTrip.vred (op : BitVec 3) (sg : Bool) (k : BitVec 3) (d a : Opnd) : RoundTrip.Statement (.vred op sg k d a) := by
  intro e h; cases h; exact ⟨by simp [decodeBody, decode7, need], by simp [twoWords], by simp⟩
theorem RoundTrip.vfred (op : BitVec 2) (fmt : BitVec 4) (rnd : BitVec 2) (k : BitVec 3) (d a : Opnd) : RoundTrip.Statement (.vfred op fmt rnd k d a) := by
  intro e h; cases h; exact ⟨by simp [decodeBody, decode7, need2], by simp [twoWords], by simp⟩
theorem RoundTrip.vscan (op : BitVec 3) (sg : Bool) (k : BitVec 3) (d a : Opnd) : RoundTrip.Statement (.vscan op sg k d a) := by
  intro e h; cases h; exact ⟨by simp [decodeBody, decode7, need], by simp [twoWords], by simp⟩
theorem RoundTrip.vfscan (op : BitVec 2) (fmt : BitVec 4) (rnd : BitVec 2) (k : BitVec 3) (d a : Opnd) : RoundTrip.Statement (.vfscan op fmt rnd k d a) := by
  intro e h; cases h; exact ⟨by simp [decodeBody, decode7, need2], by simp [twoWords], by simp⟩
theorem RoundTrip.vperm (k : BitVec 3) (d a b : Opnd) : RoundTrip.Statement (.vperm k d a b) := by
  intro e h; cases h; exact ⟨by simp [decodeBody, decode7, need], by simp [twoWords], by simp⟩
theorem RoundTrip.vrot (k : BitVec 3) (d a b : Opnd) : RoundTrip.Statement (.vrot k d a b) := by
  intro e h; cases h; exact ⟨by simp [decodeBody, decode7, need], by simp [twoWords], by simp⟩
theorem RoundTrip.vcmpr (k : BitVec 3) (d a : Opnd) : RoundTrip.Statement (.vcmpr k d a) := by
  intro e h; cases h; exact ⟨by simp [decodeBody, decode7, need], by simp [twoWords], by simp⟩
theorem RoundTrip.viota (k : BitVec 3) (d : Opnd) : RoundTrip.Statement (.viota k d) := by
  intro e h; cases h; exact ⟨by simp [decodeBody, decode7, need], by simp [twoWords], by simp⟩
theorem RoundTrip.vld (d a : Opnd) (imm : BitVec 18) : RoundTrip.Statement (.vld d a imm) := by
  intro e h; cases h; exact ⟨by simp [decodeBody, decode7, need], by simp [twoWords], by simp⟩
theorem RoundTrip.vlds (k : BitVec 3) (d a b : Opnd) : RoundTrip.Statement (.vlds k d a b) := by
  intro e h; cases h; exact ⟨by simp [decodeBody, decode7, need], by simp [twoWords], by simp⟩
theorem RoundTrip.vldx (k : BitVec 3) (d a b : Opnd) : RoundTrip.Statement (.vldx k d a b) := by
  intro e h; cases h; exact ⟨by simp [decodeBody, decode7, need], by simp [twoWords], by simp⟩
theorem RoundTrip.vst (d a : Opnd) (imm : BitVec 18) : RoundTrip.Statement (.vst d a imm) := by
  intro e h; cases h; exact ⟨by simp [decodeBody, decode7, need], by simp [twoWords], by simp⟩
theorem RoundTrip.vsts (k : BitVec 3) (d a b : Opnd) : RoundTrip.Statement (.vsts k d a b) := by
  intro e h; cases h; exact ⟨by simp [decodeBody, decode7, need], by simp [twoWords], by simp⟩
theorem RoundTrip.vstx (k : BitVec 3) (d a b : Opnd) : RoundTrip.Statement (.vstx k d a b) := by
  intro e h; cases h; exact ⟨by simp [decodeBody, decode7, need], by simp [twoWords], by simp⟩
theorem RoundTrip.vgetx (sg : Bool) (d a b : Opnd) : RoundTrip.Statement (.vgetx sg d a b) := by
  intro e h; cases h; exact ⟨by simp [decodeBody, decode7, need], by simp [twoWords], by simp⟩
theorem RoundTrip.vmov (sg : Bool) (k : BitVec 3) (d a : Opnd) : RoundTrip.Statement (.vmov sg k d a) := by
  intro e h; cases h; exact ⟨by simp [decodeBody, decode7, need], by simp [twoWords], by simp⟩
theorem RoundTrip.feeda (cont mc : Bool) (e : BitVec 7) (cw kn : Opnd) : RoundTrip.Statement (.feeda cont mc e cw kn) := by
  intro e h; cases h; exact ⟨by simp [decodeBody, decode8, need], by simp [twoWords], by simp⟩
theorem RoundTrip.feedb (cont mc : Bool) (e : BitVec 7) (cw kn : Opnd) : RoundTrip.Statement (.feedb cont mc e cw kn) := by
  intro e h; cases h; exact ⟨by simp [decodeBody, decode8, need], by simp [twoWords], by simp⟩
theorem RoundTrip.feedax (mc : Bool) (e : BitVec 7) (cw kn : Opnd) : RoundTrip.Statement (.feedax mc e cw kn) := by
  intro e h; cases h; exact ⟨by simp [decodeBody, decode8, need], by simp [twoWords], by simp⟩
theorem RoundTrip.feedbx (mc : Bool) (e : BitVec 7) (cw kn : Opnd) : RoundTrip.Statement (.feedbx mc e cw kn) := by
  intro e h; cases h; exact ⟨by simp [decodeBody, decode8, need], by simp [twoWords], by simp⟩
theorem RoundTrip.wina (e : BitVec 7) (cw kn : Opnd) : RoundTrip.Statement (.wina e cw kn) := by
  intro e h; cases h; exact ⟨by simp [decodeBody, decode8, need], by simp [twoWords], by simp⟩
theorem RoundTrip.winb (e : BitVec 7) (cw kn : Opnd) : RoundTrip.Statement (.winb e cw kn) := by
  intro e h; cases h; exact ⟨by simp [decodeBody, decode8, need], by simp [twoWords], by simp⟩
theorem RoundTrip.cropa (e : BitVec 7) (cw : Opnd) : RoundTrip.Statement (.cropa e cw) := by
  intro e h; cases h; exact ⟨by simp [decodeBody, decode8, need], by simp [twoWords], by simp⟩
theorem RoundTrip.qclr (qb rcu : Bool) (e : BitVec 7) (kn : Opnd) : RoundTrip.Statement (.qclr qb rcu e kn) := by
  intro e h; cases h; exact ⟨by simp [decodeBody, decode8, need], by simp [twoWords], by simp⟩
theorem RoundTrip.mma (p : BitVec 6) (cw kn : Opnd) : RoundTrip.Statement (.mma p cw kn) := by
  intro e h; cases h; exact ⟨by simp [decodeBody, decode8, need], by simp [twoWords], by simp⟩
theorem RoundTrip.mmac (p : BitVec 6) (cw kn : Opnd) : RoundTrip.Statement (.mmac p cw kn) := by
  intro e h; cases h; exact ⟨by simp [decodeBody, decode8, need], by simp [twoWords], by simp⟩
theorem RoundTrip.aclr (e : BitVec 7) (kn : Opnd) : RoundTrip.Statement (.aclr e kn) := by
  intro e h; cases h; exact ⟨by simp [decodeBody, decode8, need], by simp [twoWords], by simp⟩
theorem RoundTrip.ald (e : BitVec 7) (cw kn : Opnd) : RoundTrip.Statement (.ald e cw kn) := by
  intro e h; cases h; exact ⟨by simp [decodeBody, decode8, need], by simp [twoWords], by simp⟩
theorem RoundTrip.asav (e : BitVec 7) (cw kn : Opnd) : RoundTrip.Statement (.asav e cw kn) := by
  intro e h; cases h; exact ⟨by simp [decodeBody, decode8, need], by simp [twoWords], by simp⟩
theorem RoundTrip.drn (e : BitVec 7) (cw kn : Opnd) : RoundTrip.Statement (.drn e cw kn) := by
  intro e h; cases h; exact ⟨by simp [decodeBody, decode8, need], by simp [twoWords], by simp⟩
theorem RoundTrip.drna (e : BitVec 7) (cw kn : Opnd) : RoundTrip.Statement (.drna e cw kn) := by
  intro e h; cases h; exact ⟨by simp [decodeBody, decode8, need], by simp [twoWords], by simp⟩
theorem RoundTrip.drnf (e : BitVec 7) (cw kn : Opnd) : RoundTrip.Statement (.drnf e cw kn) := by
  intro e h; cases h; exact ⟨by simp [decodeBody, decode8, need], by simp [twoWords], by simp⟩
theorem RoundTrip.wcfg (cw kn : Opnd) : RoundTrip.Statement (.wcfg cw kn) := by
  intro e h; cases h; exact ⟨by simp [decodeBody, decode9, need], by simp [twoWords], by simp⟩
theorem RoundTrip.wpadv (cw : Opnd) : RoundTrip.Statement (.wpadv cw) := by
  intro e h; cases h; exact ⟨by simp [decodeBody, decode9, need], by simp [twoWords], by simp⟩
theorem RoundTrip.boxcfg (cw kn : Opnd) : RoundTrip.Statement (.boxcfg cw kn) := by
  intro e h; cases h; exact ⟨by simp [decodeBody, decode9, need], by simp [twoWords], by simp⟩
theorem RoundTrip.poolmx (init fin : Bool) (e : BitVec 7) (cw kn : Opnd) : RoundTrip.Statement (.poolmx init fin e cw kn) := by
  intro e h; cases h; exact ⟨by simp [decodeBody, decode9, need], by simp [twoWords], by simp⟩
theorem RoundTrip.poolav (init fin : Bool) (e : BitVec 7) (cw kn : Opnd) : RoundTrip.Statement (.poolav init fin e cw kn) := by
  intro e h; cases h; exact ⟨by simp [decodeBody, decode9, need], by simp [twoWords], by simp⟩
theorem RoundTrip.ascl (rnd : BitVec 2) (e : BitVec 7) (cw kn : Opnd) : RoundTrip.Statement (.ascl rnd e cw kn) := by
  intro e h; cases h; exact ⟨by simp [decodeBody, decode9, need], by simp [twoWords], by simp⟩
theorem RoundTrip.abias (rnd : BitVec 2) (e : BitVec 7) (cw kn : Opnd) : RoundTrip.Statement (.abias rnd e cw kn) := by
  intro e h; cases h; exact ⟨by simp [decodeBody, decode9, need], by simp [twoWords], by simp⟩
theorem RoundTrip.aclmp (e : BitVec 7) (cw kn : Opnd) : RoundTrip.Statement (.aclmp e cw kn) := by
  intro e h; cases h; exact ⟨by simp [decodeBody, decode9, need], by simp [twoWords], by simp⟩
theorem RoundTrip.ardv (e : BitVec 7) (cw kn : Opnd) : RoundTrip.Statement (.ardv e cw kn) := by
  intro e h; cases h; exact ⟨by simp [decodeBody, decode9, need], by simp [twoWords], by simp⟩
theorem RoundTrip.awrv (e : BitVec 7) (cw kn : Opnd) : RoundTrip.Statement (.awrv e cw kn) := by
  intro e h; cases h; exact ⟨by simp [decodeBody, decode9, need], by simp [twoWords], by simp⟩
theorem RoundTrip.drnr (e : BitVec 7) (cw kn : Opnd) : RoundTrip.Statement (.drnr e cw kn) := by
  intro e h; cases h; exact ⟨by simp [decodeBody, decode9, need], by simp [twoWords], by simp⟩
theorem RoundTrip.mmaz (p : BitVec 6) (cw kn : Opnd) : RoundTrip.Statement (.mmaz p cw kn) := by
  intro e h; cases h; exact ⟨by simp [decodeBody, decode9, need], by simp [twoWords], by simp⟩
theorem RoundTrip.feedd (qb : Bool) (e : BitVec 7) (cw kn : Opnd) : RoundTrip.Statement (.feedd qb e cw kn) := by
  intro e h; cases h; exact ⟨by simp [decodeBody, decode9, need], by simp [twoWords], by simp⟩
theorem RoundTrip.mcfg (cw : Opnd) : RoundTrip.Statement (.mcfg cw) := by
  intro e h; cases h; exact ⟨by simp [decodeBody, decode9, need], by simp [twoWords], by simp⟩
theorem RoundTrip.mstat (kn : Opnd) : RoundTrip.Statement (.mstat kn) := by
  intro e h; cases h; exact ⟨by simp [decodeBody, decode9, need], by simp [twoWords], by simp⟩
theorem RoundTrip.qstat (kn : Opnd) : RoundTrip.Statement (.qstat kn) := by
  intro e h; cases h; exact ⟨by simp [decodeBody, decode9, need], by simp [twoWords], by simp⟩
theorem RoundTrip.copy (f : FcArgs) : RoundTrip.Statement (.copy f) := by
  intro e h; cases h; exact ⟨by simp [decodeBody, decodeA, need2], by simp [twoWords], by simp⟩
theorem RoundTrip.copya (f : FcArgs) : RoundTrip.Statement (.copya f) := by
  intro e h; cases h; exact ⟨by simp [decodeBody, decodeA, need2], by simp [twoWords], by simp⟩
theorem RoundTrip.seqcfg (slot : BitVec 3) (off : BitVec 15) (a : Opnd) : RoundTrip.Statement (.seqcfg slot off a) := by
  intro e h; cases h; exact ⟨by simp [decodeBody, decodeA, need], by simp [twoWords], by simp⟩
theorem RoundTrip.mcopy (f : FcArgs) : RoundTrip.Statement (.mcopy f) := by
  intro e h; cases h; exact ⟨by simp [decodeBody, decodeA, need2], by simp [twoWords], by simp⟩
theorem RoundTrip.tlfetch (f : FcArgs) : RoundTrip.Statement (.tlfetch f) := by
  intro e h; cases h; exact ⟨by simp [decodeBody, decodeA, need2], by simp [twoWords], by simp⟩
theorem RoundTrip.ucopy (f : FcArgs) : RoundTrip.Statement (.ucopy f) := by
  intro e h; cases h; exact ⟨by simp [decodeBody, decodeA, need2], by simp [twoWords], by simp⟩
theorem RoundTrip.gath (f : FcArgs) : RoundTrip.Statement (.gath f) := by
  intro e h; cases h; exact ⟨by simp [decodeBody, decodeA, need2], by simp [twoWords], by simp⟩
theorem RoundTrip.gaths (f : FcArgs) : RoundTrip.Statement (.gaths f) := by
  intro e h; cases h; exact ⟨by simp [decodeBody, decodeA, need2], by simp [twoWords], by simp⟩
theorem RoundTrip.scat (f : FcArgs) : RoundTrip.Statement (.scat f) := by
  intro e h; cases h; exact ⟨by simp [decodeBody, decodeA, need2], by simp [twoWords], by simp⟩
theorem RoundTrip.scatw (f : FcArgs) : RoundTrip.Statement (.scatw f) := by
  intro e h; cases h; exact ⟨by simp [decodeBody, decodeA, need2], by simp [twoWords], by simp⟩
theorem RoundTrip.pin (d a : Opnd) (beats : BitVec 12) : RoundTrip.Statement (.pin d a beats) := by
  intro e h; cases h; exact ⟨by simp [decodeBody, decodeA, need], by simp [twoWords], by simp⟩
theorem RoundTrip.unpin (d a : Opnd) : RoundTrip.Statement (.unpin d a) := by
  intro e h; cases h; exact ⟨by simp [decodeBody, decodeA, need], by simp [twoWords], by simp⟩
theorem RoundTrip.xform (f : FcArgs) : RoundTrip.Statement (.xform f) := by
  intro e h; cases h; exact ⟨by simp [decodeBody, decodeA, need2], by simp [twoWords], by simp⟩
theorem RoundTrip.xformv (f : FcArgs) : RoundTrip.Statement (.xformv f) := by
  intro e h; cases h; exact ⟨by simp [decodeBody, decodeA, need2], by simp [twoWords], by simp⟩
theorem RoundTrip.ufill (f : FcArgs) : RoundTrip.Statement (.ufill f) := by
  intro e h; cases h; exact ⟨by simp [decodeBody, decodeA, need2], by simp [twoWords], by simp⟩
theorem RoundTrip.xstat (d a : Opnd) : RoundTrip.Statement (.xstat d a) := by
  intro e h; cases h; exact ⟨by simp [decodeBody, decodeA, need], by simp [twoWords], by simp⟩
theorem RoundTrip.atadd (sp : BitVec 3) (d a b : Opnd) : RoundTrip.Statement (.atadd sp d a b) := by
  intro e h; cases h; exact ⟨by simp [decodeBody, decodeB, need], by simp [twoWords], by simp⟩
theorem RoundTrip.atmin (flag : Bool) (sp : BitVec 3) (d a b : Opnd) : RoundTrip.Statement (.atmin flag sp d a b) := by
  intro e h; cases h; exact ⟨by simp [decodeBody, decodeB, need], by simp [twoWords], by simp⟩
theorem RoundTrip.atmax (flag : Bool) (sp : BitVec 3) (d a b : Opnd) : RoundTrip.Statement (.atmax flag sp d a b) := by
  intro e h; cases h; exact ⟨by simp [decodeBody, decodeB, need], by simp [twoWords], by simp⟩
theorem RoundTrip.atand (sp : BitVec 3) (d a b : Opnd) : RoundTrip.Statement (.atand sp d a b) := by
  intro e h; cases h; exact ⟨by simp [decodeBody, decodeB, need], by simp [twoWords], by simp⟩
theorem RoundTrip.ator (sp : BitVec 3) (d a b : Opnd) : RoundTrip.Statement (.ator sp d a b) := by
  intro e h; cases h; exact ⟨by simp [decodeBody, decodeB, need], by simp [twoWords], by simp⟩
theorem RoundTrip.atxor (sp : BitVec 3) (d a b : Opnd) : RoundTrip.Statement (.atxor sp d a b) := by
  intro e h; cases h; exact ⟨by simp [decodeBody, decodeB, need], by simp [twoWords], by simp⟩
theorem RoundTrip.atswp (sp : BitVec 3) (d a b : Opnd) : RoundTrip.Statement (.atswp sp d a b) := by
  intro e h; cases h; exact ⟨by simp [decodeBody, decodeB, need], by simp [twoWords], by simp⟩
theorem RoundTrip.atcas (sp : BitVec 3) (d a b c : Opnd) : RoundTrip.Statement (.atcas sp d a b c) := by
  intro e h; cases h; exact ⟨by simp [decodeBody, decodeB, need2], by simp [twoWords], by simp⟩
theorem RoundTrip.atfmin (flag : Bool) (sp : BitVec 3) (d a b : Opnd) : RoundTrip.Statement (.atfmin flag sp d a b) := by
  intro e h; cases h; exact ⟨by simp [decodeBody, decodeB, need], by simp [twoWords], by simp⟩
theorem RoundTrip.atfmax (flag : Bool) (sp : BitVec 3) (d a b : Opnd) : RoundTrip.Statement (.atfmax flag sp d a b) := by
  intro e h; cases h; exact ⟨by simp [decodeBody, decodeB, need], by simp [twoWords], by simp⟩
theorem RoundTrip.atfadd (flag : Bool) (sp : BitVec 3) (d a b : Opnd) : RoundTrip.Statement (.atfadd flag sp d a b) := by
  intro e h; cases h; exact ⟨by simp [decodeBody, decodeB, need], by simp [twoWords], by simp⟩
theorem RoundTrip.gongArr (d a : Opnd) (n : BitVec 12) : RoundTrip.Statement (.gongArr d a n) := by
  intro e h; cases h; exact ⟨by simp [decodeBody, decodeB, need], by simp [twoWords], by simp⟩
theorem RoundTrip.gongWait (a : Opnd) : RoundTrip.Statement (.gongWait a) := by
  intro e h; cases h; exact ⟨by simp [decodeBody, decodeB, need], by simp [twoWords], by simp⟩
theorem RoundTrip.gongHdl (flag : Bool) (sp : BitVec 3) (d a b : Opnd) : RoundTrip.Statement (.gongHdl flag sp d a b) := by
  intro e h; cases h; exact ⟨by simp [decodeBody, decodeB, need], by simp [twoWords], by simp⟩
theorem RoundTrip.gongInit (sp : BitVec 3) (a b : Opnd) : RoundTrip.Statement (.gongInit sp a b) := by
  intro e h; cases h; exact ⟨by simp [decodeBody, decodeB, need], by simp [twoWords], by simp⟩
theorem RoundTrip.lstep (lead : Bool) (d a b : Opnd) : RoundTrip.Statement (.lstep lead d a b) := by
  intro e h; cases h; exact ⟨by simp [decodeBody, decodeB, need], by simp [twoWords], by simp⟩
theorem RoundTrip.lgraph (lead : Bool) (d a b : Opnd) : RoundTrip.Statement (.lgraph lead d a b) := by
  intro e h; cases h; exact ⟨by simp [decodeBody, decodeC, need], by simp [twoWords], by simp⟩
theorem RoundTrip.cmuTab (a : Opnd) (tag : BitVec 4) : RoundTrip.Statement (.cmuTab a tag) := by
  intro e h; cases h; exact ⟨by simp [decodeBody, decodeC, need], by simp [twoWords], by simp⟩
theorem RoundTrip.cmuFrm (a : Opnd) (tag : BitVec 4) : RoundTrip.Statement (.cmuFrm a tag) := by
  intro e h; cases h; exact ⟨by simp [decodeBody, decodeC, need], by simp [twoWords], by simp⟩
theorem RoundTrip.mpb (a : Opnd) (tag : BitVec 4) : RoundTrip.Statement (.mpb a tag) := by
  intro e h; cases h; exact ⟨by simp [decodeBody, decodeC, need], by simp [twoWords], by simp⟩
theorem RoundTrip.belLook (a : Opnd) (tag : BitVec 4) : RoundTrip.Statement (.belLook a tag) := by
  intro e h; cases h; exact ⟨by simp [decodeBody, decodeC, need], by simp [twoWords], by simp⟩
theorem RoundTrip.belDep (a : Opnd) (tag : BitVec 4) : RoundTrip.Statement (.belDep a tag) := by
  intro e h; cases h; exact ⟨by simp [decodeBody, decodeC, need], by simp [twoWords], by simp⟩
theorem RoundTrip.belRes (a : Opnd) (tag : BitVec 4) : RoundTrip.Statement (.belRes a tag) := by
  intro e h; cases h; exact ⟨by simp [decodeBody, decodeC, need], by simp [twoWords], by simp⟩
theorem RoundTrip.belPin (a : Opnd) (tag : BitVec 4) : RoundTrip.Statement (.belPin a tag) := by
  intro e h; cases h; exact ⟨by simp [decodeBody, decodeC, need], by simp [twoWords], by simp⟩
theorem RoundTrip.act (bank : BitVec 4) (row : BitVec 16) : RoundTrip.Statement (.act bank row) := by
  intro e h; cases h; exact ⟨by simp [decodeBody, decodeC, need], by simp [twoWords], by simp⟩
theorem RoundTrip.rd (bank : BitVec 4) (col : BitVec 5) (beat : BitVec 13) : RoundTrip.Statement (.rd bank col beat) := by
  intro e h; cases h; exact ⟨by simp [decodeBody, decodeC, need], by simp [twoWords], by simp⟩
theorem RoundTrip.wr (bank : BitVec 4) (col : BitVec 5) (beat : BitVec 13) : RoundTrip.Statement (.wr bank col beat) := by
  intro e h; cases h; exact ⟨by simp [decodeBody, decodeC, need], by simp [twoWords], by simp⟩
theorem RoundTrip.pre (bank : BitVec 4) : RoundTrip.Statement (.pre bank) := by
  intro e h; cases h; exact ⟨by simp [decodeBody, decodeC, need], by simp [twoWords], by simp⟩
theorem RoundTrip.prea : RoundTrip.Statement (.prea) := by
  intro e h; cases h; exact ⟨by simp [decodeBody, decodeC, need], by simp [twoWords], by simp⟩
theorem RoundTrip.refpb (bank : BitVec 4) : RoundTrip.Statement (.refpb bank) := by
  intro e h; cases h; exact ⟨by simp [decodeBody, decodeC, need], by simp [twoWords], by simp⟩
theorem RoundTrip.rda (bank : BitVec 4) (col : BitVec 5) (beat : BitVec 13) : RoundTrip.Statement (.rda bank col beat) := by
  intro e h; cases h; exact ⟨by simp [decodeBody, decodeC, need], by simp [twoWords], by simp⟩
theorem RoundTrip.wra (bank : BitVec 4) (col : BitVec 5) (beat : BitVec 13) : RoundTrip.Statement (.wra bank col beat) := by
  intro e h; cases h; exact ⟨by simp [decodeBody, decodeC, need], by simp [twoWords], by simp⟩
theorem RoundTrip.ringSet (base : BitVec 16) (lines : BitVec 13) (rank : BitVec 6) : RoundTrip.Statement (.ringSet base lines rank) := by
  intro e h; cases h; exact ⟨by simp [decodeBody, decodeD, need], by simp [twoWords], by simp⟩
theorem RoundTrip.ringSeek (rows : BitVec 16) (beat : BitVec 13) : RoundTrip.Statement (.ringSeek rows beat) := by
  intro e h; cases h; exact ⟨by simp [decodeBody, decodeD, need], by simp [twoWords], by simp⟩
theorem RoundTrip.ringAdv (rows : BitVec 16) (beat : BitVec 13) : RoundTrip.Statement (.ringAdv rows beat) := by
  intro e h; cases h; exact ⟨by simp [decodeBody, decodeD, need], by simp [twoWords], by simp⟩
theorem RoundTrip.ringGong (beat : BitVec 13) : RoundTrip.Statement (.ringGong beat) := by
  intro e h; cases h; exact ⟨by simp [decodeBody, decodeD, need], by simp [twoWords], by simp⟩
theorem RoundTrip.wrm (bank : BitVec 4) (col : BitVec 5) (beat : BitVec 13) (mask : BitVec 8) : RoundTrip.Statement (.wrm bank col beat mask) := by
  intro e h; cases h; exact ⟨by simp [decodeBody, decodeD, need], by simp [twoWords], by simp⟩
theorem RoundTrip.rdz (bank : BitVec 4) (col : BitVec 5) : RoundTrip.Statement (.rdz bank col) := by
  intro e h; cases h; exact ⟨by simp [decodeBody, decodeD, need], by simp [twoWords], by simp⟩
theorem RoundTrip.wrz (bank : BitVec 4) (col : BitVec 5) : RoundTrip.Statement (.wrz bank col) := by
  intro e h; cases h; exact ⟨by simp [decodeBody, decodeD, need], by simp [twoWords], by simp⟩
theorem RoundTrip.dmark (beat : BitVec 13) (code : BitVec 8) : RoundTrip.Statement (.dmark beat code) := by
  intro e h; cases h; exact ⟨by simp [decodeBody, decodeD, need], by simp [twoWords], by simp⟩
theorem RoundTrip.nop : RoundTrip.Statement (.nop) := by
  intro e h; cases h; exact ⟨by simp [decodeBody, decodeD, need], by simp [twoWords], by simp⟩
theorem RoundTrip.trap (code : BitVec 10) : RoundTrip.Statement (.trap code) := by
  intro e h; cases h; exact ⟨by simp [decodeBody, decodeD, need], by simp [twoWords], by simp⟩
theorem RoundTrip.trapnz (a : Opnd) (code : BitVec 10) : RoundTrip.Statement (.trapnz a code) := by
  intro e h; cases h; exact ⟨by simp [decodeBody, decodeD, need], by simp [twoWords], by simp⟩
theorem RoundTrip.brk (code : BitVec 10) : RoundTrip.Statement (.brk code) := by
  intro e h; cases h; exact ⟨by simp [decodeBody, decodeD, need], by simp [twoWords], by simp⟩
theorem RoundTrip.svc (d a : Opnd) (code : BitVec 10) : RoundTrip.Statement (.svc d a code) := by
  intro e h; cases h; exact ⟨by simp [decodeBody, decodeD, need], by simp [twoWords], by simp⟩
theorem RoundTrip.event (d a : Opnd) (code : BitVec 10) : RoundTrip.Statement (.event d a code) := by
  intro e h; cases h; exact ⟨by simp [decodeBody, decodeD, need], by simp [twoWords], by simp⟩
theorem RoundTrip.ckmark (code : BitVec 10) : RoundTrip.Statement (.ckmark code) := by
  intro e h; cases h; exact ⟨by simp [decodeBody, decodeD, need], by simp [twoWords], by simp⟩
theorem RoundTrip.ill (body : BitVec 46) : RoundTrip.Statement (.ill body) := by
  intro e h; cases h; exact ⟨by simp [decodeBody, decodeD, need], by simp [twoWords], by simp⟩
theorem RoundTrip.unassignedOpcode (op : BitVec 8) : RoundTrip.Statement (.unassignedOpcode op) := by intro e h; cases h
theorem RoundTrip.stepOverrun (g : Nat) : RoundTrip.Statement (.stepOverrun g) := by intro e h; cases h
theorem RoundTrip.abandonmentFinish (g : Nat) : RoundTrip.Statement (.abandonmentFinish g) := by intro e h; cases h
theorem RoundTrip.trapRecord (g : Nat) : RoundTrip.Statement (.trapRecord g) := by intro e h; cases h
theorem RoundTrip.stepCompletion (g : Nat) : RoundTrip.Statement (.stepCompletion g) := by intro e h; cases h
theorem RoundTrip.flagAreaWrite (job : Nat) : RoundTrip.Statement (.flagAreaWrite job) := by intro e h; cases h
theorem RoundTrip.segmentRelease (g : Nat) : RoundTrip.Statement (.segmentRelease g) := by intro e h; cases h
theorem RoundTrip.loopIterationStart (g rank : Nat) (strm : StreamId) : RoundTrip.Statement (.loopIterationStart g rank strm) := by intro e h; cases h
theorem RoundTrip.dynamicWaitEnd (g rank : Nat) : RoundTrip.Statement (.dynamicWaitEnd g rank) := by intro e h; cases h
theorem RoundTrip.waitBudgetExhausted (g rank : Nat) : RoundTrip.Statement (.waitBudgetExhausted g rank) := by intro e h; cases h
theorem RoundTrip.untimedBeatLanding (req move : Nat) : RoundTrip.Statement (.untimedBeatLanding req move) := by intro e h; cases h
theorem RoundTrip.untimedCompletion (req : Nat) (cancelled : Bool) : RoundTrip.Statement (.untimedCompletion req cancelled) := by intro e h; cases h
theorem RoundTrip.traceForward (core : Nat) : RoundTrip.Statement (.traceForward core) := by intro e h; cases h
theorem RoundTrip.refreshAccrual (pch bank : Nat) : RoundTrip.Statement (.refreshAccrual pch bank) := by intro e h; cases h
theorem RoundTrip.baseDieRefresh (pch bank : Nat) : RoundTrip.Statement (.baseDieRefresh pch bank) := by intro e h; cases h
theorem RoundTrip.abandonPrecharge (pch bank : Nat) : RoundTrip.Statement (.abandonPrecharge pch bank) := by intro e h; cases h
theorem RoundTrip.pooledSlot (pch : Nat) : RoundTrip.Statement (.pooledSlot pch) := by intro e h; cases h
theorem RoundTrip.scrub (key : Nat) : RoundTrip.Statement (.scrub key) := by intro e h; cases h
theorem RoundTrip.dispatchSlot : RoundTrip.Statement (.dispatchSlot) := by intro e h; cases h
theorem RoundTrip.stagingCheck (g : Nat) : RoundTrip.Statement (.stagingCheck g) := by intro e h; cases h
theorem RoundTrip.downbeat (g : Nat) : RoundTrip.Statement (.downbeat g) := by intro e h; cases h
theorem RoundTrip.waiterRelease (stepId : Nat) : RoundTrip.Statement (.waiterRelease stepId) := by intro e h; cases h
theorem RoundTrip.futureResolved (root va : Nat) (entry : BitVec 64) : RoundTrip.Statement (.futureResolved root va entry) := by intro e h; cases h
theorem RoundTrip.regionResident (job lreg pch : Nat) (rows : List Nat) : RoundTrip.Statement (.regionResident job lreg pch rows) := by intro e h; cases h
theorem RoundTrip.preemption (op : Nat) : RoundTrip.Statement (.preemption op) := by intro e h; cases h
theorem RoundTrip.affinityHoldExpiry (op : Nat) : RoundTrip.Statement (.affinityHoldExpiry op) := by intro e h; cases h
theorem RoundTrip.hangTimeout : RoundTrip.Statement (.hangTimeout) := by intro e h; cases h
theorem RoundTrip.queueRecordWrite (q : Nat) (rec : BitVec 128) : RoundTrip.Statement (.queueRecordWrite q rec) := by intro e h; cases h
theorem RoundTrip.versionRegister (rec : BitVec 512) : RoundTrip.Statement (.versionRegister rec) := by intro e h; cases h
theorem RoundTrip.pchModeChange (pch : Nat) (mode : PchMode) : RoundTrip.Statement (.pchModeChange pch mode) := by intro e h; cases h
theorem RoundTrip.launchPacket (off : Nat) (bytes : List Byte) : RoundTrip.Statement (.launchPacket off bytes) := by intro e h; cases h
theorem RoundTrip.framePacket (q : Nat) (bytes : List Byte) : RoundTrip.Statement (.framePacket q bytes) := by intro e h; cases h
theorem RoundTrip.accessUnitConsumed (stream : Nat) : RoundTrip.Statement (.accessUnitConsumed stream) := by intro e h; cases h
theorem RoundTrip.frameOutput (stream pic : Nat) : RoundTrip.Statement (.frameOutput stream pic) := by intro e h; cases h
theorem RoundTrip.frameGongArrival (stream : Nat) : RoundTrip.Statement (.frameGongArrival stream) := by intro e h; cases h
theorem RoundTrip.streamOpen (stream engine codec q rate : Nat) (gong : BitVec 64) : RoundTrip.Statement (.streamOpen stream engine codec q rate gong) := by intro e h; cases h
theorem RoundTrip.layerTableLoad (req : Nat) : RoundTrip.Statement (.layerTableLoad req) := by intro e h; cases h
theorem RoundTrip.frameScoring (req : Nat) : RoundTrip.Statement (.frameScoring req) := by intro e h; cases h
theorem RoundTrip.belfryDeposit (req : Nat) : RoundTrip.Statement (.belfryDeposit req) := by intro e h; cases h
theorem RoundTrip.depositCopyDone (req : Nat) : RoundTrip.Statement (.depositCopyDone req) := by intro e h; cases h
theorem RoundTrip.belfryLookup (req : Nat) : RoundTrip.Statement (.belfryLookup req) := by intro e h; cases h
theorem RoundTrip.belfryResumption (req : Nat) : RoundTrip.Statement (.belfryResumption req) := by intro e h; cases h
theorem RoundTrip.belfryPin (req : Nat) : RoundTrip.Statement (.belfryPin req) := by intro e h; cases h
theorem RoundTrip.rowRepair (pch bank row : Nat) (hard : Bool) : RoundTrip.Statement (.rowRepair pch bank row hard) := by intro e h; cases h
theorem RoundTrip.dieSubstitution (die : Nat) : RoundTrip.Statement (.dieSubstitution die) := by intro e h; cases h
theorem RoundTrip.substitutionEnd (die : Nat) : RoundTrip.Statement (.substitutionEnd die) := by intro e h; cases h
theorem RoundTrip.dieAbsent (die : Nat) : RoundTrip.Statement (.dieAbsent die) := by intro e h; cases h
theorem RoundTrip.hostWindowWrite (off : Nat) (bytes : List Byte) : RoundTrip.Statement (.hostWindowWrite off bytes) := by intro e h; cases h
theorem RoundTrip.hostWindowRead (off len : Nat) : RoundTrip.Statement (.hostWindowRead off len) := by intro e h; cases h
theorem RoundTrip.invgo (val : BitVec 64) : RoundTrip.Statement (.invgo val) := by intro e h; cases h
theorem RoundTrip.invalidationDone : RoundTrip.Statement (.invalidationDone) := by intro e h; cases h
theorem RoundTrip.econs (ring : Nat) (val : BitVec 64) : RoundTrip.Statement (.econs ring val) := by intro e h; cases h
theorem RoundTrip.rctlGo (val : BitVec 64) : RoundTrip.Statement (.rctlGo val) := by intro e h; cases h
theorem RoundTrip.registerWrite (bar off : Nat) (val : BitVec 64) : RoundTrip.Statement (.registerWrite bar off val) := by intro e h; cases h
theorem RoundTrip.getVersion : RoundTrip.Statement (.getVersion) := by intro e h; cases h
theorem RoundTrip.getCapabilities : RoundTrip.Statement (.getCapabilities) := by intro e h; cases h
theorem RoundTrip.negotiateAlgorithms (hash asym : BitVec 32) : RoundTrip.Statement (.negotiateAlgorithms hash asym) := by intro e h; cases h
theorem RoundTrip.getDigests : RoundTrip.Statement (.getDigests) := by intro e h; cases h
theorem RoundTrip.getCertificate (slot off len : Nat) : RoundTrip.Statement (.getCertificate slot off len) := by intro e h; cases h
theorem RoundTrip.challenge (slot : Nat) (nonce : BitVec 256) : RoundTrip.Statement (.challenge slot nonce) := by intro e h; cases h
theorem RoundTrip.getMeasurements (index : Nat) (nonce : BitVec 256) : RoundTrip.Statement (.getMeasurements index nonce) := by intro e h; cases h
theorem RoundTrip.configurationRequest (write : Bool) (reg : Nat) (val : BitVec 32) : RoundTrip.Statement (.configurationRequest write reg val) := by intro e h; cases h
theorem RoundTrip.coldReset : RoundTrip.Statement (.coldReset) := by intro e h; cases h
theorem RoundTrip.bootStage (imgs : List Image) : RoundTrip.Statement (.bootStage imgs) := by intro e h; cases h
theorem RoundTrip.functionLevelReset : RoundTrip.Statement (.functionLevelReset) := by intro e h; cases h
theorem RoundTrip.thermalHold (tempC : Nat) : RoundTrip.Statement (.thermalHold tempC) := by intro e h; cases h
theorem RoundTrip.thermalHoldEnd (tempC : Nat) : RoundTrip.Statement (.thermalHoldEnd tempC) := by intro e h; cases h
theorem RoundTrip.powerHold (watts : Nat) : RoundTrip.Statement (.powerHold watts) := by intro e h; cases h
theorem RoundTrip.powerHoldEnd (watts : Nat) : RoundTrip.Statement (.powerHoldEnd watts) := by intro e h; cases h
theorem RoundTrip.thermalShutdown : RoundTrip.Statement (.thermalShutdown) := by intro e h; cases h
theorem RoundTrip.jobAbort (job : Nat) : RoundTrip.Statement (.jobAbort job) := by intro e h; cases h
theorem RoundTrip.lineRemap (unit : Nat) : RoundTrip.Statement (.lineRemap unit) := by intro e h; cases h

end Sys2Proof.Laws
end

