-- ==== Sys2Proof/Tests/Slice0.lean ====
section
/-! SUPPORT. The author's own tests: ill-formed terms that WellFormed refuses, words put together from the formats of chapter 04
that decode to what they stand for, results worked out by hand from the rules, and, for every statement that has hypotheses, a
state and operands that meet them, clause by clause. -/
set_option Elab.async false
namespace Sys2Proof.Tests
open Sys2Proof Sys2Proof.Machine

/-! Helpers. -/

/-- Operands of 8, 16, 32 and 64 bits. -/
def o8 (n : Nat) : Opnd := ⟨BitVec.ofNat 10 n, 1⟩
def o16 (n : Nat) : Opnd := ⟨BitVec.ofNat 10 n, 3⟩
def o32 (n : Nat) : Opnd := ⟨BitVec.ofNat 10 n, 7⟩
def o64 (n : Nat) : Opnd := ⟨BitVec.ofNat 10 n, 15⟩
/-- One that goes beyond slice 1023 (R90). -/
def out32 : Opnd := o32 1017

/-- The machine after reset with a step of one core, whose next word has the opcode of `i`, and the cursor on the stream that
issues it. -/
def ready (i : Instr) : State :=
  let op : Nat := match encode i, i with
    | some e, _ => e.op.toNat
    | none, .unassignedOpcode op => op.toNat
    | none, _ => 0xFF
  { State.reset.withFetchWord 64 (op * 2 ^ 46) with cursor := ⟨0, 0, firstStream op⟩ }

/-- A change of the one core, of the one gang, and an `x` operand set to a value. -/
def core (f : Core → Core) (s : State) : State := s.modCore 0 0 f
def gang (f : Gang → Gang) (s : State) : State := s.modGang 0 f
def setX (l : List (Opnd × Nat)) (s : State) : State :=
  core (fun c => { c with x := l.foldl (fun x p => setSlices x p.1.start.toNat p.1.width p.2) c.x }) s
/-- A `v` operand set to the values of `f`, lane by lane. -/
def setV (o : Opnd) (f : Nat → Nat) (s : State) : State :=
  core (fun c => { c with v := Vector.ofFn fun i => setSlices (c.v[i.val]) o.start.toNat o.width (f i.val) }) s

/-- The hypotheses of a `Completes` or `Faults` statement hold of `i` in `s`. -/
def meets (s : State) (i : Instr) (reads : Ctx → List Loc) (cond : Ctx → Prop) [DecidablePred cond] : Bool :=
  match s.ctx s.cursor i with
  | some x => x.clear i (reads x) && decide (cond x)
  | none => false

/-- They do: what `meets` says. -/
theorem of_meets {s : State} {i : Instr} {reads : Ctx → List Loc} {cond : Ctx → Prop} [DecidablePred cond]
    (h : meets s i reads cond = true) : ∃ x, s.ctx s.cursor i = some x ∧ x.clear i (reads x) = true ∧ cond x := by
  unfold meets at h
  split at h
  · rename_i x hx
    exact ⟨x, hx, by simpa using h⟩
  · cases h

/-- `i` runs with no condition of its own, reading `reads`. -/
def runs (reads : List Loc) (i : Instr) : Bool := meets (ready i) i (fun _ => reads) fun _ => True

/-- What exec schedules for the one gang. -/
def scheduled (i : Instr) (s : State) : List (Nat × Act) :=
  match exec i s with
  | .next t => match aget 0 t.gangs with
    | some g => g.agenda.map fun a => (a.at_, a.act)
    | none => []
  | _ => []

/-- The cause of the fault that exec detects. -/
def faultOf (i : Instr) (s : State) : Option Nat :=
  match exec i s with
  | .next t => ((aget 0 t.gangs).bind (·.fault)).map (·.trap.cause)
  | _ => none

/-- A field of the machine after exec. -/
def after {α : Type} (i : Instr) (s : State) (f : State → α) : Option α :=
  match exec i s with
  | .next t => some (f t)
  | _ => none

/-! WellFormed: an ill-formed term for each check (R90, R115, R116 and each instruction's own rule). -/

/-- Copy fields with nothing set but a 64-bit LN. -/
def fc : FcArgs := { dsp := 0, ssp := 0, da := o32 0, sa := o32 8, tag := 0, var := 0, mod := 0, ln := o64 16, hd := Opnd.zero, hv := false, aux := 0 }

theorem test_wf_accepts : ([.add true (o32 0) (o32 1016) (o32 8), .vfadd 0 0 0 (o32 0) (o32 8) (o32 16), .copy fc, .mcopy { fc with dsp := 4, ssp := 2 },
    .gath { fc with ssp := 4, var := 5 }, .act 15 49151, .ringSet 0x7FFF 0x0FFF 63, .wrm 0 0 0 1] : List Instr).all Instr.wf = true := by decide

theorem test_wf_operands_in_file : ([.add true out32 (o32 0) (o32 0), .add true (o32 0) out32 (o32 0), .add true (o32 0) (o32 0) out32,
    .sel true (o32 0) (o32 0) (o32 0) out32, .br 1 out32 0, .li out32 0, .vld out32 (o32 0) 0, .vfma 0 0 0 (o32 0) (o32 0) (o32 0) out32,
    .ucopy { fc with da := out32 }, .ucopy { fc with sa := out32 }, .ucopy { fc with ln := out32 }, .svc (o32 0) out32 0] : List Instr).all
    (fun i => !i.wf) = true := by decide

theorem test_wf_widths : ([.lih (o32 0) 0, .ld ⟨0, 2⟩ (o32 0) 0, .st ⟨0, 2⟩ (o32 0) 0, .call (o8 0) 0, .ret (o8 0), .brx (o8 0) 0, .cue (o32 0) 16,
    .crcx (o32 0) (o64 0) (o32 0), .crcx (o64 0) (o64 0) ⟨0, 2⟩, .rollk (o64 0) (o64 0) (o32 0), .kpopc ⟨0, 0⟩ 1, .viota 0 ⟨0, 0⟩,
    .vfadd 0 0 0 (o16 0) (o32 0) (o32 0), .vcvt 1 0 0 0 (o32 0) (o32 0), .vcvtfi 7 0 0 0 (o16 0) (o32 0), .vcvtif 0 7 0 0 (o32 0) (o16 0),
    .vcvtii false 3 7 0 (o32 0) (o32 0), .vsel 0 (o32 0) (o16 0) (o32 0), .vbcast 0 (o32 0) (o16 0) (o32 0), .vqnt 7 false false true (o16 0) (o32 0) (o16 0) (o8 0),
    .vqnt 7 false false true (o32 0) (o32 0) (o32 0) (o8 0), .vxpd true 0 0 (o32 0) (o16 0) (o16 0), .vlds 0 ⟨0, 2⟩ (o32 0) (o32 0),
    .feeda false false 0 (o32 0) (o8 0), .feeda false false 0 (o64 0) (o64 0), .feedax false 0 (o64 0) (o16 0), .mstat (o16 0), .cropa 0 (o32 0),
    .mcopy { fc with dsp := 4, ssp := 4, ln := o32 0 }, .ufill { fc with ssp := 0, dsp := 4, sa := o32 0 }, .pin (o8 0) (o32 0) 0,
    .atadd 0 (o32 0) (o16 0) (o32 0), .atadd 0 ⟨0, 2⟩ (o32 0) ⟨0, 2⟩, .atadd 0 (o16 0) (o32 0) (o32 0), .atcas 0 (o32 0) (o32 0) (o32 0) (o16 0),
    .atfadd true 0 (o32 0) (o32 0) (o32 0), .atfadd false 0 (o64 0) (o32 0) (o64 0), .gongArr (o8 0) (o32 0) 1, .gongWait (o32 0),
    .gongHdl false 0 (o32 0) (o32 0) (o8 0), .gongInit 0 (o32 0) (o16 0), .lstep false (o8 0) (o32 0) (o16 0), .belPin (o16 0) 0] : List Instr).all
    (fun i => !i.wf) = true := by decide

theorem test_wf_codes : ([.cmp 6 true (o32 0) (o32 0) (o32 0), .br 7 (o32 0) 0, .br 0 (o32 8) 0, .mfsr (o32 0) 6, .mtsr 14 (o32 0),
    .vcmp 7 true 0 0 (o32 0) (o32 0), .vfadd 3 0 0 (o8 0) (o8 0) (o8 0), .vcvt 3 0 0 0 (o8 0) (o32 0), .vcvtii false 0 7 0 (o32 0) (o32 0),
    .vred 6 true 0 (o32 0) (o32 0), .vscan 3 true 0 (o32 0) (o32 0), .vfred 3 0 0 0 (o32 0) (o32 0), .vfscan 1 0 1 0 (o32 0) (o32 0),
    .vqnt 0 false false true (o32 0) (o32 0) (o16 0) (o8 0), .copy { fc with tag := 1 }, .copy { fc with dsp := 2, ssp := 2 }, .copy { fc with var := 5 },
    .copy { fc with dsp := 1, var := 1 }, .copy { fc with mod := 1 }, .copy { fc with mod := 4 }, .copy { fc with hd := o64 8 }, .copy { fc with aux := 1 },
    .copy { fc with var := 1, aux := 0x11 }, .copy { fc with var := 2, aux := 0x810 }, .copy { fc with var := 4, aux := 0x400 },
    .copy { fc with hv := true, mod := 1, hd := o32 0 }, .copya fc, .copya { fc with ln := Opnd.zero, aux := 8 }, .copya { fc with ln := Opnd.zero, var := 1 },
    .mcopy fc, .tlfetch { fc with ssp := 4, var := 2 }, .tlfetch { fc with ssp := 3 }, .ucopy { fc with dsp := 1, ssp := 2 }, .ucopy { fc with var := 1 },
    .gath { fc with var := 6 }, .gath { fc with dsp := 4 }, .gaths fc, .scat { fc with ssp := 4 }, .scatw { fc with dsp := 4 }, .ufill { fc with dsp := 5 },
    .xform { fc with sa := o64 8, var := 6 }, .xform { fc with sa := o64 8, mod := 8 }, .xform { fc with sa := o64 8, aux := 3 }, .xformv { fc with sa := o64 8 },
    .atadd 3 (o32 0) (o32 0) (o32 0), .gongInit 4 (o32 0) (o32 0), .gongArr (o8 0) (o64 0) 0, .gongHdl true 0 (o64 0) (o32 0) (o8 8), .act 0 49152,
    .ringSet 0x8000 0 0, .ringSet 0 0x1000 0, .ringSeek 49152 0, .wrm 0 0 0 0] : List Instr).all (fun i => !i.wf) = true := by decide

/-! Decoding: words put together field by field as R87, R89 and R117 to R126 place them. -/

/-- R117: VMUL (0x42), signed under k5. -/
theorem test_decode_f3_vector : decode .v (1023#10 ++ 0x42#8 ++ (0#10 ++ 15#4) ++ (1008#10 ++ 15#4) ++ (3#10 ++ 0#4) ++ (1#1 ++ 5#3)) none
    = .ok (.vmul true 5 ⟨0, 15⟩ ⟨1008, 15⟩ ⟨3, 0⟩) := by decide

/-- R118: VFMA (0x53) with its continuation: C v64:16, FMT 1, RND 2. -/
theorem test_decode_f3_extension : decode .v (0#10 ++ 0x53#8 ++ (0#10 ++ 3#4) ++ (4#10 ++ 3#4) ++ (8#10 ++ 3#4) ++ 1#4)
    (some (0#18 ++ (64#10 ++ 3#4) ++ 0#14 ++ 0#6 ++ 0#4 ++ 1#4 ++ 0#2 ++ 2#2)) = .ok (.vfma 1 2 1 ⟨0, 3⟩ ⟨4, 3⟩ ⟨8, 3⟩ ⟨64, 3⟩) := by decide

/-- R89: a continuation word has bits 63:46 zero. -/
theorem test_decode_continuation_body : decode .v (0#10 ++ 0x53#8 ++ (0#10 ++ 3#4) ++ (4#10 ++ 3#4) ++ (8#10 ++ 3#4) ++ 1#4)
    (some (1#18 ++ (64#10 ++ 3#4) ++ 0#14 ++ 0#6 ++ 0#4 ++ 1#4 ++ 0#2 ++ 2#2)) = .error (.continuation true) := by decide

/-- R129: VFMA as the program's last word traps with cause 3, but one with bit 3 of its SUB set with cause 2, the lower. -/
theorem test_decode_last_word :
    decode .v (0#10 ++ 0x53#8 ++ (0#10 ++ 3#4) ++ (4#10 ++ 3#4) ++ (8#10 ++ 3#4) ++ 1#4) none = .error (.continuation false) ∧
    decode .v (0#10 ++ 0x53#8 ++ (0#10 ++ 3#4) ++ (4#10 ++ 3#4) ++ (8#10 ++ 3#4) ++ 9#4) none = .error (.field false) := by decide

/-- R120: ADDI (0x16) with imm18 -1, and SEQCFG (0xA2) in `l` but not in `c`. -/
theorem test_decode_fi : decode .c (7#10 ++ 0x16#8 ++ (5#10 ++ 7#4) ++ (6#10 ++ 3#4) ++ 0x3FFFF#18) none = .ok (.addi ⟨5, 7⟩ ⟨6, 3⟩ 0x3FFFF) := by decide
theorem test_decode_stream : decode .c (0#10 ++ 0xA2#8 ++ 0#14 ++ (8#10 ++ 7#4) ++ 0#18) none = .error .wrongStream := by decide

/-- R122: CALL (0x27) to eight words before. -/
theorem test_decode_fb : decode .c (0#10 ++ 0x27#8 ++ (512#10 ++ 3#4) ++ 0xFFFFF8#24 ++ 0#5 ++ 0#3) none = .ok (.call ⟨512, 3⟩ 0xFFFFF8) := by decide

/-- R123, R190: MMA (0x88) of window P = 16. -/
theorem test_decode_fm : decode .m (2#10 ++ 0x88#8 ++ (16#10 ++ 15#4) ++ (32#10 ++ 1#4) ++ 15#6 ++ 0#8 ++ 0#4) none = .ok (.mma 15 ⟨16, 15⟩ ⟨32, 1⟩) := by decide

/-- R124: UCOPY (0xA5) from hv to cm under tag 9 with a handle counted down by OUT. -/
theorem test_decode_fc : decode .l (0#10 ++ 0xA5#8 ++ 0#3 ++ 4#3 ++ (0#10 ++ 7#4) ++ (8#10 ++ 15#4) ++ 9#4 ++ 0#4 ++ 2#4)
    (some (0#18 ++ (24#10 ++ 7#4) ++ (32#10 ++ 15#4) ++ 1#1 ++ 0#17))
    = .ok (.ucopy { dsp := 0, ssp := 4, da := ⟨0, 7⟩, sa := ⟨8, 15⟩, tag := 9, var := 0, mod := 2, ln := ⟨24, 7⟩, hd := ⟨32, 15⟩, hv := true, aux := 0 }) := by
  decide

/-- R125: RD (0xC9) of bank 13, column 31, to beat 8191, with ROWF zero; in a memory stream alone. -/
theorem test_decode_fd : decode (.d 15) (0#10 ++ 0xC9#8 ++ 13#4 ++ 0#16 ++ 31#5 ++ 8191#13 ++ 0#8) none = .ok (.rd 13 31 8191) := by decide
theorem test_decode_fd_reserved : decode (.d 15) (0#10 ++ 0xC9#8 ++ 13#4 ++ 1#16 ++ 31#5 ++ 8191#13 ++ 0#8) none = .error (.field false) := by decide

/-- R126: SVC (0xDC) of call 513. -/
theorem test_decode_fs : decode .c (0#10 ++ 0xDC#8 ++ (0#10 ++ 7#4) ++ (8#10 ++ 15#4) ++ 513#10 ++ 0#8) none = .ok (.svc ⟨0, 7⟩ ⟨8, 15⟩ 513) := by decide

/-- GONG.ARR (0xBB), ATCAS (0xB7) and EXTR (0x11): one of each remaining group. -/
theorem test_decode_sync : decode .c (0#10 ++ 0xBB#8 ++ (0#10 ++ 1#4) ++ (8#10 ++ 15#4) ++ 4095#18) none = .ok (.gongArr ⟨0, 1⟩ ⟨8, 15⟩ 4095) := by decide
theorem test_decode_scalar : decode .c (0#10 ++ 0x11#8 ++ (0#10 ++ 7#4) ++ (8#10 ++ 7#4) ++ (16#10 ++ 7#4) ++ 0#4) none
    = .ok (.extr false ⟨0, 7⟩ ⟨8, 7⟩ ⟨16, 7⟩) := by decide
theorem test_decode_memory_ring : decode (.d 0) (0#10 ++ 0xD2#8 ++ 0#4 ++ 0xFFFF#16 ++ 0#5 ++ 64#13 ++ 0#8) none = .ok (.ringAdv 0xFFFF 64) := by decide

/-! Scalar instructions: results by hand from R132 to R146. -/

/-- R132: 0xFFFFFFFF + 2 wraps to 1 in 32 bits and lands on issue + 1; MULH of -1 and 3 read signed is -1 (all ones). -/
theorem test_add_wraps : scheduled (.add false (o32 0) (o32 8) (o32 16)) (setX [(o32 8, 0xFFFFFFFF), (o32 16, 2)] (ready (.add false (o32 0) (o32 8) (o32 16))))
    = [(1, .wx 0 32 1)] := by decide +kernel
theorem test_mulh_signed : scheduled (.mulh true (o32 0) (o32 8) (o32 16)) (setX [(o32 8, 0xFFFFFFFF), (o32 16, 3)] (ready (.mulh true (o32 0) (o32 8) (o32 16))))
    = [(3, .wx 0 32 0xFFFFFFFF)] := by decide +kernel
/-- R132: SUBS signed of -128 and 1 in 8 bits stays -128 (0x80). -/
theorem test_subs_saturates : scheduled (.subs true (o8 0) (o8 8) (o8 16)) (setX [(o8 8, 0x80), (o8 16, 1)] (ready (.subs true (o8 0) (o8 8) (o8 16))))
    = [(1, .wx 0 8 0x80)] := by decide +kernel
/-- R133: -7 / 2 truncates to -3, remainder -1; a zero divisor gives all ones and DZ. -/
theorem test_div_truncates : scheduled (.div true (o8 0) (o8 8) (o8 16)) (setX [(o8 8, 0xF9), (o8 16, 2)] (ready (.div true (o8 0) (o8 8) (o8 16))))
    = [(18, .wx 0 8 0xFD)] := by decide +kernel
theorem test_rem_sign : scheduled (.rem true (o8 0) (o8 8) (o8 16)) (setX [(o8 8, 0xF9), (o8 16, 2)] (ready (.rem true (o8 0) (o8 8) (o8 16))))
    = [(18, .wx 0 8 0xFF)] := by decide +kernel
theorem test_div_zero : scheduled (.div true (o64 0) (o8 16) (o8 32)) (setX [(o8 16, 5)] (ready (.div true (o64 0) (o8 16) (o8 32))))
    = [(34, .wx 0 64 0xFFFFFFFFFFFFFFFF), (34, .setFlags flagDZ)] := by decide +kernel
/-- R134: a signed shift right by 200 of a negative value is all ones; rotation right by 4 of 0x12345678. -/
theorem test_shr_past_width : scheduled (.shr true (o32 0) (o32 8) (o8 16)) (setX [(o32 8, 0x80000000), (o8 16, 200)] (ready (.shr true (o32 0) (o32 8) (o8 16))))
    = [(1, .wx 0 32 0xFFFFFFFF)] := by decide +kernel
theorem test_rot : scheduled (.rot false (o32 0) (o32 8) (o8 16)) (setX [(o32 8, 0x12345678), (o8 16, 4)] (ready (.rot false (o32 0) (o32 8) (o8 16))))
    = [(1, .wx 0 32 0x81234567)] := by decide +kernel
/-- R135: CLZ of 1 in 16 bits is 15. -/
theorem test_clz : scheduled (.clz (o8 0) (o16 8)) (setX [(o16 8, 1)] (ready (.clz (o8 0) (o16 8)))) = [(1, .wx 0 8 15)] := by decide +kernel
/-- R139: CMPI of -1 with 0 gives -1. -/
theorem test_cmpi : scheduled (.cmpi (o8 0) (o8 8) 0) (setX [(o8 8, 0xFF)] (ready (.cmpi (o8 0) (o8 8) 0))) = [(1, .wx 0 8 0xFF)] := by decide +kernel
/-- R140: LIH writes the upper half alone. -/
theorem test_lih : scheduled (.lih (o64 0) 0xDEADBEEF) (ready (.lih (o64 0) 0)) = [(1, .wx 8 32 0xDEADBEEF)] := by decide +kernel
/-- R142: a load at the last byte of the 2 MiB carve-out reads it, one byte further traps with cause 33. -/
theorem test_ld_last_byte : faultOf (.ld (o8 0) (o32 8) 0) (setX [(o32 8, 2 ^ 21 - 1)] (ready (.ld (o8 0) (o32 8) 0))) = none := by decide +kernel
theorem test_ld_outside : faultOf (.ld (o8 0) (o32 8) 0) (setX [(o32 8, 2 ^ 21)] (ready (.ld (o8 0) (o32 8) 0))) = some 33 := by decide +kernel

/-! What the hypotheses of the scalar statements hold of. -/

theorem wit_TwoOperandInstructions : ([.add true (o32 0) (o32 8) (o32 16), .sub true (o32 0) (o32 8) (o32 16), .mul true (o32 0) (o32 8) (o32 16),
    .mulh true (o32 0) (o32 8) (o32 16), .min true (o32 0) (o32 8) (o32 16), .max true (o32 0) (o32 8) (o32 16), .adds true (o32 0) (o32 8) (o32 16),
    .subs true (o32 0) (o32 8) (o32 16), .and true (o32 0) (o32 8) (o32 16), .or true (o32 0) (o32 8) (o32 16), .xor true (o32 0) (o32 8) (o32 16),
    .andn true (o32 0) (o32 8) (o32 16)] : List Instr).all (runs [(o32 8).xloc, (o32 16).xloc]) = true := by decide +kernel

theorem wit_DivisionAndRemainder : ([.div true (o32 0) (o32 8) (o32 16), .rem true (o32 0) (o32 8) (o32 16)] : List Instr).all
    (runs [(o32 8).xloc, (o32 16).xloc]) = true := by decide +kernel

theorem wit_ShiftsAndComparisons : ([.shl true (o32 0) (o32 8) (o32 16), .shr true (o32 0) (o32 8) (o32 16), .rot true (o32 0) (o32 8) (o32 16),
    .cmp 5 true (o32 0) (o32 8) (o32 16), .btst true (o32 0) (o32 8) (o32 16)] : List Instr).all (runs [(o32 8).xloc, (o32 16).xloc]) = true := by decide +kernel

theorem wit_OneOperandAndSelection : ([.mov true (o32 0) (o32 8), .abs true (o32 0) (o32 8), .neg true (o32 0) (o32 8), .clz (o32 0) (o32 8), .ctz (o32 0) (o32 8),
    .popc (o32 0) (o32 8), .brev (o32 0) (o32 8)] : List Instr).all (runs [(o32 8).xloc]) = true := by decide +kernel

theorem wit_OneOperandAndSelection_selection :
    runs [(o32 8).xloc, (o32 16).xloc] (.extr true (o32 0) (o32 8) (o32 16)) = true ∧
    runs [(o32 8).xloc, (o32 16).xloc, (o32 0).xloc] (.insr true (o32 0) (o32 8) (o32 16)) = true ∧
    runs [(o32 8).xloc, (o32 16).xloc, (o32 24).xloc] (.sel true (o32 0) (o32 8) (o32 16) (o32 24)) = true ∧
    meets (setX [(o32 16, 1)] (ready (.movc true (o32 0) (o32 8) (o32 16)))) (.movc true (o32 0) (o32 8) (o32 16)) (fun _ => [(o32 8).xloc, (o32 16).xloc])
      (fun x => x.c.ext true (o32 16) ≠ 0) = true ∧
    meets (ready (.movc true (o32 0) (o32 8) (o32 16))) (.movc true (o32 0) (o32 8) (o32 16)) (fun _ => [(o32 8).xloc, (o32 16).xloc])
      (fun x => x.c.ext true (o32 16) = 0) = true := by decide +kernel

theorem wit_ImmediatesAndAddresses : ([.addi (o32 0) (o32 8) 1, .andi (o32 0) (o32 8) 1, .ori (o32 0) (o32 8) 1, .xori (o32 0) (o32 8) 1, .muli (o32 0) (o32 8) 1,
    .shli true 63 (o32 0) (o32 8), .shri true 63 (o32 0) (o32 8), .cmpi (o32 0) (o32 8) 1] : List Instr).all (runs [(o32 8).xloc]) = true := by decide +kernel

theorem wit_ImmediatesAndAddresses_long :
    ([.li (o64 0) 1, .liu (o64 0) 1, .lih (o64 0) 1] : List Instr).all (runs []) = true ∧
    runs [(o32 8).xloc, (o32 16).xloc] (.agen 7 true (o32 0) (o32 8) (o32 16)) = true ∧ runs [(o32 8).xloc] (.ageni (o32 0) (o32 8) 1) = true := by decide +kernel

theorem wit_ChecksumKeyAndMaskHalves :
    runs [(o64 16).xloc, (o32 32).xloc] (.crcx (o64 0) (o64 16) (o32 32)) = true ∧ runs [(o64 16).xloc, (o64 32).xloc] (.rollk (o64 0) (o64 16) (o64 32)) = true ∧
    runs [.k 7 (halfBits true)] (.ktox true 7 (o64 0)) = true ∧ runs [(o64 16).xloc] (.xtok false 0 (o64 16)) = true := by decide +kernel

/-- One byte at the last address of the carve-out, and the byte after it. -/
theorem wit_ScalarLoads :
    (let i : Instr := .ld (o8 0) (o32 8) 0
     meets (setX [(o32 8, 2 ^ 21 - 1)] (ready i)) i (fun x => (o32 8).xloc :: cmLoc (x.c.rd (o32 8)) 1)
      (fun x => x.g.inCarve (x.c.rd (o32 8)) 1 = true) = true ∧
     meets (setX [(o32 8, 2 ^ 21)] (ready i)) i (fun x => (o32 8).xloc :: cmLoc (x.c.rd (o32 8)) 1) (fun x => x.g.inCarve (x.c.rd (o32 8)) 1 = false) = true) ∧
    (let i : Instr := .fill ⟨0, 0⟩ (o32 8) 0
     meets (setX [(o32 8, 2 ^ 21 - 1)] (ready i)) i (fun x => (o32 8).xloc :: cmLoc (x.c.rd (o32 8)) 1)
      (fun x => x.g.inCarve (x.c.rd (o32 8)) 1 = true) = true ∧
     meets (setX [(o32 8, 2 ^ 21)] (ready i)) i (fun x => (o32 8).xloc :: cmLoc (x.c.rd (o32 8)) 1) (fun x => x.g.inCarve (x.c.rd (o32 8)) 1 = false) = true) := by
  decide +kernel

theorem wit_ScalarStores : ([.st (o8 0) (o32 8) 0, .spill (o8 0) (o32 8) 0] : List Instr).all (fun i =>
    meets (setX [(o32 8, 2 ^ 21 - 1)] (ready i)) i (fun _ => [(o32 8).xloc, (o8 0).xloc]) (fun x => x.g.inCarve (x.c.rd (o32 8)) 1 = true) &&
    meets (setX [(o32 8, 2 ^ 21)] (ready i)) i (fun _ => [(o32 8).xloc, (o8 0).xloc]) (fun x => x.g.inCarve (x.c.rd (o32 8)) 1 = false)) = true := by decide +kernel

theorem wit_StepRegisters :
    runs [] (.mfsr (o32 0) 20) = true ∧ srPresent 20 = true ∧ runs [] (.mfsr (o32 0) 19) = true ∧ runs [] (.mfsr (o32 0) 21) = true ∧
    ((aget 0 (ready .nop).gangs).isSome && ((ready .nop).coreOf 0 ⟨0, .c, 6, 0⟩).isSome) = true ∧ runs [(o32 8).xloc] (.mtsr 16 (o32 8)) = true ∧
    meets (setX [(o32 8, 2)] (ready (.mtsr 17 (o32 8)))) (.mtsr 17 (o32 8)) (fun _ => [(o32 8).xloc]) (fun x => x.c.rd (o32 8) % 4 ≠ 3) = true ∧
    meets (setX [(o32 8, 3)] (ready (.mtsr 17 (o32 8)))) (.mtsr 17 (o32 8)) (fun _ => [(o32 8).xloc]) (fun x => x.c.rd (o32 8) % 4 = 3) = true ∧
    runs [(o32 8).xloc] (.mtsr 18 (o32 8)) = true ∧ runs [(o32 8).xloc] (.mtsr 0 (o32 8)) = true ∧ srPresent 0 = true := by decide +kernel

/-! Branches, loops, waits and boundaries. -/

/-- The stream that issues, changed, in every core. -/
def strm (f : Stream → Stream) (s : State) : State := core (fun c => { c with streams := c.streams.map f }) s
/-- An open level 0 whose LOOP stood at word `pc`. -/
def inLevel (pc : Nat) : State → State := strm fun st => { st with loops := [⟨0, 0, 8, 2, 0, pc + 1, pc, none⟩] }

/-- R122: a taken branch to itself (word 6) stays in the program; word 5 and the word past the last are outside. -/
theorem test_branch_range : faultOf (.br 0 Opnd.zero 0) (ready (.br 0 Opnd.zero 0)) = none ∧ faultOf (.br 0 Opnd.zero 0xFFFFFF) (ready (.br 0 Opnd.zero 0)) = some 0 ∧
    faultOf (.br 0 Opnd.zero 2) (ready (.br 0 Opnd.zero 0)) = some 0 := by decide +kernel
/-- R150: CUE with release offset 16 is the least on one die. -/
theorem test_cue_offset : faultOf (.cue (o64 0) 16) (ready (.cue (o64 0) 16)) = none ∧ faultOf (.cue (o64 0) 15) (ready (.cue (o64 0) 15)) = some 2 := by decide +kernel

theorem wit_BranchesTaken :
    meets (setX [(o32 8, 1)] (ready (.br 2 (o32 8) 0))) (.br 2 (o32 8) 0) (fun _ => [(o32 8).xloc])
      (fun x => brTaken 2 (x.c.sx (o32 8)) = true ∧ 6 ≤ (x.st.pc : Int) + (0 : BitVec 24).toInt ∧
        (x.st.pc : Int) + (0 : BitVec 24).toInt < x.s.progLen x.g x.who.rank x.who.strm ∧ ∀ l ∈ x.st.loops, (l.loopPc : Int) < x.st.pc) = true ∧
    meets (ready (.br 2 (o32 8) 0)) (.br 2 (o32 8) 0) (fun _ => [(o32 8).xloc]) (fun x => brTaken 2 (x.c.sx (o32 8)) = false) = true ∧
    meets (ready (.call (o16 8) 1)) (.call (o16 8) 1) (fun _ => [])
      (fun x => 6 ≤ (x.st.pc : Int) + (1 : BitVec 24).toInt ∧ (x.st.pc : Int) + (1 : BitVec 24).toInt < x.s.progLen x.g x.who.rank x.who.strm ∧
        ∀ l ∈ x.st.loops, (l.loopPc : Int) < x.st.pc + 1) = true ∧
    meets (setX [(o16 8, 7)] (ready (.ret (o16 8)))) (.ret (o16 8)) (fun _ => [(o16 8).xloc])
      (fun x => 6 ≤ (x.c.rd (o16 8) : Int) ∧ (x.c.rd (o16 8) : Int) < x.s.progLen x.g x.who.rank x.who.strm ∧ ∀ l ∈ x.st.loops, (l.loopPc : Int) < x.c.rd (o16 8)) = true ∧
    meets (setX [(o16 8, 6)] (ready (.brx (o16 8) 1))) (.brx (o16 8) 1) (fun _ => [(o16 8).xloc])
      (fun x => 6 ≤ (x.c.rd (o16 8) : Int) + (1 : BitVec 24).toInt ∧ (x.c.rd (o16 8) : Int) + (1 : BitVec 24).toInt < x.s.progLen x.g x.who.rank x.who.strm ∧
        ∀ l ∈ x.st.loops, (l.loopPc : Int) < x.c.rd (o16 8) + 1) = true := by decide +kernel

/-- Word 5, and word 6 at an open level whose LOOP is word 6. -/
theorem wit_TargetAndNestFaults :
    (let o : Opnd := o16 8
     let outside (x : Ctx) (t : Int) : Bool := decide (t < 6) || decide ((x.s.progLen x.g x.who.rank x.who.strm : Int) ≤ t)
     let back (x : Ctx) (t : Int) : Bool := !outside x t && x.st.loops.any fun l => decide (t ≤ (l.loopPc : Int))
     (([(.br 2 o 0xFFFFFF, fun x => x.st.pc + (0xFFFFFF : BitVec 24).toInt), (.call o 0xFFFFFF, fun x => x.st.pc + (0xFFFFFF : BitVec 24).toInt),
       (.ret o, fun x => x.c.rd o), (.brx o 0, fun x => x.c.rd o + (0 : BitVec 24).toInt)] : List (Instr × (Ctx → Int))).all fun p =>
         meets (setX [(o, 5)] (ready p.1)) p.1 (fun _ => match p.1 with | .call _ _ => [] | _ => [o.xloc])
           (fun x => (match p.1 with | .br c _ _ => brTaken c.toNat (x.c.sx o) | _ => true) = true ∧ outside x (p.2 x) = true)) ∧
     (([(.br 2 o 0, fun x => x.st.pc + (0 : BitVec 24).toInt), (.call o 0, fun x => x.st.pc + (0 : BitVec 24).toInt),
       (.ret o, fun x => x.c.rd o), (.brx o 0, fun x => x.c.rd o + (0 : BitVec 24).toInt)] : List (Instr × (Ctx → Int))).all fun p =>
         meets (inLevel 6 (setX [(o, 6)] (ready p.1))) p.1 (fun _ => match p.1 with | .call _ _ => [] | _ => [o.xloc])
           (fun x => (match p.1 with | .br c _ _ => brTaken c.toNat (x.c.sx o) | _ => true) = true ∧ back x (p.2 x) = true))) ∧
    meets (ready (.loop 1 0)) (.loop 1 0) (fun _ => []) (fun x => (1 : BitVec 2).toNat ≠ x.st.loops.length) = true ∧
    meets (ready (.endl 0)) (.endl 0) (fun _ => []) (fun x => x.st.loops = []) = true ∧
    meets (inLevel 6 (ready (.endl 1))) (.endl 1) (fun _ => []) (fun x => (x.st.loops.map (·.lvl)).head? ≠ some 1) = true ∧
    ([.hold, .await 1, .endstep] : List Instr).all (fun i => meets (inLevel 6 (ready i)) i (fun _ => []) fun x => x.st.loops ≠ []) = true ∧
    meets (core (fun c => { c with streams := c.streams ++ [{ Stream.start .m 6 0 with st := .hold }] }) (ready .endstep)) .endstep (fun _ => [])
      (fun x => x.st.loops = [] ∧ x.who.strm = .c ∧ x.held = true) = true := by decide +kernel

theorem wit_WaitsEndsAndCues :
    runs [] (.wait 0xFFFFFFFF) = true ∧ meets (ready .hold) .hold (fun _ => []) (fun x => x.st.loops = [] ∧ x.portsTrap = none) = true ∧
    meets (ready (.await 0xFFFF)) (.await 0xFFFF) (fun _ => []) (fun x => x.st.loops = []) = true ∧
    meets (ready .endstep) .endstep (fun _ => [])
      (fun x => x.st.loops = [] ∧ (x.who.strm = .c → x.held = false) ∧ x.portsTrap = none ∧ x.openBank = none) = true ∧
    meets (ready (.cue (o64 0) 16)) (.cue (o64 0) 16) (fun _ => [(o64 0).xloc]) (fun x => (if x.g.twoDies then 104 else 16) ≤ (16 : BitVec 8).toNat ∧ x.st.loops = []) = true ∧
    meets (ready (.cue (o64 0) 15)) (.cue (o64 0) 15) (fun _ => [(o64 0).xloc]) (fun x => (15 : BitVec 8).toNat < (if x.g.twoDies then 104 else 16)) = true := by decide +kernel

theorem wit_LoopsOpenAndClose :
    (let first (x : Ctx) := x.g.nest.find? fun e => e.1 == 0 && e.2.1 == (aget 0 x.st.opened).getD 0
     let fits (x : Ctx) : Bool := x.st.loops.length == 0 && (match first x with | some e => e.2.2.1 == x.s.tlc && e.2.2.2 == 1 | none => true)
     meets (core (fun c => { c with counts := [1, 0, 0, 0] }) (ready (.loop 0 0))) (.loop 0 0) (fun _ => []) (fun x => fits x = true ∧ (x.counts[0]?).getD 0 ≠ 0) = true ∧
     meets (ready (.loop 0 0)) (.loop 0 0) (fun _ => []) (fun x => fits x = true ∧ (x.counts[0]?).getD 0 = 0) = true) ∧
    meets (inLevel 6 (ready (.endl 0))) (.endl 0) (fun _ => [])
      (fun x => x.st.loops = [⟨0, 0, 8, 2, 0, 7, 6, none⟩] ∧ (0 : BitVec 2).toNat = 0) = true := by decide +kernel

theorem wit_SystemInstructions :
    runs [] (.ckmark 1023) = true ∧
    meets (ready (.svc (o8 0) (o8 8) 1)) (.svc (o8 0) (o8 8) 1) (fun _ => [(o8 8).xloc]) (fun x => x.c.svc.length < 4) = true ∧
    meets (core (fun c => { c with svc := List.replicate 4 ⟨0, 0, 0, 0⟩ }) (ready (.svc (o8 0) (o8 8) 1))) (.svc (o8 0) (o8 8) 1) (fun _ => [(o8 8).xloc])
      (fun x => 4 ≤ x.c.svc.length) = true ∧
    meets (ready (.event (o8 0) (o8 8) 1)) (.event (o8 0) (o8 8) 1) (fun _ => [(o8 8).xloc]) (fun x => (x.s.info x.c.gcore).trace.length < 16) = true ∧
    meets ((ready (.event (o8 0) (o8 8) 1)).setInfo 0 { CoreInfo.blank with trace := List.replicate 16 0 }) (.event (o8 0) (o8 8) 1) (fun _ => [(o8 8).xloc])
      (fun x => 16 ≤ (x.s.info x.c.gcore).trace.length) = true := by decide +kernel

theorem wit_TrappingInstructions :
    runs [] .nop = true ∧ meets (ready (.trapnz (o8 0) 1)) (.trapnz (o8 0) 1) (fun _ => [(o8 0).xloc]) (fun x => x.c.rd (o8 0) = 0) = true ∧
    meets (ready (.brk 1)) (.brk 1) (fun _ => []) (fun x => x.g.brken = false) = true ∧
    runs [] (.trap 1023) = true ∧ meets (setX [(o8 0, 1)] (ready (.trapnz (o8 0) 1))) (.trapnz (o8 0) 1) (fun _ => [(o8 0).xloc]) (fun x => x.c.rd (o8 0) ≠ 0) = true ∧
    meets (gang (fun g => { g with brken := true }) (ready (.brk 1))) (.brk 1) (fun _ => []) (fun x => x.g.brken = true) = true ∧
    runs [] (.ill 7) = true ∧ runs [] (.unassignedOpcode 0xE0) = true := by decide +kernel
/-- R277 to R279: the trap, breakpoint and undefined words report causes 4, 5 and 0. -/
theorem test_trap_causes : faultOf (.trap 9) (ready (.trap 9)) = some 4 ∧ faultOf (.brk 9) (gang (fun g => { g with brken := true }) (ready (.brk 9))) = some 5 ∧
    faultOf (.ill 0) (ready (.ill 0)) = some 0 := by decide +kernel

/-! Vector instructions. -/

/-- What exec schedules for lane `n` of the one vector result. -/
def laneOut (i : Instr) (s : State) (n : Nat) : Option (Nat × Nat) :=
  (scheduled i s).findSome? fun p => match p.2 with
    | .wv _ _ m vals => if m.getLsbD n then (vals[n]?).map fun v => (p.1, v) else none
    | _ => none

/-- R160: lane 3 of 200 + 100 saturated unsigned in 8 bits is 255, after 2 cycles. -/
theorem test_vadds : laneOut (.vadds false 0 (o8 0) (o8 8) (o8 16)) (setV (o8 8) (fun _ => 200) (setV (o8 16) (fun _ => 100) (ready (.vadds false 0 (o8 0) (o8 8) (o8 16))))) 3
    = some (2, 255) := by decide +kernel
/-- R162: 1.0 + 2^-24 in FP32 is a tie and rounds to even, 1.0; 1.5 × 2.0 in BF16 is 3.0 (0x4040), after 4 cycles. -/
theorem test_vfadd_tie : laneOut (.vfadd 0 0 0 (o32 0) (o32 8) (o32 16))
    (setV (o32 8) (fun _ => 0x3F800000) (setV (o32 16) (fun _ => 0x33800000) (ready (.vfadd 0 0 0 (o32 0) (o32 8) (o32 16))))) 0 = some (5, 0x3F800000) := by decide +kernel
theorem test_vfmul_bf16 : laneOut (.vfmul 2 0 0 (o16 0) (o16 8) (o16 16))
    (setV (o16 8) (fun _ => 0x3FC0) (setV (o16 16) (fun _ => 0x4000) (ready (.vfmul 2 0 0 (o16 0) (o16 8) (o16 16))))) 127 = some (4, 0x4040) := by decide +kernel
/-- R162: an FMA keeps the exact product: (1 + 2^-22)^2 - 1 = 2^-21 + 2^-44, 0x35000001. -/
theorem test_vfms_exact : laneOut (.vfms 0 0 0 (o32 0) (o32 8) (o32 8) (o32 16))
    (setV (o32 8) (fun _ => 0x3F800002) (setV (o32 16) (fun _ => 0x3F800000) (ready (.vfms 0 0 0 (o32 0) (o32 8) (o32 8) (o32 16))))) 0
    = some (5, 0x35000001) := by decide +kernel
/-- R164: the root of 4.0 is 2.0, 2 to the 3 is 8, the logarithm of 8 is 3, after 12 cycles. -/
theorem test_vsqrt : laneOut (.vsqrt 0 0 0 (o32 0) (o32 8)) (setV (o32 8) (fun _ => 0x40800000) (ready (.vsqrt 0 0 0 (o32 0) (o32 8)))) 9
    = some (12, 0x40000000) := by decide +kernel
/-- R168: 300.7 to i8, saturated, is 127. -/
theorem test_vcvtfi : laneOut (.vcvtfi 3 0 0 0 (o8 0) (o32 8)) (setV (o32 8) (fun _ => 0x4396599A) (ready (.vcvtfi 3 0 0 0 (o8 0) (o32 8)))) 0
    = some (3, 127) := by decide +kernel
/-- R171: VROT by 1 gives lane i the value of lane i + 1, lane 127 that of lane 0. -/
theorem test_vrot : laneOut (.vrot 0 (o8 0) (o8 8) (o8 16)) (setX [(o8 16, 1)] (setV (o8 8) (fun i => i) (ready (.vrot 0 (o8 0) (o8 8) (o8 16))))) 127
    = some (3, 0) := by decide +kernel
/-- R172: the sum of 0 to 127 is 8128, after 9 cycles. -/
theorem test_vred_sum : scheduled (.vred 0 false 0 (o32 0) (o8 8)) (setV (o8 8) (fun i => i) (ready (.vred 0 false 0 (o32 0) (o8 8)))) = [(9, .wx 0 32 8128)] := by
  decide +kernel
/-- R176: lane 1 of a strided load of stride 4 begins at the base + 4: its byte is outside where the base is the carve-out's last but 3. -/
theorem test_vlds_outside : faultOf (.vlds 0 (o8 0) (o32 8) (o32 16)) (setX [(o32 8, 2 ^ 21 - 4), (o32 16, 4)] (ready (.vlds 0 (o8 0) (o32 8) (o32 16)))) = some 33 := by
  decide +kernel

/-- R66 to R70, R170: a block of 2-bit elements (format byte 02), scale byte 128, first payload field 1: element 0 is 1 × 2^1 = 2.0. -/
theorem test_vxpd_first_element : laneOut (.vxpd true 0 0 (o32 0) (o32 8) (o16 16))
    (setX [(o16 16, 15)] (setV (o32 8) (fun n => if n = 0 then 0x18002 else 0) (ready (.vxpd true 0 0 (o32 0) (o32 8) (o16 16))))) 0
    = some (3, 0x40000000) := by decide +kernel

theorem wit_IntegerVectorArithmetic :
    ([.vadd true 7 (o32 0) (o32 8) (o32 16), .vsub true 7 (o32 0) (o32 8) (o32 16), .vmul true 7 (o32 0) (o32 8) (o32 16), .vmulh true 7 (o32 0) (o32 8) (o32 16),
      .vmin true 7 (o32 0) (o32 8) (o32 16), .vmax true 7 (o32 0) (o32 8) (o32 16), .vand true 7 (o32 0) (o32 8) (o32 16), .vor true 7 (o32 0) (o32 8) (o32 16),
      .vxor true 7 (o32 0) (o32 8) (o32 16), .vandn true 7 (o32 0) (o32 8) (o32 16), .vadds true 7 (o32 0) (o32 8) (o32 16),
      .vsubs true 7 (o32 0) (o32 8) (o32 16), .vshl true 7 (o32 0) (o32 8) (o32 16), .vshr true 7 (o32 0) (o32 8) (o32 16)] : List Instr).all
      (runs [kloc 7, (o32 8).vloc, (o32 16).vloc]) = true ∧
    ([.vabs true 7 (o32 0) (o32 8), .vneg true 7 (o32 0) (o32 8), .vmov true 7 (o32 0) (o32 8)] : List Instr).all (runs [kloc 7, (o32 8).vloc]) = true := by decide +kernel

theorem wit_FloatVectorArithmetic :
    ([.vfadd 0 3 0 (o32 0) (o32 8) (o32 16), .vfsub 0 3 0 (o32 0) (o32 8) (o32 16), .vfmul 0 3 0 (o32 0) (o32 8) (o32 16), .vfmin 0 0 (o32 0) (o32 8) (o32 16),
      .vfmax 0 0 (o32 0) (o32 8) (o32 16)] : List Instr).all (runs [kloc 0, (o32 8).vloc, (o32 16).vloc]) = true ∧
    ([.vfma 0 3 0 (o32 0) (o32 8) (o32 16) (o32 24), .vfms 0 3 0 (o32 0) (o32 8) (o32 16) (o32 24), .vfnma 0 3 0 (o32 0) (o32 8) (o32 16) (o32 24),
      .vfnms 0 3 0 (o32 0) (o32 8) (o32 16) (o32 24)] : List Instr).all (runs [kloc 0, (o32 8).vloc, (o32 16).vloc, (o32 24).vloc]) = true ∧
    ([.vfabs 0 0 (o32 0) (o32 8), .vfneg 0 0 (o32 0) (o32 8), .vsqrt 0 3 0 (o32 0) (o32 8), .vrcp 0 3 0 (o32 0) (o32 8), .vrsq 0 3 0 (o32 0) (o32 8),
      .vexp2 0 3 0 (o32 0) (o32 8), .vlog2 0 3 0 (o32 0) (o32 8)] : List Instr).all (runs [kloc 0, (o32 8).vloc]) = true := by decide +kernel

theorem wit_ComparisonsAndMasks :
    runs [kloc 1, (o32 8).vloc, (o32 16).vloc] (.vcmp 5 true 1 7 (o32 8) (o32 16)) = true ∧ runs [kloc 1, (o32 8).vloc, (o32 16).vloc] (.vfcmp 7 0 1 0 (o32 8) (o32 16)) = true ∧
    ([.kand 1 2 3, .kor 1 2 3, .kxor 1 2 3] : List Instr).all (runs [kloc 2, kloc 3]) = true ∧ runs [kloc 2] (.knot 1 2) = true ∧
    runs [kloc 2] (.kpopc (o8 0) 2) = true := by decide +kernel

theorem wit_VectorConversions : ([.vcvt 2 0 3 1 (o16 0) (o32 8), .vcvtfi 8 0 3 1 (o64 16) (o32 8), .vcvtif 0 7 3 1 (o32 0) (o32 8), .vcvtii true 3 7 1 (o8 0) (o32 8)] : List Instr).all
    (runs [kloc 1, (o32 8).vloc]) = true := by decide +kernel

/-- Rows of 16 elements; a row whose first block is an INT block, and one whose block is malformed (reason as R70 gives). -/
theorem wit_BlockQuantiseAndExpand :
    meets (setX [(o16 16, 0x38F)] (ready (.vqnt 7 true false true (o32 0) (o32 8) (o16 16) (o8 24)))) (.vqnt 7 true false true (o32 0) (o32 8) (o16 16) (o8 24))
      (fun _ => [(o32 8).vloc, (o16 16).xloc]) (fun x => fld (x.c.rd (o16 16)) 12 4 = 0 ∧ ¬(true = true ∧ false = true)) = true ∧
    meets (setX [(o16 16, 0x38F)] (ready (.vqnt 7 true true true (o32 0) (o32 8) (o16 16) (o8 24)))) (.vqnt 7 true true true (o32 0) (o32 8) (o16 16) (o8 24))
      (fun _ => [(o32 8).vloc, (o16 16).xloc]) (fun x => fld (x.c.rd (o16 16)) 12 4 = 0 ∧ true = true ∧ true = true) = true ∧
    (let ok (x : Ctx) : Bool := match rowRead true ((List.range 8).map (laneBlock (x.c.vrd (o32 8)))) (fld (x.c.rd (o16 16)) 0 7 + 1) 0 [] false with
       | .ok _ => true
       | .error _ => false
     let i : Instr := .vxpd true 0 0 (o32 0) (o32 8) (o16 16)
     meets (setX [(o16 16, 15)] (setV (o32 8) (fun n => if n = 0 then 0x18002 else 0) (ready i))) i (fun _ => [(o32 8).vloc, (o16 16).xloc])
       (fun x => fld (x.c.rd (o16 16)) 7 9 = 0 ∧ ok x = true) = true ∧
     meets (setX [(o16 16, 15)] (setV (o32 8) (fun _ => 0xFFFFFFFF) (ready i))) i (fun _ => [(o32 8).vloc, (o16 16).xloc])
       (fun x => fld (x.c.rd (o16 16)) 7 9 = 0 ∧ ok x = false) = true) := by decide +kernel

theorem wit_LaneMovementAndReductions :
    ([.vsel 1 (o32 0) (o32 8) (o32 16), .vperm 1 (o32 0) (o32 8) (o32 16)] : List Instr).all (runs [kloc 1, (o32 8).vloc, (o32 16).vloc]) = true ∧
    runs [kloc 1, (o32 8).xloc] (.vsplat true 1 (o32 0) (o32 8)) = true ∧
    ([.vbcast 1 (o32 0) (o32 8) (o32 16), .vrot 1 (o32 0) (o32 8) (o32 16)] : List Instr).all (runs [kloc 1, (o32 8).vloc, (o32 16).xloc]) = true ∧
    runs [kloc 1, (o32 8).vloc] (.vcmpr 1 (o32 0) (o32 8)) = true ∧ runs [kloc 1] (.viota 1 (o32 0)) = true ∧
    runs [(o32 8).vloc, (o32 16).xloc] (.vgetx true (o32 0) (o32 8) (o32 16)) = true ∧
    ([.vred 5 true 1 (o32 0) (o32 8), .vscan 2 true 1 (o32 0) (o32 8), .vfred 2 0 0 1 (o32 0) (o32 8)] : List Instr).all (runs [kloc 1, (o32 8).vloc]) = true ∧
    meets (ready (.vfscan 2 0 0 0 (o32 0) (o32 8))) (.vfscan 2 0 0 0 (o32 0) (o32 8)) (fun x => [kloc 0, .v 8 8 (x.gov 0)]) (fun _ => True) = true := by decide +kernel

/-- One lane's element at the last byte of the carve-out; and outside. -/
theorem wit_VectorLoads :
    (let i : Instr := .vld (o8 0) (o32 8) 0
     meets (setX [(o32 8, 2 ^ 21 - 128)] (ready i)) i (fun x => (o32 8).xloc :: cmLoc (x.c.rd (o32 8)) 128) (fun x => x.g.inCarve (x.c.rd (o32 8)) 128 = true) = true ∧
     meets (setX [(o32 8, 2 ^ 21 - 127)] (ready i)) i (fun x => (o32 8).xloc :: cmLoc (x.c.rd (o32 8)) 128) (fun x => x.g.inCarve (x.c.rd (o32 8)) 128 = false) = true) ∧
    (let ads (i : Instr) (x : Ctx) (n : Nat) : Int := match i with
       | .vlds _ _ _ _ => x.c.rd (o32 8) + (n : Int) * x.c.sx (o32 16)
       | _ => ((x.c.rd (o32 8) + ((x.c.vrd (o32 16))[n]?).getD 0 : Nat) : Int)
     let reads (i : Instr) (x : Ctx) : List Loc := kloc 1 :: (match i with | .vlds _ _ _ _ => [(o32 8).xloc, (o32 16).xloc] | _ => [(o32 8).xloc, (o32 16).vloc]) ++
       ((lanesIn (x.gov 1)).map fun n => cmLoc (ads i x n) 1).foldr (· ++ ·) []
     let lane0 : State → State := core fun c => { c with k := c.k.set 1 1 }
     ([.vlds 1 (o8 0) (o32 8) (o32 16), .vldx 1 (o8 0) (o32 8) (o32 16)] : List Instr).all fun i =>
       meets (lane0 (setX [(o32 8, 2 ^ 21 - 1)] (ready i))) i (reads i) (fun x => ∀ n ∈ lanesIn (x.gov 1), x.g.inCarve (ads i x n) 1 = true) &&
       meets (lane0 (setX [(o32 8, 2 ^ 21)] (ready i))) i (reads i) (fun x => (lanesIn (x.gov 1)).find? (fun n => !x.g.inCarve (ads i x n) 1) = some 0)) = true := by
  decide +kernel

theorem wit_VectorStores :
    meets (setX [(o32 8, 2 ^ 21 - 128)] (ready (.vst (o8 0) (o32 8) 0))) (.vst (o8 0) (o32 8) 0) (fun _ => [(o32 8).xloc, (o8 0).vloc])
      (fun x => x.g.inCarve (x.c.rd (o32 8)) 128 = true) = true ∧
    meets (setX [(o32 8, 2 ^ 21 - 127)] (ready (.vst (o8 0) (o32 8) 0))) (.vst (o8 0) (o32 8) 0) (fun _ => [(o32 8).xloc, (o8 0).vloc])
      (fun x => x.g.inCarve (x.c.rd (o32 8)) 128 = false) = true ∧
    (let ads (i : Instr) (x : Ctx) (n : Nat) : Int := match i with
       | .vsts _ _ _ _ => x.c.rd (o32 8) + (n : Int) * x.c.sx (o32 16)
       | _ => ((x.c.rd (o32 8) + ((x.c.vrd (o32 16))[n]?).getD 0 : Nat) : Int)
     let reads (i : Instr) (_ : Ctx) : List Loc := kloc 1 :: (o8 0).vloc :: (match i with | .vsts _ _ _ _ => [(o32 8).xloc, (o32 16).xloc] | _ => [(o32 8).xloc, (o32 16).vloc])
     let lane0 : State → State := core fun c => { c with k := c.k.set 1 1 }
     ([.vsts 1 (o8 0) (o32 8) (o32 16), .vstx 1 (o8 0) (o32 8) (o32 16)] : List Instr).all fun i =>
       meets (lane0 (setX [(o32 8, 2 ^ 21 - 1)] (ready i))) i (reads i) (fun x => ∀ n ∈ lanesIn (x.gov 1), x.g.inCarve (ads i x n) 1 = true) &&
       meets (lane0 (setX [(o32 8, 2 ^ 21)] (ready i))) i (reads i) (fun x => (lanesIn (x.gov 1)).find? (fun n => !x.g.inCarve (ads i x n) 1) = some 0)) = true := by
  decide +kernel

/-! Matrix instructions. A 64-bit control word in x0 and a count in x16, both as given. -/

def cw : Opnd := o64 0
def kn : Opnd := o8 16
def kn32 : Opnd := o32 16
def mat (w n : Nat) (i : Instr) : State := setX [(cw, w), (kn32, n)] (ready i)

/-- R190: one pair of BF16 operands (BW 2, one AP) takes 16 cycles and 4 more, and lands 6 later. -/
theorem test_mma_lands : (scheduled (.mma 0 cw kn) (mat 8 1 (.mma 0 cw kn))).map (·.1) = [0, 26] := by decide +kernel
/-- R190: a count of 129 pairs is none. -/
theorem test_mma_count : faultOf (.mma 0 cw kn) (mat 8 129 (.mma 0 cw kn)) = some 2 := by decide +kernel
/-- R191: two rows cleared land on issue + 8 and + 9. -/
theorem test_aclr_rows : (scheduled (.aclr 126 kn) (mat 0 2 (.aclr 126 kn))).map (·.1) = [8, 9] := by decide +kernel
/-- R191: two rows from row 127 on pass the last row. -/
theorem test_aclr_past : faultOf (.aclr 127 kn) (mat 0 2 (.aclr 127 kn)) = some 2 := by decide +kernel
/-- R181: FEEDD fills entry 5 four cycles after its issue. -/
theorem test_feedd : (scheduled (.feedd false 5 cw kn) (mat 0 1 (.feedd false 5 cw kn))).map (fun p => (p.1, match p.2 with | .fill q e _ => (q, e) | _ => (true, 0)))
    = [(4, false, 5)] := by decide +kernel

/-- One k-group of FP32 rows at address 0; and 128 of them, which is the most. -/
theorem wit_FeedsFillLatches :
    (let ok (x : Ctx) (f : FeedDesc) (cont : Bool) (rows : List (Option Nat)) : Bool :=
       f.fmtOk && decide (1 ≤ f.n) && decide (f.n ≤ 128) && f.base % 64 == 0 && f.pitch % 64 == 0 && (f.fmt == 9 || f.rowOff % 64 == 0 && !cont) &&
       decide (x.c.ports.feedRel ≤ x.s.tlc) && ((List.range 128).zip rows).all fun p => match p.2 with
         | some b => (x.feedSpan f cont p.1).2 == 0 || x.g.inCarve ((b + (x.feedSpan f cont p.1).1 : Nat) : Int) (x.feedSpan f cont p.1).2
         | none => true
     ([false, true].all fun qb =>
       let i : Instr := if qb then .feedb false false 127 cw kn else .feeda false false 127 cw kn
       meets (mat 0 128 i) i (fun _ => [cw.xloc, kn.xloc]) (fun x =>
         let f := feedDesc qb false 127 (x.c.rd kn) (x.c.rd cw)
         ok x f false ((List.range (f.rows + 1)).map fun r => some (f.base + r * f.pitch)) = true)) = true ∧
     ([false, true].all fun qb =>
       let i : Instr := if qb then .feedbx false 127 cw kn32 else .feedax false 127 cw kn32
       meets (mat 0 1 i) i (fun _ => [cw.xloc, kn32.xloc] ++ [.v 0 4 (BitVec.allOnes 128)]) (fun x =>
         let f := feedDesc qb false 127 (fld (x.c.rd kn32) 0 8) (x.c.rd cw)
         fld (x.c.rd kn32) 8 10 = 0 ∧ x.c.rd kn32 / 2 ^ 18 = 0 ∧
           ok x f false (((x.c.v.toList.map fun l => slices l 0 16).take (f.rows + 1)).map fun r => if r = 0xFFFF then none else some (f.base + r * f.pitch)) = true)) = true) := by
  decide +kernel

theorem wit_LatchInstructions :
    meets (mat 0 1 (.feedd true 127 cw kn)) (.feedd true 127 cw kn) (fun x => [cw.xloc, kn.xloc] ++ [.v 0 (16 * x.c.rd kn * elemBytes 0) (BitVec.allOnes 128)])
      (fun x => x.c.rd cw / 2 ^ 14 = 0 ∧ fld (x.c.rd cw) 10 4 ≤ 5 ∧ fld (x.c.rd cw) 0 10 = 0 ∧ 1 ≤ x.c.rd kn ∧ x.c.rd kn ≤ 128 ∧
        fld (x.c.rd cw) 0 10 + 16 * x.c.rd kn * elemBytes (fld (x.c.rd cw) 10 4) ≤ 1024 ∧ x.c.ports.feedRel ≤ x.s.tlc) = true ∧
    meets (mat 0 128 (.qclr true false 0 kn)) (.qclr true false 0 kn) (fun _ => [kn.xloc]) (fun x => 1 ≤ x.c.rd kn ∧ x.c.rd kn ≤ 128) = true ∧
    runs [] (.qstat kn32) = true ∧ runs [] (.mstat kn32) = true := by decide +kernel

/-- A window of one pixel of four elements, set by WCFG earlier. -/
theorem wit_WindowsFillLatches :
    meets (mat 0 4096 (.wcfg cw kn32)) (.wcfg cw kn32) (fun _ => [cw.xloc, kn32.xloc]) (fun x => 1 ≤ x.c.rd kn32 ∧ x.c.rd kn32 ≤ 4096) = true ∧
    meets (mat 0 0 (.wpadv cw)) (.wpadv cw) (fun _ => [cw.xloc]) (fun x => x.c.rd cw / 2 ^ 54 = 0) = true ∧
    meets (mat (2 ^ 48 - 1) 0 (.mcfg cw)) (.mcfg cw) (fun _ => [cw.xloc]) (fun x => x.c.rd cw / 2 ^ 48 = 0) = true ∧
    ([false, true].all fun qb =>
      let i : Instr := if qb then .winb 0 cw kn else .wina 0 cw kn
      meets (core (fun c => { c with win := some (0, 8) }) (mat 0 1 i)) i (fun _ => [cw.xloc, kn.xloc]) (fun x =>
        let f := feedDesc qb false 0 (x.c.rd kn) (x.c.rd cw)
        let w := winOf 0 8
        x.c.win = some (0, 8) ∧ f.fmtOk = true ∧ 1 ≤ f.n ∧ f.n ≤ 128 ∧ f.fmt ≠ 9 ∧ f.kl = 0 ∧ x.c.ports.feedRel ≤ x.s.tlc ∧
          x.g.inCarve f.base ((w.ih * w.iw - 1) * f.pitch + pixelBytes f 8) = true)) = true := by decide +kernel

theorem wit_MultiplySchedules : ([(.mma 63 cw kn, mmaCells false none, 0), (.mmac 63 cw kn, mmaCells false (some (-1)), 0x1FF * 2 ^ 21),
    (.mmaz 63 cw kn, [], 0)] : List (Instr × List Loc × Nat)).all (fun p =>
    meets (mat (p.2.2 + 8) 128 p.1) p.1 (fun x => [cw.xloc, kn.xloc] ++ (List.range (x.c.rd kn)).map (fun j => .lat false (j % 128)) ++
        (List.range (x.c.rd kn)).map (fun j => .lat true (j % 128)) ++ p.2.1)
      (fun x => x.c.rd cw / 2 ^ 30 = 0 ∧ fld (x.c.rd cw) 7 14 = 0 ∧ fld (x.c.rd cw) 21 9 = p.2.2 / 2 ^ 21 ∧ 2 ≤ fld (x.c.rd cw) 2 4 ∧ fld (x.c.rd cw) 2 4 ≤ 8 ∧
        1 ≤ x.c.rd kn ∧ x.c.rd kn ≤ 128 ∧ x.c.ports.arrRel ≤ x.s.tlc ∧ x.c.ports.accRel ≤ x.s.tlc)) = true := by decide +kernel

/-- A crop unit whose list lands on cycle `l`, over a window of one pixel of 8 channels. -/
def boxed (l : Nat) : State → State := core fun c => { c with win := some (0, 8), box := some ⟨0, [], 1, 0, l⟩ }

theorem wit_PoolingAndSampling :
    (([(.poolmx true true 0 cw kn, [], 0), (.poolav false true 0 cw kn, (List.range 128).map fun r => .acc r (colMask 0 8), 16)] :
      List (Instr × List Loc × Nat)).all fun p =>
      meets (mat p.2.2 128 p.1) p.1 (fun x => [cw.xloc, kn.xloc] ++ (List.range (x.c.rd kn)).map (fun j => .lat false (j % 128)) ++ p.2.1)
        (fun x => x.c.rd cw / 2 ^ 6 = 0 ∧ fld (x.c.rd cw) 4 1 = p.2.2 / 16 ∧ 1 ≤ x.c.rd kn ∧ x.c.rd kn ≤ 128 ∧ x.c.ports.arrRel ≤ x.s.tlc ∧ x.c.ports.accRel ≤ x.s.tlc)) = true ∧
    meets (mat (2 ^ 21 - 16) 1 (.boxcfg cw kn)) (.boxcfg cw kn) (fun _ => [cw.xloc, kn.xloc])
      (fun x => x.c.rd cw / 2 ^ 34 = 0 ∧ 1 ≤ x.c.rd kn ∧ x.c.rd kn ≤ 256 ∧ fld (x.c.rd cw) 0 21 % 16 = 0 ∧ x.c.ports.feedRel ≤ x.s.tlc ∧
        x.g.inCarve (fld (x.c.rd cw) 0 21) (16 * x.c.rd kn) = true) = true ∧
    meets (boxed 1 (mat 0 0 (.cropa 0 cw))) (.cropa 0 cw) (fun _ => [cw.xloc]) (fun x => x.c.win.isSome = true ∧ x.c.box.isSome = true ∧
      x.s.tlc < (x.c.box.map (·.landed)).getD 0) = true ∧
    meets (mat 0 0 (.cropa 0 cw)) (.cropa 0 cw) (fun _ => [cw.xloc]) (fun x => x.c.win = none ∨ x.c.box = none) = true ∧
    meets (boxed 0 (mat 0 0 (.cropa 0 cw))) (.cropa 0 cw) (fun _ => [cw.xloc]) (fun x =>
      let w := winOf 0 8
      let f := feedDesc false false 0 w.groups (x.c.rd cw)
      x.c.win = some (0, 8) ∧ x.c.box = some ⟨0, [], 1, 0, 0⟩ ∧ 0 ≤ x.s.tlc ∧ f.fmt ≤ 5 ∧ f.kl = 0 ∧ f.mmax = 0 ∧
        x.c.ports.feedRel ≤ x.s.tlc ∧ x.g.inCarve f.base ((w.ih * w.iw - 1) * f.pitch + pixelBytes f 8) = true) = true := by decide +kernel

/-- 128 rows from row 0, 32 rows from row 96, and a clamp from -1.0 to 1.0. -/
theorem wit_AccumulatorPort :
    (let free (x : Ctx) : Bool := decide (x.c.ports.arrLand ≤ x.s.tlc) && decide (x.c.ports.accRel ≤ x.s.tlc)
     let fits (x : Ctx) (r lim : Nat) : Bool := decide (1 ≤ x.c.rd kn) && decide (x.c.rd kn ≤ lim) && decide (r + x.c.rd kn ≤ 128)
     let rows (r : Nat) (x : Ctx) : List Loc := [cw.xloc, kn.xloc] ++ accReads r (x.c.rd kn)
     meets (mat 0 128 (.aclr 0 kn)) (.aclr 0 kn) (fun _ => [kn.xloc]) (fun x => free x = true ∧ fits x 0 128 = true) = true ∧
     meets (mat (2 ^ 21 - 65536) 128 (.ald 0 cw kn)) (.ald 0 cw kn) (fun _ => [cw.xloc, kn.xloc]) (fun x => free x = true ∧ fits x 0 128 = true ∧
       x.c.rd cw / 2 ^ 21 = 0 ∧ x.c.rd cw % 64 = 0 ∧ x.g.inCarve (x.c.rd cw) (512 * x.c.rd kn) = true) = true ∧
     meets (mat (2 ^ 21 - 65536) 128 (.asav 0 cw kn)) (.asav 0 cw kn) (rows 0) (fun x => free x = true ∧ fits x 0 128 = true ∧
       x.c.rd cw / 2 ^ 21 = 0 ∧ x.c.rd cw % 64 = 0 ∧ x.g.inCarve (x.c.rd cw) (512 * x.c.rd kn) = true) = true ∧
     meets (mat 768 32 (.ardv 96 cw kn)) (.ardv 96 cw kn) (rows 96) (fun x => free x = true ∧ fits x 96 32 = true ∧ x.c.rd cw / 2 ^ 10 = 0 ∧
       x.c.rd cw + 8 * x.c.rd kn ≤ 1024) = true ∧
     meets (mat 768 32 (.awrv 96 cw kn)) (.awrv 96 cw kn) (fun x => [cw.xloc, kn.xloc, .v (x.c.rd cw) (8 * x.c.rd kn) (BitVec.allOnes 128)])
       (fun x => free x = true ∧ fits x 96 32 = true ∧ x.c.rd cw / 2 ^ 10 = 0 ∧ x.c.rd cw + 8 * x.c.rd kn ≤ 1024) = true ∧
     ([.ascl 3 0 cw kn, .abias 3 0 cw kn] : List Instr).all (fun i => meets (mat 1016 128 i) i
       (fun x => rows 0 x ++ [.v (x.c.rd cw) 8 (BitVec.allOnes 128)])
       (fun x => free x = true ∧ fits x 0 128 = true ∧ x.c.rd cw / 2 ^ 10 = 0 ∧ x.c.rd cw + 8 ≤ 1024)) = true ∧
     meets (mat 0x3F800000BF800000 128 (.aclmp 0 cw kn)) (.aclmp 0 cw kn) (rows 0) (fun x => free x = true ∧ fits x 0 128 = true ∧
       (f32v (fld (x.c.rd cw) 0 32)).isNan = false ∧ (f32v (fld (x.c.rd cw) 32 32)).isNan = false ∧
       (f32v (fld (x.c.rd cw) 32 32)).ltV true (f32v (fld (x.c.rd cw) 0 32)) = false) = true) := by decide +kernel

/-- One row drained in blocks of 2-bit elements (DRN, DRNA) or in FP32, to the last line of the carve-out. -/
theorem wit_DrainsWriteRows : ([(.drn 127 cw kn, .drn, 9 * 2 ^ 17 + 2 * 2 ^ 7), (.drna 127 cw kn, .drna, 9 * 2 ^ 17 + 2 * 2 ^ 7),
      (.drnf 127 cw kn, .drnf, 0), (.drnr 127 cw kn, .drnr, 0)] : List (Instr × Drain × Nat)).all (fun p =>
    meets (core (fun c => { c with outDesc := BitVec.ofNat 64 (2 * 2 ^ 44 + 64 * 2 ^ 21 + (2 ^ 21 - 64)) }) (mat p.2.2 1 p.1)) p.1 (fun x =>
      [cw.xloc, kn.xloc] ++ (drainCw p.2.1 (x.c.rd cw) x.c.outDesc).cells p.2.1 127 (x.c.rd kn))
      (fun x =>
        let d := drainCw p.2.1 (x.c.rd cw) x.c.outDesc
        1 ≤ x.c.rd kn ∧ x.c.rd kn ≤ 128 ∧ 127 + x.c.rd kn ≤ 128 ∧ d.ok p.2.1 (x.c.rd cw) = true ∧ (d.fmt = 9 → d.slotOk = true) ∧
          x.c.ports.arrLand ≤ x.s.tlc ∧ x.c.ports.accRel ≤ x.s.tlc ∧ x.g.inCarve d.base ((x.c.rd kn - 1) * d.pitch + d.rowBytes) = true ∧
          ¬ (d.fmt = 9 ∧ d.adapt = true ∧ d.int = true) ∧ (match d.row (x.c.drainSrc p.2.1 127) with | .ok _ => true | .error _ => false) = true)) = true := by
  decide +kernel

/-! Movement. Bases in x0 and x8, a count in x16 (64 bits). -/

def mv (f : FcArgs) (da sa n : Nat) (i : Instr) : State := setX [(f.da, da), (f.sa, sa), (f.ln, n)] (ready i)

/-- R203 to R206: a local copy of two lines reads on issue + 1 and + 2 and lands five cycles later. -/
theorem test_copy_local : ((scheduled (.copy fc) (mv fc 4096 0 2 (.copy fc))).filterMap fun p => match p.2 with
    | .lineCopy a b t => some (p.1, a - 2 ^ 49, b - 2 ^ 49, t)
    | _ => none).map (·.1) = [1, 2] := by decide +kernel
/-- R207: 32769 lines is out of range. -/
theorem test_copy_count : faultOf (.copy fc) (mv fc 4096 0 32769 (.copy fc)) = some 2 := by decide +kernel
/-- R213, R214: an untimed copy stands in the gang's queue and its tag is pending. -/
theorem test_ucopy_pends : after (.ucopy { fc with ssp := 4, tag := 9 }) (mv fc 0 0 1 (.ucopy fc))
    (fun t => ((aget 0 t.gangs).map fun g => (g.reqs.length, g.cores.map (·.pend)))) = some (some (1, [0x200])) := by decide +kernel

theorem wit_TimedCopies :
    (let lines (f : FcArgs) (x : Ctx) (offs : List (Int × Int)) : Bool :=
       match placeOf f.dsp.toNat (x.c.rd f.da), placeOf f.ssp.toNat (x.c.rd f.sa) with
       | some d, some s =>
         let path := x.pathTo (if s.isOwn x.who.rank then d else s)
         d.aligned true 64 && s.aligned true 64 && (hdlTrap (x.hdl f)).isNone && decide (x.c.ports.rel path ≤ x.s.tlc) &&
           (!(path == .lat || path == .inter) || (x.s.tlc - x.g.dbt) % 8 == x.c.gcore % 8) && (d.space != 1 || x.g.tob.flags / 4 % 2 == 1) &&
           offs.all fun o => match d.move o.1, s.move o.2 with
             | some a, some b => a.inRange x.s x.g 64 && b.inRange x.s x.g 64
             | _, _ => false
       | _, _ => false
     let plain (n : Nat) : List (Int × Int) := (List.range n).map fun k => (((64 * k : Nat) : Int), ((64 * k : Nat) : Int))
     meets (mv fc (2 ^ 21 - 64) 0 1 (.copy fc)) (.copy fc) (fun _ => fcReads fc true) (fun x => fc.var = 0 ∧ 1 ≤ x.c.rd fc.ln ∧ x.c.rd fc.ln ≤ 32768 ∧
       lines fc x (plain (x.c.rd fc.ln)) = true) = true ∧
     (let f : FcArgs := { fc with ln := Opnd.zero, aux := 7 }
      let slot : List Byte := leBytes 64 1
      meets (core (fun c => { c with slots := [(7, slot)] }) (mv f 4096 0 0 (.copya f))) (.copya f) (fun _ => fcReads f false)
        (fun x => x.slotTrap 7 = none ∧ (affineOf (x.c.slot 7) 64 1).isSome = true ∧
          lines f x (match affineOf (x.c.slot 7) 64 1 with
            | some ls => (List.range (ls.foldl (fun n l => n * l.1) 1)).map (affineLine ls)
            | none => []) = true)) = true) ∧
    (([(1, 0x53, 2), (2, 0x10, 1), (3, 0x39, 4), (4, 0, 64)] : List (Nat × Nat × Nat)).all fun p =>
      let f : FcArgs := { fc with var := BitVec.ofNat 4 p.1, aux := BitVec.ofNat 17 p.2.1 }
      let src (n : Nat) : Nat := match p.1 with | 1 => 32 * n | 2 => 128 * n | 3 => 16 * n | _ => 64 * n
      meets (mv f (2 ^ 20) 0 p.2.2 (.copy f)) (.copy f) (fun _ => fcReads f true)
        (fun x => f.var ≠ 0 ∧ f.dsp = 0 ∧ f.ssp = 0 ∧ x.c.rd f.da = 2 ^ 20 ∧ x.c.rd f.sa = 0 ∧ 1 ≤ x.c.rd f.ln ∧ x.c.rd f.ln ≤ 32768 ∧
          (p.1 = 3 → x.c.rd f.ln % 4 = 0) ∧ (p.1 = 4 → x.c.rd f.ln % (64 / 2 ^ f.es) = 0) ∧ hdlTrap (x.hdl f) = none ∧ x.c.ports.loc ≤ x.s.tlc ∧
          x.g.inCarve 0 (src (x.c.rd f.ln)) = true ∧ x.g.inCarve ((2 ^ 20 : Nat) : Int) (64 * x.c.rd f.ln) = true ∧
          meet (2 ^ 20) (64 * x.c.rd f.ln) 0 (src (x.c.rd f.ln)) = false)) = true := by decide +kernel

/-- XFORMV in core 0's home vault, vault 0 of die 0. -/
theorem wit_SequencerAndTransforms :
    meets (setX [(o32 0, 2 ^ 21 - 64)] (ready (.seqcfg 7 0 (o32 0)))) (.seqcfg 7 0 (o32 0)) (fun _ => [(o32 0).xloc])
      (fun x => x.c.rd (o32 0) % 64 = 0 ∧ x.g.inCarve (x.c.rd (o32 0)) 64 = true) = true ∧
    (let ok (f : FcArgs) (x : Ctx) (lim : Nat) : Bool := match placeOf f.dsp.toNat (x.c.rd f.da) with
       | some p => p.aligned true 64 && xformPar f.var.toNat (x.c.rd f.sa) && decide (1 ≤ x.c.rd f.ln) && decide (x.c.rd f.ln ≤ lim) && decide (x.c.ports.xf ≤ x.s.tlc)
       | none => false
     let f : FcArgs := { fc with sa := o64 32, aux := 0 }
     let g : FcArgs := { f with dsp := 2 }
     meets (mv f 0 0 32768 (.xform f)) (.xform f) (fun _ => fcReads f true) (fun x => ok f x 32768 = true ∧ x.g.inCarve (x.c.rd f.da) (64 * x.c.rd f.ln) = true) = true ∧
     meets (mv g 0 0 1 (.xformv g)) (.xformv g) (fun _ => fcReads g true) (fun x => ok g x 4096 = true ∧ isHome x.c.gcore (x.c.rd g.da) = true ∧
       (Place.vt (x.c.rd g.da)).inRange x.s x.g (64 * x.c.rd g.ln) = true) = true) ∧
    meets (setX [(o8 8, 15)] (ready (.xstat (o32 0) (o8 8)))) (.xstat (o32 0) (o8 8)) (fun _ => [(o8 8).xloc]) (fun x => x.c.rd (o8 8) ≤ 15) = true := by decide +kernel

/-- The geometry record of a tile of one pixel of 32 bytes (R211). -/
def tinyTile : Nat := 0x10 + 2 ^ 32 + 2 ^ 48 + 2 ^ 64 + 2 ^ 96 + 32 * 2 ^ 128 + 32 * 2 ^ 160

theorem wit_UntimedRequests :
    (let at_ (f : FcArgs) (x : Ctx) (u n m : Nat) : Bool := match placeOf f.dsp.toNat (x.c.rd f.da), placeOf f.ssp.toNat (x.c.rd f.sa) with
       | some d, some s => d.aligned false u && s.aligned false u && d.inRange x.s x.g n && s.inRange x.s x.g m
       | _, _ => false
     let dsc (x : Ctx) (n : Nat) : Bool := n % 32 == 0 && decide (n < 2 ^ 21) && (Place.cm n).inRange x.s x.g 32
     let free (f : FcArgs) (x : Ctx) : Bool := x.roomForRequest && (hdlTrap (x.hdl f)).isNone
     let u : FcArgs := { fc with ssp := 4, tag := 15 }
     let g : FcArgs := { fc with dsp := 4, sa := o64 32 }
     let sc : FcArgs := { fc with dsp := 4 }
     let t : FcArgs := { fc with ssp := 4 }
     let ms : FcArgs := { fc with dsp := 4, ssp := 4 }
     meets (mv u 0 0 32768 (.ucopy u)) (.ucopy u) (fun _ => fcReads u true) (fun x => free u x = true ∧ 1 ≤ x.c.rd u.ln ∧ x.c.rd u.ln ≤ 2 ^ 24 ∧
       at_ u x 64 (64 * x.c.rd u.ln) (64 * x.c.rd u.ln) = true) = true ∧
     meets (mv g 0 0 (2 ^ 24) (.ufill g)) (.ufill g) (fun _ => fcReads g true) (fun x => free g x = true ∧ 1 ≤ x.c.rd g.ln ∧ x.c.rd g.ln ≤ 2 ^ 24 ∧
       (match placeOf 4 (x.c.rd g.da) with | some d => d.aligned false 64 && d.inRange x.s x.g (64 * x.c.rd g.ln) | none => false) = true) = true ∧
     ([(.gath t, t), (.scat sc, sc), (.scatw t, t)] : List (Instr × FcArgs)).all (fun p =>
       meets (mv p.2 0 0 (2 ^ 21 - 32) p.1) p.1 (fun _ => fcReads p.2 true) (fun x => free p.2 x = true ∧ at_ p.2 x 32 1 1 = true ∧ dsc x (x.c.rd p.2.ln) = true)) = true ∧
     meets (mv sc (2 ^ 21 - 16) 0 32 (.gaths sc)) (.gaths sc) (fun _ => fcReads sc true) (fun x => free sc x = true ∧ dsc x (x.c.rd sc.ln) = true ∧
       (Place.cm (x.c.rd sc.sa)).inRange x.s x.g 1 = true ∧ x.c.rd sc.sa % 32 = 0 ∧ x.c.rd sc.da % 16 = 0 ∧ x.c.rd sc.da < 2 ^ 21 ∧
       (Place.cm (x.c.rd sc.da)).inRange x.s x.g 16 = true) = true ∧
     meets (core (fun c => { c with slots := [(0, leBytes 64 tinyTile)] }) (mv ms 4096 0 0 (.mcopy ms))) (.mcopy ms) (fun _ => fcReads ms true)
       (fun x => free ms x = true ∧ at_ ms x 32 1 1 = true ∧ x.slotTrap 0 = none ∧ (tileOf (x.c.slot 0)).isSome = true ∧ fld (x.c.rd ms.ln) 32 4 ≠ 1) = true ∧
     meets (mv t 0 0 65536 (.tlfetch t)) (.tlfetch t) (fun _ => fcReads t true) (fun x => free t x = true ∧ 1 ≤ x.c.rd t.ln ∧ x.c.rd t.ln ≤ 65536 ∧
       at_ t x 32 (32 + 8 * x.c.rd t.ln) 1 = true) = true) := by decide +kernel

/-- A command block in the last line of the carve-out; pins of 4096 beats at the last address; a full row cache. -/
theorem wit_EngineCommandsAndPins :
    (([.cmuTab (o32 0) 15, .cmuFrm (o32 0) 15, .mpb (o32 0) 15, .belLook (o32 0) 15, .belDep (o32 0) 15, .belRes (o32 0) 15, .belPin (o32 0) 15] : List Instr).all fun i =>
      meets (setX [(o32 0, 2 ^ 21 - 64)] (ready i)) i (fun _ => [(o32 0).xloc]) (fun x => x.roomForRequest = true ∧ x.c.rd (o32 0) % 64 = 0 ∧
        x.c.rd (o32 0) < 2 ^ 21 ∧ (Place.cm (x.c.rd (o32 0))).inRange x.s x.g 64 = true)) = true ∧
    (let i : Instr := .pin (o8 0) (o64 16) 4095
     let s := setX [(o64 16, 2 ^ 54 - 32)] (ready i)
     let had (x : Ctx) : Bool := x.s.pins.any fun p => p.die == x.c.gcore / 32 && p.job == x.g.step.job && p.va == x.c.rd (o64 16) && p.beats == 4096
     let full (x : Ctx) : Bool := decide (64 ≤ x.s.pins.length) || decide (32768 < (x.s.pins.map (·.beats)).foldl (· + ·) 0 + 4096)
     meets { s with pins := [⟨0, 0, 2 ^ 54 - 32, 4096⟩] } i (fun _ => [(o64 16).xloc]) (fun x => x.c.rd (o64 16) % 32 = 0 ∧ x.c.rd (o64 16) < 2 ^ 54 ∧ had x = true) = true ∧
     meets { s with pins := [⟨0, 1, 0, 28673⟩] } i (fun _ => [(o64 16).xloc]) (fun x => x.c.rd (o64 16) % 32 = 0 ∧ x.c.rd (o64 16) < 2 ^ 54 ∧ had x = false ∧ full x = true) = true ∧
     meets { s with pins := [⟨0, 1, 0, 28672⟩] } i (fun _ => [(o64 16).xloc]) (fun x => x.c.rd (o64 16) % 32 = 0 ∧ x.c.rd (o64 16) < 2 ^ 54 ∧ had x = false ∧ full x = false) = true ∧
     runs [(o64 16).xloc] (.unpin (o8 0) (o64 16)) = true) := by decide +kernel

/-! Atomics, gongs and memory streams. -/

/-- R230 to R234: an atomic on the core's own memory reaches it 2 cycles on, as a requester of its bank. -/
theorem test_atadd_times : (scheduled (.atadd 0 (o32 0) (o32 8) (o32 16)) (ready (.atadd 0 (o32 0) (o32 8) (o32 16)))).map (·.1) = [2, 2] := by decide +kernel
/-- R230: ATCAS of B = 9 keeps 5 where C is 4, and takes 9 where C is 5; FP16 1.0 + 1.0 is 2.0 (0x4000). -/
theorem test_cas_apply : (AtOp.apply .cas false 32 5 9 4).1 = 5 ∧ (AtOp.apply .cas false 32 5 9 5).1 = 9 := by decide +kernel
theorem test_atfadd_apply : (AtOp.apply .fadd false 16 0x3C00 0x3C00 0).1 = 0x4000 := by decide +kernel
/-- R243: an arrival is put off to the step's completion and answers 1. -/
theorem test_gong_arr : after (.gongArr (o8 0) (o64 16) 1) (ready (.gongArr (o8 0) (o64 16) 1)) (fun t => (aget 0 t.gangs).map fun g => g.cores.map (·.compl.length))
    = some (some [1]) := by decide +kernel

theorem wit_AtomicsReachAndUpdate :
    (let ok (x : Ctx) (a b : Opnd) : Bool := match placeOf 0 (x.c.rd a) with
       | some p => p.isOwn x.who.rank && p.inRange x.s x.g (b.width / 8) && p.raw % (b.width / 8) == 0
       | none => false
     ([.atadd 0 (o32 0) (o32 8) (o32 16), .atmin true 0 (o32 0) (o32 8) (o32 16), .atmax true 0 (o32 0) (o32 8) (o32 16), .atand 0 (o32 0) (o32 8) (o32 16),
       .ator 0 (o32 0) (o32 8) (o32 16), .atxor 0 (o32 0) (o32 8) (o32 16), .atswp 0 (o32 0) (o32 8) (o32 16), .atfmin false 0 (o32 0) (o32 8) (o32 16),
       .atfmax false 0 (o32 0) (o32 8) (o32 16), .atfadd false 0 (o32 0) (o32 8) (o32 16)] : List Instr).all (fun i =>
         meets (setX [(o32 8, 2 ^ 21 - 4)] (ready i)) i (fun _ => [(o32 8).xloc, (o32 16).xloc]) fun x => ok x (o32 8) (o32 16) = true) = true ∧
     meets (setX [(o32 8, 2 ^ 21 - 4)] (ready (.atcas 0 (o32 0) (o32 8) (o32 16) (o32 24)))) (.atcas 0 (o32 0) (o32 8) (o32 16) (o32 24))
       (fun _ => [(o32 8).xloc, (o32 16).xloc] ++ [o32 24].map Opnd.xloc) (fun x => ok x (o32 8) (o32 16) = true) = true) ∧
    (let s := ready .nop
     let k := cmKey 0 (2 ^ 21 - 4)
     s.opFlit 0 ⟨0, .c, 6, 0⟩ k = none ∧ (s.fetch k (32 / 8)).psn = false ∧ (s.fetch k (32 / 8)).bad = none ∧ (s.fetch k (32 / 8)).fixed = []) := by decide +kernel

/-- A gong in the last 16 bytes of core memory; a full completion list; a core that is not the leader. -/
theorem wit_GongInstructions :
    (let good (r : Except Trap Place) : Bool := match r with | .ok _ => true | .error _ => false
     let full : State → State := core fun c => { c with compl := List.replicate 8 (.arrive 0 1 0) }
     let arr : Instr := .gongArr (o8 0) (o64 16) 4095
     let h : Nat := packHandle 0 0 (2 ^ 21 - 16)
     meets (setX [(o32 0, 2 ^ 21 - 16), (o32 16, 0xFFFFFFFF)] (ready (.gongInit 0 (o32 0) (o32 16)))) (.gongInit 0 (o32 0) (o32 16)) (fun _ => [(o32 0).xloc, (o32 16).xloc])
       (fun x => x.c.rd (o32 16) ≠ 0 ∧ good (x.gongAt 0 (x.c.rd (o32 0))) = true) = true ∧
     meets (ready (.gongHdl false 0 (o64 16) (o32 0) (o8 40))) (.gongHdl false 0 (o64 16) (o32 0) (o8 40)) (fun _ => [(o32 0).xloc, (o8 40).xloc])
       (fun x => good (x.gongAt 0 (x.c.rd (o32 0))) = true) = true ∧
     meets (ready (.gongHdl true 0 (o64 16) (o32 8) Opnd.zero)) (.gongHdl true 0 (o64 16) (o32 8) Opnd.zero) (fun _ => [(o32 8).xloc])
       (fun x => good (x.gongAt 0 (x.c.rd (o32 8))) = true) = true ∧
     meets (setX [(o64 16, h)] (ready arr)) arr (fun _ => [(o64 16).xloc]) (fun x => good (x.handle (x.c.rd (o64 16)) false) = true ∧ x.c.compl.length < 8) = true ∧
     meets (full (setX [(o64 16, h)] (ready arr))) arr (fun _ => [(o64 16).xloc]) (fun x => good (x.handle (x.c.rd (o64 16)) false) = true ∧ ¬ x.c.compl.length < 8) = true ∧
     meets (setX [(o64 16, h)] (ready (.gongWait (o64 16)))) (.gongWait (o64 16)) (fun _ => [(o64 16).xloc])
       (fun x => x.st.loops = [] ∧ good (x.handle (x.c.rd (o64 16)) false) = true) = true ∧
     ([.lstep true (o8 0) (o64 16) (o16 32), .lgraph true (o8 0) (o64 16) (o16 32)] : List Instr).all (fun i =>
       let s := setX [(o16 32, 1023)] (ready i)
       let legal (x : Ctx) : Bool := decide (x.c.rd (o16 32) < 1024) && x.c.rd (o64 16) == 0
       meets { gang (fun g => { g with cores := g.cores ++ g.cores }) s with cursor := { s.cursor with rank := 1 } } i (fun _ => [(o64 16).xloc, (o16 32).xloc])
         (fun x => legal x = true ∧ x.who.rank ≠ 0) &&
       meets s i (fun _ => [(o64 16).xloc, (o16 32).xloc]) (fun x => legal x = true ∧ x.who.rank = 0 ∧ x.c.compl.length < 8) &&
       meets (full s) i (fun _ => [(o64 16).xloc, (o16 32).xloc]) (fun x => legal x = true ∧ x.who.rank = 0 ∧ ¬ x.c.compl.length < 8)) = true) := by decide +kernel

/-- A memory stream on cycle 1000 whose pseudo-channel has bank 15 active on row 7 and the others idle, with a ring of one line and
a region of row 49151 alone. -/
def memReady (i : Instr) : State :=
  let s := gang (fun g => { g with mems := g.mems.map fun m => { m with lines := 1, rows := [49151] } }) (ready i)
  { s with tlc := 1000 }.modPch 0 fun p => { p with banks := p.banks.set 15 (.active 7) }
def timed (i : Instr) (ok : Ctx → MStream → Pch → Bool) : Bool :=
  meets (memReady i) i (fun _ => []) fun x => (match x.m with | some m => ok x m (x.s.pch m.pch) | none => false) = true

theorem wit_RowCommands :
    timed (.act 0 0) (fun x m p => (p.broken opAct 0 x.s.tlc).isEmpty && m.rows[m.rb + 0]? == some 49151) = true ∧
    timed (.pre 15) (fun x _ p => (p.bankAt 15 x.s.tlc).row.isSome && (p.broken opPre 15 x.s.tlc).isEmpty) = true ∧
    timed .prea (fun x _ p => ((List.range 16).filter fun b => (p.bankAt b x.s.tlc).row.isSome).all fun b => (p.broken opPrea b x.s.tlc).isEmpty) = true ∧
    timed (.refpb 0) (fun x _ p => (p.broken opRefpb 0 x.s.tlc).isEmpty && decide (-8 ≤ p.debtAfter 0 x.s.tlc - 1)) = true ∧
    timed (.act 15 0) (fun x m p => (x.timingTrap m opAct (p.broken opAct 15 x.s.tlc)).isSome) = true := by decide +kernel

theorem wit_ColumnCommands :
    (let opened (op : Nat) (x : Ctx) (p : Pch) : Bool := (p.broken op 15 x.s.tlc).isEmpty && (p.bankAt 15 x.s.tlc).row == some 7
     let fetched (x : Ctx) (m : MStream) : Bool := match m.beat 1 with
       | some a => (match x.ringFetch m a with | .ok _ => true | .error _ => false)
       | none => false
     (([(.rd 15 31 1, opRd), (.rda 15 31 1, opRda)] : List (Instr × Nat)).all fun q => timed q.1 fun x m p => opened q.2 x p && (m.beat 1).isSome) = true ∧
     (([(.rdz 15 31, opRdz), (.wrz 15 31, opWrz)] : List (Instr × Nat)).all fun q => timed q.1 fun x _ p => opened q.2 x p) = true ∧
     (([(.wr 15 31 1, opWr), (.wra 15 31 1, opWra), (.wrm 15 31 1 0x80, opWrm)] : List (Instr × Nat)).all fun q => timed q.1 fun x m p => opened q.2 x p && fetched x m) = true) := by
  decide +kernel

theorem wit_RingCommands :
    timed (.ringSet 0x7FFF 0 0) (fun x _ _ => decide (0 < x.g.cores.length) && x.g.inCarve ((64 * 0x7FFF : Nat) : Int) 64) = true ∧
    timed (.ringSeek 49151 1) (fun _ m _ => decide (1 < 2 * m.lines)) = true ∧
    timed (.ringAdv 0x7FFF 1) (fun _ m _ => decide (m.lines ≠ 0) && decide (0 ≤ (m.rb : Int) + (0x7FFF : BitVec 16).toInt) && decide ((m.rb : Int) + (0x7FFF : BitVec 16).toInt ≤ 49151)) = true ∧
    timed (.ringGong 1) (fun x m _ => match m.beat 1 with
      | some a => (match x.ringFetch m a with | .ok r => !r.psn | .error _ => false)
      | none => false) = true ∧
    timed (.dmark 1 255) (fun _ m _ => (m.beat 1).isSome) = true := by decide +kernel

/-- R258, R274: ACT of a bank that is active breaks the bank's state; RD of an idle bank does too. -/
theorem test_bank_state : faultOf (.act 15 0) (memReady (.act 15 0)) = some 19 ∧ faultOf (.rd 0 0 0) (memReady (.rd 0 0 0)) = some 19 := by decide +kernel
/-- R266: REFPB lowers the debt of its bank to -1. -/
theorem test_refpb_debt : after (.refpb 3) (memReady (.refpb 3)) (fun t => (t.pch 0).debtOf 3) = some (-1) := by decide +kernel

/-! The machine: fetching, landing, memory, faults. -/

/-- A word of opcode NOP in `c`, where step fetches it. -/
def nopAt : State := State.reset.withFetchWord 64 (0xD8 * 2 ^ 46)

/-- R92: step runs the fetched NOP: the stream goes on to word 7, counted from the next cycle. -/
theorem test_step_nop : (match step nopAt with
    | .next t => (aget 0 t.gangs).bind fun g => (g.strm 0 .c).map fun st => (st.pc, st.base)
    | _ => none) = some (7, 1) := by decide +kernel
/-- R90: slices 1 and 2 of the file take the byte 0x5A, and slice 0 and 3 keep their values. -/
theorem test_setSlices : setSlices 0xFFFF 1 8 0x5A = 0xF5AF := by decide +kernel
/-- R6, log 1: memory is little-endian, and a zero written is not listed. -/
theorem test_store_bytes : (nopAt.store (cmKey 0 0) (leBytes 4 0x00030201)).mem.bytes (cmKey 0 0) 4 = [1, 2, 3, 0] := by decide +kernel
theorem test_store_zero : ((State.reset.store 5 [1, 2]).store 5 [0, 0]).mem = [] := by decide +kernel
/-- R108: of two faults of one cycle the one of the lower stream is reported. -/
theorem test_fault_order : (((fetchGang 0 .c 0 0).raise 0 (some ⟨0, .v, 6, 0⟩) { cause := 2 }).raise 0 (some ⟨0, .c, 6, 0⟩) { cause := 17 }).fault.map (·.trap.cause) = some 17 := by
  decide +kernel

/-- An answer that is a value for which `f` holds. -/
def okIs {ε α : Type} (r : Except ε α) (f : α → Bool) : Bool :=
  match r with
  | .ok a => f a
  | .error _ => false

/-- A due input; an own event before the words (a release of a segment); a due word that decodes and one that does not (ILL's neighbour
0xE0 decodes to the undefined instruction, a reserved field does not); an own event after the words; nothing. -/
theorem wit_StepRunsDecodedWord :
    ({ nopAt with inbox := [(0, .nop)] }.nextInput).isSome = true ∧ nopAt.nextInput.isSome = false ∧
    (gang (fun g => { g with cues := [⟨0, 0, [0, 0, 0, 0], ⟨0, .c, 6, 0⟩⟩] }) (strm (fun st => { st with st := .cued }) nopAt)).early.isSome = true ∧
    (nopAt.early.isSome = false ∧ (nopAt.dueWord.any fun d =>
      okIs ({ nopAt with cursor := ⟨d.1, d.2.2.1, d.2.2.2.id⟩ }.fetchInstr d.2.1 d.2.2.1 d.2.2.2).2 fun i => decide (i = .nop)) = true) ∧
    (let s := State.reset.withFetchWord 64 (0xD8 * 2 ^ 46 + 1)
     s.nextInput.isSome = false ∧ s.early.isSome = false ∧ (s.dueWord.any fun d =>
      !okIs ({ s with cursor := ⟨d.1, d.2.2.1, d.2.2.2.id⟩ }.fetchInstr d.2.1 d.2.2.1 d.2.2.2).2 fun _ => true) = true) ∧
    (let s := strm (fun st => { st with st := .ended }) nopAt
     s.nextInput.isSome = false ∧ s.early.isSome = false ∧ s.dueWord.isSome = false ∧ s.lateGangs.isSome = true) ∧
    (let s : State := { State.reset with gongQ := [{ key := 0, ord := (4, 0, 0, 0, 0), kind := 5, n := 1, handle := 0, gang := 0, who := none }] }
     s.nextInput.isSome = false ∧ s.early.isSome = false ∧ s.dueWord.isSome = false ∧ s.lateGangs.isSome = false ∧ s.gongQ.isEmpty = false) ∧
    (let s := { gang (fun g => { g with phase := .ending, fault := some ⟨0, none, { cause := 23 }⟩ }) nopAt with tlc := 33 }
     s.nextInput.isSome = false ∧ s.early.isSome = false ∧ s.dueWord.isSome = false ∧ s.lateGangs.isSome = false ∧ s.gongQ.isEmpty = true ∧
       s.lateEvent.isSome = true) ∧
    (State.reset.nextInput.isSome = false ∧ State.reset.early.isSome = false ∧ State.reset.dueWord.isSome = false ∧ State.reset.lateGangs.isSome = false ∧
      State.reset.gongQ.isEmpty = true ∧ State.reset.lateEvent.isSome = false) ∧
    ((aget 0 nopAt.gangs).any fun g => (nopAt.wordAt g 0 .c 6).any (fun r => r.bad.isNone && wordsOf r.word == 1 && okIs (decode .c r.word none) fun i => decide (i = .nop)) &&
      (g.coreAt 0).isSome && decide (6 < (nopAt.info 0).len)) = true := by decide +kernel
/-- A word of two in the plane, and one in a sequencer store. -/
theorem wit_StepRunsDecodedWord_two :
    (let s := State.reset.withFetchWord 128 (0x53 * 2 ^ 46 + 3 * 2 ^ 32 + 3 * 2 ^ 18 + 3 * 2 ^ 4 + 2 ^ 64 * (3 * 2 ^ 32 + 16))
     (aget 0 s.gangs).any fun g => (s.wordAt g 0 .v 6).any fun r => (s.wordAt g 0 .v 7).any fun q =>
       r.bad.isNone && wordsOf r.word == 2 && q.bad.isNone && okIs (decode .v r.word (some q.word)) fun _ => true) = true ∧
    (let s := State.reset.withFetchWord 64 (0xC8 * 2 ^ 46)
     (aget 0 s.gangs).any fun g => (g.memAt 0).any fun m => decide (m.entry ≤ 6) && decide (6 < m.entry + m.len)) = true := by decide +kernel

theorem wit_DecodeEncodeAgree : ((encode (.vfma 1 2 1 (o16 0) (o16 4) (o16 8) (o16 1020))).isSome &&
    (Instr.vfma 1 2 1 (o16 0) (o16 4) (o16 8) (o16 1020)).wf && streamOk 0x53 .v && (encode Instr.nop).isSome && Instr.nop.wf && streamOk 0xD8 (.d 15)) = true := by decide

/-- Canonical memory, and a step from it: of a state that runs a word and of one between words. -/
theorem wit_MemoryStaysCanonical : nopAt.mem.wf = true ∧ (match step nopAt with | .next _ => true | _ => false) = true ∧
    (match step State.reset with | .next t => t.mem.wf | _ => false) = true := by decide +kernel
theorem wit_StoresWriteBytes : (nopAt.store 0x10 [1, 0, 2]).mem.wf = true ∧ ¬ nopAt.mem.isEmpty = true ∧ (nopAt.mem.wf = true) := by decide +kernel
theorem wit_LandingsWriteFiles : (nopAt.coreOn 0 0).isSome = true ∧ (7 : Nat) < 4096 := by decide +kernel
theorem wit_IssueFrame : (planOf (.wr 0 0 0)).isSome = true ∧ (planOf .nop).isSome = true ∧ (nopAt.ctx nopAt.cursor .nop).isSome = true ∧
    (nopAt.coreOn 0 0).isSome = true := by decide +kernel

/-- A write to x8 pending until cycle 9, of this core or a delivery by another. -/
def pending (foreign : Bool) (mode : BitVec 2) : State → State := core fun c => { c with mode := mode, claims := [⟨⟨0, .c, 6, 0⟩, .x 8 8, 9, foreign⟩] }
theorem wit_IssueFaults :
    (let i : Instr := .add true (o32 0) (o32 8) (o32 16)
     let at_ (s : State) (f : Ctx → Plan → Bool) : Bool := match planOf i, s.ctx s.cursor i with
       | some p, some x => (x.decodeTrap i).isNone && f x (p x)
       | _, _ => false
     at_ (pending true 0 (ready i)) (fun x p => !(x.traps i p).isEmpty && p.reads.any fun l => (hazardOf x.s.tlc true (x.against p) l).isSome) = true ∧
     at_ (pending false 2 (ready i)) (fun x p => decide (x.c.mode = 2) && !(x.hazards p).isEmpty) = true ∧
     at_ (pending false 1 (ready i)) (fun x p => (x.traps i p).isEmpty && decide (x.c.mode = 1) && (match p.res with | .ok e => ((x.commit e).coreOn x.gid x.who.rank).isSome | .error _ => false)) = true) := by
  decide +kernel
/-- R104, R106: the early read of a delivery traps with cause 16, of a pending write in trap mode with cause 17, and in record mode it
counts. -/
theorem test_clave : (let i : Instr := .add true (o32 0) (o32 8) (o32 16)
    faultOf i (pending true 0 (ready i)) = some 16 ∧ faultOf i (pending false 2 (ready i)) = some 17 ∧ faultOf i (pending false 0 (ready i)) = none ∧
    after i (pending false 1 (ready i)) (fun t => (t.coreOn 0 0).map (·.hits)) = some (some 1)) := by decide +kernel

theorem wit_FaultRecord :
    (let g := fetchGang 0 .c 0 0
     let f : FaultRec := ⟨5, some ⟨0, .v, 6, 5⟩, { cause := 17 }⟩
     let h := { g with fault := some f }
     g.fault.isNone = true ∧ g.phase = .running ∧ h.fault = some f ∧
       (⟨5, some ⟨0, .c, 6, 5⟩, { cause := 2 }⟩ : FaultRec).before f = true ∧ (⟨5, some ⟨0, .v, 6, 5⟩, { cause := 17 }⟩ : FaultRec).before f = false ∧
       5 + 32 ≤ f.f + 32 ∧ f.f + 32 < 38 ∧ (g.strm 0 .c).isSome = true ∧ (g.coreAt 0).isSome = true) := by decide +kernel

/-! Steps of the device: a state for each clause. -/

/-- The one gang of `s`, and whether `f` holds of it. -/
def gangIs (s : State) (f : Gang → Bool) : Bool := (aget 0 s.gangs).any f
/-- The gang in a phase, at a cycle, with its reported fault. -/
def phased (p : Phase) (t : Nat) (f : Option FaultRec) : State := { gang (fun g => { g with phase := p, fault := f }) nopAt with tlc := t }
/-- A fault of no word on cycle 0. -/
def fault0 : FaultRec := ⟨0, none, { cause := 23 }⟩
/-- Every stream has issued ENDSTEP. -/
def allEnded : State := core (fun c => { c with streams := c.streams.map fun st => { st with st := .ended } }) nopAt
/-- Placed, with the image of its operator staged in every core, and without. -/
def placedWith (staged : Bool) : State :=
  { gang (fun g => { g with phase := .placed 0 }) nopAt with infos := nopAt.infos.map fun i =>
      (i.1, { i.2 with image := if staged then (aget 0 nopAt.gangs).map (·.tob.image) else none }) }

/-- A job of one TOB, the gang's. -/
def job1 : Job := {
  num := 1, q := 0, root := 0, graph := 0, version := 0, tobs := [], deps := [], flaga := 0, flagn := 0, tag := 0, brken := false, quiet := false,
  viaPort := false, ended := none, record := 0 }
def withJob (f : Job → Job) (s : State) : State := { s with sched := { s.sched with jobs := [(0, f { job1 with num := 0 })] } }

theorem wit_StepBegins :
    gangIs (placedWith false) (fun g => g.phase = .placed 0 && !okIs ((placedWith false).imageOf g).2 fun _ => true) = true ∧
    gangIs (placedWith true) (fun g => g.phase = .placed 0 && g.cells.all ((placedWith true).staged g.tob) && okIs ((placedWith true).imageOf g).2 fun bs =>
      let d := ((placedWith true).imageOf g).1.declare (imageWords bs) g.tob
      entriesOk (imageWords bs) g.tob.plen && okIs (memWords d.sched.rings (imageWords bs) g.tob) fun _ => true &&
        (d.checkpointTrap g.step.op g.tob g.step.n g.cells.length).isNone) = true ∧
    (let s := phased (.staged 0) 128 none
     s.tlc % 128 = 0 ∧ s.root.thermalHold = false ∧ s.root.powerHold = false ∧
       gangIs s (fun g => g.phase = .staged 0 && g.mems.all fun m => (s.pch m.pch).settled 128) = true) := by decide +kernel

theorem wit_StepEnds :
    gangIs { nopAt with tlc := 2 ^ 21 + 1 } (fun g => g.phase = .running && g.fault.isNone && g.dbt + 2 ^ 21 + 1 ≤ 2 ^ 21 + 1) = true ∧
    (let s := withJob (fun j => { j with tobs := [⟨0, Tob.blank, 1, 0, false, 0, false⟩] }) allEnded
     let u := s.gongCounts []
     gangIs u (fun g => g.phase = .running && g.atEnd && u.quiescent g && u.tlc ≤ g.dbt + 2 ^ 21 && g.cores.all (·.compl.isEmpty) && !g.tob.arrives &&
       g.step.mc.isNone && (u.job g.step.job).any fun j => (j.tobs[g.step.tobIdx]?).isSome) = true) ∧
    (let u := (phased .ending 33 (some fault0)).gongCounts []
     gangIs u (fun g => g.phase = .ending && g.fault = some fault0 && fault0.f + 33 ≤ u.tlc && u.quiescent g) = true) := by decide +kernel

theorem wit_StepAftermath :
    ([0, 1].all fun errs => gangIs (withJob id (gang (fun g => { g with step := { g.step with errs := errs } }) (phased (.closed 33) 33 (some fault0)))) fun g =>
      g.phase = .closed 33 && g.fault = some fault0 && (withJob id nopAt).jobLive g.step.job && !g.tob.noRestart && !mcCause fault0.trap.cause &&
        fault0.trap.cause ≠ 32 && fault0.trap.cause ≠ 34 && fault0.trap.cause ≠ 49 && g.step.errs == errs) = true ∧
    ([0, 0x1000].all fun at_ => let s := withJob (fun j => { j with ended := some .normal, flaga := at_, flagn := 1 }) State.reset
      (s.job 0).any (fun j => j.ended.isSome && j.flaga == at_) && s.gangs.isEmpty) = true ∧
    (withJob id State.reset).jobLive 0 = true := by decide +kernel

/-- The core's first stream waits; its words stand in tags 1 and 2. -/
def waitAt (w : WaitCond) (pend : BitVec 16) : State :=
  core (fun c => { c with pend := pend, streams := c.streams.map fun st => { st with st := .wait w ⟨0, .c, 6, 0⟩ } }) nopAt
/-- An outstanding request of the gang whose moves stand, due on cycle 0. -/
def asked (moves : Option (List Move)) (node : Option Nat) : State :=
  gang (fun g => { g with reqs := [{
    id := 3, who := ⟨0, .c, 6, 0⟩, tag := 0, kind := .ufill 4 0 0 32, io := 0, handle := none, block := [], seq := 0,
    moves := moves, ordered := false, items := 0, drop := false, late := none, flags := 0, status := none, lastBeat := 0, due := some 0, pages := [],
    draw := none, got := [], node := node }] }) nopAt
/-- The wait of rank 0 meets `f`. -/
def waits (s : State) (f : Core → WaitCond → Bool) : Bool := gangIs s fun g => g.live && (g.waitOf 0).any fun w => f w.1 w.2.1
/-- The request, when the device has first worked on it, meets `f`. -/
def asking (s : State) (f : Gang → Req → Bool) : Bool :=
  ((s.startReq 3).reqAt 3).any (fun p => p.2.1.live && f p.2.1 p.2.2)
/-- A node whose deposit is under way. -/
def blank5 : Node := { key := 0, stamp := 0, domain := 0, rung := 0, runl := 1, parent := 0xFFFF, depth := 1, ref := 1, logg := 4, next := 0, state := 1, child := 0 }

theorem wit_StepEvents :
    (let s := gang (fun g => { g with cues := [⟨0, 0, [], ⟨0, .c, 6, 0⟩⟩] }) (strm (fun st => { st with st := .cued }) nopAt)
     gangIs s (fun g => g.live && g.allCued && g.releaseAt == s.tlc && (g.releaseFaults s.tlc).isEmpty) = true) ∧
    (let s := { strm (fun st => { st with loops := [⟨0, 0, 8, 2, 0, 7, 6, some 3⟩] }) nopAt with tlc := 8 }
     gangIs s (fun g => (g.strm 0 .c).any fun st => st.st == .run && (boundaryLevel 8 st.loops).any fun l => l.endl.isSome && st.loops.head? == some l) = true) ∧
    waits (waitAt (.tags 6) 1) (fun c w => match w with | .tags m => c.pend &&& m == 0 | _ => false) = true ∧
    waits (waitAt (.gong (BitVec.ofNat 64 (2 ^ 60)) 0) 0) (fun c w => match w with
      | .gong h l => gangIs nopAt fun g => nopAt.gongWaitEnds (nopAt.handleKey g c h) h l 0
      | _ => false) = true ∧
    waits (core (fun c => { c with budget := 0 }) (waitAt (.tags 6) 2)) (fun c w => match w with
      | .tags m => c.pend &&& m != 0 && c.budget == 0 && (c.strm .c).any fun st => st.stopAt.isNone
      | _ => false) = true ∧
    (let s := asked (some [.put (cmKey 0 0) [1]]) none
     asking s (fun g r => g.moves && (r.moves.bind fun ms => ms[r.pick ms 0]?).any fun m => !(s.startReq 3).moveWaits (s.startReq 3).used 3 m) = true) ∧
    asking (asked (some []) none) (fun _ r => r.mayComplete 0 && r.late.isNone && (match r.kind with | .engine _ _ => false | _ => true)) = true ∧
    (let s := gang (fun g => { g with reqs := g.reqs.map fun r => { r with kind := .engine 0xC5 0x100 } }) (asked (some []) (some 5))
     let s : State := { s with belfry := { s.belfry with nodes := [(5, blank5)] } }
     (s.reqAt 3).any (fun p => p.2.1.live && p.2.2.kind == .engine 0xC5 0x100 && p.2.2.node == some 5 && p.2.2.late.isNone && p.2.2.mayComplete s.tlc) = true ∧
       s.depWait 3 = none ∧ s.node 5 = some blank5 ∧ blank5.state = 1 ∧ ((s.completeReq 3 false).reqAt 3).isNone = true) := by
  decide +kernel

/-- Pseudo-channel 511 as given, on a cycle. -/
def pchAt (t : Nat) (p : Pch) : State := { State.reset.modPch 511 (fun _ => p) with tlc := t }
/-- A pooled request for the last bank. -/
def poolReq : PoolReq := { req := some 0, lead := false, row := 49151, bank := 15, cols := [63], wr := false, start := none }
def chan : Pch := State.reset.pch 511

theorem wit_ChannelEvents :
    (let s := pchAt 5475 { chan with mode := .timed }
     s.tlc % 5850 = 365 * 15 ∧ s.ticked = [] ∧ (s.pch 511).lease = none ∧ (s.pch 511).mode ≠ .pooled) ∧
    (let s := pchAt 6000 { chan with mode := .timed, debt := List.replicate 16 1 }
     (s.pch 511).lease = none ∧ (s.pch 511).quiet = false ∧ (s.pch 511).mode ≠ .retired ∧ 0 < (s.pch 511).debtOf 15 ∧ (s.pch 511).broken opRefpb 15 6000 = []) ∧
    (let s := { gang (fun g => { g with phase := .ending, fault := some fault0 }) { nopAt with tlc := 1000 } with
       pchs := [(511, { chan with mode := .timed, lease := some 0, banks := List.replicate 16 (.active 7) })] }
     (s.pch 511).bankAt 15 1000 = .active 7 ∧ (s.pch 511).broken opPre 15 1000 = [] ∧ (s.pch 511).lease = some 0 ∧
       gangIs s (fun g => g.phase == .ending && g.fault.any fun f => decide (f.f + 32 < 1000)) = true) ∧
    (let s := gang (fun g => { g with phase := .ending, fault := some ⟨999, none, { cause := 23 }⟩, mems := g.mems.map fun m => { m with strm := { m.strm with st := .ended } } })
       { State.reset.withFetchWord 64 (0xC8 * 2 ^ 46) with tlc := 1000 }
     let s := { s with pchs := s.pchs.map fun p => (p.1, { p.2 with lease := some 0, banks := List.replicate 16 (.active 7) }) }
     gangIs s (fun g => g.phase == .ending && g.fault.any (fun f => decide (f.f < 1000 ∧ 1000 ≤ f.f + 32)) && g.mems.any fun m => m.strm.st == .ended &&
       (s.pch m.pch).bankAt 15 1000 == .active 7 && ((s.pch m.pch).broken opPre 15 1000).isEmpty && (s.pch m.pch).lease == some 0) = true) ∧
    (let started : PoolReq := { poolReq with start := some 5988 }
     ([[started], [started, poolReq]].all fun pool =>
       let s := pchAt 6000 { chan with mode := .pooled, pool := pool }
       s.tlc % 6 == 0 && (s.pch 511).mode == .pooled && s.ticked.isEmpty && (s.pch 511).pool == pool &&
         (pool.filter (fun q => q.start.isNone && ((s.pch 511).broken opAct q.bank s.tlc).isEmpty)) == pool.drop 1) = true) ∧
    State.reset.pchFree 511 = true ∧
    (let s := State.reset.setInfo 255 { State.reset.info 255 with trace := [1, 2] }
     (s.info 255).trace = [1, 2]) := by decide +kernel

/-- A step, and a waiter for it. -/
def step7 : QStep := { id := 7, job := 1, tobIdx := 0, n := 0, attempt := 1, errs := 0, mc := none }
def waiting7 (on : WaitOn) : Waiter := { q := 1023, step := step7, on := on, since := 0 }
def withSched (f : Sched → Sched) : State := { State.reset with sched := f Sched.reset }

theorem wit_SchedulerEvents :
    (State.reset.tlc % 16 = 0 ∧ State.reset.ticked = [] ∧ State.reset.root.thermalHold = false ∧ State.reset.root.powerHold = false) ∧
    (let s := withSched fun q => { q with waiters := [waiting7 .now] }
     (s.sched.waiters.find? fun w => w.step.id == 7) = some (waiting7 .now) ∧ s.waiterMet (waiting7 .now) = true) ∧
    (let k : Kept := { op := 0x10000, job := 1, tobIdx := 0, q := 0, rank := 0, core := 3, acc := true, regions := [], since := 0, held := false, saved := none }
     let s := withSched fun q => { q with kept := [k] }
     ∀ k ∈ s.sched.kept, k.op = 0x10000 → k.saved = none → k.held = false ∧ ∀ g ∈ s.gangs, g.2.live = true → g.2.cells.contains k.core = false) ∧
    (let s := { pchAt 0 { State.reset.pch 511 with mode := .timed } with sched := { Sched.reset with jobs := [(1, job1)] } }
     s.jobLive 1 = true ∧ (s.pch 511).mode = .timed ∧ ∀ r ∈ [0, 49151], r < 49152 ∧ s.rowRetired 511 r = false) ∧
    (let s := State.reset.store 0 [0x20]
     (s.stopEntry 0 5 0 0).any (fun k => (leNat (s.physRead k 8).bytes).testBit 5) = true ∧ s.leafRetired (s.stopLevel 0 5 0 0) 0xF = false ∧ s.sched.waiters = []) ∧
    (let s := withSched fun q => { q with queues := [(5, { Queue.blank with rec_ := 1 })] }
     (s.queue 5).en = true ∧ (0 : BitVec 128).getLsbD 0 = false) ∧
    (let v := packBits [(0, 1, 0), (32, 6, 63), (38, 24, 2 ^ 24 - 1)]
     (BitVec.ofNat 128 v = BitVec.ofNat 128 v &&& ~~~0xFF3E) ∧ (State.reset.queue 1023).en = false ∧ fld v 32 6 ≠ 0 ∧ fld v 38 24 ≠ 0) ∧
    (let v := packBits [(0, 16, 4095), (16, 16, 65535)]
     fld v 0 16 < 4096 ∧ fld v 16 16 ≠ 0 ∧ State.reset.sched.versions = []) ∧
    (let s := { withSched (fun q => { q with hangTo := 1, waiters := [waiting7 (.pch 511)] }) with tlc := 2 ^ 40 }
     s.hangDue = true) := by decide +kernel

/-- Error tables. -/
def withErr (f : ErrState → ErrState) : State := { State.reset with err := f ErrState.reset }
def withRoot (f : RootCtl → RootCtl) : State := { State.reset with root := f RootCtl.reset }

theorem wit_ReliabilityEvents :
    (State.reset.mayScrub (31 / 32 * 32) = true ∧ (State.reset.fetch 0 32).bad = none) ∧
    (let s := withErr fun e => { e with repairs := [(rowUnit 511 15 49151, false)] }
     s.pchFree 511 = true ∧ s.rowMapped 511 15 49151 = false ∧ s.err.repairs.contains (rowUnit 511 15 49151, false) = true) ∧
    (let line := (2 ^ 49 + 2 ^ 21 + 63) / 64 * 64
     let s (used : Nat) := withErr fun e => { e with lasting := [(mcUnit 82 line, 9)], spareCm := [(32, used)] }
     storeOf line = some .core ∧ (line - 2 ^ 49) / 2 ^ 21 * 32 + cmBank ((line - 2 ^ 49) % 2 ^ 21) = 32 ∧
       ([3, 4].all fun used => aget (mcUnit 82 line) (s used).err.lasting == some 9 && aget 32 (s used).err.spareCm == some used && (s used).gangs.isEmpty) = true) ∧
    (let line := (2 ^ 48 + 63) / 64 * 64
     let s := withErr fun e => { e with lasting := [(mcUnit 81 line, 9)], spareVt := [(0, 15)] }
     storeOf line = some .vault ∧ (line - 2 ^ 48) / 2 ^ 24 * 16 + vtBank ((line - 2 ^ 48) % 2 ^ 24) = 0 ∧
       aget (mcUnit 81 line) s.err.lasting = some 9 ∧ aget 0 s.err.spareVt = some 15) ∧
    (State.reset.root.spareUsed = false ∧ State.reset.root.spareFailed = false ∧ State.reset.root.substituting = none ∧ State.reset.root.absent.contains 7 = false) ∧
    (let s := withRoot fun r => { r with substituting := some 7, aborted := true }
     s.root.substituting = some 7 ∧ s.root.aborted = true ∧ s.root.spareFailed = false) ∧
    (let s := withRoot fun r => { r with spareUsed := true }
     s.root.absent.contains 7 = false ∧ s.root.spareUsed = true) := by decide +kernel

/-- The device ready for the host. -/
def up : State := withRoot fun r => { r with ready := true, stage := 10 }

theorem wit_HostAccesses :
    State.reset.root.ready = false ∧
    (up.root.ready = true ∧ up.windowBarred 0 64 = false) ∧
    (let s := { up with host := { HostIf.reset with winbase := BitVec.ofNat 64 (2 ^ 47) } }
     s.windowPieces (2 ^ 30) 32 = [(2 ^ 47 + 2 ^ 30, 0, 32)] ∧ s.barred (2 ^ 47 + 2 ^ 30) 32 = true) ∧
    ((1 : BitVec 64).getLsbD 0 = true ∧ up.host.invQueue.length < 8) ∧
    (let s := { up with host := { HostIf.reset with invQueue := List.replicate 8 (0, 0, 0, 0) } }
     s.root.ready = true ∧ 8 ≤ s.host.invQueue.length ∧ s.invalidationReady (0, 0, 0, 0) = true) ∧
    ((up.ring 15).held = [] ∧ up.root.ready = true ∧ (0 : BitVec 64).getLsbD 63 = false) ∧
    State.reset.root.waiting = none ∧ (withRoot fun r => { r with waiting := some 6 }).root.waiting = some 6 := by decide +kernel

theorem wit_BootAndRoot :
    ([0, 1, 4, 5, 7, 8, 9].all fun n =>
      let s := withRoot fun r => { r with stage := n }
      s.root.powered && s.root.waiting.isNone && !s.root.ready && s.root.stage == n) = true ∧
    (let s := withRoot fun r => { r with stage := 2, spdmVersion := true, spdmAlgs := true, thermalHold := true, powerHold := true, junction := 120 }
     s.root.powered = true ∧ 2 ≤ s.root.stage ∧ s.root.spdmVersion = true ∧ s.root.spdmAlgs = true ∧ s.root.thermalHold = true ∧ s.root.powerHold = true ∧
       (99 : Nat) < 100 ∧ 1300 ≤ s.powerCap ∧ 120 ≤ s.root.junction) ∧
    (State.reset.root.stage ≤ 1 ∧ State.reset.root.thermalHold = false ∧ State.reset.root.powerHold = false ∧ State.reset.powerCap < 1301 ∧ (110 : Nat) ≤ 110) := by
  decide +kernel

/-! Reads of the pool's window translate without a table and without a cached entry. -/

/-- A pool of some granules, the first of which appears at 2^50. -/
def pooled (n : Nat) (nodes : List (Nat × Node)) (pins : List (Nat × Nat)) (s : State) : State :=
  { s with belfry := { s.belfry with pool := some (0x40000000, 4 * 2 ^ 20 + 4096 * n), window := 2 ^ 50, nodes := nodes, pins := pins } }
/-- Bytes from the first granule on. -/
def inPool (bs : List Byte) (s : State) : State := s.store 0x40400000 bs
/-- Bytes with some of them set. -/
def bytesAt (n : Nat) (l : List (Nat × Nat × Nat)) : List Byte :=
  l.foldl (fun b p => b.take p.1 ++ leBytes p.2.1 p.2.2 ++ b.drop (p.1 + p.2.1)) (List.replicate n 0)

def tob256 : List Byte := bytesAt 256 [(1, 1, 1), (4, 4, 1), (16, 2, 7), (48, 1, 1), (49, 1, 1), (57, 1, 1)]
def packet64 : List Byte := bytesAt 64 [(0, 1, 2), (8, 8, 2 ^ 50)]
/-- Queue 5 enabled, with a TOB in granule 0. -/
def launchable : State :=
  pooled 1 [] [] (inPool tob256 { up with sched := { Sched.reset with queues := [(5, { Queue.blank with rec_ := 1 })] } })
def frame64 : List Byte := bytesAt 64 [(0, 1, 3), (1, 1, 1), (2, 2, 511), (8, 8, 64), (16, 4, 1)]
def codecStream : CodecStream := {
  stream := 511, engine := 15, codec := 2, q := 1023, rate := 0, gong := 0, units := [(2 ^ 50, 1, 2)], eos := [], outs := [], frame := 0, lastErr := false,
  lastPic := none, held := none, owed := 1, read := [], shown := 0, flush := false, writes := [] }
def coded (c : CodecStream) : State := { up with codec := [(511, c)] }

theorem wit_LaunchAndCodec :
    (4 * 2 ^ 20 - 4096 < 4 * 2 ^ 20 ∧ (4 * 2 ^ 20 - 4096) % 4096 = 0 ∧ packet64.length = 64 ∧ up.root.ready = true ∧ bfld packet64 0 1 ≠ 3 ∧ packetMalformed packet64 = false) ∧
    (let b := bytesAt 64 [(0, 1, 4)]
     b.length = 64 ∧ bfld b 0 1 ≠ 3 ∧ packetMalformed b = true) ∧
    (frame64.length = 64 ∧ bfld frame64 0 1 = 3 ∧ up.frameReject 1023 frame64 = some 6 ∧ (coded codecStream).root.ready = true ∧
      (coded codecStream).frameReject 1023 frame64 = none ∧ (coded codecStream).stream (bfld frame64 2 2) = some codecStream ∧ codecStream.held = none) ∧
    (let c := { codecStream with outs := [(0, 0, 0, 0, 0)], held := some ⟨64, 64, false, false, false, true, none, [], [], [], []⟩ }
     (coded c).frameReject 1023 frame64 = none ∧ c.held.isSome = true ∧ (c.give frame64).outs ≠ []) ∧
    (let s := pooled 1 [] [] (coded codecStream)
     s.stream 511 = some codecStream ∧ codecStream.units = [(2 ^ 50, 1, 2)] ∧ codecStream.held = none ∧
       okIs (s.virtBytes (s.queue codecStream.q).root (2 ^ 50) 1).2 (fun _ => true) = true) ∧
    ((coded codecStream).stream 511 = some codecStream ∧ codecStream.shown ≠ 1 ∧
      codecStream.owed ≠ 0 ∧
      (((coded codecStream).codecPut codecStream []).modStream 511 fun c => { c with owed := 0, writes := [] }).diePresent (fld codecStream.gong.toNat 0 31 / 2 ^ 28) = true) ∧
    (State.reset.stream 511 = none ∧ (511 : Nat) < 512 ∧ (15 : Nat) < 16) := by decide +kernel
/-- The launch that succeeds. -/
theorem wit_LaunchAndCodec_accepted : ∃ u, launchable.launch 5 (packetWanted packet64) (packetArgs packet64) = (u, none) := by
  have h : (launchable.launch 5 (packetWanted packet64) (packetArgs packet64)).2 = none := by decide +kernel
  revert h
  generalize launchable.launch 5 (packetWanted packet64) (packetArgs packet64) = r
  exact fun h => ⟨r.1, Prod.ext rfl h⟩

/-- An engine command with a block, its layers and nodes, over memory at 0x100000 and later pages. -/
def engine (op : Nat) (block : List Byte) (s : State) : State :=
  gang (fun g => { g with reqs := [{
    id := 3, who := ⟨0, .c, 6, 0⟩, tag := 0, kind := .engine op 0x100, io := 0, handle := none, block := block, seq := 0, moves := none, ordered := false,
    items := 0, drop := false, late := none, flags := 0, status := none, lastBeat := 0, due := none, pages := [], draw := none, got := [], node := none }] }) s
/-- The command's gang and core meet `f`; it is this command's turn. -/
def serving (op : Nat) (s : State) (f : Gang → Core → List Byte → Bool) : Bool :=
  s.mayServe 3 && (s.engineReq 3 op).any fun p => f p.2.1 p.2.2.2.1 p.2.2.1.block
/-- What a read gives meets `f`. -/
def readOk (s : State) (va n : Nat) (f : State → List Byte → Bool) (g : Gang) (c : Core) : Bool :=
  match s.readAt 3 g c (.hv va) n with
  | (u, .ok b) => f u b
  | _ => false

def tabBlock : List Byte := bytesAt 48 [(0, 2, 511), (2, 1, 63), (3, 1, 1), (4, 8, 2 ^ 50), (12, 1, 1)]
def frmBlock : List Byte := bytesAt 48 [(0, 2, 511), (4, 4, 2), (8, 8, 2 ^ 50), (16, 8, 0x200000), (24, 4, 64)]
def head32 : List Byte := bytesAt 32 [(0, 2, 64), (2, 2, 64), (4, 4, 2)]
def lookBlock (n : Nat) : List Byte := bytesAt 48 [(0, 8, 2 ^ 50), (8, 4, n), (12, 1, 4)]
def depBlock : List Byte := bytesAt 48 [(0, 2, 0xFFFF), (2, 1, 4), (8, 8, 2 ^ 50), (16, 8, 2 ^ 50 + 512)]
def resBlock : List Byte := bytesAt 48 [(0, 2, 2), (4, 4, 0), (8, 2, 1)]
/-- A node of 16 units of zeros at depth 1, and a pool of some granules. -/
def node2 : Node := { key := BitVec.ofNat 64 (rollUnits 0 (List.replicate 16 (List.replicate 32 0))), stamp := 0, domain := 0, rung := 0, runl := 1,
                      parent := 0xFFFF, depth := 1, ref := 0, logg := 4, next := 0, state := 2, child := 0 }
/-- A step with a pool of one granule. -/
def page : State := pooled 1 [] [] nopAt

theorem wit_EngineAnswers_layers :
    serving 0xC1 (engine 0xC1 (bytesAt 48 [(0, 2, 512)]) nopAt) (fun _ _ b => decide (512 ≤ bfld b 0 2)) = true ∧
    serving 0xC1 (engine 0xC1 tabBlock { page with cmu := [(511, { CmuSlot.blank with busy := some 9 })] }) (fun _ _ b =>
      blockClean b [(0, 12)] && decide (bfld b 0 2 < 512 ∧ 1 ≤ bfld b 3 1 ∧ bfld b 2 1 + bfld b 3 1 ≤ 64 ∧ bfld b 12 1 ≤ 1) && hvOk (bfld b 4 8)) = true ∧
    (let s := engine 0xC1 tabBlock page
     serving 0xC1 s (fun g c b => (s.cmuSlot (bfld b 0 2)).busy.isNone && readOk s.nextDraw (bfld b 4 8) (8 * bfld b 3 1) (fun _ l => (elemsOf 8 l).all layerOk) g c) = true) := by
  decide +kernel
theorem wit_EngineAnswers_frames :
    serving 0xC2 (engine 0xC2 (bytesAt 48 [(0, 2, 512)]) nopAt) (fun _ _ b => decide (512 ≤ bfld b 0 2)) = true ∧
    (let s := engine 0xC2 frmBlock { inPool head32 page with cmu := [(511, { CmuSlot.blank with last := some 3 })] }
     serving 0xC2 s (fun g c b => (s.cmuSlot (bfld b 0 2)).busy.isNone && blockClean b [(0, 2), (4, 27)] && hvOk (bfld b 8 8) && hvOk (bfld b 16 8) &&
       decide (bfld b 0 2 < 512 ∧ bfld b 2 1 ≤ 3 ∧ bfld b 24 4 % 32 = 0 ∧ 64 ≤ bfld b 24 4 ∧ bfld b 24 4 ≤ 524288 ∧ bfld b 4 4 < 3) &&
       readOk (s.nextDraw.setCmu (bfld b 0 2) { s.cmuSlot (bfld b 0 2) with busy := some 3, next := none }) (bfld b 8 8) 32 (fun _ h => decide (bfld h 4 4 = bfld b 4 4 ∧ 64 ≤ bfld h 0 2 ∧ bfld h 0 2 ≤ 4096 ∧ 64 ≤ bfld h 2 2 ∧ bfld h 2 2 ≤ 2304)) g c) = true) ∧
    (let s := engine 0xC2 frmBlock (inPool head32 page)
     serving 0xC2 s (fun g c b => (s.cmuSlot (bfld b 0 2)).last.isNone && (s.cmuSlot (bfld b 0 2)).busy.isNone && (enabledLayers (s.cmuSlot (bfld b 0 2)).layers).isEmpty &&
       readOk (s.nextDraw.setCmu (bfld b 0 2) { s.cmuSlot (bfld b 0 2) with busy := some 3, next := none }) (bfld b 8 8) 32 (fun u h =>
         decide (bfld h 0 2 = 64 ∧ bfld h 2 2 = 64) && readOk u (bfld b 8 8 + 32) (8 * (ceilDiv 64 16 * ceilDiv 64 16)) (fun _ l => l.length == 128) g c) g c) = true) := by decide +kernel
theorem wit_EngineAnswers_deposits :
    serving 0xC5 (engine 0xC5 depBlock nopAt) (fun _ _ _ => nopAt.belfry.pool.isNone) = true ∧
    (let at_ (n : Nat) (f : Option (List (Nat × Node) × Nat × Nat) → Bool) : Bool :=
       let s := engine 0xC5 depBlock (pooled 1 (if n = 0 then [(0, { blank5 with domain := 1 })] else []) [] nopAt)
       serving 0xC5 s fun g c b => s.belfry.pool.isSome && blockClean b [(0, 2), (8, 24)] && hvOk (bfld b 8 8) && hvOk (bfld b 16 8) &&
         decide (4 ≤ bfld b 2 1 ∧ bfld b 2 1 ≤ 12 ∧ bfld b 8 8 % 32 = 0 ∧ bfld b 16 8 % 32 = 0 ∧ bfld b 24 1 ≤ 8) &&
         (s.depWait 3).isNone && (s.nextDraw.depositParent g.root (bfld b 0 2) (bfld b 2 1)).isSome &&
         readOk s.nextDraw (bfld b 8 8) (32 * 2 ^ bfld b 2 1) (fun u us => us.length == 512 && readOk u (bfld b 16 8) 0 (fun v l => l.isEmpty &&
           (v.belfry.nodes.all fun m => m.2.key.toNat != rollUnits 0 (unitsOf (2 ^ bfld b 2 1) us)) &&
           f (makeRoom (bfld b 0 2) (poolGranules (4 * 2 ^ 20 + 4096)) (runLen (bfld b 2 1) []) (v.belfry.nodes.length + 1) v.belfry.nodes)) g c) g c
     at_ 0 Option.isNone = true ∧ at_ 1 Option.isSome = true) ∧
    (let w : DepWait := { id := 3, key := 0, depth := 1, units := [], exts := [] }
     let s := engine 0xC5 depBlock (pooled 1 [] [] nopAt)
     let s := { s with belfry := { s.belfry with waiting := [w] } }
     serving 0xC5 s (fun _ _ _ => s.belfry.pool.isSome && (s.depWait 3 == some w)) = true) := by decide +kernel
theorem wit_EngineAnswers_lookups :
    serving 0xC4 (engine 0xC4 (lookBlock 16) nopAt) (fun _ _ _ => nopAt.belfry.pool.isNone) = true ∧
    (let s := engine 0xC4 (lookBlock 1) (pooled 1 [(2, node2)] [] nopAt)
     serving 0xC4 s (fun g c b => blockClean b [(0, 12)] && hvOk (bfld b 0 8) && decide (bfld b 0 8 % 32 = 0 ∧ 1 ≤ bfld b 8 4 ∧ bfld b 12 1 = 4) &&
       readOk s.nextDraw (bfld b 0 8) 0 (fun u _ => (u.probe g.root 4 (boundaryKeys 16 0 0 [])).isNone) g c) = true) ∧
    (let s := engine 0xC4 (lookBlock 16) (pooled 1 [(2, node2)] [] nopAt)
     serving 0xC4 s (fun g c b => blockClean b [(0, 12)] && readOk s.nextDraw (bfld b 0 8) 512 (fun u l =>
       (u.probe g.root 4 (boundaryKeys 16 1 0 (unitsOf 16 l))).any fun h => match u.confirm l (u.pathOf h) none with
         | (u', .ok (some m, _)) => (u'.node m).isSome
         | _ => false) g c) = true) := by decide +kernel
theorem wit_EngineAnswers_nodes :
    (let s := engine 0xC6 resBlock (pooled 1 [(2, node2)] [] nopAt)
     serving 0xC6 s (fun g _ b => blockClean b [(0, 1), (4, 9)] && decide (bfld b 4 4 % 16 = 0 ∧ bfld b 8 2 ≠ 0) &&
       g.inCarve (bfld b 4 4) (16 + 16 * bfld b 8 2) && (s.nodeIn g.root (bfld b 0 2)).any (fun v => v.state == 2) && okIs (s.nextDraw.chain (s.nextDraw.pathOf 2)).2 fun _ => true) = true) ∧
    (let s := engine 0xC6 resBlock (pooled 1 [] [] nopAt)
     serving 0xC6 s (fun g _ b => (s.nodeIn g.root (bfld b 0 2)).isNone && g.inCarve (bfld b 4 4) (16 + 16 * bfld b 8 2)) = true) ∧
    (let at_ (f : Nat) (pins : List (Nat × Nat)) : Bool :=
       let s := engine 0xC7 (bytesAt 48 [(0, 2, 2), (2, 1, f)]) (pooled 1 [(2, node2)] pins nopAt)
       serving 0xC7 s fun g _ b => blockClean b [(0, 2)] && decide (bfld b 2 1 ≤ 1) && (s.nodeIn g.root 2).any (fun v => v.state != 1) &&
         (s.belfry.pins.contains (2, g.step.job) == !pins.isEmpty)
     at_ 0 [(2, 0)] = true ∧ at_ 0 [] = true ∧ at_ 1 [] = true) ∧
    (let s := engine 0xC7 (bytesAt 48 [(0, 2, 65535), (2, 1, 1)]) (pooled 1 [] [] nopAt)
     serving 0xC7 s (fun g _ b => blockClean b [(0, 2)] && (s.nodeIn g.root (bfld b 0 2)).isNone) = true) := by decide +kernel

/-! Further clauses, of the statements above in their order: what meets their hypotheses. -/

/-- Beats of core memory 0 poisoned; two bits of a unit of it in error (no code of R381 corrects them). -/
def poisoned (a : Nat) (s : State) : State := { s with poison := [cmKey 0 a / 32] }
def upset (a : Nat) (s : State) : State := { s with err := { s.err with upsets := [⟨.core, cmKey 0 a, 3, 0⟩] } }
/-- The word in the first core's `c` stream. -/
def who0 : Who := ⟨0, .c, 6, 0⟩

/-- The carve-out's last byte, its beat clean and poisoned; a read that finds nothing wrong and one that finds two bits. -/
theorem wit_ScalarLoads_beats :
    (([(.ld (o8 0) (o32 8) 0, 1), (.fill (o8 0) (o32 8) 0, 1)] : List (Instr × Nat)).all fun p =>
      let s := setX [(o32 8, 2 ^ 21 - 1)] (ready p.1)
      let reads (x : Ctx) : List Loc := (o32 8).xloc :: cmLoc (x.c.rd (o32 8)) p.2
      let beats (x : Ctx) : List Nat := beatsOf (cmKey x.c.gcore (x.c.rd (o32 8))) p.2
      meets s p.1 reads (fun x => x.g.inCarve (x.c.rd (o32 8)) p.2 = true ∧ ∀ b ∈ beats x, x.s.poison.contains b = false) &&
        meets (poisoned (2 ^ 21 - 1) s) p.1 reads (fun x => x.g.inCarve (x.c.rd (o32 8)) p.2 = true ∧
          (beats x).find? x.s.poison.contains = some (cmKey 0 (2 ^ 21 - 1) / 32)) &&
        meets (setX [(o32 8, 2 ^ 21)] (ready p.1)) p.1 reads (fun x => x.g.inCarve (x.c.rd (o32 8)) p.2 = false)) = true ∧
    (nopAt.coreOf 0 who0).isSome = true ∧ nopAt.err.upsets = [] ∧ (nopAt.fetch (cmKey 0 8) 8).bad = none ∧
    ((upset 8 nopAt).fetch (cmKey 0 8) 8).bad = some (cmKey 0 8) ∧ storeOf (cmKey 0 8) = some .core := by decide +kernel

/-- R157, R37: the numbers of ASYNC and PLANE, one that no register has, one that is read only, and MODE 2 and 3. -/
theorem wit_StepRegisters_numbers :
    (srPresent 19 = true ∧ srPresent 21 = true ∧ srPresent 22 = false ∧ srPresent 0 = true) ∧
    ([19, 21] : List (BitVec 10)).all (fun n => runs [] (.mfsr (o32 0) n)) = true ∧ runs [(o32 0).xloc] (.mtsr 0 (o32 0)) = true ∧
    ([.mfsr (o32 0) 22, .mtsr 22 (o32 0)] : List Instr).all (fun i => ((ready i).ctx (ready i).cursor i).any fun x =>
      (encode i).any fun e => streamOk e.op.toNat x.who.strm) = true ∧
    meets (setX [(o32 0, 2)] (ready (.mtsr 17 (o32 0)))) (.mtsr 17 (o32 0)) (fun _ => [(o32 0).xloc]) (fun x => x.c.rd (o32 0) % 4 ≠ 3) = true ∧
    meets (setX [(o32 0, 3)] (ready (.mtsr 17 (o32 0)))) (.mtsr 17 (o32 0)) (fun _ => [(o32 0).xloc]) (fun x => x.c.rd (o32 0) % 4 = 3) = true := by
  decide +kernel

theorem wit_TargetAndNestFaults_cue : meets (inLevel 6 (ready (.cue (o64 0) 16))) (.cue (o64 0) 16) (fun _ => [(o64 0).xloc])
    (fun x => (if x.g.twoDies then 104 else 16) ≤ (16 : BitVec 8).toNat ∧ x.st.loops ≠ []) = true := by decide +kernel

/-- One lane's element, or the 128 bytes of VLD, in the last beat of the carve-out. -/
theorem wit_VectorLoads_beats :
    (let i : Instr := .vld (o8 0) (o32 8) 0
     let s := setX [(o32 8, 2 ^ 21 - 128)] (ready i)
     let reads (x : Ctx) : List Loc := (o32 8).xloc :: cmLoc (x.c.rd (o32 8)) 128
     let psn (x : Ctx) := (beatsOf (cmKey x.c.gcore (x.c.rd (o32 8))) 128).find? x.s.poison.contains
     meets s i reads (fun x => x.g.inCarve (x.c.rd (o32 8)) 128 = true ∧ psn x = none) &&
       meets (poisoned (2 ^ 21 - 1) s) i reads (fun x => x.g.inCarve (x.c.rd (o32 8)) 128 = true ∧ psn x = some (cmKey 0 (2 ^ 21 - 1) / 32))) = true ∧
    (let ads (i : Instr) (x : Ctx) (n : Nat) : Int := match i with
       | .vlds _ _ _ _ => x.c.rd (o32 8) + (n : Int) * x.c.sx (o32 16)
       | _ => ((x.c.rd (o32 8) + ((x.c.vrd (o32 16))[n]?).getD 0 : Nat) : Int)
     let reads (i : Instr) (x : Ctx) : List Loc := kloc 1 :: (match i with | .vlds _ _ _ _ => [(o32 8).xloc, (o32 16).xloc] | _ => [(o32 8).xloc, (o32 16).vloc]) ++
       ((lanesIn (x.gov 1)).map fun n => cmLoc (ads i x n) 1).foldr (· ++ ·) []
     let psn (i : Instr) (x : Ctx) (n : Nat) := (beatsOf (cmKey x.c.gcore (ads i x n).toNat) 1).find? x.s.poison.contains
     let inside (i : Instr) (x : Ctx) : Bool := (lanesIn (x.gov 1)).all fun n => x.g.inCarve (ads i x n) 1
     let lane0 : State → State := core fun c => { c with k := c.k.set 1 1 }
     ([.vlds 1 (o8 0) (o32 8) (o32 16), .vldx 1 (o8 0) (o32 8) (o32 16)] : List Instr).all fun i =>
       let s := lane0 (setX [(o32 8, 2 ^ 21 - 1)] (ready i))
       meets s i (reads i) (fun x => inside i x = true ∧ ∀ n ∈ lanesIn (x.gov 1), psn i x n = none) &&
       meets (poisoned (2 ^ 21 - 1) s) i (reads i) (fun x => inside i x = true ∧
         (lanesIn (x.gov 1)).findSome? (fun n => (psn i x n).map fun b => (n, b)) = some (0, cmKey 0 (2 ^ 21 - 1) / 32))) = true ∧
    (List.replicate 128 0).length = 128 := by decide +kernel

/-- A feed of one row from address 0: FP32, and described blocks with k-groups to take. -/
def feedOf (fmt kl n : Nat) : FeedDesc := { qb := true, e := 127, n := n, rows := 0, kl := kl, mmax := 2, fmt := fmt, pitch := 64, base := 0, mc := false }
/-- One core with an entry or a cursor in latch QB. -/
def latched (f : Latch → Latch) : State → State := core fun c => c.modLatch true f
/-- A block of m-bit elements (format byte and scale byte) in the first line. -/
def block (fmt : Nat) : State := nopAt.store (cmKey 0 0) (leBytes 64 (fmt + 128 * 256))

theorem wit_FeedsFillLatches_rows :
    (let free (s : State) (ad : Nat) : Bool := (s.coreOn 0 0).any fun c =>
       (hazardOf s.tlc true c.claims (.cm ad 64)).isNone && (hazardOf s.tlc false c.claims (.cm ad 64)).isNone
     let of (s : State) (fd : FeedDesc) (cont : Bool) (f : RowCur → Nat → Nat → Nat → Bool) : Bool := (s.coreOn 0 0).any fun c =>
       let cur := rowStart c fd cont 0 5
       let b := leNat (s.mem.bytes (cmKey 0 (64 * cur.blk)) 64)
       f cur (fd.need 0 cur.taken) b (min (count (blkMw b) / 8) ((fd.kl + 8) / 8 - (cur.taken + cur.buf.length)))
     nopAt.err.upsets = [] ∧ free nopAt 0 = true ∧ (feedOf 0 0 1).fmt ≠ 9 ∧
     of (latched (fun l => { l with curs := [(5, ⟨1, 0, [zeroRec false]⟩)] }) nopAt) (feedOf 9 7 1) true (fun cur need _ _ => decide (need ≤ cur.buf.length)) = true ∧
     of nopAt (feedOf 9 7 1) false (fun cur need b _ => decide (cur.buf.length < need) && decide (cur.blk < slotBlocks 8 2) && (blkBad b).isSome) = true ∧
     of (block 0x88) (feedOf 9 63 8) false (fun cur need b k => decide (cur.buf.length < need) && decide (cur.blk < slotBlocks 64 2) && (blkBad b).isNone &&
       decide (cur.buf.length + k < need)) = true ∧
     of (block 0x02) (feedOf 9 7 1) false (fun cur need b k => decide (cur.buf.length < need) && decide (cur.blk < slotBlocks 8 2) && (blkBad b).isNone &&
       decide (need ≤ cur.buf.length + k)) = true) ∧
    ((aget 0 nopAt.gangs).any fun g => nopAt.err.flits.isEmpty && (g.receivers 0 (feedOf 0 0 1)).contains 0 && (g.coreAt 0).isSome) = true := by decide +kernel

/-- Entries of latch QA or QB for a pair: filled, poisoned, due later, cut. -/
def entry (psn : Option Nat) (due : Nat) (cut : Bool) : LatchEntry := { due := due, cut := cut, rows := List.replicate 128 { zeroRec false with psn := psn } }
def paired (x : LatchEntry) : State := core (fun c => { c with qa := ⟨[(3, x)], []⟩, qb := ⟨[(4, x)], []⟩ }) nopAt

theorem wit_MultiplySchedules_pairs :
    ([none, some (cmKey 0 32)].all fun psn => ((paired (entry psn 0 false)).coreOn 0 0).any fun c =>
      (aget 3 c.qa.entries).any fun a => (aget 4 c.qb.entries).any fun b => a.due == 0 && b.due == 0 && !a.cut && !b.cut &&
        a.rows.all (fun r => !recBad r false (decide (r.w > 8) && !false)) && b.rows.all (fun r => !recBad r false (decide (r.w > 2))) &&
        (a.rows ++ b.rows).findSome? (·.psn) == psn) = true ∧
    ((nopAt.coreOn 0 0).any fun c => (aget 3 c.qa.entries).isNone) = true ∧
    ([entry none 1 false, entry none 0 true].all fun x => ((paired x).coreOn 0 0).any fun c => (aget 3 c.qa.entries).any fun a => decide (0 < a.due) || a.cut) = true ∧
    (let live : CellPair := { inv := false, live := true, t := 3, e := 0 }
     ([{ live with inv := true }].any (·.inv) = true) ∧ ([{ live with live := false }].all fun x => !x.inv && !x.live) = true ∧
       ([live].all fun x => !x.inv && x.live) = true ∧ (match (fmtOf 0).val 0 with | .fin _ _ _ => true | _ => false) = true) := by decide +kernel

theorem wit_PoolingAndSampling_rows :
    ((paired (entry none 0 false)).coreOn 0 0).any (fun c => (aget 3 c.qa.entries).any fun a => a.due == 0 && !a.cut && a.rows.all (·.psn.isNone)) = true ∧
    ((nopAt.coreOn 0 0).any fun c => (aget 3 c.qa.entries).isNone) = true ∧ (List.replicate 128 0).length = 128 ∧
    ((zeroRec true).inv = false ∧ (zeroRec true).pd = true) ∧ ((zeroRec false).inv = false ∧ (zeroRec false).pd = false) ∧ { zeroRec false with inv := true }.inv = true := by
  decide +kernel

theorem wit_AccumulatorPort_loads : nopAt.err.upsets = [] ∧
    ((nopAt.coreOn 0 0).any fun c => (hazardOf 0 true c.claims (.cm 0 512)).isNone && (hazardOf 0 false c.claims (.cm 0 512)).isNone &&
      (beatsOf (cmKey c.gcore 0) 512).all fun b => !nopAt.poison.contains b) = true := by decide +kernel

/-- A copy of two lines whose second ends past the memory of the core, at its destination and at its source. -/
theorem wit_TimedCopies_faults : ([(2 ^ 21 - 64, 0, 2 ^ 21), (0, 2 ^ 21 - 64, 2 ^ 21)] : List (Nat × Nat × Nat)).all (fun p =>
    meets (mv fc p.1 p.2.1 2 (.copy fc)) (.copy fc) (fun _ => fcReads fc true) (fun x =>
      fc.var = 0 ∧ 1 ≤ x.c.rd fc.ln ∧ x.c.rd fc.ln ≤ 32768 ∧ (hdlTrap (x.hdl fc)).isNone = true ∧ x.c.ports.rel .loc ≤ x.s.tlc ∧
        (match placeOf 0 (x.c.rd fc.da), placeOf 0 (x.c.rd fc.sa) with
        | some d, some s => d.aligned true 64 && s.aligned true 64 && d.inRange x.s x.g 64 && s.inRange x.s x.g 64 && s.isOwn x.who.rank &&
          (x.pathTo d == .loc) && (d.move 64).any (fun a => (s.move 64).any fun b =>
            if p.1 = 0 then b == .cm p.2.2 && !b.inRange x.s x.g 64 else a == .cm p.2.2 && b.inRange x.s x.g 64 && !a.inRange x.s x.g 64)
        | _, _ => false) = true)) = true ∧
    faultOf (.copy fc) (mv fc (2 ^ 21 - 64) 0 2 (.copy fc)) = some 33 := by decide +kernel

/-- A word of x8 and the bytes of a line of core memory that land on cycle 1. -/
def landing : State := { gang (fun g => { g with agenda := [⟨1, who0, .wx 8 32 5⟩, ⟨1, who0, .mem (cmKey 0 0) [1, 2] false⟩] }) nopAt with tlc := 1 }

theorem wit_LandingsWriteFiles_due :
    (aget 0 landing.gangs).any (fun g => landing.dueActs.length == 2 && g.agenda.all fun a => decide (a.at_ ≤ 1) && landing.dueActs.contains (0, a)) = true ∧
    landing.dueBeats.isEmpty = true ∧ landing.dueActs.all (fun p => !p.2.act.mayFault && !p.2.act.registers && !p.2.act.counts && !p.2.act.inBank) = true ∧
    (let reqs := landing.bankReqs id landing.dueActs
     (reqGroups reqs.length reqs).isEmpty = true) ∧
    (landing.gangs.all fun q => match (landing.dueActs.filter fun p => p.1 == q.1).map (·.2) with
      | [a, b] => (q.2.clash a b).isNone && (q.2.clash b a).isNone
      | _ => false) = true ∧
    (let reqs := landing.bankReqs id landing.dueActs
     let lands := landing.dueActs.filter fun p => p.2.act.isLanding
     let landed := ((({ landing with used := usedBanks reqs } : State).foldActs (lands.filter fun p => p.2.act.isQclr) State.landAct).foldActs
       (lands.filter fun p => !p.2.act.isQclr) State.landAct).memWrites lands reqs []
     landed.gongQ.isEmpty && lands.length == 2 && lands.all landed.stands) = true ∧
    landing.mem.wf = true ∧ landing.stands (0, ⟨1, who0, .mem (cmKey 0 0) [1, 2] false⟩) = true ∧ landing.gongQ = [] := by decide +kernel

/-- A write strictly inside a poisoned beat, one of the whole, and a poisoned one. -/
theorem wit_StoresWriteBytes_beats : nopAt.mem.wf = true ∧ (let k := cmKey 0 0; let b := k / 32
    ¬ (k + 4 ≤ 32 * b ∧ 32 * b + 32 ≤ k + 4 + 2) ∧ (k ≤ 32 * b ∧ 32 * b + 32 ≤ k + 32) ∧ (k < 32 * b + 32 ∧ 32 * b < k + 1 ∧ ([1] : List Byte) ≠ [])) := by decide +kernel

theorem wit_FaultRecord_pairs :
    (let g := fetchGang 0 .c 0 0
     let a : Timed := ⟨1, who0, .wx 8 32 5⟩
     let b : Timed := ⟨1, ⟨0, .v, 6, 0⟩, .wx 15 32 6⟩
     a.act.lands = true ∧ b.act.lands = true ∧ whoLt b.who a.who = false ∧ g.clash a b = some (0, 15)) ∧
    (let st : Stream := { Stream.start .v 6 0 with stopAt := some 5 }
     st.stopAt = some 5) ∧
    ((fetchGang 0 (.d 0) 0 0).strm 0 (.d 0)).isSome = true ∧ ((fetchGang 0 (.d 0) 0 0).memAt 0).isSome = true ∧
    (let q : BankReq := ⟨0, who0, 3, true, none⟩
     q.gid = 0 ∧ q.vault = none) := by decide +kernel

/-- A memory stream that stands at its program's end, and one that is staged. -/
def memAt8 : State := State.reset.withFetchWord 64 (0xC8 * 2 ^ 46)

theorem wit_StepBegins_streams :
    (let s := gang (fun g => { g with phase := .staged 0 }) memAt8
     gangIs s fun g => g.phase = .staged 0 && g.cells.length == 1 && g.mems.any (fun m => m.len != 0) && !g.tob.acc && g.mems.all fun m => (s.pch m.pch).settled s.tlc) = true ∧
    gangIs nopAt (fun g => (nopAt.wordAt g 0 .c 6).isSome && (g.coreAt 0).any fun c => decide ((nopAt.info c.gcore).len ≤ 8)) = true ∧
    gangIs memAt8 (fun g => (g.memAt 0).any fun m => decide (m.entry + m.len ≤ 8)) = true := by decide +kernel

/-- A step whose streams have ended, its job live, with a completion entry of each kind: an arrival at core 0's gong, a TOB and a graph
(version 1 of graph 7, of that TOB) in granule 0 of the pool, for queue 5. -/
def withCompl : State :=
  let ver : Version := { graph := 7, version := 1, rec_ := BitVec.ofNat 512 (packBits [(0, 16, 7), (16, 16, 1), (32, 16, 1), (64, 64, 2 ^ 50 + 256)]), current := true }
  let s := core (fun c => { c with compl := [.arrive 0 1 6, .lstep (2 ^ 50) 5 7, .lgraph 7 5 8] })
    (withJob (fun j => { j with tobs := [⟨0, Tob.blank, 2, 0, false, 0, false⟩] }) (pooled 1 [] [] (inPool (tob256 ++ leBytes 8 (2 ^ 50)) allEnded)))
  { s with sched := { s.sched with queues := [(5, { Queue.blank with rec_ := 1 })], versions := [ver] } }
/-- A gong in core 0 with an arrival count. -/
def gongOf (arr : Nat) : State := nopAt.store (cmKey 0 0) (leBytes 16 (packBits [(4, 16, arr)]))

theorem wit_StepEnds_entries :
    (let u := withCompl.gongCounts []
     gangIs u (fun g => g.phase = .running && g.atEnd && u.quiescent g && u.tlc ≤ g.dbt + 2 ^ 21 && !g.tob.arrives && !g.tob.acc && g.tob.regions.isEmpty &&
       g.step.mc.isNone && g.refs.isEmpty && (
       let es := (g.cores.map fun c => c.compl.map fun e => (c, e)).flatten
       let v := ((List.range es.length).zip es).foldl (fun s p => s.complEntry g p.1 p.2.1 p.2.2) (u.modJob g.step.job fun j =>
         { j with tobs := j.tobs.modify g.step.tobIdx fun e => { e with flagw := e.flagw ||| g.cores.foldl (fun f c => f ||| c.flags) 0, done := e.done + 1 } })
       es.length == 3 && v.gongQ.length == 1 && v.sched.jobs.length == 2 && !(v.dropGang g.id).jobFinished g.step.job)) = true) ∧
    nopAt.err.flits = [] ∧ gangIs withCompl (fun g => g.cores.all fun c => storeOf (withCompl.handleKey g c 0) == some .core) = true ∧
    (withCompl.jobLive 0 = true ∧ (withCompl.addTob 0 5 (2 ^ 50)).2 = true ∧ nopAt.jobLive 0 = false) ∧
    (withCompl.launch 5 (.graph 7) { tag := 0xFFFFFFFF, flaga := 0, flagn := 0, brken := false, quiet := false, viaPort := false }).2 = none := by decide +kernel

theorem wit_StepEnds_gongs :
    (let s := gongOf 0
     let k := cmKey 0 0
     s.mem.wf = true ∧ s.err.upsets = [] ∧ (s.gong k).arr = 0 ∧ (s.gong k).inb = 0 ∧ (s.gong k).out = 0 ∧ s.advancedNow k = false ∧ s.gongTrap k (0, 0) = none) ∧
    ((gongOf 1).gong (cmKey 0 0)).arr ≠ 0 := by decide +kernel

/-- A closed attempt whose fault has no word, and one of a word; the trap ring has room. -/
theorem wit_StepAftermath_record : ([fault0, ⟨0, some who0, { cause := 17 }⟩] : List FaultRec).all (fun f =>
    let s := withJob id (phased (.closed 33) 33 (some f))
    gangIs s (fun g => g.phase = .closed 33 && g.fault = some f && !mcCause f.trap.cause && !g.tob.noRestart && s.jobLive g.step.job) &&
      (ringAt s.sched.trapMem 0 s.sched.trapSeq s.sched.trapRing.length 1).2 != 0) = true := by decide +kernel

/-- A stream of `v` that still runs at the release; waits of both kinds; a deposit's completion. -/
theorem wit_StepEvents_more :
    (let s := core (fun c => { c with streams := c.streams ++ [Stream.start .v 6 0] })
       (gang (fun g => { g with cues := [⟨0, 0, [], ⟨0, .c, 6, 0⟩⟩] }) (strm (fun st => { st with st := .cued }) nopAt))
     gangIs s (fun g => g.live && g.allCued && g.releaseAt == s.tlc && (g.coreAt 0).any fun c => c.streams.any fun st => st.id != .c && st.st == .run) = true) ∧
    (nopAt.coreOn 0 0).any (fun c => (c.strm .c).any fun st => match st.st with | .wait _ _ => false | _ => true) = true ∧
    waits (waitAt (.tags 6) 1) (fun c _ => (c.strm .c).any fun st => match st.st with | .wait _ _ => true | _ => false) = true := by decide +kernel

theorem wit_ChannelEvents_mode : State.reset.pchFree 511 = true ∧ State.reset.firmwareIn 511 = false := by decide +kernel

/-- One queue with a READY head that has its place; one core's kept state, to be saved. -/
def dispatching : State :=
  let s := (launchable.launch 5 (packetWanted packet64) (packetArgs packet64)).1
  { s with sched := { s.sched with classPtr := [(0, 5)], nextId := 9 } }.modQueue 5 fun v => { v with deficit := 1, front := [step7] }
theorem wit_SchedulerEvents_dispatch :
    (let s := dispatching
     let u := s.tickOnce 0 0
     s.tlc % 16 == 0 && !s.ticked.contains (0, 0) && !s.root.thermalHold && !s.root.powerHold && s.sched.reservations.isEmpty && u.chooseClass == some 0 &&
       u.classQueues 0 == [5] && aget 0 s.sched.classPtr == some 5 && (u.readyHead 5).any fun h => decide ((h.2.tob.steplen : Int) ≤ (s.queue 5).deficit) &&
         h.2.tob.named.isEmpty && (s.job h.1.job).isSome && (u.place h.1 h.2.tob).any fun cells => (u.keptMet h.1.op h.2.tob cells).isEmpty) = true ∧
    (let k : Kept := { op := 0x10000, job := 1, tobIdx := 0, q := 0, rank := 0, core := 3, acc := false, regions := [(0, 1)], since := 0, held := false, saved := none }
     let s := withSched fun q => { q with kept := [k] }
     s.sched.kept = [k] ∧ k.rank ≠ noRank ∧ s.gangs = [] ∧ (k.regions.map fun r => (64 * r.1, 64 * r.2)).all (fun a =>
       (s.fetch (cmKey k.core a.1) a.2).bad.isNone && (s.fetch (cmKey k.core a.1) a.2).fixed.isEmpty) = true) := by decide +kernel

/-- Frame packets of 63 bytes and before READY; a stream that is flushing; a frame that the units read have not. -/
theorem wit_LaunchAndCodec_frames :
    (frame64.take 63).length ≠ 64 ∧ State.reset.root.ready = false ∧
    ((coded codecStream).nextFrame codecStream).isNone = true ∧
    (let c := { codecStream with flush := true }
     (pooled 1 [] [] (coded c)).stream 511 = some c ∧ c.units = [(2 ^ 50, 1, 2)] ∧ c.held = none) := by decide +kernel

theorem wit_ReliabilityEvents_scrub : State.reset.mayScrub 0 = true ∧ (State.reset.fetch 0 32).bad = none := by decide +kernel

/-- A window read that is allowed; a recovery image that is waited for. -/
theorem wit_HostAccesses_reads :
    (up.root.ready = true ∧ up.windowPieces 0 32 = [(0, 0, 32)] ∧ up.barred 0 32 = false ∧ (up.physRead 0 32).bad = none ∧ (up.physRead 0 32).psn = false) ∧
    (withRoot fun r => { r with waiting := some 3 }).root.waiting = some 3 ∧ (2 ^ 63 : BitVec 64).getLsbD 63 = true := by decide +kernel

/-- An image of each kind, and none; stages 2, 3 and 6; temperatures. -/
theorem wit_BootAndRoot_images :
    (([1, 2, 3, 4] : List Nat).all fun k =>
      let i : Image := ⟨(List.replicate 16 (0 : Byte)).set 0 (BitVec.ofNat 8 k)⟩
      i.kind == k && ([i].find? fun j => j.kind == k) == some i && (([] : List Image).find? fun j => j.kind == k).isNone) = true ∧
    ([2, 3, 6].all fun n =>
      let s := withRoot fun r => { r with stage := n }
      s.root.powered && s.root.waiting.isNone && !s.root.ready && s.root.stage == n && !s.root.has 2 && !s.root.has 3 && !s.root.has 4) = true ∧
    (110 ≤ 110 ∧ State.reset.root.thermalHold = false ∧ 100 ≤ 109 ∧ 109 < 110) := by decide +kernel

end Sys2Proof.Tests
end

namespace Sys2Proof.Machine

/-! Step registers (R32 to R37, R156, R157). -/

/-- A refused decoding is the one fault the word meets at issue. -/
theorem Ctx.run_decodeTrap {x : Ctx} {i : Instr} {p : Plan} {tr : Trap} (h : x.decodeTrap i = some tr) :
    x.run i p = x.s.raise x.gid x.t (some x.who) tr := by
  simp only [Ctx.run, Ctx.traps, Ctx.trapsBy, h, lowestTrap]

/-- In a stream where its opcode is valid, a word whose first word is not well formed is refused with cause 2 (R128, R129). -/
theorem Ctx.decodeTrap_wfFirst {x : Ctx} {i : Instr} {e : Enc} (he : encode i = some e) (hok : streamOk e.op.toNat x.who.strm = true)
    (hw : i.wfFirst = false) : x.decodeTrap i = some { cause := 2 } := by
  simp [Ctx.decodeTrap, he, hok, hw]

theorem Instr.wfFirst_mfsr_absent {d : Opnd} {num : BitVec 10} (h : srPresent num.toNat = false) : (Instr.mfsr d num).wfFirst = false := by
  simp [Instr.wfFirst, h]

theorem Instr.wfFirst_mtsr_absent {num : BitVec 10} {a : Opnd} (h : srPresent num.toNat = false) : (Instr.mtsr num a).wfFirst = false := by
  simp [Instr.wfFirst, h]

/-- A word that decoding refuses for its first word raises cause 2 and does nothing else. -/
theorem exec_wfFirst {i : Instr} {p : Ctx → Plan} {e : Enc} {s : State} {x : Ctx} (hp : planOf i = some p) (he : encode i = some e)
    (hw : i.wfFirst = false) (hx : s.ctx s.cursor i = some x) (hok : streamOk e.op.toNat x.who.strm = true) :
    exec i s = .next (s.raise x.gid s.tlc (some x.who) { cause := 2 }) := by
  rw [exec_of_planOf hp, issue_next hx, Ctx.run_decodeTrap (Ctx.decodeTrap_wfFirst he hok hw), Ctx.t, State.ctx_s hx]

theorem planMfsr_early {num : BitVec 10} (hp : srPresent num.toNat = true) (h19 : num ≠ 19) (h21 : num ≠ 21) (d : Opnd) (x : Ctx) :
    planMfsr d num x = ⟨[], .ok (x.xEff d (x.s.stepReg x.g x.c num.toNat) 1)⟩ := by
  have hl : srLate num.toNat = false := by
    simp only [srLate, Bool.or_eq_false_iff, beq_eq_false_iff_ne]
    exact ⟨fun h => h19 (BitVec.eq_of_toNat_eq h), fun h => h21 (BitVec.eq_of_toNat_eq h)⟩
  simp only [planMfsr, hp, hl, Bool.not_true, Bool.false_eq_true, if_false, Ctx.xPlan_eq]

theorem planMfsr_late {num : BitVec 10} (h : num = 19 ∨ num = 21) (d : Opnd) (x : Ctx) :
    planMfsr d num x =
      ⟨[], .ok { claims := [(d.xloc, x.s.tlc + 1)], acts := [(x.s.tlc, .readReg num.toNat d.start.toNat d.width)] }⟩ := by
  rcases h with rfl | rfl <;> rfl

theorem planMtsr_absent {num : BitVec 10} (hp : srPresent num.toNat = false) (a : Opnd) (x : Ctx) :
    planMtsr num a x = .bad [a.xloc] 2 := by
  simp only [planMtsr, hp, Bool.not_false, if_true]

/-! MTSR to each register that it may write, and to another one (R157). -/

theorem planMtsr_flags (a : Opnd) (x : Ctx) :
    planMtsr 16 a x = ⟨[a.xloc], .ok { acts := [(x.s.tlc + 1, .clrFlags (BitVec.ofNat 7 (x.c.rd a)))] }⟩ := rfl

theorem planMtsr_chk (a : Opnd) (x : Ctx) :
    planMtsr 17 a x = if x.c.rd a % 4 = 3 then ⟨[a.xloc], .error { cause := 2 }⟩
      else ⟨[a.xloc], .ok { acts := [(x.s.tlc + 1, .setMode (BitVec.ofNat 2 (x.c.rd a)))] }⟩ := rfl

theorem planMtsr_budget (a : Opnd) (x : Ctx) :
    planMtsr 18 a x = ⟨[a.xloc], .ok { acts := [(x.s.tlc + 1, .setBudget (x.c.rd a % 2 ^ 32))] }⟩ := rfl

theorem planMtsr_other {num : BitVec 10} (hp : srPresent num.toNat = true) (h16 : num ≠ 16) (h17 : num ≠ 17) (h18 : num ≠ 18)
    (a : Opnd) (x : Ctx) : planMtsr num a x = ⟨[a.xloc], .error { cause := 33, hi := 2 }⟩ := by
  simp only [planMtsr, hp, Bool.not_true, Bool.false_eq_true, if_false]
  split
  · exact absurd (BitVec.eq_of_toNat_eq ‹_›) h16
  · exact absurd (BitVec.eq_of_toNat_eq ‹_›) h17
  · exact absurd (BitVec.eq_of_toNat_eq ‹_›) h18
  · rfl

/-- A register read at the end of a cycle lands on the next one. -/
theorem State.readAct_readReg {s : State} {gid : Nat} {w : Who} {g : Gang} {c : Core} (hg : aget gid s.gangs = some g)
    (hc : s.coreOf gid w = some c) (n st wd : Nat) :
    s.readAct gid w (.readReg n st wd) = s.addAgenda gid [⟨s.tlc + 1, w, .wx st wd (s.stepReg g c n % 2 ^ wd)⟩] := by
  simp only [State.readAct, State.readCore, hg, hc]

/-- Settles O9: each clause is the plan of MFSR or MTSR for its numbers, and what decoding refuses comes before any plan. -/
theorem stepRegisters : Obligations.StepRegisters := by
  intro d a num
  refine ⟨fun hp h19 h21 => ?_, fun h => ?_, fun s gid w g c st wd hg hc => State.readAct_readReg hg hc _ _ _, fun h i hi s x hx hok => ?_,
    fun s gid w n => rfl, ?_, ?_, ?_, ?_, fun hp h16 h17 h18 => ?_⟩
  · exact Completes.of_plan (exec_of_planOf rfl) fun x _ => planMfsr_early hp h19 h21 d x
  · exact Completes.of_plan (exec_of_planOf rfl) fun x _ => planMfsr_late h d x
  · rcases hi with rfl | rfl
    · exact exec_wfFirst rfl rfl (Instr.wfFirst_mfsr_absent h) hx (hok _ rfl)
    · exact exec_wfFirst rfl rfl (Instr.wfFirst_mtsr_absent h) hx (hok _ rfl)
  · rintro rfl
    exact Completes.of_plan (exec_of_planOf rfl) fun x _ => planMtsr_flags a x
  · rintro rfl
    exact Completes.of_plan (exec_of_planOf rfl) fun x hx => (planMtsr_chk a x).trans (if_neg hx)
  · rintro rfl
    exact Faults.of_plan (exec_of_planOf rfl) fun x hx => (planMtsr_chk a x).trans (if_pos hx)
  · rintro rfl
    exact Completes.of_plan (exec_of_planOf rfl) fun x _ => planMtsr_budget a x
  · exact Faults.of_plan (exec_of_planOf rfl) fun x _ => planMtsr_other hp h16 h17 h18 a x

end Sys2Proof.Machine

namespace Sys2Proof.Machine

/-! What a change of a gang leaves of its cores' files. -/

theorem Core.sameFiles_trans {a b c : Core} (h : a.sameFiles b) (k : b.sameFiles c) : a.sameFiles c := by
  obtain ⟨h1, h2, h3, h4, h5, h6, h7, h8, h9, h10, h11, h12⟩ := h
  obtain ⟨k1, k2, k3, k4, k5, k6, k7, k8, k9, k10, k11, k12⟩ := k
  exact ⟨k1.trans h1, k2.trans h2, k3.trans h3, k4.trans h4, k5.trans h5, k6.trans h6, k7.trans h7, k8.trans h8, k9.trans h9,
    k10.trans h10, k11.trans h11, k12.trans h12⟩

/-- Each core of a gang is there in another, with the same files. -/
def Gang.sameFiles (g h : Gang) : Prop := ∀ r c, g.coreAt r = some c → ∃ d, h.coreAt r = some d ∧ c.sameFiles d

theorem Gang.sameFiles_of_cores {g h : Gang} (e : h.cores = g.cores) : g.sameFiles h := fun r c hc =>
  ⟨c, by rwa [Gang.coreAt, e], c.sameFiles_refl⟩

theorem Gang.sameFiles_refl (g : Gang) : g.sameFiles g := Gang.sameFiles_of_cores rfl

theorem Gang.sameFiles_trans {g h k : Gang} (p : g.sameFiles h) (q : h.sameFiles k) : g.sameFiles k := fun r c hc =>
  let ⟨d, hd, e⟩ := p r c hc
  let ⟨b, hb, e'⟩ := q r d hd
  ⟨b, hb, Core.sameFiles_trans e e'⟩

theorem Gang.sameFiles_modCore {f : Core → Core} (hf : ∀ c : Core, c.sameFiles (f c)) (g : Gang) (n : Nat) : g.sameFiles (g.modCore n f) := by
  intro r c hc
  rw [Gang.coreAt_modCore, hc]
  split
  · exact ⟨f c, rfl, hf c⟩
  · exact ⟨c, rfl, c.sameFiles_refl⟩

theorem Core.sameFiles_modStrm (c : Core) (id : StreamId) (f : Stream → Stream) : c.sameFiles (c.modStrm id f) :=
  ⟨rfl, rfl, rfl, rfl, rfl, rfl, rfl, rfl, rfl, rfl, rfl, rfl⟩

theorem Core.sameFiles_modLatch (c : Core) (qb : Bool) (f : Latch → Latch) : c.sameFiles (c.modLatch qb f) := by
  cases qb <;> exact ⟨rfl, rfl, rfl, rfl, rfl, rfl, rfl, rfl, rfl, rfl, rfl, rfl⟩

theorem Gang.sameFiles_modStrm (g : Gang) (r : Nat) (id : StreamId) (f : Stream → Stream) : g.sameFiles (g.modStrm r id f) := by
  cases id
  case d => exact Gang.sameFiles_of_cores rfl
  all_goals exact Gang.sameFiles_modCore (fun c => c.sameFiles_modStrm _ f) g r

theorem Gang.sameFiles_foldl {α : Type} {f : Gang → α → Gang} (hf : ∀ (g : Gang) a, g.sameFiles (f g a)) (l : List α) (g : Gang) :
    g.sameFiles (l.foldl f g) := by
  induction l generalizing g with
  | nil => exact g.sameFiles_refl
  | cons a l ih => exact Gang.sameFiles_trans (hf g a) (ih _)

/-- A fault stops streams and changes no file (R41). -/
theorem Gang.sameFiles_raise (g : Gang) (t : Nat) (w : Option Who) (tr : Trap) : g.sameFiles (g.raise t w tr) := by
  have hs : g.sameFiles (g.stop t w) := by
    cases w with
    | none => exact g.sameFiles_refl
    | some w => exact g.sameFiles_modStrm _ _ _
  unfold Gang.raise
  split
  · exact Gang.sameFiles_trans hs (Gang.sameFiles_of_cores rfl)
  · split
    · exact Gang.sameFiles_trans hs (Gang.sameFiles_of_cores rfl)
    · exact hs

/-- The entries a feed makes pending, and its ports, are no files (R181). -/
theorem Gang.sameFiles_feedCommit (rs : List Nat) (qb : Bool) (rel last : Nat) (pend : List (Nat × Nat)) (rank : Nat) (g : Gang) :
    g.sameFiles (feedCommit rs qb rel last pend rank g) := by
  refine Gang.sameFiles_trans (Gang.sameFiles_foldl (fun g r => Gang.sameFiles_modCore (fun c => c.sameFiles_modLatch qb _) g r) rs g)
    (Gang.sameFiles_modCore (fun c => ?_) _ rank)
  exact ⟨rfl, rfl, rfl, rfl, rfl, rfl, rfl, rfl, rfl, rfl, rfl, rfl⟩

/-- The record of a ring fetch is no file (R257). -/
theorem Gang.sameFiles_ringLog (x : Ctx) (m : MStream) (r : RingRead) (g : Gang) : g.sameFiles (x.ringLog m r g) := by
  unfold Ctx.ringLog
  split
  · exact g.sameFiles_refl
  · refine Gang.sameFiles_modCore (fun c => ?_) g _
    exact ⟨rfl, rfl, rfl, rfl, rfl, rfl, rfl, rfl, rfl, rfl, rfl, rfl⟩

/-! The device's side of an effect. -/

theorem State.flitBetween_frame (s : State) (gid a b dst : Nat) :
    (s.flitBetween gid a b dst).1.gangs = s.gangs ∧ (s.flitBetween gid a b dst).1.tlc = s.tlc ∧ (s.flitBetween gid a b dst).1.mem = s.mem := by
  unfold State.flitBetween
  split <;> exact ⟨rfl, rfl, rfl⟩

theorem Ctx.ringNote_frame (x : Ctx) (m : MStream) (r : RingRead) (dst : Nat) (s : State) :
    (x.ringNote m r dst s).gangs = s.gangs ∧ (x.ringNote m r dst s).tlc = s.tlc ∧ (x.ringNote m r dst s).mem = s.mem := by
  unfold Ctx.ringNote
  obtain ⟨a, b, c⟩ := State.flitBetween_frame ((s.correctedAll (some x.g) 0 r.rd).movedBad (some x.g) 0 r.rd (some dst)) x.gid
    (x.ringDies m).2 (x.ringDies m).1 dst
  obtain ⟨a', b', c'⟩ := State.movedBad_frame (s.correctedAll (some x.g) 0 r.rd) (some x.g) 0 r.rd (some dst)
  obtain ⟨a'', b'', c''⟩ := State.correctedAll_frame s (some x.g) 0 r.rd
  exact ⟨a.trans (a'.trans a''), b.trans (b'.trans b''), c.trans (c'.trans c'')⟩

theorem Ctx.deliverNote_frame (x : Ctx) (m : MStream) (addr : Nat) (s : State) :
    (x.deliverNote m addr s).gangs = s.gangs ∧ (x.deliverNote m addr s).tlc = s.tlc ∧ (x.deliverNote m addr s).mem = s.mem :=
  State.flitBetween_frame s _ _ _ _

/-! The frame of a plan. -/

/-- An effect on its issue cycle keeps the files of cores, the cycle, the other gangs and, unless it may store at issue (`st`), memory. -/
def Eff.KeepsFiles (st : Bool) (e : Eff) : Prop :=
  (∀ c : Core, c.sameFiles (e.core c)) ∧ (∀ g : Gang, g.sameFiles (e.gang g)) ∧
    ∀ s, (e.dev s).gangs = s.gangs ∧ (e.dev s).tlc = s.tlc ∧ (st = false → (e.dev s).mem = s.mem)

/-- Every effect of a plan keeps them. -/
def Plan.KeepsFiles (st : Bool) (p : Plan) : Prop := ∀ e, p.res = .ok e → e.KeepsFiles st

theorem Plan.Framed.keepsFiles {st : Bool} {p : Plan} (h : p.Framed st) : p.KeepsFiles st := fun e he =>
  let ⟨⟨hc, hg, hd⟩, hm⟩ := h e he
  ⟨hc, fun g => Gang.sameFiles_of_cores (hg g), fun s => ⟨(hd s).1, (hd s).2, fun k => hm k s⟩⟩

/-- An effect whose change of the device is none. -/
theorem Eff.keepsFiles_of {st : Bool} {e : Eff} (hc : ∀ c : Core, c.sameFiles (e.core c)) (hg : ∀ g : Gang, g.sameFiles (e.gang g))
    (hd : ∀ s, e.dev s = s) : e.KeepsFiles st := ⟨hc, hg, fun s => by simp [hd]⟩

namespace Plan

variable {st : Bool}

theorem keepsFiles_eff {r : List Loc} {e : Eff} (h : e.KeepsFiles st) : KeepsFiles st ⟨r, .ok e⟩ := fun f hf => by cases hf; exact h

@[simp] theorem keepsFiles_error (r : List Loc) (tr : Trap) : KeepsFiles st ⟨r, .error tr⟩ := Framed.error.keepsFiles
@[simp] theorem keepsFiles_bad (r : List Loc) (a b c : Nat) (d : Bool) : KeepsFiles st (Plan.bad r a b c d) := Framed.bad.keepsFiles
@[simp] theorem keepsFiles_plain (r : List Loc) (a : List (Loc × Nat)) (b : List (Nat × Loc × Nat)) (c : List (Nat × Act))
    (d : Option (Stream → Stream)) : KeepsFiles st ⟨r, .ok { claims := a, deliver := b, acts := c, flow := d }⟩ := Framed.plain.keepsFiles
@[simp] theorem keepsFiles_xPlan (x : Ctx) (r : List Loc) (d : Opnd) (v : Int) (l : Nat) (f : Flags) : KeepsFiles st (x.xPlan r d v l f) :=
  Framed.xPlan.keepsFiles
@[simp] theorem keepsFiles_vPlan (x : Ctx) (r : List Loc) (d : Opnd) (m : Mask) (v : List Nat) (l : Nat) (f : Flags) :
    KeepsFiles st (x.vPlan r d m v l f) := Framed.vPlan.keepsFiles
@[simp] theorem keepsFiles_kPlan (x : Ctx) (r : List Loc) (k : Nat) (b v : Mask) (l : Nat) (f : Flags) :
    KeepsFiles st (x.kPlan r k b v l f) := Framed.kPlan.keepsFiles
@[simp] theorem keepsFiles_request (x : Ctx) (r : List Loc) (t : BitVec 4) (k : ReqKind) (io : BitVec 2) (h : Option (Nat × Except Trap Place))
    (ts : List (Option Trap)) (im : Bool) (due : Option Nat) (a : Nat → List (Nat × Act)) :
    KeepsFiles st (x.request r t k io h ts im due a) := Framed.request.keepsFiles
@[simp] theorem keepsFiles_copyEff (r : List Loc) (x : Ctx) (d : Place) (p : Path) (n e l : Nat) (c : List (Loc × Nat))
    (v : List (Nat × Loc × Nat)) (a : List (Nat × Act)) : KeepsFiles st ⟨r, .ok (x.copyEff d p n e l c v a)⟩ := Framed.copyEff.keepsFiles
@[simp] theorem keepsFiles_fPlan (x : Ctx) (r : List Loc) (d : Opnd) (k : BitVec 3) (v : List (Nat × Flags)) (l : Nat) :
    KeepsFiles st (x.fPlan r d k v l) := Framed.vPlan.keepsFiles

/-- A plan that chooses between two keeps the files where both do. -/
@[simp] theorem keepsFiles_ite (c : Prop) [Decidable c] (p q : Plan) :
    KeepsFiles st (if c then p else q) ↔ (c → KeepsFiles st p) ∧ (¬ c → KeepsFiles st q) := by
  split <;> simp_all

/-- A plan that changes its own core, and no file of it. -/
theorem keepsFiles_core {r : List Loc} {a : List (Loc × Nat)} {b : List (Nat × Loc × Nat)} {c : List (Nat × Act)} {d : Option (Stream → Stream)}
    {f : Core → Core} (h : ∀ c : Core, c.sameFiles (f c)) : KeepsFiles st ⟨r, .ok { claims := a, deliver := b, acts := c, flow := d, core := f }⟩ :=
  (Framed.core h).keepsFiles

theorem keepsFiles_withMem {x : Ctx} {f : MStream → Pch → Plan} (h : ∀ m p, KeepsFiles st (f m p)) : KeepsFiles st (x.withMem f) := by
  unfold Ctx.withMem
  split
  · exact h _ _
  · exact keepsFiles_bad _ _ _ _ _

end Plan
end Sys2Proof.Machine

namespace Sys2Proof.Machine
namespace Plan
variable {st : Bool}

/-! Scalar and vector plans (05, 06). -/

@[simp] theorem keepsFiles_planLoad (n : Nat) (d a : Opnd) (imm : BitVec 18) (x : Ctx) : KeepsFiles st (planLoad n d a imm x) := by
  simp only [planLoad, keepsFiles_ite, keepsFiles_bad, implies_true, true_and]
  intro _
  split <;> simp

@[simp] theorem keepsFiles_planMtsr (num : BitVec 10) (a : Opnd) (x : Ctx) : KeepsFiles st (planMtsr num a x) := by
  by_cases hp : srPresent num.toNat = true
  · by_cases h16 : num = 16
    · rw [h16, planMtsr_flags]
      exact keepsFiles_plain _ _ _ _ _
    by_cases h17 : num = 17
    · rw [h17, planMtsr_chk, keepsFiles_ite]
      exact ⟨fun _ => keepsFiles_error _ _, fun _ => keepsFiles_plain _ _ _ _ _⟩
    by_cases h18 : num = 18
    · rw [h18, planMtsr_budget]
      exact keepsFiles_plain _ _ _ _ _
    rw [planMtsr_other hp h16 h17 h18]
    exact keepsFiles_error _ _
  · rw [planMtsr_absent (by simpa using hp)]
    exact keepsFiles_bad _ _ _ _ _

/-- The row is read by any function `row`: with `rowRead` itself in its place the kernel would run it. -/
theorem keepsFiles_expansion (f : Fmt) (rnd : BitVec 2) (d : Opnd) (x : Ctx) (reads : List Loc) (cw : Nat) (va : List Nat)
    (row : List Nat → Nat → Nat → List Dy → Bool → Except RowBad (List Dy × Bool × Nat)) :
    KeepsFiles st (let len := fld cw 0 7 + 1
    let bl := (List.range 8).map (laneBlock va)
    match row bl len 0 [] false with
    | .error e => ⟨reads, .error (blkTrap e.reason ((bl[e.blk]?).getD 0))⟩
    | .ok (vals, fm, _) =>
      let r := vals.map (roundF f rnd false)
      let m := maskOf ((List.range 128).map fun i => decide (i < len))
      x.vPlan reads d m (r.map (·.1) ++ List.replicate (128 - len) 0) 3 (flagsOf (r.map (·.2)) ||| flagIf fm flagFM)) := by
  dsimp only
  split
  · exact keepsFiles_error _ _
  · exact keepsFiles_vPlan _ _ _ _ _ _ _

@[simp] theorem keepsFiles_planVxpd (sg : Bool) (fmt : BitVec 4) (rnd : BitVec 2) (d a c : Opnd) (x : Ctx) :
    KeepsFiles st (planVxpd sg fmt rnd d a c x) := by
  unfold planVxpd
  exact (keepsFiles_ite _ _ _).2 ⟨fun _ => keepsFiles_bad _ _ _ _ _, fun _ => keepsFiles_expansion _ _ _ _ _ _ _ (rowRead sg)⟩

@[simp] theorem keepsFiles_planVld (d a : Opnd) (imm : BitVec 18) (x : Ctx) : KeepsFiles st (planVld d a imm x) := by
  simp only [planVld, keepsFiles_ite, keepsFiles_bad, implies_true, true_and]
  intro _
  split <;> simp

@[simp] theorem keepsFiles_planLaneLoad (r : List Loc) (k : BitVec 3) (d : Opnd) (ads : List Int) (x : Ctx) :
    KeepsFiles st (planLaneLoad r k d ads x) := by
  simp only [planLaneLoad]
  split
  · simp
  · split <;> simp

@[simp] theorem keepsFiles_planLaneStore (r : List Loc) (k : BitVec 3) (d : Opnd) (ads : List Int) (x : Ctx) :
    KeepsFiles st (planLaneStore r k d ads x) := by
  simp only [planLaneStore]
  split <;> simp

/-! Matrix plans (07). -/

/-- A feed makes entries pending on its receivers' latches (R181), which are no files. -/
theorem keepsFiles_feed {r : List Loc} {a : List (Nat × Act)} {f : Core → Core} (hf : ∀ c : Core, c.sameFiles (f c)) (rs : List Nat) (qb : Bool)
    (rel last : Nat) (pend : List (Nat × Nat)) (rank : Nat) :
    KeepsFiles st ⟨r, .ok { acts := a, core := f, gang := feedCommit rs qb rel last pend rank }⟩ :=
  keepsFiles_eff (Eff.keepsFiles_of hf (Gang.sameFiles_feedCommit _ _ _ _ _ _) fun _ => rfl)

@[simp] theorem keepsFiles_feedPlan (x : Ctx) (r : List Loc) (f : FeedDesc) (cont : Bool) (rows : List (Option Nat)) :
    KeepsFiles st (feedPlan x r f cont rows) := by
  simp only [feedPlan, keepsFiles_ite, keepsFiles_bad, keepsFiles_error, implies_true, true_and]
  intro _ _
  split
  · simp
  · exact keepsFiles_feed Core.sameFiles_refl _ _ _ _ _ _

@[simp] theorem keepsFiles_planFeedd (qb : Bool) (e : BitVec 7) (cw kn : Opnd) (x : Ctx) : KeepsFiles st (planFeedd qb e cw kn x) := by
  simp only [planFeedd, keepsFiles_ite, keepsFiles_bad, keepsFiles_error, implies_true, true_and]
  exact fun _ _ => keepsFiles_feed Core.sameFiles_refl _ _ _ _ _ _

@[simp] theorem keepsFiles_planWin (qb : Bool) (e : BitVec 7) (cw kn : Opnd) (x : Ctx) : KeepsFiles st (planWin qb e cw kn x) := by
  unfold planWin
  split
  · simp
  · simp only [keepsFiles_ite, keepsFiles_bad, keepsFiles_error, implies_true, true_and]
    refine fun _ _ _ => keepsFiles_feed (fun c => ?_) _ _ _ _ _ _
    exact ⟨rfl, rfl, rfl, rfl, rfl, rfl, rfl, rfl, rfl, rfl, rfl, rfl⟩

@[simp] theorem keepsFiles_planBoxcfg (cw kn : Opnd) (x : Ctx) : KeepsFiles st (planBoxcfg cw kn x) := by
  simp only [planBoxcfg, keepsFiles_ite, keepsFiles_bad, keepsFiles_error, implies_true, true_and]
  refine fun _ _ _ => keepsFiles_feed (fun c => ?_) _ _ _ _ _ _
  exact ⟨rfl, rfl, rfl, rfl, rfl, rfl, rfl, rfl, rfl, rfl, rfl, rfl⟩

@[simp] theorem keepsFiles_planCropa (e : BitVec 7) (cw : Opnd) (x : Ctx) : KeepsFiles st (planCropa e cw x) := by
  unfold planCropa
  split
  · simp only [keepsFiles_ite, keepsFiles_bad, keepsFiles_error, implies_true, true_and]
    refine fun _ _ _ => keepsFiles_feed (fun c => ?_) _ _ _ _ _ _
    exact ⟨rfl, rfl, rfl, rfl, rfl, rfl, rfl, rfl, rfl, rfl, rfl, rfl⟩
  · simp

@[simp] theorem keepsFiles_planMma (zero causal : Bool) (pw : BitVec 6) (cw kn : Opnd) (x : Ctx) : KeepsFiles st (planMma zero causal pw cw kn x) := by
  simp only [planMma, keepsFiles_ite, keepsFiles_bad, implies_true, true_and]
  intro _
  split
  · simp
  · exact keepsFiles_core fun c => ⟨rfl, rfl, rfl, rfl, rfl, rfl, rfl, rfl, rfl, rfl, rfl, rfl⟩

@[simp] theorem keepsFiles_planPool (mx init fin : Bool) (e : BitVec 7) (cw kn : Opnd) (x : Ctx) : KeepsFiles st (planPool mx init fin e cw kn x) := by
  simp only [planPool, keepsFiles_ite, keepsFiles_bad, implies_true, true_and]
  intro _
  split
  · simp
  · exact keepsFiles_core fun c => ⟨rfl, rfl, rfl, rfl, rfl, rfl, rfl, rfl, rfl, rfl, rfl, rfl⟩

@[simp] theorem keepsFiles_portPlan (x : Ctx) (r : List Loc) (n : Nat) (cs : List (Loc × Nat)) (per : Nat → List (Nat × Act)) :
    KeepsFiles st (x.portPlan r n cs per) := by
  unfold Ctx.portPlan
  split
  · simp
  · exact keepsFiles_core fun c => ⟨rfl, rfl, rfl, rfl, rfl, rfl, rfl, rfl, rfl, rfl, rfl, rfl⟩

@[simp] theorem keepsFiles_planAld (r : BitVec 7) (cw kn : Opnd) (x : Ctx) : KeepsFiles st (planAld r cw kn x) := by
  simp only [planAld]; split <;> simp
@[simp] theorem keepsFiles_planAsav (r : BitVec 7) (cw kn : Opnd) (x : Ctx) : KeepsFiles st (planAsav r cw kn x) := by
  simp only [planAsav]; split <;> simp
@[simp] theorem keepsFiles_planArdv (r : BitVec 7) (cw kn : Opnd) (x : Ctx) : KeepsFiles st (planArdv r cw kn x) := by
  simp only [planArdv]; split <;> simp
@[simp] theorem keepsFiles_planAwrv (r : BitVec 7) (cw kn : Opnd) (x : Ctx) : KeepsFiles st (planAwrv r cw kn x) := by
  simp only [planAwrv]; split <;> simp
@[simp] theorem keepsFiles_cellPlan (x : Ctx) (r : BitVec 7) (cw kn : Opnd) (f : Nat → Nat → Nat × Flags) : KeepsFiles st (x.cellPlan r cw kn f) := by
  simp only [Ctx.cellPlan]; split <;> simp

/-! Control (05, 11). -/

@[simp] theorem keepsFiles_branchPlan (x : Ctx) (r : List Loc) (tgt : Int) (a : List (Loc × Nat)) (b : List (Nat × Loc × Nat)) (c : List (Nat × Act)) :
    KeepsFiles st (x.branchPlan r tgt { claims := a, deliver := b, acts := c }) := by
  unfold Ctx.branchPlan; split <;> simp

/-- A plan that changes its gang but for the cores. -/
theorem keepsFiles_gang {r : List Loc} {a : List (Loc × Nat)} {b : List (Nat × Loc × Nat)} {c : List (Nat × Act)} {d : Option (Stream → Stream)}
    {f : Gang → Gang} (h : ∀ g, (f g).cores = g.cores) : KeepsFiles st ⟨r, .ok { claims := a, deliver := b, acts := c, flow := d, gang := f }⟩ :=
  (Framed.gang h).keepsFiles

@[simp] theorem keepsFiles_planLoop (lvl : BitVec 2) (per : BitVec 20) (x : Ctx) : KeepsFiles st (planLoop lvl per x) := by
  simp only [planLoop, keepsFiles_ite, keepsFiles_bad, implies_true, true_and]
  refine fun _ _ => ⟨fun _ => keepsFiles_gang fun g => ?_, fun _ => keepsFiles_gang fun g => ?_⟩
  all_goals split <;> rfl

@[simp] theorem keepsFiles_planEndl (lvl : BitVec 2) (x : Ctx) : KeepsFiles st (planEndl lvl x) := by
  unfold planEndl; split <;> simp

@[simp] theorem keepsFiles_planCue (a : Opnd) (off : BitVec 8) (x : Ctx) : KeepsFiles st (planCue a off x) := by
  simp only [planCue, keepsFiles_ite, keepsFiles_bad, implies_true, true_and]
  exact fun _ _ => keepsFiles_gang fun _ => rfl

@[simp] theorem keepsFiles_planSvc (d a : Opnd) (code : BitVec 10) (x : Ctx) : KeepsFiles st (planSvc d a code x) :=
  keepsFiles_core fun c => by
    split <;> exact ⟨rfl, rfl, rfl, rfl, rfl, rfl, rfl, rfl, rfl, rfl, rfl, rfl⟩

/-- A plan that changes the device but for its gangs, cycle and memory. -/
theorem keepsFiles_dev {r : List Loc} {a : List (Loc × Nat)} {b : List (Nat × Loc × Nat)} {c : List (Nat × Act)} {d : Option (Stream → Stream)}
    {f : State → State} (h : ∀ s, (f s).gangs = s.gangs ∧ (f s).tlc = s.tlc ∧ (f s).mem = s.mem) :
    KeepsFiles st ⟨r, .ok { claims := a, deliver := b, acts := c, flow := d, dev := f }⟩ := (Framed.dev h).keepsFiles

@[simp] theorem keepsFiles_planEvent (d a : Opnd) (code : BitVec 10) (x : Ctx) : KeepsFiles st (planEvent d a code x) :=
  keepsFiles_dev fun s => by
    split <;> exact ⟨rfl, rfl, rfl⟩

@[simp] theorem keepsFiles_planHold (x : Ctx) : KeepsFiles st (planHold x) := by
  simp only [planHold, keepsFiles_ite, keepsFiles_bad, implies_true, true_and]
  intro _
  split <;> simp

@[simp] theorem keepsFiles_planEndstep (x : Ctx) : KeepsFiles st (planEndstep x) := by
  simp only [planEndstep, keepsFiles_ite, keepsFiles_bad, implies_true, true_and]
  intro _ _
  split <;> simp

/-! Movement, synchronisation and engines (08, 09). -/

@[simp] theorem keepsFiles_planGongInit (sp : BitVec 3) (a b : Opnd) (x : Ctx) : KeepsFiles st (planGongInit sp a b x) := by
  simp only [planGongInit, keepsFiles_ite, keepsFiles_bad, implies_true, true_and]
  intro _
  split <;> simp

@[simp] theorem keepsFiles_planGongHdl (cur : Bool) (sp : BitVec 3) (d a b : Opnd) (x : Ctx) : KeepsFiles st (planGongHdl cur sp d a b x) := by
  simp only [planGongHdl]
  rcases x.gongAt sp.toNat (x.c.rd a) with _ | _ <;> simp

@[simp] theorem keepsFiles_planGongArr (d a : Opnd) (n : BitVec 12) (x : Ctx) : KeepsFiles st (planGongArr d a n x) := by
  simp only [planGongArr]
  rcases x.handle (x.c.rd a) false with _ | _
  · simp
  · rw [keepsFiles_ite]
    exact ⟨fun _ => keepsFiles_core fun c => ⟨rfl, rfl, rfl, rfl, rfl, rfl, rfl, rfl, rfl, rfl, rfl, rfl⟩, fun _ => keepsFiles_xPlan _ _ _ _ _ _⟩

@[simp] theorem keepsFiles_planGongWait (a : Opnd) (x : Ctx) : KeepsFiles st (planGongWait a x) := by
  simp only [planGongWait]
  rcases x.handle (x.c.rd a) false with _ | _ <;> split <;> simp

@[simp] theorem keepsFiles_planLaunch (bad : Nat → Bool) (entry : Nat → Nat → Compl) (lead : Bool) (d a b : Opnd) (x : Ctx) :
    KeepsFiles st (planLaunch bad entry lead d a b x) := by
  simp only [planLaunch, keepsFiles_ite, keepsFiles_bad, keepsFiles_xPlan, implies_true, true_and, and_true]
  exact fun _ _ _ => keepsFiles_core fun c => ⟨rfl, rfl, rfl, rfl, rfl, rfl, rfl, rfl, rfl, rfl, rfl, rfl⟩

@[simp] theorem keepsFiles_planAt (op : AtOp) (flag : Bool) (sp : BitVec 3) (d a b : Opnd) (c : Option Opnd) (x : Ctx) :
    KeepsFiles st (planAt op flag sp d a b c x) := by
  unfold planAt; split <;> simp

@[simp] theorem keepsFiles_movePlan (x : Ctx) (f : FcArgs) (r : List Loc) (d s : Place) (offs : List (Int × Int)) (pre : List (Option Trap)) :
    KeepsFiles st (x.movePlan f r d s offs pre) := by
  unfold Ctx.movePlan
  dsimp only
  split <;> simp

@[simp] theorem keepsFiles_convPlan (x : Ctx) (f : FcArgs) (r : List Loc) (da sa n : Nat) : KeepsFiles st (x.convPlan f r da sa n) := by
  unfold Ctx.convPlan
  dsimp only
  split <;> simp

@[simp] theorem keepsFiles_planCopy (f : FcArgs) (x : Ctx) : KeepsFiles st (planCopy f x) := by
  unfold planCopy
  split <;> simp [keepsFiles_movePlan, keepsFiles_convPlan]

@[simp] theorem keepsFiles_planCopya (f : FcArgs) (x : Ctx) : KeepsFiles st (planCopya f x) := by
  unfold planCopya
  split
  · rw [keepsFiles_ite]
    refine ⟨fun _ => keepsFiles_bad _ _ _ _ _, fun _ => ?_⟩
    split <;> simp [keepsFiles_movePlan]
  · simp

@[simp] theorem keepsFiles_planSeqcfg (slot : BitVec 3) (off : BitVec 15) (a : Opnd) (x : Ctx) : KeepsFiles st (planSeqcfg slot off a x) := by
  simp only [planSeqcfg, keepsFiles_ite, keepsFiles_bad, implies_true, true_and]
  exact fun _ _ => keepsFiles_core fun c => ⟨rfl, rfl, rfl, rfl, rfl, rfl, rfl, rfl, rfl, rfl, rfl, rfl⟩

@[simp] theorem keepsFiles_planXform (f : FcArgs) (x : Ctx) : KeepsFiles st (planXform f x) := by
  unfold planXform
  split
  · simp
  · rw [keepsFiles_ite]
    exact ⟨fun _ => keepsFiles_bad _ _ _ _ _, fun _ => keepsFiles_core fun c => ⟨rfl, rfl, rfl, rfl, rfl, rfl, rfl, rfl, rfl, rfl, rfl, rfl⟩⟩

@[simp] theorem keepsFiles_planXformv (f : FcArgs) (x : Ctx) : KeepsFiles st (planXformv f x) := by
  unfold planXformv
  split
  · simp
  · simp only [keepsFiles_ite, keepsFiles_error, implies_true, true_and]
    exact fun _ _ => keepsFiles_core fun c => ⟨rfl, rfl, rfl, rfl, rfl, rfl, rfl, rfl, rfl, rfl, rfl, rfl⟩

@[simp] theorem keepsFiles_planUcopy (f : FcArgs) (x : Ctx) : KeepsFiles st (planUcopy f x) := by
  unfold planUcopy; split <;> simp
@[simp] theorem keepsFiles_planUfill (f : FcArgs) (x : Ctx) : KeepsFiles st (planUfill f x) := by
  unfold planUfill; split <;> simp
@[simp] theorem keepsFiles_planGather (mk : Place → Place → Nat → ReqKind) (f : FcArgs) (x : Ctx) : KeepsFiles st (planGather mk f x) := by
  unfold planGather; split <;> simp
@[simp] theorem keepsFiles_planGaths (f : FcArgs) (x : Ctx) : KeepsFiles st (planGaths f x) := by
  unfold planGaths; split <;> simp
@[simp] theorem keepsFiles_planTlfetch (f : FcArgs) (x : Ctx) : KeepsFiles st (planTlfetch f x) := by
  unfold planTlfetch; split <;> simp
@[simp] theorem keepsFiles_planMcopy (f : FcArgs) (x : Ctx) : KeepsFiles st (planMcopy f x) := by
  unfold planMcopy
  split
  · simp
  · dsimp only
    split <;> simp

@[simp] theorem keepsFiles_planPin (d a : Opnd) (beats : BitVec 12) (x : Ctx) : KeepsFiles st (planPin d a beats x) := by
  simp only [planPin, keepsFiles_ite, keepsFiles_bad, keepsFiles_xPlan, implies_true, true_and]
  exact fun _ _ _ => keepsFiles_dev fun _ => ⟨rfl, rfl, rfl⟩

@[simp] theorem keepsFiles_planUnpin (d a : Opnd) (x : Ctx) : KeepsFiles st (planUnpin d a x) := keepsFiles_dev fun _ => ⟨rfl, rfl, rfl⟩

/-! Memory streams (10). -/

@[simp] theorem keepsFiles_pchPlan (m : MStream) (f : Pch → Pch) : KeepsFiles st (pchPlan m f) := keepsFiles_dev fun _ => ⟨rfl, rfl, rfl⟩
@[simp] theorem keepsFiles_ringPlan (m : MStream) (f : MStream → MStream) : KeepsFiles st (ringPlan m f) := keepsFiles_gang fun _ => rfl

@[simp] theorem keepsFiles_planAct (bank : BitVec 4) (row : BitVec 16) (x : Ctx) : KeepsFiles st (planAct bank row x) :=
  keepsFiles_withMem fun m p => by
    dsimp only
    split
    · simp
    · split <;> simp
@[simp] theorem keepsFiles_planPre (bank : BitVec 4) (x : Ctx) : KeepsFiles st (planPre bank x) :=
  keepsFiles_withMem fun m p => by dsimp only; split <;> simp
@[simp] theorem keepsFiles_planPrea (x : Ctx) : KeepsFiles st (planPrea x) := keepsFiles_withMem fun m p => by dsimp only; split <;> simp
@[simp] theorem keepsFiles_planRefpb (bank : BitVec 4) (x : Ctx) : KeepsFiles st (planRefpb bank x) :=
  keepsFiles_withMem fun m p => by dsimp only; split <;> simp

@[simp] theorem keepsFiles_planRd (auto : Bool) (bank : BitVec 4) (col : BitVec 5) (beat : BitVec 13) (x : Ctx) :
    KeepsFiles st (planRd auto bank col beat x) := keepsFiles_withMem fun m p => by
  dsimp only
  split
  · simp
  · split
    · simp
    · refine keepsFiles_dev fun s => ?_
      obtain ⟨a, b, c⟩ := Ctx.deliverNote_frame x m _ ((s.modPch m.pch fun p => p.column x.t (if auto then opRda else opRd) bank.toNat).colNote x.gid
        (x.s.fetch _ 32) (some (x.ringKey m _)))
      obtain ⟨a', b', c'⟩ := State.colNote_frame (s.modPch m.pch fun p => p.column x.t (if auto then opRda else opRd) bank.toNat) x.gid
        (x.s.fetch _ 32) (some (x.ringKey m _))
      exact ⟨a.trans a', b.trans b', c.trans c'⟩

@[simp] theorem keepsFiles_planRdz (bank : BitVec 4) (col : BitVec 5) (x : Ctx) : KeepsFiles st (planRdz bank col x) :=
  keepsFiles_withMem fun m p => by
    dsimp only
    split
    · simp
    · exact keepsFiles_dev fun s => State.colNote_frame (s.modPch m.pch fun p => p.column x.t opRdz bank.toNat) _ _ _

/-- A write command stores at issue (R263). -/
theorem keepsFiles_planWrite (op : Nat) (mask : BitVec 8) (bank : BitVec 4) (col : BitVec 5) (beat : BitVec 13) (x : Ctx) :
    KeepsFiles true (planWrite op mask bank col beat x) := keepsFiles_withMem fun m p => by
  dsimp only
  split
  · simp
  · split
    · simp
    · simp
    · simp
    · refine keepsFiles_eff ⟨Core.sameFiles_refl, Gang.sameFiles_ringLog x m _, fun s => ⟨?_, ?_, nofun⟩⟩
      · rw [State.store_gangs, (Ctx.ringNote_frame x m _ _ _).1]
        split
        · exact (State.colNote_frame _ _ _ _).1
        · rfl
      · rw [State.store_tlc, (Ctx.ringNote_frame x m _ _ _).2.1]
        split
        · exact (State.colNote_frame _ _ _ _).2.1
        · rfl

theorem keepsFiles_planWrz (bank : BitVec 4) (col : BitVec 5) (x : Ctx) : KeepsFiles true (planWrz bank col x) :=
  keepsFiles_withMem fun m p => by
    split
    · simp
    · exact keepsFiles_eff ⟨Core.sameFiles_refl, Gang.sameFiles_refl, fun s => ⟨State.store_gangs _ _ _ _, State.store_tlc _ _ _ _, nofun⟩⟩

@[simp] theorem keepsFiles_planRingSet (base : BitVec 16) (lines : BitVec 13) (rank : BitVec 6) (x : Ctx) : KeepsFiles st (planRingSet base lines rank x) :=
  keepsFiles_withMem fun m _ => by simp
@[simp] theorem keepsFiles_planRingSeek (rows : BitVec 16) (beat : BitVec 13) (x : Ctx) : KeepsFiles st (planRingSeek rows beat x) :=
  keepsFiles_withMem fun m _ => by simp
@[simp] theorem keepsFiles_planRingAdv (rows : BitVec 16) (beat : BitVec 13) (x : Ctx) : KeepsFiles st (planRingAdv rows beat x) :=
  keepsFiles_withMem fun m _ => by simp

@[simp] theorem keepsFiles_planRingGong (beat : BitVec 13) (x : Ctx) : KeepsFiles st (planRingGong beat x) := keepsFiles_withMem fun m _ => by
  split
  · simp
  · split
    · simp
    · rw [keepsFiles_ite]
      refine ⟨fun _ => keepsFiles_dev (Ctx.ringNote_frame x m _ _), fun _ => keepsFiles_eff ⟨Core.sameFiles_refl, Gang.sameFiles_ringLog x m _, fun s => ?_⟩⟩
      obtain ⟨a, b, c⟩ := Ctx.ringNote_frame x m _ _ s
      exact ⟨a, b, fun _ => c⟩

@[simp] theorem keepsFiles_planDmark (beat : BitVec 13) (code : BitVec 8) (x : Ctx) : KeepsFiles st (planDmark beat code x) :=
  keepsFiles_withMem fun m p => by
    split
    · simp
    · exact keepsFiles_dev (Ctx.deliverNote_frame x m _)

end Plan
end Sys2Proof.Machine

namespace Sys2Proof.Machine

/-- WR, WRA, WRM and WRZ store on their issue cycle (R263). -/
def storesAtIssue : Instr → Bool
  | .wr _ _ _ | .wra _ _ _ | .wrm _ _ _ _ | .wrz _ _ => true
  | _ => false

theorem planOf_keepsFiles {i : Instr} {p : Ctx → Plan} (h : planOf i = some p) (x : Ctx) : (p x).KeepsFiles (storesAtIssue i) := by
  cases i <;> simp only [planOf, Option.some.injEq, reduceCtorEq] at h
  all_goals subst h
  case wr => exact Plan.keepsFiles_planWrite _ _ _ _ _ _
  case wra => exact Plan.keepsFiles_planWrite _ _ _ _ _ _
  case wrm => exact Plan.keepsFiles_planWrite _ _ _ _ _ _
  case wrz => exact Plan.keepsFiles_planWrz _ _ _
  all_goals simp [planAbias, planAclmp, planAclr, planAgen, planAgeni, planAscl, planAwait, planBin, planBr, planBrk, planBrx, planCall,
    planCkmark, planCmp, planCrcx, planDiv, planDrain, planEngine, planExtr, planFeed, planFeedx, planFill, planGath, planIll,
    planImm, planInsr, planKBin, planKnot, planKpopc, planKtox, planLd, planLgraph, planLi, planLih, planLiu, planLstep, planMcfg,
    planMfsr, planMovc, planMstat, planNop, planQclr, planQstat, planRem, planRet, planRollk, planScat, planScatw,
    planSel, planShli, planShri, planSpill, planSt, planTrap, planTrapnz, planUn, planUnassigned, planVBin, planVUn, planVbcast,
    planVcmp, planVcmpr, planVcvt, planVcvtfi, planVcvtif, planVcvtii, planVfadd, planVfcmp, planVfma, planVfmm, planVfmul,
    planVfn1, planVfred, planVfscan, planVfsign, planVfsub, planVgetx, planViota, planVlds, planVldx, planVperm, planVqnt,
    planVred, planVrot, planVscan, planVsel, planVsplat, planVst, planVsts, planVstx, planWait, planWcfg, planWpadv, planXstat,
    planXtok, planStore]

/-! The frame of an issue. -/

/-- A step between two states of gang `gid` that keeps the cycle, the other gangs and the files of its cores. -/
def State.Framed (s : State) (gid : Nat) (t : State) : Prop :=
  t.tlc = s.tlc ∧ (∀ g, g ≠ gid → aget g t.gangs = aget g s.gangs) ∧
    ∀ r c, s.coreOn gid r = some c → ∃ d, t.coreOn gid r = some d ∧ c.sameFiles d

theorem State.Framed.trans {s t u : State} {gid : Nat} (h : s.Framed gid t) (k : t.Framed gid u) : s.Framed gid u := by
  obtain ⟨ht, ho, hc⟩ := h
  obtain ⟨kt, ko, kc⟩ := k
  refine ⟨kt.trans ht, fun g hg => (ko g hg).trans (ho g hg), fun r c h => ?_⟩
  obtain ⟨d, hd, e⟩ := hc r c h
  obtain ⟨b, hb, e'⟩ := kc r d hd
  exact ⟨b, hb, Core.sameFiles_trans e e'⟩

theorem State.framed_of_gangs {s t : State} (hg : t.gangs = s.gangs) (ht : t.tlc = s.tlc) (gid : Nat) : s.Framed gid t :=
  ⟨ht, fun g _ => by rw [hg], fun r c hc => ⟨c, by rwa [State.coreOn, hg], c.sameFiles_refl⟩⟩

theorem State.framed_modGang {f : Gang → Gang} (hf : ∀ g : Gang, g.sameFiles (f g)) (s : State) (gid : Nat) : s.Framed gid (s.modGang gid f) := by
  refine ⟨State.modGang_tlc .., fun g hg => State.modGang_other s hg f, fun r c hc => ?_⟩
  obtain ⟨g, hg, hr⟩ := Option.bind_eq_some_iff.mp hc
  obtain ⟨d, hd, e⟩ := hf g r c hr
  exact ⟨d, by rw [State.coreOn, State.modGang_self, hg]; exact hd, e⟩

/-- A fault changes the gang and the error records, no memory. -/
theorem State.raise_eq (s : State) (gid t : Nat) (w : Option Who) (tr : Trap) :
    ∃ err tr', s.raise gid t w tr = { s with err := err }.modGang gid (·.raise t w tr') := by
  unfold State.raise
  split
  · exact ⟨_, _, rfl⟩
  · exact ⟨s.err, tr, rfl⟩

theorem State.raise_framed (s : State) (gid t : Nat) (w : Option Who) (tr : Trap) : s.Framed gid (s.raise gid t w tr) := by
  obtain ⟨err, tr', h⟩ := s.raise_eq gid t w tr
  rw [h]
  exact .trans (State.framed_of_gangs rfl rfl gid) (State.framed_modGang (fun g => g.sameFiles_raise t w tr') _ gid)

theorem State.raise_mem (s : State) (gid t : Nat) (w : Option Who) (tr : Trap) : (s.raise gid t w tr).mem = s.mem := by
  obtain ⟨err, tr', h⟩ := s.raise_eq gid t w tr
  rw [h, State.modGang_mem]

theorem Core.sameFiles_claims (c : Core) (l : List Claim) : c.sameFiles { c with claims := l } :=
  ⟨rfl, rfl, rfl, rfl, rfl, rfl, rfl, rfl, rfl, rfl, rfl, rfl⟩

theorem Core.sameFiles_record (c : Core) (dbt : Nat) (w : Who) (hs : List Hazard) : c.sameFiles (c.record dbt w hs) :=
  ⟨rfl, rfl, rfl, rfl, rfl, rfl, rfl, rfl, rfl, rfl, rfl, rfl⟩

/-- A word that takes effect adds to the agenda and the claims; the effect itself keeps the files (R91, R102). -/
theorem Ctx.commit_framed {x : Ctx} {e : Eff} {st : Bool} (h : e.KeepsFiles st) : x.s.Framed x.gid (x.commit e) := by
  obtain ⟨hcore, hgang, hdev⟩ := h
  obtain ⟨hg, ht, _⟩ := hdev x.s
  refine .trans (State.framed_of_gangs hg ht x.gid) (State.framed_modGang (fun g => ?_) _ x.gid)
  refine Gang.sameFiles_trans ?_ (Gang.sameFiles_modStrm _ _ _ _)
  refine Gang.sameFiles_trans ?_ (Gang.sameFiles_modCore (fun c => Core.sameFiles_trans (hcore c) (Core.sameFiles_claims _ _)) _ _)
  refine Gang.sameFiles_trans ?_ (Gang.sameFiles_foldl (fun g (d : Nat × Loc × Nat) => Gang.sameFiles_modCore (fun c => c.sameFiles_claims _) g d.1) _ _)
  exact Gang.sameFiles_trans (hgang g) (Gang.sameFiles_of_cores rfl)

theorem Ctx.commit_mem {x : Ctx} {e : Eff} (h : e.KeepsFiles false) : (x.commit e).mem = x.s.mem := (h.2.2 x.s).2.2 rfl

theorem Ctx.issued_framed {x : Ctx} {e : Eff} {st : Bool} (h : e.KeepsFiles st) (reads : List Loc) : x.s.Framed x.gid (x.issued reads e) := by
  refine .trans (Ctx.commit_framed h) (State.framed_modGang (Gang.sameFiles_modCore (fun c => ?_) · _) _ x.gid)
  split
  · exact c.sameFiles_record _ _ _
  · exact c.sameFiles_refl

/-- The frame of a run: whether the word faults or takes effect. -/
theorem Ctx.run_framed {x : Ctx} {i : Instr} {p : Plan} {st : Bool} (h : p.KeepsFiles st) : x.s.Framed x.gid (x.run i p) := by
  obtain ⟨tr, e⟩ | ⟨e, he, hr⟩ := x.run_cases i p
  · rw [e]
    exact State.raise_framed _ _ _ _ _
  · rw [hr]
    exact Ctx.issued_framed (h e he) _

theorem Ctx.run_mem {x : Ctx} {i : Instr} {p : Plan} (h : p.KeepsFiles false) : (x.run i p).mem = x.s.mem := by
  obtain ⟨tr, e⟩ | ⟨e, he, hr⟩ := x.run_cases i p
  · rw [e, State.raise_mem]
  · rw [hr, Ctx.issued, State.modCore_mem, Ctx.commit_mem (h e he)]

/-- Settles O47: every plan's effect keeps the files (`planOf_keepsFiles`), and so does a fault. -/
theorem issueFrame : Obligations.IssueFrame := by
  unfold Obligations.IssueFrame
  intro i p s x hp hx
  have hk := planOf_keepsFiles hp x
  have hs : x.s = s := State.ctx_s hx
  obtain ⟨ht, ho, hc⟩ := Ctx.run_framed (x := x) (i := i) hk
  rw [hs] at ht ho hc
  refine ⟨x.run i (p x), by rw [exec_of_planOf hp, issue_next hx], ht, ho, hc, fun hi a => ?_⟩
  have hst : storesAtIssue i = false := by
    unfold storesAtIssue
    split
    iterate 4 exact hi.elim
    rfl
  rw [Ctx.run_mem (hst ▸ hk), hs]

end Sys2Proof.Machine

namespace Sys2Proof.Machine

/-! Faults (R41, R108): which stream stops, and what a fault leaves of its gang. -/

/-- Changing the streams of one id keeps every search by id in place. -/
theorem Core.strm_modStrm {f : Stream → Stream} (hf : ∀ s, (f s).id = s.id) (c : Core) (id j : StreamId) :
    (c.modStrm id f).strm j = (c.strm j).map fun s => if s.id == id then f s else s := by
  unfold Core.strm Core.modStrm
  rw [List.find?_map]
  congr 2
  funext s
  simp only [Function.comp]
  split <;> simp [hf]

theorem Gang.memAt_modMem {f : MStream → MStream} (hf : ∀ m, (f m).n = m.n) (g : Gang) (n k : Nat) :
    (g.modMem n f).memAt k = (g.memAt k).map fun m => if m.n == n then f m else m := by
  unfold Gang.memAt Gang.modMem
  rw [List.find?_map]
  congr 2
  funext m
  simp only [Function.comp]
  split <;> simp [hf]

theorem Core.strm_id {c : Core} {j : StreamId} {s : Stream} (h : c.strm j = some s) : s.id = j := by
  simpa using List.find?_some h

theorem Gang.memAt_n {g : Gang} {k : Nat} {m : MStream} (h : g.memAt k = some m) : m.n = k := by
  simpa using List.find?_some h

/-- A stream of a core, not of a memory stream. -/
theorem Gang.strm_core {id : StreamId} (h : id.isMem = false) (g : Gang) (r : Nat) : g.strm r id = (g.coreAt r).bind (·.strm id) := by
  cases id with
  | d n => simp [StreamId.isMem] at h
  | c | m | v | l | s => rfl

theorem Gang.modStrm_core {id : StreamId} (h : id.isMem = false) (g : Gang) (r : Nat) (f : Stream → Stream) :
    g.modStrm r id f = g.modCore r (·.modStrm id f) := by
  cases id with
  | d n => simp [StreamId.isMem] at h
  | c | m | v | l | s => rfl

theorem Gang.strm_modStrm_same {f : Stream → Stream} (hf : ∀ s, (f s).id = s.id) {g : Gang} {r : Nat} {id : StreamId} {st : Stream}
    (h : g.strm r id = some st) : (g.modStrm r id f).strm r id = some (f st) := by
  cases hm : id.isMem with
  | true =>
    cases id <;> simp only [StreamId.isMem, reduceCtorEq] at hm
    obtain ⟨m, hm, rfl⟩ := Option.map_eq_some_iff.mp h
    simp [Gang.strm, Gang.modStrm, Gang.memAt_modMem, hm, Gang.memAt_n hm]
  | false =>
    rw [Gang.strm_core hm] at h
    obtain ⟨c, hc, hs⟩ := Option.bind_eq_some_iff.mp h
    rw [Gang.modStrm_core hm, Gang.strm_core hm, Gang.coreAt_modCore, if_pos rfl, hc]
    simp [Core.strm_modStrm hf, hs, Core.strm_id hs]

theorem Core.strm_modStrm_ne {f : Stream → Stream} (hf : ∀ s, (f s).id = s.id) (c : Core) {id j : StreamId} (h : j ≠ id) :
    (c.modStrm id f).strm j = c.strm j := by
  rw [Core.strm_modStrm hf]
  cases hs : c.strm j with
  | none => rfl
  | some s => simp [Core.strm_id hs, h]

theorem Gang.coreAt_modStrm_mem {id : StreamId} (h : id.isMem = true) (g : Gang) (r q : Nat) (f : Stream → Stream) :
    (g.modStrm r id f).coreAt q = g.coreAt q := by
  cases id with
  | d n => rfl
  | c | m | v | l | s => simp [StreamId.isMem] at h

/-- Another stream: of another id, or of another rank. -/
theorem Gang.strm_modStrm_other {f : Stream → Stream} (hf : ∀ s, (f s).id = s.id) (g : Gang) {r q : Nat} {id j : StreamId}
    (h : j ≠ id ∨ (j.isMem = false ∧ q ≠ r)) : (g.modStrm r id f).strm q j = g.strm q j := by
  cases hj : j.isMem with
  | false =>
    rw [Gang.strm_core hj, Gang.strm_core hj]
    cases hi : id.isMem with
    | true => rw [Gang.coreAt_modStrm_mem hi]
    | false =>
      rw [Gang.modStrm_core hi, Gang.coreAt_modCore]
      split
      next hr =>
        have hne : j ≠ id := h.resolve_right fun k => k.2 hr.symm
        cases g.coreAt q <;> simp [Core.strm_modStrm_ne hf _ hne]
      next => rfl
  | true =>
    have hne : j ≠ id := h.resolve_right fun k => by simp [hj] at k
    cases j <;> simp only [StreamId.isMem, reduceCtorEq] at hj
    rename_i k
    cases id with
    | d n =>
      have hkn : k.val ≠ n.val := fun e => hne (by rw [Fin.ext e])
      cases hm : g.memAt k.val <;> simp [Gang.strm, Gang.modStrm, Gang.memAt_modMem, hm]
      rw [if_neg]
      rwa [Gang.memAt_n hm]
    | _ => rfl

/-- What a fault detected on cycle `t` makes of its stream (R41): stopped at once by one at issue, with the cycle by a later one. -/
def Stream.faulted (t : Nat) (u : Who) (s : Stream) : Stream := if u.issue = t then { s with st := .stopped } else { s with stopAt := some t }

theorem Stream.faulted_id (t : Nat) (u : Who) (s : Stream) : (s.faulted t u).id = s.id := by
  unfold Stream.faulted
  split <;> rfl

theorem Gang.stop_some (g : Gang) (t : Nat) (u : Who) : g.stop t (some u) = g.modStrm u.rank u.strm (·.faulted t u) := rfl

/-- A fault changes nothing of a gang but the faulting stream, the record of the fault, MORE and the phase. -/
theorem Gang.raise_eq (g : Gang) (t : Nat) (w : Option Who) (tr : Trap) :
    g.raise t w tr = { g.stop t w with fault := (g.raise t w tr).fault, more := (g.raise t w tr).more, phase := (g.raise t w tr).phase } := by
  unfold Gang.raise
  split
  · rfl
  · split <;> rfl

theorem Gang.raise_strm (g : Gang) (t : Nat) (w : Option Who) (tr : Trap) (r : Nat) (id : StreamId) :
    (g.raise t w tr).strm r id = (g.stop t w).strm r id := by
  rw [Gang.raise_eq]
  cases id <;> rfl

theorem Gang.raise_first {g : Gang} (h : g.fault = none) (t : Nat) (w : Option Who) (tr : Trap) :
    g.raise t w tr = { g.stop t w with fault := some ⟨t, w, tr⟩, more := 0, phase := g.phase.faulted } := by
  simp only [Gang.raise, h]

theorem Gang.raise_again {g : Gang} {f : FaultRec} (h : g.fault = some f) {t : Nat} (ht : t ≤ f.f + 32) (w : Option Who) (tr : Trap) :
    g.raise t w tr = { g.stop t w with fault := some (if t == f.f && (⟨t, w, tr⟩ : FaultRec).before f then ⟨t, w, tr⟩ else f)
                                       more := satAdd1 255 g.more } := by
  simp only [Gang.raise, h, if_pos ht]

theorem Gang.raise_late {g : Gang} {f : FaultRec} (h : g.fault = some f) {t : Nat} (ht : ¬ t ≤ f.f + 32) (w : Option Who) (tr : Trap) :
    g.raise t w tr = g.stop t w := by
  simp only [Gang.raise, h, if_neg ht]

/-- A stopped stream is no record: fault, MORE, phase, agenda and requests of the gang stay. -/
theorem Gang.stop_record (g : Gang) (t : Nat) (w : Option Who) :
    (g.stop t w).fault = g.fault ∧ (g.stop t w).more = g.more ∧ (g.stop t w).phase = g.phase ∧ (g.stop t w).agenda = g.agenda ∧
      (g.stop t w).reqs = g.reqs := by
  cases w with
  | none => exact ⟨rfl, rfl, rfl, rfl, rfl⟩
  | some u =>
    rw [Gang.stop_some]
    cases u.strm <;> exact ⟨rfl, rfl, rfl, rfl, rfl⟩

theorem satAdd1_255 (n : Nat) : satAdd1 255 n = min (n + 1) 255 := by
  unfold satAdd1
  split <;> omega

/-- A later fault: the first of its cycle stands, the others are counted (R41, R108, R284). -/
theorem Gang.raise_more {g : Gang} {f : FaultRec} (h : g.fault = some f) (t : Nat) (w : Option Who) (tr : Trap) :
    (g.raise t w tr).phase = g.phase ∧
      (t = f.f → (⟨t, w, tr⟩ : FaultRec).before f = true → (g.raise t w tr).fault = some ⟨t, w, tr⟩) ∧
      (t ≠ f.f ∨ (⟨t, w, tr⟩ : FaultRec).before f = false → (g.raise t w tr).fault = some f) ∧
      (t ≤ f.f + 32 → (g.raise t w tr).more = min (g.more + 1) 255) ∧ (f.f + 32 < t → (g.raise t w tr).more = g.more) := by
  obtain ⟨hf, hm, hp, _, _⟩ := g.stop_record t w
  by_cases ht : t ≤ f.f + 32
  · rw [Gang.raise_again h ht]
    refine ⟨hp, fun e hb => by simp [e, e ▸ hb], fun hne => ?_, fun _ => satAdd1_255 _, fun hl => absurd ht (by omega)⟩
    rcases hne with hne | hb
    · simp [hne]
    · simp [hb]
  · rw [Gang.raise_late h ht]
    exact ⟨hp, fun e => absurd ht (by omega), fun _ => hf.trans h, fun hl => absurd hl ht, fun _ => hm⟩

/-- R108's order among faults of words. -/
theorem FaultRec.before_iff {a b : FaultRec} {u v : Who} (ha : a.who = some u) (hb : b.who = some v) : a.before b = true ↔
    u.strm.code < v.strm.code ∨ u.strm.code = v.strm.code ∧ (u.rank < v.rank ∨ u.rank = v.rank ∧ a.trap.cause < b.trap.cause) := by
  simp [FaultRec.before, ha, hb]

theorem Gang.raise_memAt {g : Gang} {t : Nat} {w : Option Who} {tr : Trap} {n : Nat} {m : MStream} (h : (g.raise t w tr).memAt n = some m) :
    ∃ m', g.memAt n = some m' ∧ m = { m' with strm := m.strm } := by
  have hs : (g.stop t w).memAt n = some m := by
    rw [Gang.raise_eq] at h
    exact h
  cases w with
  | none => exact ⟨m, hs, rfl⟩
  | some u =>
    rw [Gang.stop_some] at hs
    cases hu : u.strm with
    | d k =>
      rw [hu, Gang.modStrm, Gang.memAt_modMem (by exact fun _ => rfl)] at hs
      obtain ⟨m', hm', rfl⟩ := Option.map_eq_some_iff.mp hs
      refine ⟨m', hm', ?_⟩
      split <;> rfl
    | _ =>
      rw [hu] at hs
      exact ⟨m, hs, rfl⟩

theorem Gang.raise_coreAt {g : Gang} (t : Nat) (w : Option Who) (tr : Trap) {r : Nat} {c : Core} (h : g.coreAt r = some c) :
    ∃ d, (g.raise t w tr).coreAt r = some d ∧ d = { c with streams := d.streams } := by
  have hr : (g.raise t w tr).coreAt r = (g.stop t w).coreAt r := by
    rw [Gang.raise_eq]
    rfl
  rw [hr]
  cases w with
  | none => exact ⟨c, h, rfl⟩
  | some u =>
    rw [Gang.stop_some]
    cases hm : u.strm.isMem with
    | true => exact ⟨c, by rw [Gang.coreAt_modStrm_mem hm, h], rfl⟩
    | false =>
      rw [Gang.modStrm_core hm, Gang.coreAt_modCore, h]
      split
      · exact ⟨_, rfl, rfl⟩
      · exact ⟨c, rfl, rfl⟩

/-- Two landings of one cycle that clash: the first word faults with cause 17 and neither lands (R103). -/
theorem State.collide_pair (s : State) (gid : Nat) {g : Gang} {a b : Timed} {sp ix : Nat} (ha : a.act.lands = true) (hb : b.act.lands = true)
    (ho : whoLt b.who a.who = false) (hc : g.clash a b = some (sp, ix)) :
    s.collide gid g [a, b] = ((((s.raise gid s.tlc (some a.who)
      { cause := 17, lo := packBits [(0, 3, sp), (3, 21, ix), (24, 1, 1)], due := s.tlc - g.dbt, other := some b.who }).modGang gid
      fun g => g.cut a.who s.tlc).drop (gid, a)).drop (gid, b)) := by
  simp [State.collide, ha, hb, insertTimed, ho, Gang.clashes, hc]

@[simp] theorem State.raise_tlc (s : State) (gid t : Nat) (w : Option Who) (tr : Trap) : (s.raise gid t w tr).tlc = s.tlc :=
  (s.raise_framed gid t w tr).1

/-- Two requests of one gang to one bank of core memory: cause 18 of the first (R107). -/
theorem State.bankConflict_pair (s : State) {gid : Nat} {a b : BankReq} (ha : a.gid = gid) (hb : b.gid = gid) (hv : a.vault = none) :
    s.bankConflict [a, b] = (s.raise gid s.tlc (some a.who)
      { cause := 18, other := some b.who, lo := packBits [(1, 5, a.bank), (10, 3, a.bank / 1024), (13, 5, a.bank / 32)] }).modGang gid
      fun g => if g.matrixWord a.who then g.cut a.who s.tlc else g := by
  simp [State.bankConflict, ha, hb, hv, bankDetail, List.findIdx_cons, List.eraseDups_cons]

/-- Settles O49, a clause for each of the lemmas above. -/
theorem faultRecord : Obligations.FaultRecord := by
  unfold Obligations.FaultRecord
  intro g t w tr
  obtain ⟨_, _, _, hagenda, hreqs⟩ := g.stop_record t w
  refine ⟨fun h => ?_, fun f h => Gang.raise_more h t w tr, fun a b u v ha hb => FaultRec.before_iff ha hb, ?_, ?_, ?_,
    fun n m h => Gang.raise_memAt h, fun s gid a b sp ix ha hb ho hc => State.collide_pair s gid ha hb ho hc,
    fun s gid a b ha hb hv => State.bankConflict_pair s ha hb hv, ?_, ?_, fun r c h => Gang.raise_coreAt t w tr h⟩
  · rw [Gang.raise_first h]
    exact ⟨rfl, rfl, fun hp => by simp [hp, Phase.faulted]⟩
  · rintro u st rfl hst
    rw [Gang.raise_strm, Gang.stop_some, Gang.strm_modStrm_same (Stream.faulted_id t u) hst]
    rfl
  · intro st h
    simp [Stream.endCycle, h]
  · intro r id h
    rw [Gang.raise_strm]
    cases w with
    | none => rfl
    | some u => exact Gang.strm_modStrm_other (Stream.faulted_id t u) g (h u rfl)
  · rw [Gang.raise_eq]
    exact hagenda
  · rw [Gang.raise_eq]
    exact hreqs

end Sys2Proof.Machine

namespace Sys2Proof.Machine

/-! What a landing writes (R90, R102, R131, R158, R159). -/

theorem setSlices_getLsbD (f : Lane) (st wd v : Nat) {i : Nat} (hi : i < 4096) :
    (setSlices f st wd v).getLsbD i = if 4 * st ≤ i ∧ i < 4 * st + wd then v.testBit (i - 4 * st) else f.getLsbD i := by
  have hin : (decide (4 * st ≤ i) && decide (i - 4 * st < wd)) = decide (4 * st ≤ i ∧ i < 4 * st + wd) := by
    rw [← Bool.decide_and, decide_eq_decide]; omega
  have hm : (BitVec.ofNat 4096 ((2 ^ wd - 1) * 2 ^ (4 * st))).getLsbD i = decide (4 * st ≤ i ∧ i < 4 * st + wd) := by
    rw [BitVec.getLsbD_ofNat, Nat.testBit_mul_two_pow, Nat.testBit_two_pow_sub_one, hin]
    simp [hi]
  have hv : (BitVec.ofNat 4096 ((v % 2 ^ wd) * 2 ^ (4 * st))).getLsbD i =
      (decide (4 * st ≤ i ∧ i < 4 * st + wd) && v.testBit (i - 4 * st)) := by
    rw [BitVec.getLsbD_ofNat, Nat.testBit_mul_two_pow, Nat.testBit_mod_two_pow, ← hin]
    simp [hi, Bool.and_assoc]
  rw [setSlices, BitVec.getLsbD_or, BitVec.getLsbD_and, BitVec.getLsbD_not, hm, hv]
  split
  next h => simp [h]
  next h => simp [h, hi]

theorem State.coreOn_modCore (s : State) (gid r g q : Nat) (f : Core → Core) :
    (s.modCore gid r f).coreOn g q = if (g, q) = (gid, r) then (s.coreOn g q).map f else s.coreOn g q := by
  unfold State.coreOn State.modCore
  by_cases hg : g = gid
  · subst hg
    rw [State.modGang_self]
    cases aget g s.gangs with
    | none => simp
    | some h => by_cases hq : r = q <;> simp [Gang.coreAt_modCore, hq, eq_comm]
  · rw [State.modGang_other s hg, if_neg (by simp [hg])]

theorem State.parityWrite_frame (s : State) (gid : Nat) (w : Who) (l : Loc) :
    (s.parityWrite gid w l).gangs = s.gangs ∧ (s.parityWrite gid w l).mem = s.mem := by
  unfold State.parityWrite
  split
  · exact ⟨rfl, rfl⟩
  · split <;> exact ⟨rfl, rfl⟩

/-- A write of a location changes the one core. -/
theorem State.coreOn_landed {s : State} {gid : Nat} {w : Who} {c : Core} (h : s.coreOn gid w.rank = some c) (f : Core → Core) (l : Loc) :
    let t := (s.modCore gid w.rank f).parityWrite gid w l
    t.coreOn gid w.rank = some (f c) ∧ t.mem = s.mem ∧ ∀ g r, (g, r) ≠ (gid, w.rank) → t.coreOn g r = s.coreOn g r := by
  obtain ⟨hg, hm⟩ := (s.modCore gid w.rank f).parityWrite_frame gid w l
  have hc (g r) : ((s.modCore gid w.rank f).parityWrite gid w l).coreOn g r = (s.modCore gid w.rank f).coreOn g r := by
    rw [State.coreOn, hg]; rfl
  refine ⟨?_, hm, fun g r hne => ?_⟩
  · rw [hc, State.coreOn_modCore, if_pos rfl, h]; rfl
  · rw [hc, State.coreOn_modCore, if_neg hne]

theorem State.coreOn_modCore_self {s : State} {gid r : Nat} {c : Core} (h : s.coreOn gid r = some c) (f : Core → Core) :
    (s.modCore gid r f).coreOn gid r = some (f c) := by
  rw [State.coreOn_modCore, if_pos rfl, h]; rfl

theorem Core.landV_lane (c : Core) (st wd : Nat) (m : Mask) (vs : List Nat) (i : Fin 128) :
    (c.landV st wd m vs).v[i.val] = if m.getLsbD i.val then setSlices c.v[i.val] st wd ((vs[i.val]?).getD 0) else c.v[i.val] := by
  simp [Core.landV]

theorem Core.landK_mask (c : Core) (k : Nat) (b v : Mask) (j : Fin 8) :
    (c.landK k b v).k[j.val] = if j.val = k then (c.k[j.val] &&& ~~~b) ||| (v &&& b) else c.k[j.val] := by
  by_cases hk : j.val = k
  · subst hk
    simp [Core.landK]
  · simp [Core.landK, hk, Vector.getElem_setIfInBounds_ne, Ne.symm hk]

/-! The turn of a cycle. -/

theorem State.foldActs_cons (s : State) (p : Nat × Timed) (rest : List (Nat × Timed)) (f : State → Nat → Who → Act → State) :
    s.foldActs (p :: rest) f = (if s.stands p then f s p.1 p.2.who p.2.act else s).foldActs rest f := rfl

theorem State.mem_dueActs {s : State} {i : Nat} {g : Gang} {a : Timed} (hg : (i, g) ∈ s.gangs) (ha : a ∈ g.agenda) (ht : a.at_ ≤ s.tlc) :
    (i, a) ∈ s.dueActs := by
  simp only [State.dueActs, List.mem_flatten, List.mem_map, exists_exists_and_eq_and]
  exact ⟨(i, g), hg, a, by simp [ha, ht], rfl⟩

theorem aget_map {α β : Type} (f : Nat × α → β) (k : Nat) (l : List (Nat × α)) :
    aget k (l.map fun p => (p.1, f p)) = (aget k l).map fun v => f (k, v) := by
  induction l with
  | nil => rfl
  | cons p t ih =>
    obtain ⟨a, v⟩ := p
    by_cases h : a = k <;> simp [aget, h, ih]

theorem Gang.endCycle_agenda (t : Nat) (g : Gang) : (g.endCycle t).agenda = g.agenda.filter fun a => decide (t < a.at_) := by
  have hb : (if g.live then g.spendBudget else g).agenda = g.agenda := by split <;> rfl
  unfold Gang.endCycle
  generalize (if g.live then g.spendBudget else g) = h at hb
  rw [← hb]
  dsimp only
  split
  · split
    · split <;> rfl
    · rfl
  · rfl

/-- Without updates of gongs the cycle ends with its reads and consumptions. -/
theorem State.endReads_quiet {s : State} (h : s.gongQ = []) :
    s.endReads = (s.foldActs s.dueActs State.readAct).foldActs s.dueActs State.useAct := by
  simp [State.endReads, h]

/-! A cycle on which nothing meets anything. -/

theorem insertTimed_perm (a : Timed) (l : List Timed) : (insertTimed a l).Perm (a :: l) := by
  induction l with
  | nil => exact .refl _
  | cons h t ih =>
    unfold insertTimed
    split
    · exact .refl _
    · exact (ih.cons h).trans (.swap a h t)

theorem insertTimed_foldl_perm (l acc : List Timed) : (l.foldl (fun l a => insertTimed a l) acc).Perm (l ++ acc) := by
  induction l generalizing acc with
  | nil => exact .refl _
  | cons a l ih => exact (ih _).trans (((insertTimed_perm a acc).append_left l).trans List.perm_middle)

theorem Gang.clashes_nil {g : Gang} {l : List Timed} (h : l.Pairwise fun a b => g.clash a b = none) : g.clashes l = [] := by
  induction h with
  | nil => rfl
  | cons ha _ ih =>
    rw [Gang.clashes, ih, List.append_nil, List.filterMap_eq_nil_iff]
    intro b hb
    rw [ha b hb]
    rfl

/-- Landings of which no two clash do not collide (R103). -/
theorem State.collide_none (s : State) (gid : Nat) {g : Gang} {due : List Timed}
    (h : due.Pairwise fun a b => g.clash a b = none ∧ g.clash b a = none) : s.collide gid g due = s := by
  have hc : g.clashes ((due.filter fun t => t.act.lands || (due.any fun t => t.act.isMem && t.who.strm.isMem) && t.act.span.isSome).foldl
      (fun l a => insertTimed a l) []) = [] := by
    refine Gang.clashes_nil (List.Pairwise.imp And.left (?_ : List.Pairwise (fun a b => g.clash a b = none ∧ g.clash b a = none) _))
    refine ((insertTimed_foldl_perm _ []).pairwise_iff fun ha => And.symm ha).mpr ?_
    rw [List.append_nil]
    exact h.sublist List.filter_sublist
  simp [State.collide, hc]

/-- With no beat due none is taken out of the inbox. -/
theorem State.dropBeats_none {s : State} (h : s.dueBeats = []) : s.dropBeats = s := by
  unfold State.dropBeats
  rw [List.filter_eq_self.mpr]
  rintro ⟨n, i⟩ he
  have hn := List.filterMap_eq_nil_iff.mp h _ he
  dsimp only at hn ⊢
  split
  next =>
    dsimp only at hn
    simpa using hn
  next => rfl

theorem State.gongCounts_none {s : State} (h : s.gongQ = []) : s.gongCounts [] = s := by
  have hs : ({ s with gongQ := [] } : State) = s := by rw [← h]
  simpa [State.gongCounts, h, State.gongOrdered] using hs

theorem foldl_of_fixed {α β : Type} {f : β → α → β} {b : β} {l : List α} (h : ∀ a ∈ l, f b a = b) : l.foldl f b = b := by
  induction l with
  | nil => rfl
  | cons a t ih =>
    rw [List.foldl_cons, h a List.mem_cons_self]
    exact ih fun c hc => h c (List.mem_cons_of_mem _ hc)

/-- The landings of a cycle on which nothing else happens: clears of latches, the other landings, then memory. -/
def State.landed (pre : State → State) (s : State) : State :=
  let due := s.dueActs
  let reqs := s.bankReqs pre due
  let lands := due.filter fun p => p.2.act.isLanding
  ((({ s with used := usedBanks reqs } : State).foldActs (lands.filter fun p => p.2.act.isQclr) State.landAct).foldActs
    (lands.filter fun p => !p.2.act.isQclr) State.landAct).memWrites lands reqs []

theorem State.collideAll_none {s : State} {due : List (Nat × Timed)} {u : List (Nat × Nat)}
    (h : ∀ i g, (i, g) ∈ s.gangs → ((due.filter fun p => p.1 == i).map (·.2)).Pairwise fun a b => g.clash a b = none ∧ g.clash b a = none) :
    s.gangs.foldl (fun (s : State) p => s.collide p.1 p.2 (due.filterMap fun q => if q.1 = p.1 && s.stands q then some q.2 else none))
      { s with used := u } = { s with used := u } := by
  refine foldl_of_fixed fun p hp => State.collide_none _ _ ((h p.1 p.2 hp).sublist ?_)
  have hf (c : Nat × Timed → Bool) : (due.filterMap fun q => if c q then some q.2 else none) = (due.filter c).map (·.2) := by
    rw [← List.filterMap_eq_map, List.filterMap_filter]
    rfl
  rw [hf]
  refine List.Sublist.map _ (List.monotone_filter_right due fun q hq => ?_)
  rw [Bool.and_eq_true, decide_eq_true_eq] at hq
  rw [beq_iff_eq, hq.1]

/-- Where no request meets another, no landing another, and nothing counts, registers or updates, a cycle's work is its landings. -/
theorem State.beginWork_quiet {pre : State → State} {s : State} (hb : s.dueBeats = [])
    (hn : ∀ p ∈ s.dueActs, p.2.act.registers = false ∧ p.2.act.counts = false ∧ p.2.act.inBank = false)
    (hr : reqGroups (s.bankReqs pre s.dueActs).length (s.bankReqs pre s.dueActs) = [])
    (hc : ∀ i g, (i, g) ∈ s.gangs →
      ((s.dueActs.filter fun p => p.1 == i).map (·.2)).Pairwise fun a b => g.clash a b = none ∧ g.clash b a = none)
    (hq : (s.landed pre).gongQ = []) : s.beginWork pre s.dueActs [] = s.landed pre := by
  have h1 : s.dueActs.filter (fun p => p.2.act.registers) = [] := List.filter_eq_nil_iff.mpr fun p hp => by simp [(hn p hp).1]
  have h2 : s.dueActs.filter (fun p => p.2.act.counts) = [] := List.filter_eq_nil_iff.mpr fun p hp => by simp [(hn p hp).2.1]
  have h3 : s.dueActs.filter (fun p => p.2.act.inBank) = [] := List.filter_eq_nil_iff.mpr fun p hp => by simp [(hn p hp).2.2]
  have hs : ({ s.landed pre with gongQ := [] } : State) = s.landed pre := by rw [← hq]
  unfold State.beginWork
  dsimp only
  rw [hb]
  simp only [List.foldl_nil, State.dropBeats_none hb, hr, State.collideAll_none hc, List.contains_nil, Bool.not_false, Bool.and_true,
    h1, h2, h3]
  change ({ s.landed pre with gongQ := (s.landed pre).gongQ.filter _ } : State).gongCounts [] = s.landed pre
  rw [hq, List.filter_nil, hs, State.gongCounts_none hq]

theorem State.beginCycle_quiet {pre : State → State} {s : State} (hb : s.dueBeats = [])
    (hn : ∀ p ∈ s.dueActs, p.2.act.registers = false ∧ p.2.act.counts = false ∧ p.2.act.inBank = false)
    (hw : ∀ p ∈ s.dueActs.filter fun p => p.2.act.isLanding, ∀ q ∈ s.dueActs, q.2.act.mayFault = true → p.1 = q.1 → p.2.who ≠ q.2.who)
    (hr : reqGroups (s.bankReqs pre s.dueActs).length (s.bankReqs pre s.dueActs) = [])
    (hc : ∀ i g, (i, g) ∈ s.gangs →
      ((s.dueActs.filter fun p => p.1 == i).map (·.2)).Pairwise fun a b => g.clash a b = none ∧ g.clash b a = none)
    (hq : (s.landed pre).gongQ = []) (hs : ∀ p ∈ s.dueActs.filter fun p => p.2.act.isLanding, (s.landed pre).stands p = true) :
    s.beginCycle pre = s.landed pre := by
  have hlate : ((s.dueActs.filter fun p => p.2.act.isLanding).any fun p =>
      (s.dueActs.filter fun p => p.2.act.mayFault).any fun q => p.1 == q.1 && p.2.who == q.2.who) = false := by
    simp only [List.any_eq_false, Bool.not_eq_true, Bool.and_eq_false_iff, beq_eq_false_iff_ne]
    intro p hp q hq
    obtain ⟨hq, hf⟩ := List.mem_filter.mp hq
    exact or_iff_not_imp_left.mpr fun h => hw p hp q hq hf (not_not.mp h)
  have hcut : ((s.dueActs.filter fun p => p.2.act.isLanding).filter fun p => !(s.landed pre).stands p) = [] :=
    List.filter_eq_nil_iff.mpr fun p hp => by simp [hs p hp]
  unfold State.beginCycle
  simp only [State.beginWork_quiet hb hn hr hc hq, hlate, Bool.false_eq_true, if_false, hcut, List.isEmpty_nil, if_true]

/-! Bytes that land (R102, R295). -/

theorem Mem.put_append (k : Nat) (as bs : List Byte) (m : Mem) : m.put k (as ++ bs) = (m.put k as).put (k + as.length) bs := by
  induction as generalizing k m with
  | nil => rfl
  | cons a as ih =>
    rw [List.cons_append, Mem.put, ih, Mem.put, List.length_cons, Nat.add_right_comm, Nat.add_assoc]

/-- The pieces of a write, put one after another, are the write. -/
theorem pieces_put (n k : Nat) (bs : List Byte) (m : Mem) (h : bs.length + k % 64 ≤ 64 * n ∨ bs = []) :
    (pieces n k bs).foldl (fun m q => m.put q.1 q.2) m = m.put k bs := by
  induction n generalizing k bs m with
  | zero =>
    have hb : bs = [] := h.elim (fun h => List.length_eq_zero_iff.mp (by omega)) id
    rw [hb]; rfl
  | succ n ih =>
    unfold pieces
    split
    next hb => rw [List.isEmpty_iff.mp hb]; rfl
    next =>
      rw [List.foldl_cons, ih]
      · rcases Nat.le_total (64 - k % 64) bs.length with hl | hl
        · conv_rhs => rw [← List.take_append_drop (64 - k % 64) bs, Mem.put_append, List.length_take, Nat.min_eq_left hl]
        · rw [List.drop_of_length_le hl, List.take_of_length_le hl, Mem.put]
      · rw [List.length_drop, List.drop_eq_nil_iff]
        rcases h with h | h
        · omega
        · simp [h]

theorem State.foldl_store_mem (l : List (Nat × Who × Nat × List Byte × Bool)) (s : State) :
    (l.foldl (fun (s : State) q => s.store q.2.2.1 q.2.2.2.1 q.2.2.2.2) s).mem =
      (l.map fun q => (q.2.2.1, q.2.2.2.1)).foldl (fun m q => m.put q.1 q.2) s.mem := by
  induction l generalizing s with
  | nil => rfl
  | cons a l ih => rw [List.foldl_cons, ih, State.store_mem, List.map_cons, List.foldl_cons]

theorem pieces_key_le {n k : Nat} {bs : List Byte} {q : Nat × List Byte} (h : q ∈ pieces n k bs) : k ≤ q.1 := by
  induction n generalizing k bs with
  | zero => simp [pieces] at h
  | succ n ih =>
    unfold pieces at h
    split at h
    · simp at h
    · rcases List.mem_cons.mp h with rfl | h
      · exact Nat.le_refl _
      · exact (Nat.le_add_right k _).trans (ih h)

/-- At or above core memory no key lies in a vault, so that no side orders its writes (R295). -/
theorem sideOrd_core {k : Nat} (h : 2 ^ 49 ≤ k) (reqs : List BankReq) (gid : Nat) (w : Who) : sideOrd reqs gid w k = 0 := by
  have hb : keyBank k = none ∨ ∃ b, keyBank k = some (b, none) := by
    unfold keyBank storeOf
    rw [if_neg (by omega), if_neg (by omega), if_neg (by omega)]
    split_ifs
    · exact .inr ⟨_, rfl⟩
    all_goals exact .inl rfl
  unfold sideOrd
  rcases hb with hb | ⟨b, hb⟩ <;> rw [hb]

theorem storeOf_core {k : Nat} (h : storeOf k = some .core) : 2 ^ 49 ≤ k := by
  by_contra hk
  have low : storeOf k = if k < 0x6000000000 then some .hbm else if k < 2 ^ 48 then none else some .vault := by
    unfold storeOf
    rw [if_pos (show k < 2 ^ 49 by omega)]
  rw [low] at h
  split_ifs at h <;> simp at h

theorem lost_nil (gid : Nat) (w : Who) (k : Nat) : lost [] gid w k = false := by
  unfold lost
  split <;> rfl

/-- Writes that no side orders take place as they are listed. -/
theorem flatten_sides {α : Type} {f : α → Nat} {l : List α} (h : ∀ a ∈ l, f a = 0) :
    ((List.range 15).map fun n => l.filter fun a => f a == n).flatten = l := by
  have h0 : (l.filter fun a => f a == 0) = l := List.filter_eq_self.mpr fun a ha => by simp [h a ha]
  have hs (n : Nat) : (l.filter fun a => f a == n + 1) = [] := List.filter_eq_nil_iff.mpr fun a ha => by simp [h a ha]
  simp only [List.range_succ_eq_map, List.map_cons, h0, hs, List.map_map, Function.comp_def, List.flatten_cons]
  simp

/-- A write to core memory that lands alone puts its bytes. -/
theorem State.memWrites_one {s : State} {gid k : Nat} {bs : List Byte} {psn : Bool} {t : Timed} (reqs : List BankReq)
    (ht : t.act = .mem k bs psn) (hs : s.stands (gid, t) = true) (hk : storeOf k = some .core) :
    (s.memWrites [(gid, t)] reqs []).mem = s.mem.put k bs := by
  have hside : ∀ q ∈ (pieces (bs.length / 64 + 2) k bs).map fun q => (gid, t.who, q.1, q.2, psn), sideOrd reqs q.1 q.2.1 q.2.2.1 = 0 := by
    intro q hq
    obtain ⟨p, hp, rfl⟩ := List.mem_map.mp hq
    exact sideOrd_core ((storeOf_core hk).trans (pieces_key_le hp)) ..
  unfold State.memWrites
  simp only [List.filter_cons, hs, if_true, List.filter_nil, List.filterMap_cons, ht, List.filterMap_nil, List.map_cons, List.map_nil,
    List.flatten_cons, List.flatten_nil, List.append_nil, lost_nil, Bool.not_false, List.filter_true]
  rw [flatten_sides hside]
  simp only [State.foldActs, List.foldl_cons, List.foldl_nil, ht, ite_self]
  rw [State.foldl_store_mem, List.map_map, Function.comp_def, List.map_id', pieces_put]
  left
  omega

/-- Settles O46: what each landing writes, and that a quiet cycle is its landings (`State.beginCycle_quiet`). -/
theorem landingsWriteFiles : Obligations.LandingsWriteFiles := by
  unfold Obligations.LandingsWriteFiles
  refine ⟨fun f st wd v i hi => setSlices_getLsbD f st wd v hi, fun s gid w c hc => ?_⟩
  refine ⟨fun st wd v => State.coreOn_landed hc (Core.landX st wd v) _, fun st wd m vs => ?_, fun k b v => ?_,
    fun f => State.coreOn_modCore_self hc _, fun f => State.coreOn_modCore_self hc _, fun m => State.coreOn_modCore_self hc _,
    fun n => State.coreOn_modCore_self hc _, rfl, ?_, fun f p rest => ⟨rfl, State.foldActs_cons s p rest f⟩,
    fun i g a => State.mem_dueActs, rfl, fun pre => ?_, fun k a bs psn t reqs hi ht hs hk => ?_⟩
  · obtain ⟨hd, hm, ho⟩ := State.coreOn_landed hc (Core.landV st wd m vs) (.v st (wd / 4) m)
    exact ⟨⟨_, hd, rfl, fun i => Core.landV_lane c st wd m vs i⟩, hm, ho⟩
  · obtain ⟨hd, hm, ho⟩ := State.coreOn_landed hc (Core.landK k b v) (.k k b)
    exact ⟨⟨_, hd, rfl, fun j => Core.landK_mask c k b v j⟩, hm, ho⟩
  · refine ⟨rfl, rfl, State.endReads_quiet, fun i g hg => ⟨{ g.endCycle s.endReads.relinkAll.tlc with words := s.endReads.relinkAll.faultWords g }, ?_,
      Gang.endCycle_agenda _ g⟩⟩
    rw [State.endCycle, aget_map, hg]
    rfl
  · intro due reqs lands landed hb hn hw hr hc hq hs
    exact State.beginCycle_quiet hb hn hw hr hc hq hs
  · rw [State.memWrites_one reqs ht hs hk]
    exact Mem.read_put k a bs hi

end Sys2Proof.Machine

namespace Sys2Proof.Machine

/-! Numbers in bytes, and gongs in memory (R6, R237). -/

theorem length_leBytes (n v : Nat) : (leBytes n v).length = n := by
  induction n generalizing v with
  | zero => rfl
  | succ n ih => rw [leBytes, List.length_cons, ih]

theorem leNat_leBytes (n v : Nat) : leNat (leBytes n v) = v % 256 ^ n := by
  induction n generalizing v with
  | zero => rw [leBytes, leNat, Nat.pow_zero, Nat.mod_one]
  | succ n ih => rw [leBytes, leNat, ih, BitVec.toNat_ofNat, show 256 ^ (n + 1) = 256 * 256 ^ n from Nat.pow_succ', Nat.mod_mul]

theorem leNat_append (a b : List Byte) : leNat (a ++ b) = leNat a + 256 ^ a.length * leNat b := by
  induction a with
  | nil => simp [leNat]
  | cons x a ih =>
    rw [List.cons_append, leNat, leNat, ih, List.length_cons, Nat.pow_succ']
    ring

theorem leNat_lt (a : List Byte) : leNat a < 256 ^ a.length := by
  induction a with
  | nil => exact Nat.one_pos
  | cons x a ih =>
    have hx : x.toNat < 256 := x.isLt
    rw [leNat, List.length_cons, Nat.pow_succ']
    omega

theorem Mem.bytes_append (m : Mem) (k a b : Nat) : m.bytes k (a + b) = m.bytes k a ++ m.bytes (k + a) b := by
  induction a generalizing k with
  | zero => simp [Mem.bytes]
  | succ a ih => rw [Nat.succ_add, Mem.bytes, Mem.bytes, ih, List.cons_append, Nat.add_right_comm, Nat.add_assoc]

/-- A write elsewhere leaves bytes alone. -/
theorem Mem.bytes_put_apart {m : Mem} {k j n : Nat} {bs : List Byte} (hw : m.wf = true) (h : j + n ≤ k ∨ k + bs.length ≤ j) :
    (m.put k bs).bytes j n = m.bytes j n := by
  apply List.ext_getElem?
  intro i
  rw [Mem.getElem?_bytes, Mem.getElem?_bytes]
  split
  · rw [Mem.read_put k _ bs hw, if_neg (by omega)]
  · rfl

/-- A store without error patterns reads plain. -/
theorem State.fetch_plain {s : State} (h : s.err.upsets = []) (k n : Nat) : (s.fetch k n).bytes = s.mem.bytes k n ∧ (s.fetch k n).bad = none := by
  simp [State.fetch, h]

theorem State.store_upsets_nil {s : State} (h : s.err.upsets = []) (k : Nat) (bs : List Byte) (psn : Bool) :
    (s.store k bs psn).err.upsets = [] := by
  unfold State.store
  split
  · exact h
  · simp [h, upsetsAfter]

theorem fld_lt (v lo w : Nat) : fld v lo w < 2 ^ w := Nat.mod_lt _ (by positivity)

/-- A field below bit `n` looks at the number mod 2^n only. -/
theorem fld_mod {v lo w n : Nat} (h : lo + w ≤ n) : fld (v % 2 ^ n) lo w = fld v lo w := by
  obtain ⟨d, rfl⟩ := Nat.exists_eq_add_of_le h
  unfold fld
  rw [Nat.pow_add, Nat.pow_add, Nat.mul_assoc, Nat.mod_mul_right_div_self, Nat.mod_mul_right_mod]

/-- A gong's fields as `Gong.toNat` packs them. -/
def Gong.fields (g : Gong) : List (Nat × Nat × Nat) :=
  [(0, 4, g.gen), (4, 16, g.arr), (20, 16, g.inb), (36, 16, g.out), (64, 10, g.rout), (74, 10, g.rin), (84, 12, g.rarr), (96, 32, g.link)]

theorem Gong.fields_apart (g : Gong) : fieldsApart g.fields := by
  simp [fieldsApart, bitsApart, Gong.fields]

theorem Gong.fld_toNat {g : Gong} {e : Nat × Nat × Nat} (h : e ∈ g.fields) : fld g.toNat e.1 e.2.1 = e.2.2 % 2 ^ e.2.1 :=
  fld_packBits g.fields_apart h

theorem Gong.ofNat_mod (n : Nat) : Gong.ofNat (n % 2 ^ 128) = Gong.ofNat n := by
  simp (disch := decide) only [Gong.ofNat, fld_mod]

/-- LINK lies above every other field. -/
theorem Gong.ofNat_low (n l : Nat) : Gong.ofNat (n % 2 ^ 96 + 2 ^ 96 * l) = { Gong.ofNat n with link := l % 2 ^ 32 } := by
  have hm : (n % 2 ^ 96 + 2 ^ 96 * l) % 2 ^ 96 = n % 2 ^ 96 := by omega
  have low {lo w : Nat} (h : lo + w ≤ 96) : fld (n % 2 ^ 96 + 2 ^ 96 * l) lo w = fld n lo w := by
    rw [← fld_mod h, hm, fld_mod h]
  have hl : fld (n % 2 ^ 96 + 2 ^ 96 * l) 96 32 = l % 2 ^ 32 := by
    unfold fld
    rw [Nat.add_mul_div_left _ _ (by positivity), Nat.div_eq_of_lt (Nat.mod_lt _ (by positivity)), Nat.zero_add]
  simp (disch := decide) only [Gong.ofNat, low, hl]

/-- Each field of a gong reads back from the number that packs them, as far as it fits. -/
theorem Gong.ofNat_toNat (g : Gong) : Gong.ofNat g.toNat =
    ⟨g.gen % 2 ^ 4, g.arr % 2 ^ 16, g.inb % 2 ^ 16, g.out % 2 ^ 16, g.rout % 2 ^ 10, g.rin % 2 ^ 10, g.rarr % 2 ^ 12, g.link % 2 ^ 32⟩ := by
  simp only [Gong.ofNat, Gong.mk.injEq]
  exact ⟨fld_toNat (e := (0, 4, g.gen)) (by simp [fields]), fld_toNat (e := (4, 16, g.arr)) (by simp [fields]),
    fld_toNat (e := (20, 16, g.inb)) (by simp [fields]), fld_toNat (e := (36, 16, g.out)) (by simp [fields]),
    fld_toNat (e := (64, 10, g.rout)) (by simp [fields]), fld_toNat (e := (74, 10, g.rin)) (by simp [fields]),
    fld_toNat (e := (84, 12, g.rarr)) (by simp [fields]), fld_toNat (e := (96, 32, g.link)) (by simp [fields])⟩

theorem State.gong_plain {s : State} (h : s.err.upsets = []) (key : Nat) : s.gong key = .ofNat (leNat (s.mem.bytes key 16)) := by
  rw [State.gong, (State.fetch_plain h key 16).1]

/-- A gong is read from memory and its codes only. -/
theorem State.gong_congr {s t : State} (hm : t.mem = s.mem) (hp : t.poison = s.poison) (he : t.err = s.err) (key : Nat) :
    t.gong key = s.gong key := by
  simp only [State.gong, State.fetch, State.unitOut, hm, hp, he]

/-- A gong written reads back. -/
theorem State.gong_setGong {s : State} (hi : s.Inv) (h : s.err.upsets = []) (key : Nat) (g : Gong) :
    (s.setGong key g).gong key = .ofNat g.toNat := by
  have hb : (s.setGong key g).mem.bytes key 16 = leBytes 16 g.toNat := by
    rw [State.setGong, State.store_mem]
    simpa [length_leBytes] using Mem.bytes_put (m := s.mem) key (leBytes 16 g.toNat) hi
  rw [State.gong_plain (s := s.setGong key g) (State.store_upsets_nil h _ _ _), hb, leNat_leBytes]
  exact Gong.ofNat_mod _

/-- A write of LINK leaves a gong's other fields. -/
theorem State.gong_storeLink {s : State} (hi : s.Inv) (h : s.err.upsets = []) (key v : Nat) :
    ∃ l, (s.store (key + 12) (leBytes 4 v)).gong key = { s.gong key with link := l } := by
  have hlow : (s.store (key + 12) (leBytes 4 v)).mem.bytes key 12 = s.mem.bytes key 12 := by
    rw [State.store_mem, Mem.bytes_put_apart hi (.inl (Nat.le_refl _))]
  have hn : leNat (s.mem.bytes key 12) = leNat (s.mem.bytes key 16) % 2 ^ 96 := by
    have hlt := leNat_lt (s.mem.bytes key 12)
    rw [Mem.length_bytes] at hlt
    rw [Mem.bytes_append s.mem key 12 4, leNat_append, Mem.length_bytes]
    omega
  rw [State.gong_plain (State.store_upsets_nil h _ _ _), Mem.bytes_append _ key 12 4, leNat_append, Mem.length_bytes, hlow, hn,
    show 256 ^ 12 = 2 ^ 96 from rfl, Gong.ofNat_low, State.gong_plain h]
  exact ⟨_, rfl⟩

/-! LINK (R237, R338). -/

/-- A change of LINK is a write of its four bytes, or nothing. -/
theorem State.relink_cases (s : State) (key : Nat) :
    s.relink key = s ∨ ∃ v n, s.relink key = { s.store (key + 12) (leBytes 4 v) with fresh := n } := by
  unfold State.relink
  dsimp only
  split
  · exact .inl rfl
  · split
    · split
      · exact .inr ⟨_, _, rfl⟩
      · exact .inl rfl
    · split
      · exact .inl rfl
      · exact .inr ⟨0, _, rfl⟩

theorem State.relink_frame (s : State) (key : Nat) : (s.relink key).gangs = s.gangs ∧ (s.relink key).tlc = s.tlc ∧
    (s.relink key).sched = s.sched := by
  rcases s.relink_cases key with h | ⟨v, n, h⟩ <;> rw [h]
  · exact ⟨rfl, rfl, rfl⟩
  · exact ⟨State.store_gangs .., State.store_tlc .., State.store_sched ..⟩

theorem State.relinkFold_frame (ks : List Nat) (s : State) : (ks.foldl (fun (s : State) k => s.relink k) s).gangs = s.gangs ∧
    (ks.foldl (fun (s : State) k => s.relink k) s).tlc = s.tlc ∧ (ks.foldl (fun (s : State) k => s.relink k) s).sched = s.sched := by
  induction ks generalizing s with
  | nil => exact ⟨rfl, rfl, rfl⟩
  | cons k ks ih =>
    obtain ⟨hg, ht, hs⟩ := s.relink_frame k
    obtain ⟨ig, it, is⟩ := ih (s.relink k)
    exact ⟨ig.trans hg, it.trans ht, is.trans hs⟩

theorem State.gong_relink {s : State} (hi : s.Inv) (h : s.err.upsets = []) (key : Nat) :
    ∃ l, (s.relink key).gong key = { s.gong key with link := l } := by
  rcases s.relink_cases key with e | ⟨v, n, e⟩ <;> rw [e]
  · exact ⟨_, rfl⟩
  · obtain ⟨l, hl⟩ := State.gong_storeLink hi h key v
    exact ⟨l, (State.gong_congr (s := s.store (key + 12) (leBytes 4 v)) rfl rfl rfl key).trans hl⟩

theorem State.store_gongLog (s : State) (k : Nat) (bs : List Byte) (psn : Bool) : ∃ l, (s.store k bs psn).gongLog = s.gongLog ++ l := by
  unfold State.store
  split
  · exact ⟨[], (List.append_nil _).symm⟩
  · dsimp only
    split
    · exact ⟨_, rfl⟩
    · exact ⟨[], (List.append_nil _).symm⟩

theorem State.relink_gongLog (s : State) (key : Nat) : ∃ l, (s.relink key).gongLog = s.gongLog ++ l := by
  rcases s.relink_cases key with h | ⟨v, n, h⟩ <;> rw [h]
  · exact ⟨[], (List.append_nil _).symm⟩
  · exact s.store_gongLog _ _ _

/-! The advance of a gong (R238). -/

/-- The release of a gong's waiters changes gangs and waiters, then LINK. -/
theorem State.releaseGong_eq (s : State) (key : Nat) : ∃ gs ws,
    s.releaseGong key = ({ s with gangs := gs, sched := { s.sched with waiters := ws } } : State).relink key := ⟨_, _, rfl⟩

theorem State.gong_releaseGong {s : State} (hi : s.Inv) (h : s.err.upsets = []) (key : Nat) :
    ∃ l, (s.releaseGong key).gong key = { s.gong key with link := l } := by
  obtain ⟨gs, ws, e⟩ := s.releaseGong_eq key
  generalize hv : ({ s with gangs := gs, sched := { s.sched with waiters := ws } } : State) = v at e
  have hm : v.mem = s.mem := by rw [← hv]
  have hp : v.poison = s.poison := by rw [← hv]
  have he : v.err = s.err := by rw [← hv]
  rw [e, ← State.gong_congr hm hp he key]
  exact State.gong_relink (hi.of_mem hm) (by rw [he, h]) key

theorem State.releaseGong_waiters (s : State) (key : Nat) : ∀ w ∈ (s.releaseGong key).sched.waiters, ∀ h n, w.on ≠ .gong key h n := by
  unfold State.releaseGong
  rw [(State.relink_frame _ _).2.2]
  intro w hw h n
  obtain ⟨v, _, rfl⟩ := List.mem_map.mp hw
  split
  next k _ _ hv =>
    split
    · simp
    · rw [hv]
      simp_all
  next hv => exact hv key h n

theorem State.releaseGong_advancedNow {s : State} {key : Nat} (h : s.advancedNow key = true) : (s.releaseGong key).advancedNow key = true := by
  obtain ⟨gs, ws, e⟩ := s.releaseGong_eq key
  obtain ⟨l, hl⟩ := State.relink_gongLog { s with gangs := gs, sched := { s.sched with waiters := ws } } key
  rw [e, State.advancedNow, hl, (State.relink_frame _ key).2.1, List.any_append, Bool.or_eq_true]
  exact .inl h

/-- A gong that advances: the next generation, and its counts reloaded. -/
def Gong.next (g : Gong) : Gong := { g with gen := (g.gen + 1) % 16, arr := g.rarr, inb := g.rin, out := g.rout }

/-- A gong written as it advances, with the entry of its log, before its waiters are freed. -/
def State.advancing (s : State) (key : Nat) : State :=
  let t := s.setGong key (s.gong key).next
  ({ t with gongLog := t.gongLog ++ [⟨t.tlc, key, (s.gong key).gen, ((s.gong key).gen + 1) % 16, true⟩] } : State).forgetApplied key

theorem State.gongAdvance_due {s : State} {key : Nat} (ha : (s.gong key).arr = 0) (hi : (s.gong key).inb = 0) (ho : (s.gong key).out = 0)
    (hn : s.advancedNow key = false) (ht : s.gongTrap key (0, 0) = none) : s.gongAdvance key = (s.advancing key).releaseGong key := by
  unfold State.gongAdvance
  dsimp only
  rw [if_pos ⟨ha, hi, ho, by rw [hn]; rfl, by rw [ht]; rfl⟩]
  rfl

theorem State.gongAdvance_idle {s : State} {key : Nat} (h : (s.gong key).arr ≠ 0 ∨ (s.gong key).inb ≠ 0 ∨ (s.gong key).out ≠ 0) :
    s.gongAdvance key = s := by
  unfold State.gongAdvance
  dsimp only
  rw [if_neg]
  rintro ⟨ha, hi, ho, _⟩
  exact h.elim (· ha) (·.elim (· hi) (· ho))

/-- The fields a gong was read with fit their widths, the reload values those of the counts. -/
theorem Gong.ofNat_next (n : Nat) : ∃ l, Gong.ofNat (Gong.ofNat n).next.toNat = { (Gong.ofNat n).next with link := l } := by
  have hr : (Gong.ofNat n).rarr < 2 ^ 12 := fld_lt _ _ _
  have hi : (Gong.ofNat n).rin < 2 ^ 10 := fld_lt _ _ _
  have ho : (Gong.ofNat n).rout < 2 ^ 10 := fld_lt _ _ _
  refine ⟨(Gong.ofNat n).link % 2 ^ 32, ?_⟩
  rw [Gong.ofNat_toNat]
  simp only [Gong.next, Gong.mk.injEq, and_true]
  omega

theorem State.advancing_frame (s : State) (key : Nat) : (s.advancing key).mem = (s.setGong key (s.gong key).next).mem ∧
    (s.advancing key).poison = (s.setGong key (s.gong key).next).poison ∧ (s.advancing key).err = (s.setGong key (s.gong key).next).err := by
  refine ⟨?_, ?_, ?_⟩ <;> simp only [State.advancing, State.forgetApplied]

theorem State.gong_advancing {s : State} (hi : s.Inv) (hu : s.err.upsets = []) (key : Nat) :
    ∃ l, (s.advancing key).gong key = { (s.gong key).next with link := l } := by
  obtain ⟨l, e⟩ := Gong.ofNat_next (leNat (s.mem.bytes key 16))
  obtain ⟨hm, hp, he⟩ := s.advancing_frame key
  rw [← State.gong_plain hu, ← State.gong_setGong hi hu key] at e
  exact ⟨l, (State.gong_congr hm hp he key).trans e⟩

/-- A gong whose counts have reached zero advances (R238). -/
theorem State.gongAdvance_spec {s : State} {key : Nat} (hinv : s.Inv) (hu : s.err.upsets = []) (ha : (s.gong key).arr = 0)
    (hi : (s.gong key).inb = 0) (ho : (s.gong key).out = 0) (hn : s.advancedNow key = false) (ht : s.gongTrap key (0, 0) = none) :
    (∃ l, (s.gongAdvance key).gong key = { (s.gong key).next with link := l }) ∧ (s.gongAdvance key).advancedNow key = true ∧
      ∀ w ∈ (s.gongAdvance key).sched.waiters, ∀ h n, w.on ≠ .gong key h n := by
  rw [State.gongAdvance_due ha hi ho hn ht]
  refine ⟨?_, State.releaseGong_advancedNow ?_, State.releaseGong_waiters _ _⟩
  · obtain ⟨l, e⟩ := State.gong_advancing hinv hu key
    obtain ⟨hm, _, he⟩ := s.advancing_frame key
    have hai : (s.advancing key).Inv := State.Inv.of_mem (State.store_inv key (leBytes 16 _) false hinv) hm
    have hau : (s.advancing key).err.upsets = [] := by rw [he, State.setGong, State.store_upsets_nil hu]
    obtain ⟨l', e'⟩ := State.gong_releaseGong hai hau key
    exact ⟨l', by rw [e', e]⟩
  · simp [State.advancedNow, State.advancing, State.forgetApplied]

end Sys2Proof.Machine

namespace Sys2Proof.Machine

/-! What the end of a gang and of a job leave of the scheduler (R26, R326). -/

theorem aget_adel_none {α : Type} {k j : Nat} {l : List (Nat × α)} (h : aget k l = none) : aget k (adel j l) = none := by
  induction l with
  | nil => rfl
  | cons p t ih =>
    obtain ⟨a, v⟩ := p
    by_cases hk : a = k
    · simp [aget, hk] at h
    · simp only [aget, hk, if_false] at h
      by_cases hj : a = j <;> simp [adel, aget, hk, hj] <;> exact ih h

theorem State.dropGangs_frame (l : List Nat) (s : State) : (∀ k, aget k s.gangs = none → aget k (l.foldl State.dropGang s).gangs = none) ∧
    ∃ ws, (l.foldl State.dropGang s).sched = { s.sched with waiters := ws } := by
  induction l generalizing s with
  | nil => exact ⟨fun _ h => h, s.sched.waiters, rfl⟩
  | cons a l ih =>
    obtain ⟨hg, ws, hs⟩ := ih (s.dropGang a)
    exact ⟨fun k h => hg k (aget_adel_none h), ws, hs⟩

theorem State.dropGangs_tlc (l : List Nat) (s : State) : (l.foldl State.dropGang s).tlc = s.tlc := by
  induction l generalizing s with
  | nil => rfl
  | cons a l ih => exact ih (s.dropGang a)

/-- What the end of a job makes of the job itself (R326). -/
def Job.endedAs (how : JobEnd) (rec_ : BitVec 1024) (j : Job) : Job :=
  { j with ended := some how, record := rec_, tobs := j.tobs.map fun t => { t with dropped := t.dropped || decide (t.done < t.total) } }

theorem State.endJob_over {s : State} {n : Nat} (h : s.jobLive n = false) (how : JobEnd) (r : BitVec 1024) : s.endJob n how r = s := by
  simp [State.endJob, h]

/-- The end of a job, but for LINK: gangs before their downbeat go, and of the scheduler what is the job's. -/
theorem State.endJob_live {s : State} {n : Nat} (h : s.jobLive n = true) (how : JobEnd) (r : BitVec 1024) :
    (∀ k, aget k s.gangs = none → aget k (s.endJob n how r).gangs = none) ∧ (s.endJob n how r).tlc = s.tlc ∧
    ∃ (ws : List Waiter) (res : List Reservation) (kept : List Kept) (regions : List Region), (s.endJob n how r).sched = { s.sched with
      jobs := amod n (Job.endedAs how r) s.sched.jobs
      queues := s.sched.queues.map fun q => (q.1, { q.2 with
        front := q.2.front.filter fun t => t.job != n, runs := q.2.runs.filter fun r => r.job != n
        heldSince := if q.2.runs.head?.any fun r => r.job == n then 0 else q.2.heldSince })
      reservations := res, waiters := ws.filter (fun w => w.step.job != n), kept := kept, regions := regions } := by
  unfold State.endJob
  rw [if_neg (by simp [h])]
  dsimp only
  generalize hj : s.modJob n _ = u
  have hu : u = s.modJob n (Job.endedAs how r) := hj.symm
  generalize ((u.gangs.filter _).map _) = early
  obtain ⟨hg, ws, hs⟩ := State.dropGangs_frame early u
  have ht := State.dropGangs_tlc early u
  generalize early.foldl State.dropGang u = v at hg hs ht
  rw [hu] at hg hs ht
  refine ⟨fun k hk => ?_, ?_, ws, ?_⟩
  · rw [(State.relinkFold_frame _ _).1]
    exact hg k hk
  · rw [(State.relinkFold_frame _ _).2.1]
    exact ht
  · rw [(State.relinkFold_frame _ _).2.2]
    simp only [State.dropRefs, hs]
    exact ⟨_, _, _, rfl⟩

/-! Completion (R26). -/

/-- Kept state changes memory and the list of kept state. -/
theorem State.keep_frame (s : State) (g : Gang) (c : Core) : (s.keep g c).tlc = s.tlc ∧ (s.keep g c).gangs = s.gangs ∧
    ∃ ks, (s.keep g c).sched = { s.sched with kept := ks } := by
  unfold State.keep
  split
  · exact ⟨rfl, rfl, s.sched.kept, rfl⟩
  · dsimp only
    split
    · exact ⟨State.store_tlc .., State.store_gangs .., _, by rw [State.drainAcc, State.store_sched]⟩
    · exact ⟨rfl, rfl, _, rfl⟩

theorem State.keeps_frame (g : Gang) (l : List Core) (s : State) : (l.foldl (fun (s : State) c => s.keep g c) s).tlc = s.tlc ∧
    (l.foldl (fun (s : State) c => s.keep g c) s).gangs = s.gangs ∧
    ∃ ks, (l.foldl (fun (s : State) c => s.keep g c) s).sched = { s.sched with kept := ks } := by
  induction l generalizing s with
  | nil => exact ⟨rfl, rfl, s.sched.kept, rfl⟩
  | cons c l ih =>
    obtain ⟨ht, hg, ks, hs⟩ := s.keep_frame g c
    obtain ⟨it, ig, js, is⟩ := ih (s.keep g c)
    exact ⟨it.trans ht, ig.trans hg, js, by rw [List.foldl_cons, is, hs]⟩

theorem State.keep_none {g : Gang} (ha : g.tob.acc = false) (hr : g.tob.regions = []) (s : State) (c : Core) : s.keep g c = s := by
  simp [State.keep, ha, hr]

/-- The flags of every core of a gang (R35). -/
def Gang.allFlags (g : Gang) : Flags := g.cores.foldl (fun f c => f ||| c.flags) 0

/-- The entries of a gang's completion lists, rank by rank (R243). -/
def Gang.entries (g : Gang) : List (Core × Compl) := (g.cores.map fun c => c.compl.map fun e => (c, e)).flatten

/-- A completed step's TOB has its flags and counts one step more (R26, R327). -/
def State.counted (s : State) (g : Gang) : State := s.modJob g.step.job fun j =>
  { j with tobs := j.tobs.modify g.step.tobIdx fun e => { e with flagw := e.flagw ||| g.allFlags, done := e.done + 1 } }

/-- Its completion entries take effect in order. -/
def State.entered (s : State) (g : Gang) : State :=
  ((List.range g.entries.length).zip g.entries).foldl (fun (s : State) p => s.complEntry g p.1 p.2.1 p.2.2) (s.counted g)

/-- Its traces and service requests are handed over, and its cores are free. -/
def State.handedOver (s : State) (gid : Nat) (g : Gang) : State :=
  ({ s with sched := { s.sched with
    lastMove := s.tlc, claveLogs := s.sched.claveLogs ++ g.cores.map (fun c => (g.step.id, c.rank, c.hits, c.log))
    services := s.sched.services ++ (g.cores.map fun c => c.svc.map fun e => (g.step.job, e)).flatten } } : State).dropGang gid

/-- A job whose every step is done ends with its last step's completion (R326). -/
def State.jobOver (s : State) (n : Nat) : State := if s.jobFinished n then s.endJob n .normal 0 else s

/-- A completion, up to what it keeps, arrives at and gives back. -/
theorem State.complete_due {s : State} {gid : Nat} {g : Gang} (hg : aget gid (s.gongCounts []).gangs = some g)
    (hc : (s.gongCounts []).completes g = true) : ∃ v : State, s.complete gid = ((v.dropRefs g.refs).handedOver gid g).jobOver g.step.job ∧
      (g.tob.arrives = false → g.step.mc = none → v = (if (s.gongCounts []).jobLive g.step.job then
        g.cores.foldl (fun (s : State) c => s.keep g c) ((s.gongCounts []).entered g) else (s.gongCounts []).entered g)) := by
  unfold State.complete
  simp only [hg, hc, Bool.not_true, Bool.false_eq_true, if_false]
  refine ⟨_, rfl, fun ha hm => ?_⟩
  simp only [ha, hm, Bool.false_eq_true, if_false]
  rfl

theorem State.dropRefs_nil (s : State) : s.dropRefs [] = s := rfl

theorem State.jobFinished_live {s : State} {n : Nat} (h : s.jobFinished n = true) : s.jobLive n = true := by
  unfold State.jobFinished at h
  unfold State.jobLive
  split at h <;> simp_all

theorem State.jobOver_gangs {s : State} {k : Nat} (h : aget k s.gangs = none) (n : Nat) : aget k (s.jobOver n).gangs = none := by
  unfold State.jobOver
  split
  next hf => exact (State.endJob_live (State.jobFinished_live hf) _ _).1 k h
  next => exact h

/-- The end of a finished job keeps the times and traces of the scheduler, and of its TOBs what they count. -/
theorem State.jobOver_sched (s : State) (n : Nat) : (s.jobOver n).sched.lastMove = s.sched.lastMove ∧
    (s.jobOver n).sched.claveLogs = s.sched.claveLogs ∧
    ∀ j, s.job n = some j → ∃ j', (s.jobOver n).job n = some j' ∧ ∀ (i : Nat) (e : TobEnt), j.tobs[i]? = some e →
      ∃ e' : TobEnt, j'.tobs[i]? = some e' ∧
      e'.done = e.done ∧ e'.flagw = e.flagw := by
  unfold State.jobOver
  split
  next hf =>
    obtain ⟨_, _, ws, res, kept, regions, hs⟩ := State.endJob_live (State.jobFinished_live hf) .normal 0
    refine ⟨by rw [hs], by rw [hs], fun j hj => ⟨j.endedAs .normal 0, ?_, fun i e he => ?_⟩⟩
    · rw [State.job, hs, aget_amod_self, show aget n s.sched.jobs = some j from hj]
      rfl
    · simp [Job.endedAs, he]
  next => exact ⟨rfl, rfl, fun j hj => ⟨j, hj, fun i e he => ⟨e, he, rfl, rfl⟩⟩⟩

theorem State.completes_of {s : State} {g : Gang} (hp : g.phase = .running) (he : g.atEnd = true) (hq : s.quiescent g = true)
    (ht : s.tlc ≤ g.dbt + 2 ^ 21) : s.completes g = true := by
  simp only [State.completes, hp, he, hq, Bool.true_and, decide_eq_true_eq]
  exact ht

theorem State.complete_gone {s : State} {gid : Nat} {g : Gang} (hg : aget gid (s.gongCounts []).gangs = some g)
    (hc : (s.gongCounts []).completes g = true) : aget gid (s.complete gid).gangs = none := by
  obtain ⟨v, hv, _⟩ := State.complete_due hg hc
  rw [hv]
  exact State.jobOver_gangs (aget_adel_self gid _) _

/-- The kept state of a completed step, whether its job lives or not. -/
theorem State.kept_frame (u v : State) (g : Gang) :
    let w := if u.jobLive g.step.job then g.cores.foldl (fun (s : State) c => s.keep g c) v else v
    w.tlc = v.tlc ∧ ∃ ks, w.sched = { v.sched with kept := ks } := by
  dsimp only
  split
  · obtain ⟨ht, _, hs⟩ := State.keeps_frame g g.cores v
    exact ⟨ht, hs⟩
  · exact ⟨rfl, v.sched.kept, rfl⟩

/-- A completion with nothing on its lists: times, traces and the TOB's counts (R26, R327). -/
theorem State.complete_sched {s : State} {gid : Nat} {g : Gang} (hg : aget gid (s.gongCounts []).gangs = some g)
    (hc : (s.gongCounts []).completes g = true) (hl : ∀ c ∈ g.cores, c.compl = []) (ha : g.tob.arrives = false) (hm : g.step.mc = none) :
    (s.complete gid).sched.lastMove = (s.gongCounts []).tlc ∧
    (s.complete gid).sched.claveLogs = (s.gongCounts []).sched.claveLogs ++ g.cores.map (fun c => (g.step.id, c.rank, c.hits, c.log)) ∧
    ∀ (j : Job) (e : TobEnt), (s.gongCounts []).job g.step.job = some j → j.tobs[g.step.tobIdx]? = some e → ∃ (j' : Job) (e' : TobEnt),
      (s.complete gid).job g.step.job = some j' ∧ j'.tobs[g.step.tobIdx]? = some e' ∧ e'.done = e.done + 1 ∧ e'.flagw = e.flagw ||| g.allFlags := by
  obtain ⟨v, hv, hk⟩ := State.complete_due hg hc
  have hes : g.entries = [] := by
    rw [Gang.entries, List.flatten_eq_nil_iff]
    intro l hl'
    obtain ⟨c, hcm, rfl⟩ := List.mem_map.mp hl'
    rw [hl c hcm, List.map_nil]
  have hen : (s.gongCounts []).entered g = (s.gongCounts []).counted g := by rw [State.entered, hes]; rfl
  obtain ⟨ht, ks, hs⟩ := State.kept_frame (s.gongCounts []) ((s.gongCounts []).entered g) g
  rw [← hk ha hm, hen] at ht hs
  obtain ⟨hlast, hclave, hjob⟩ := State.jobOver_sched ((v.dropRefs g.refs).handedOver gid g) g.step.job
  rw [hv]
  refine ⟨hlast.trans ht, hclave.trans ?_, fun j e hj he => ?_⟩
  · show v.sched.claveLogs ++ _ = _
    rw [hs]
    rfl
  · have hv' : ((v.dropRefs g.refs).handedOver gid g).job g.step.job = ((s.gongCounts []).counted g).job g.step.job := by
      show aget _ v.sched.jobs = _
      rw [hs]
      rfl
    have hj' : ((s.gongCounts []).counted g).job g.step.job = some { j with tobs := j.tobs.modify g.step.tobIdx fun e =>
        { e with flagw := e.flagw ||| g.allFlags, done := e.done + 1 } } := by
      show aget _ (amod _ _ _) = _
      rw [aget_amod_self, show aget g.step.job _ = some j from hj]
      rfl
    obtain ⟨j', hjo, htob⟩ := hjob _ (hv'.trans hj')
    obtain ⟨e', he', hd, hf⟩ := htob g.step.tobIdx { e with flagw := e.flagw ||| g.allFlags, done := e.done + 1 } (by
      simp [he])
    exact ⟨j', e', hjo, he', hd, hf⟩

/-- A completion that keeps nothing, arrives nowhere and holds no reference: its entries, then the hand-over. -/
theorem State.complete_plain {s : State} {gid : Nat} {g : Gang} (hg : aget gid (s.gongCounts []).gangs = some g)
    (hc : (s.gongCounts []).completes g = true) (ha : g.tob.arrives = false) (hacc : g.tob.acc = false) (hr : g.tob.regions = [])
    (hm : g.step.mc = none) (href : g.refs = [])
    (hj : (((s.gongCounts []).entered g).handedOver gid g).jobFinished g.step.job = false) :
    s.complete gid = ((s.gongCounts []).entered g).handedOver gid g := by
  obtain ⟨v, hv, hk⟩ := State.complete_due hg hc
  have hkeep (l : List Core) (u : State) : l.foldl (fun (s : State) c => s.keep g c) u = u := by
    induction l generalizing u with
    | nil => rfl
    | cons c l ih => rw [List.foldl_cons, State.keep_none hacc hr, ih]
  rw [hkeep, ite_self] at hk
  rw [hv, hk ha hm, href, State.dropRefs_nil, State.jobOver, hj]
  rfl

/-! Completion entries (R243, R247). -/

theorem State.badFlit_none {s : State} (h : s.err.flits = []) (a b : Nat) : s.badFlit a b = none := by
  simp [State.badFlit, h]

theorem State.complEntry_arrive {s : State} {g : Gang} {i n waddr : Nat} {c : Core} {h : BitVec 64} (hf : s.err.flits = [])
    (hk : storeOf (s.handleKey g c h) = some .core) : s.complEntry g i c (.arrive h n waddr) = { s with gongQ := s.gongQ ++
      [{ key := s.handleKey g c h, ord := (3, g.cells.headD 0 / 32, g.cells.headD 0 % 32, i, 0), kind := 3, n := n, handle := h, gang := g.id,
         who := some ⟨c.rank, .c, waddr, s.tlc⟩ }] } := by
  have hv : (some StoreKind.core == some StoreKind.vault) = false := rfl
  simp only [State.complEntry, State.arrive, hk, State.badFlit_none hf, hv, Bool.false_and, Bool.false_eq_true, if_false]

/-! The end of an abandoned attempt (R41, R45). -/

theorem State.gongRead_frame (s : State) (g : Option Gang) (key : Nat) : (s.gongRead g key).1.gangs = s.gangs ∧ (s.gongRead g key).1.tlc = s.tlc := by
  obtain ⟨hg, ht, _⟩ := s.correctedAll_frame g 0 (s.fetch key 16)
  unfold State.gongRead
  dsimp only
  split <;> exact ⟨hg, ht⟩

/-- A credit is a write of its gong. -/
theorem State.credit_frame (s : State) (h : Gang) (a : Nat × Bool) : (s.credit h a).gangs = s.gangs ∧ (s.credit h a).tlc = s.tlc := by
  obtain ⟨hg, ht⟩ := s.gongRead_frame (some h) a.1
  unfold State.credit
  split
  next t c e => rw [e] at hg ht; exact ⟨hg, ht⟩
  next t e =>
    rw [e] at hg ht
    exact ⟨(State.store_gangs ..).trans hg, (State.store_tlc ..).trans ht⟩

theorem State.credits_frame (h : Gang) (l : List (Nat × Bool)) (s : State) : (l.foldl (fun (s : State) a => s.credit h a) s).gangs = s.gangs ∧
    (l.foldl (fun (s : State) a => s.credit h a) s).tlc = s.tlc := by
  induction l generalizing s with
  | nil => exact ⟨rfl, rfl⟩
  | cons a l ih =>
    obtain ⟨hg, ht⟩ := s.credit_frame h a
    obtain ⟨ig, it⟩ := ih (s.credit h a)
    exact ⟨ig.trans hg, it.trans ht⟩

/-- An abandoned attempt of which everything has landed is closed (R41, R45). -/
theorem State.abandonFinish_closed {s : State} {gid : Nat} {g : Gang} {f : FaultRec} (hg : aget gid (s.gongCounts []).gangs = some g)
    (hp : g.phase = .ending) (hf : g.fault = some f) (ht : f.f + 33 ≤ (s.gongCounts []).tlc) (hq : (s.gongCounts []).quiescent g = true) :
    ∃ h : Gang, aget gid (s.abandonFinish gid).gangs = some h ∧ h.phase = .closed (s.gongCounts []).tlc ∧ h.agenda = [] ∧ h.applied = [] ∧
      h.refs = [] ∧ h.fault = some f ∧ ∀ c ∈ h.cores, c.streams = [] ∧ c.flags = 0 ∧ c.compl = [] := by
  have hd : (s.gongCounts []).abandonDue g = true := by simp [State.abandonDue, hp, hf, hq, ht]
  obtain ⟨hcg, hct⟩ := State.credits_frame g g.applied (s.gongCounts [])
  unfold State.abandonFinish
  simp only [hg, hd, Bool.not_true, Bool.false_eq_true, if_false]
  have hag : aget gid (((g.applied.foldl (fun (s : State) a => s.credit g a) (s.gongCounts [])).dropRefs g.refs).freeLeases gid).gangs = some g := by
    show aget gid (State.gangs (List.foldl _ _ _)) = _
    rw [hcg, hg]
  refine ⟨_, (State.modGang_self _ _ _).trans (congrArg (Option.map _) hag), congrArg Phase.closed hct, rfl, rfl, rfl, hf, fun c hc => ?_⟩
  obtain ⟨p, _, rfl⟩ := List.mem_map.mp hc
  exact ⟨rfl, rfl, rfl⟩

/-- A step that runs past 2^21 cycles is ending (R22). -/
theorem State.stepOverrun_ends {s : State} {gid : Nat} {g : Gang} (hg : aget gid s.gangs = some g) (hp : g.phase = .running) (hf : g.fault = none)
    (ht : g.dbt + 2 ^ 21 + 1 ≤ s.tlc) : ∃ h : Gang, aget gid (s.stepOverrun gid).gangs = some h ∧ h.phase = .ending ∧
      h.fault = some ⟨s.tlc, none, { cause := 23 }⟩ ∧ (s.stepOverrun gid).mem = s.mem := by
  have ho : s.overruns g = true := by simp only [State.overruns, hp, Bool.true_and, decide_eq_true_eq]; exact ht
  have hr : s.stepOverrun gid = s.modGang gid (·.raise s.tlc none { cause := 23 }) := by
    simp only [State.stepOverrun, hg, ho, if_true]
    rfl
  rw [hr]
  refine ⟨g.raise s.tlc none { cause := 23 }, (State.modGang_self _ _ _).trans (congrArg (Option.map _) hg), ?_, ?_, rfl⟩
  · rw [Gang.raise_first hf, hp]
    rfl
  · rw [Gang.raise_first hf]

/-- Settles O51, a clause for each of the lemmas above. -/
theorem stepEnds : Obligations.StepEnds := by
  unfold Obligations.StepEnds
  intro s gid g
  refine ⟨fun hg hp hf ht => ?_, ?_, fun c i n waddr tob q h hf => ⟨State.complEntry_arrive hf, fun hl ha => ?_, fun hl => ?_, fun graph v hv => ?_⟩,
    fun key hi hu ha hin ho hn ht => ?_, fun key h => State.gongAdvance_idle h, ?_⟩
  · obtain ⟨h, ha, hph, hfa, hm⟩ := State.stepOverrun_ends hg hp hf ht
    exact ⟨_, h, rfl, ha, hph, hfa, hm⟩
  · intro u hg hp he hq ht
    have hc : u.completes g = true := State.completes_of hp he hq ht
    exact ⟨_, rfl, State.complete_gone hg hc, fun hl ha hm => State.complete_sched hg hc hl ha hm,
      fun ha hacc hr hm href hj => State.complete_plain hg hc ha hacc hr hm href hj⟩
  · simp only [State.complEntry, hl, if_true, ha]
  · simp only [State.complEntry, hl, Bool.false_eq_true, if_false]
    rfl
  · simp only [State.complEntry, hv]
  · obtain ⟨⟨l, hl⟩, had, hw⟩ := State.gongAdvance_spec hi hu ha hin ho hn ht
    refine ⟨?_, ?_, ?_, ?_, had, hw⟩ <;> rw [hl] <;> rfl
  · intro u f hg hp hf ht hq
    obtain ⟨h, hall⟩ := State.abandonFinish_closed hg hp hf ht hq
    exact ⟨_, h, rfl, hall⟩

end Sys2Proof.Machine

namespace Sys2Proof.Machine

/-! What events and error records leave of the state (R397, R410). -/

/-- An event changes what the device keeps for the host. -/
theorem State.post_eq (s : State) (g : Nat) (job : Bool) (bs : List Byte) : ∃ h, s.post g job bs = { s with host := h } := by
  unfold State.post
  dsimp only
  split
  · unfold State.ringWrite State.msix
    dsimp only
    split <;> exact ⟨_, rfl⟩
  · exact ⟨_, rfl⟩

theorem State.event_eq (s : State) (kind : Nat) (q : Option Nat) (tag job arg jflags trec : Nat) :
    ∃ h, s.event kind q tag job arg jflags trec = { s with host := h } := s.post_eq _ _ _

theorem State.status_sched (s : State) (code : Nat) : (s.status code).sched = s.sched := by
  obtain ⟨h, e⟩ := s.event_eq 7 none 0 0 code 0 0
  rw [State.status, e]

theorem State.lastingActs_sched (s : State) (g : Gang) (m : McState) : (s.lastingActs g m).sched = s.sched := by
  unfold State.lastingActs
  dsimp only
  split <;> exact State.status_sched _ _

theorem State.machineCheck_sched (s : State) (g : Gang) (f : FaultRec) : (s.machineCheck g f).1.sched = s.sched := by
  unfold State.machineCheck
  dsimp only
  split
  · rfl
  · split
    · split <;> rfl
    · split
      · rfl
      · exact State.lastingActs_sched _ _ _

/-! Trap records (R283 to R286). -/

/-- How a closed attempt is disposed of: `d` is DISP, `bits` its record (R46, R285). -/
def State.disposed (s : State) (gid : Nat) (g : Gang) (d bits : Nat) (mc : Option McState) (on : WaitOn) : State :=
  let u := (s.trapWrite bits).1.dropGang gid
  match d with
  | 0 => u.toWaiter g.queue g.step on
  | 1 => u.toFront g.queue { g.step with mc := mc }
  | 2 => u.toFront g.queue { g.step with errs := g.step.errs + 1 }
  | _ => u.endJob g.step.job .fault (s.trapWrite bits).2

/-- A disposal changes of the scheduler no more than its trap ring before the step goes its way. -/
theorem State.dispose_eq (s : State) (gid : Nat) (g : Gang) (f : FaultRec) : ∃ (u : State) (d : Nat) (bits : Nat) (mc : Option McState) (on : WaitOn),
    u.sched = s.sched ∧ s.dispose gid g f = u.disposed gid g d bits mc on := by
  unfold State.dispose
  dsimp only
  refine ⟨_, _, _, _, _, ?_, rfl⟩
  split
  · exact State.machineCheck_sched _ _ _
  · rfl

/-- A fault of the program's own: what DISP is and that the state is not changed before the record. -/
theorem State.dispose_plain {s : State} {g : Gang} {f : FaultRec} (hm : mcCause f.trap.cause = false) (gid : Nat) :
    ∃ (d : Nat) (mc : Option McState) (on : WaitOn), s.dispose gid g f = s.disposed gid g d (s.recordBits g f d) mc on ∧
      (s.jobLive g.step.job = true → g.tob.noRestart = false → f.trap.cause ≠ 32 → f.trap.cause ≠ 34 → f.trap.cause ≠ 49 →
        d = if g.step.errs = 0 then 2 else 3) := by
  unfold State.dispose
  simp only [hm, Bool.false_and, Bool.false_eq_true, if_false]
  refine ⟨_, _, _, rfl, fun hl hn h32 h34 h49 => ?_⟩
  simp only [dispCode, hl, hn, h49, h32, h34, hm, Bool.not_true, Bool.or_self, Bool.false_eq_true, if_false]
  by_cases he : g.step.errs = 0
  · simp [he]
  · simp [he]

theorem State.toFront_front (s : State) (q : Nat) (st : QStep) : ((s.toFront q st).queue q).front = st :: (s.queue q).front := by
  simp [State.toFront, State.modQueue, State.queue, State.setQueue]

theorem State.jobLive_endJob (s : State) (n : Nat) (how : JobEnd) (r : BitVec 1024) : (s.endJob n how r).jobLive n = false := by
  cases hl : s.jobLive n with
  | false => rw [State.endJob_over hl, hl]
  | true =>
    obtain ⟨_, _, _, _, _, _, hs⟩ := State.endJob_live hl how r
    unfold State.jobLive State.job
    rw [hs, aget_amod_self]
    cases aget n s.sched.jobs <;> rfl

theorem State.disposed_again (s : State) (gid : Nat) (g : Gang) (bits : Nat) (mc : Option McState) (on : WaitOn) :
    s.disposed gid g 2 bits mc on = ((s.trapWrite bits).1.dropGang gid).toFront g.queue { g.step with errs := g.step.errs + 1 } := rfl

/-- Whatever becomes of its step, the attempt is gone and its record written. -/
theorem State.disposed_gone (s : State) (gid : Nat) (g : Gang) (d bits : Nat) (mc : Option McState) (on : WaitOn) :
    aget gid (s.disposed gid g d bits mc on).gangs = none ∧
    (s.disposed gid g d bits mc on).sched.trapSeq = (s.sched.trapSeq + 1) % 2 ^ 32 ∧
    (s.disposed gid g d bits mc on).sched.trapRing = (s.trapWrite bits).1.sched.trapRing := by
  have hg : aget gid ((s.trapWrite bits).1.dropGang gid).gangs = none := aget_adel_self gid _
  unfold State.disposed
  dsimp only
  split
  · exact ⟨hg, rfl, rfl⟩
  · exact ⟨hg, rfl, rfl⟩
  · exact ⟨hg, rfl, rfl⟩
  · cases hl : ((s.trapWrite bits).1.dropGang gid).jobLive g.step.job with
    | false =>
      rw [State.endJob_over hl]
      exact ⟨hg, rfl, rfl⟩
    | true =>
      obtain ⟨hk, _, _, _, _, _, hs⟩ := State.endJob_live hl .fault (s.trapWrite bits).2
      exact ⟨hk gid hg, by rw [hs]; rfl, by rw [hs]; rfl⟩

theorem State.trapRecord_eq {s : State} {gid : Nat} {g : Gang} {a : Nat} {f : FaultRec} (hg : aget gid s.gangs = some g)
    (hp : g.phase = .closed a) (hf : g.fault = some f) : s.trapRecord gid = s.dispose gid g f := by
  simp only [State.trapRecord, hg, hp, hf]

/-! The fields of a record (R285). -/

/-- The word that a fault is of (R286): none where it has no word, or cause 20. -/
def FaultRec.word (g : Gang) (f : FaultRec) : Option (BitVec 64) := if f.who.isSome ∧ f.trap.cause ≠ 20 then g.words.head? else none

/-- Whether that word has two. -/
def FaultRec.twoWords (g : Gang) (f : FaultRec) : Bool := (f.word g).any fun w => wordsOf w == 2

/-- Its address. -/
def FaultRec.waddr (f : FaultRec) : Nat := if f.who.isSome ∧ f.trap.cause ≠ 20 then (f.who.getD ⟨0, .c, 0, 0⟩).waddr else 0

/-- The core that its rank is. -/
def FaultRec.core (g : Gang) (f : FaultRec) : Nat := (g.cells[(f.who.getD ⟨0, .c, 0, 0⟩).rank]?).getD 0

/-- The fields of a trap record but for DISP and the loop coordinates, LOST and SEQ included. -/
def State.plainFields (s : State) (g : Gang) (f : FaultRec) : List (Nat × Nat × Nat) :=
  let who := f.who.getD ⟨0, .c, 0, 0⟩
  [(0, 8, f.trap.cause), (12, 4, min g.step.attempt 15), (16, 8, g.more), (24, 5, if f.who.isSome then who.strm.code else 31),
    (32, 6, who.rank), (40, 5, f.core g), (45, 3, f.core g / 32), (48, 4, s.pdie (f.core g / 32)), (52, 8, ((f.word g).map opOf).getD 0),
    (60, 1, (f.twoWords g).toNat), (61, 1, f.trap.other.isSome.toNat), (64, 14, f.waddr),
    (80, 14, if f.trap.inCont then f.waddr + 1 else f.waddr), (96, 24, f.f - g.dbt), (128, 64, g.dbt), (192, 64, g.tobAddr), (352, 10, g.queue),
    (384, 32, g.step.job), (416, 10, g.marks.2.toNat), (426, 10, g.marks.1.toNat), (440, 8, min s.sched.trapLost 255),
    (448, 5, (f.trap.other.map (·.strm.code)).getD 0), (456, 6, (f.trap.other.map (·.rank)).getD 0),
    (464, 14, (f.trap.other.map (·.waddr)).getD 0), (480, 24, if f.trap.cause = 16 ∨ f.trap.cause = 17 then f.trap.due else 0),
    (512, 64, f.trap.lo), (576, 64, f.trap.hi), (640, 64, ((f.word g).getD 0).toNat),
    (704, 64, if f.twoWords g then ((g.words[1]?).getD 0).toNat else 0), (768, 32, s.sched.trapSeq)]

/-- The coordinates of a record (R285). -/
def FaultRec.coords (g : Gang) (f : FaultRec) : List (Nat × Nat × Nat) :=
  (List.range 6).map fun i => (256 + 16 * i, 16, ((tobIndex g.tob g.step.n (f.who.getD ⟨0, .c, 0, 0⟩).rank)[i]?).getD 0)

/-- The fields that a trap record is packed from, LOST and SEQ included. -/
def State.recordFields (s : State) (g : Gang) (f : FaultRec) (disp : Nat) : List (Nat × Nat × Nat) :=
  let who := f.who.getD ⟨0, .c, 0, 0⟩
  [(0, 8, f.trap.cause), (8, 2, disp), (12, 4, min g.step.attempt 15), (16, 8, g.more), (24, 5, if f.who.isSome then who.strm.code else 31),
    (32, 6, who.rank), (40, 5, f.core g), (45, 3, f.core g / 32), (48, 4, s.pdie (f.core g / 32)), (52, 8, ((f.word g).map opOf).getD 0),
    (60, 1, (f.twoWords g).toNat), (61, 1, f.trap.other.isSome.toNat), (64, 14, f.waddr),
    (80, 14, if f.trap.inCont then f.waddr + 1 else f.waddr), (96, 24, f.f - g.dbt), (128, 64, g.dbt), (192, 64, g.tobAddr), (352, 10, g.queue),
    (384, 32, g.step.job), (416, 10, g.marks.2.toNat), (426, 10, g.marks.1.toNat), (448, 5, (f.trap.other.map (·.strm.code)).getD 0),
    (456, 6, (f.trap.other.map (·.rank)).getD 0), (464, 14, (f.trap.other.map (·.waddr)).getD 0),
    (480, 24, if f.trap.cause = 16 ∨ f.trap.cause = 17 then f.trap.due else 0), (512, 64, f.trap.lo), (576, 64, f.trap.hi),
    (640, 64, ((f.word g).getD 0).toNat), (704, 64, if f.twoWords g then ((g.words[1]?).getD 0).toNat else 0)] ++
  f.coords g ++
  [(440, 8, min s.sched.trapLost 255), (768, 32, s.sched.trapSeq)]

theorem State.plainFields_sub (s : State) (g : Gang) (f : FaultRec) (disp : Nat) : ∀ e ∈ s.plainFields g f, e ∈ s.recordFields g f disp := by
  simp [State.plainFields, State.recordFields]

/-- Where the fields of a record lie (R285). -/
def recordRanges : List (Nat × Nat) :=
  [(0, 8), (8, 2), (12, 4), (16, 8), (24, 5), (32, 6), (40, 5), (45, 3), (48, 4), (52, 8), (60, 1), (61, 1), (64, 14), (80, 14), (96, 24),
    (128, 64), (192, 64), (352, 10), (384, 32), (416, 10), (426, 10), (448, 5), (456, 6), (464, 14), (480, 24), (512, 64), (576, 64),
    (640, 64), (704, 64), (256, 16), (272, 16), (288, 16), (304, 16), (320, 16), (336, 16), (440, 8), (768, 32)]

theorem recordRanges_apart : recordRanges.Pairwise bitsApart := by
  unfold bitsApart
  decide

theorem State.recordFields_apart (s : State) (g : Gang) (f : FaultRec) (disp : Nat) : fieldsApart (s.recordFields g f disp) :=
  recordRanges_apart

theorem ite_lt_eq_min (a b : Nat) : (if a < b then a else b) = min a b := by
  split <;> omega

theorem FaultRec.word_eq (g : Gang) (f : FaultRec) : (if f.who.isNone || f.trap.cause == 20 then none else g.words.head?) = f.word g := by
  unfold FaultRec.word
  cases f.who <;> by_cases hc : f.trap.cause = 20 <;> simp [hc]

theorem FaultRec.waddr_eq (f : FaultRec) : (if f.who.isNone || f.trap.cause == 20 then 0 else (f.who.map (·.waddr)).getD 0) = f.waddr := by
  unfold FaultRec.waddr
  cases f.who <;> by_cases hc : f.trap.cause = 20 <;> simp [hc]

theorem FaultRec.rank_eq (f : FaultRec) : (f.who.map (·.rank)).getD 0 = (f.who.getD ⟨0, .c, 0, 0⟩).rank := by
  cases f.who <;> rfl

theorem FaultRec.strm_eq (f : FaultRec) : (f.who.map (·.strm.code)).getD 31 = if f.who.isSome then (f.who.getD ⟨0, .c, 0, 0⟩).strm.code else 31 := by
  cases f.who <;> rfl

/-- The record that is written packs those fields. -/
theorem State.trapWrite_record (s : State) (g : Gang) (f : FaultRec) (disp : Nat) :
    (s.trapWrite (s.recordBits g f disp)).2 = BitVec.ofNat 1024 (packBits (s.recordFields g f disp)) := by
  simp only [State.trapWrite, State.recordBits, State.recordFields, FaultRec.coords, ite_lt_eq_min, packBits_append,
    FaultRec.word_eq, FaultRec.waddr_eq, FaultRec.rank_eq, FaultRec.strm_eq]
  have hmod (c : Nat) : c % 32 % 2 ^ 5 = c % 2 ^ 5 := Nat.mod_mod_of_dvd c ⟨1, rfl⟩
  unfold FaultRec.twoWords FaultRec.core
  cases f.word g <;> simp only [packBits, hmod, Option.any, Option.map]

theorem State.recordFields_below {s : State} {g : Gang} {f : FaultRec} {disp : Nat} {e : Nat × Nat × Nat} (h : e ∈ s.recordFields g f disp) :
    e.1 + e.2.1 ≤ 1024 := by
  have hr : ∀ p ∈ recordRanges, p.1 + p.2 ≤ 1024 := by decide
  exact hr (e.1, e.2.1) (List.mem_map_of_mem (f := fun e : Nat × Nat × Nat => (e.1, e.2.1)) h)

/-- Each field of the record reads back. -/
theorem State.fld_record {s : State} {g : Gang} {f : FaultRec} {disp : Nat} {e : Nat × Nat × Nat} (h : e ∈ s.recordFields g f disp) :
    fld (s.trapWrite (s.recordBits g f disp)).2.toNat e.1 e.2.1 = e.2.2 % 2 ^ e.2.1 := by
  rw [State.trapWrite_record, fld_ofNat (State.recordFields_below h), fld_packBits (s.recordFields_apart g f disp) h]

/-- A trap ring with room takes the record. -/
theorem State.trapWrite_ring {s : State} (h : (ringAt s.sched.trapMem 0 s.sched.trapSeq s.sched.trapRing.length 1).2 ≠ 0) (bits : Nat) :
    (s.trapWrite bits).1.sched.trapRing = s.sched.trapRing ++ [(s.trapWrite bits).2] := by
  have hb : ((ringAt s.sched.trapMem 0 s.sched.trapSeq s.sched.trapRing.length 1).2 == 0) = false := by simpa using h
  simp only [State.trapWrite, hb, Bool.false_eq_true, if_false]

/-- The record of a fault of the program's own, field by field (R285, R286). -/
theorem State.trapRecord_fields {s : State} {gid a : Nat} {g : Gang} {f : FaultRec} (hg : aget gid s.gangs = some g)
    (hp : g.phase = .closed a) (hf : g.fault = some f) (hm : mcCause f.trap.cause = false)
    (hr : (ringAt s.sched.trapMem 0 s.sched.trapSeq s.sched.trapRing.length 1).2 ≠ 0) :
    ∃ (d : Nat) (r : BitVec 1024), (s.trapRecord gid).sched.trapRing = s.sched.trapRing ++ [r] ∧
      (∀ e ∈ s.recordFields g f d, fld r.toNat e.1 e.2.1 = e.2.2 % 2 ^ e.2.1) ∧
      (s.jobLive g.step.job = true → g.tob.noRestart = false → f.trap.cause ≠ 32 → f.trap.cause ≠ 34 → f.trap.cause ≠ 49 →
        d = if g.step.errs = 0 then 2 else 3) := by
  obtain ⟨d, mc, on, hd, hdisp⟩ := State.dispose_plain hm gid
  refine ⟨d, (s.trapWrite (s.recordBits g f d)).2, ?_, fun e he => State.fld_record he, hdisp⟩
  rw [State.trapRecord_eq hg hp hf, hd, (State.disposed_gone ..).2.2, State.trapWrite_ring hr]

/-- What becomes of the step after a fault of its program's own (R46): READY again after a first one, its job over after a second. -/
theorem State.trapRecord_step {s : State} {gid a : Nat} {g : Gang} {f : FaultRec} (hg : aget gid s.gangs = some g)
    (hp : g.phase = .closed a) (hf : g.fault = some f) (hl : s.jobLive g.step.job = true) (hn : g.tob.noRestart = false)
    (hm : mcCause f.trap.cause = false) (h32 : f.trap.cause ≠ 32) (h34 : f.trap.cause ≠ 34) (h49 : f.trap.cause ≠ 49) :
    (g.step.errs = 0 → ((s.trapRecord gid).queue g.queue).front = { g.step with errs := 1 } :: (s.queue g.queue).front) ∧
      (1 ≤ g.step.errs → (s.trapRecord gid).jobLive g.step.job = false) := by
  obtain ⟨d, mc, on, hd, hdisp⟩ := State.dispose_plain hm gid
  have hd2 := hdisp hl hn h32 h34 h49
  rw [State.trapRecord_eq hg hp hf, hd]
  refine ⟨fun h0 => ?_, fun h1 => ?_⟩
  · rw [hd2, if_pos h0]
    have h := State.toFront_front ((s.trapWrite (s.recordBits g f 2)).1.dropGang gid) g.queue { g.step with errs := g.step.errs + 1 }
    rw [State.disposed_again]
    have hq : ((s.trapWrite (s.recordBits g f 2)).1.dropGang gid).queue g.queue = s.queue g.queue := rfl
    simpa only [h0, hq, Nat.zero_add] using h
  · rw [hd2, if_neg (by omega)]
    exact State.jobLive_endJob _ _ _ _

/-! The end of a job (R326, R327). -/

theorem State.freeVersions_frame (s : State) : s.freeVersions.mem = s.mem ∧ s.freeVersions.sched.jobs = s.sched.jobs := ⟨rfl, rfl⟩

theorem State.flagArea_ended {s : State} {n : Nat} {j : Job} {how : JobEnd} (hj : s.job n = some j) (he : j.ended = some how) :
    (s.flagArea n).job n = none ∧
      (s.flagArea n).mem = (if j.flaga = 0 then s else (s.virtPut j.root j.flaga (j.flagBytes.take j.flagn)).1).mem := by
  have hev (v : State) (k : Nat) (q : Option Nat) (tag job arg fl rec_ : Nat) : (v.event k q tag job arg fl rec_).mem = v.mem := by
    obtain ⟨h, e⟩ := v.event_eq k q tag job arg fl rec_
    rw [e]
  unfold State.flagArea
  simp only [hj, he]
  refine ⟨aget_adel_self n _, ?_⟩
  generalize hx : (if j.flaga = 0 then (s, true) else s.virtPut j.root j.flaga (j.flagBytes.take j.flagn)) = x
  have hx1 : (if j.flaga = 0 then s else (s.virtPut j.root j.flaga (j.flagBytes.take j.flagn)).1) = x.1 := by
    rw [← hx]
    split <;> rfl
  rw [hx1, (State.freeVersions_frame _).1]
  cases how with
  | normal =>
    dsimp only
    split
    · rfl
    · rw [hev]
  | fault => simp only [hev]
  | abort => simp only [hev]

theorem State.flagAreaWrite_idle {s : State} {n : Nat} (h : ∀ q ∈ s.gangs, q.2.step.job ≠ n) : s.flagAreaWrite n = s.flagArea n := by
  rw [State.flagAreaWrite, if_neg]
  simpa using h

/-- A job that firmware aborts has ended, with none of its steps READY or waiting (R326). -/
theorem State.jobAbort_live {s : State} {n : Nat} (h : s.jobLive n = true) : ∃ j, (s.jobAbort n).job n = some j ∧ j.ended = some .abort ∧
    (∀ q ∈ (s.jobAbort n).sched.queues, ∀ st ∈ q.2.front, st.job ≠ n) ∧ ∀ w ∈ (s.jobAbort n).sched.waiters, w.step.job ≠ n := by
  obtain ⟨_, _, ws, res, kept, regions, hs⟩ := State.endJob_live h .abort 0
  have hj : ∃ j, s.job n = some j := by
    unfold State.jobLive at h
    split at h
    next j hj => exact ⟨j, hj⟩
    next => simp at h
  obtain ⟨j, hj⟩ := hj
  refine ⟨j.endedAs .abort 0, ?_, rfl, ?_, ?_⟩
  · rw [State.jobAbort, State.job, hs, aget_amod_self, show aget n s.sched.jobs = some j from hj]
    rfl
  · rw [State.jobAbort, hs]
    intro q hq st hst
    obtain ⟨p, _, rfl⟩ := List.mem_map.mp hq
    simpa using (List.mem_filter.mp hst).2
  · rw [State.jobAbort, hs]
    intro w hw
    simpa using (List.mem_filter.mp hw).2

/-- Settles O52, from the record's fields, the disposal, the flag area and the end of a job. -/
theorem stepAftermath : Obligations.StepAftermath := by
  unfold Obligations.StepAftermath
  intro s gid job
  refine ⟨fun g a f hg hp hf => ?_, fun g a f hg hp hf hm hr => ?_, fun j how hj he hq => ?_, fun hl => ?_⟩
  · obtain ⟨u, d, bits, mc, on, hu, hd⟩ := s.dispose_eq gid g f
    obtain ⟨hgone, hseq, _⟩ := u.disposed_gone gid g d bits mc on
    refine ⟨s.trapRecord gid, rfl, ?_, ?_, fun hl hn hm h32 h34 h49 => State.trapRecord_step hg hp hf hl hn hm h32 h34 h49⟩
    · rw [State.trapRecord_eq hg hp hf, hd, hgone]
    · rw [State.trapRecord_eq hg hp hf, hd, hseq, hu]
  · obtain ⟨d, r, hring, hfld, hdisp⟩ := State.trapRecord_fields hg hp hf hm hr
    intro who core word two waddr
    refine ⟨_, r, rfl, hring, ?_, fun i hi => ?_, fun hl hn h32 h34 h49 => ?_⟩
    · exact fun e he => hfld e (s.plainFields_sub g f d e he)
    · exact hfld _ (List.mem_append_left _ (List.mem_append_right _ (List.mem_map_of_mem (List.mem_range.mpr hi))))
    · have h := hfld (8, 2, d) (List.mem_append_left _ (List.mem_append_left _ (List.mem_cons_of_mem _ List.mem_cons_self)))
      rw [hdisp hl hn h32 h34 h49] at h
      rw [h]
      split <;> rfl
  · obtain ⟨hjob, hmem⟩ := State.flagArea_ended hj he
    refine ⟨s.flagArea job, ?_, hjob, hmem⟩
    show Host.Outcome.next (s.flagAreaWrite job) = _
    rw [State.flagAreaWrite_idle hq]
  · obtain ⟨j, hj⟩ := State.jobAbort_live hl
    exact ⟨_, j, rfl, hj⟩

end Sys2Proof.Machine

namespace Sys2Proof.Machine

/-! Staging (R23, R335): one equation of the staging check for each way it can go. -/

theorem State.stagingCheck_unread (s u : State) (gid since : Nat) (g : Gang) (tr : Trap) (hg : aget gid s.gangs = some g)
    (hp : g.phase = .placed since) (ht : since ≤ s.tlc) (hi : s.imageOf g = (u, .error tr)) : s.stagingCheck gid = u.dispatchFault gid g tr := by
  simp only [State.stagingCheck, hg, hp, hi, if_neg (Nat.not_lt.2 ht)]

theorem State.stagingCheck_staged (s u : State) (gid since : Nat) (g : Gang) (bs : List Byte) (ms : List (Nat × Nat × List Nat))
    (hg : aget gid s.gangs = some g) (hp : g.phase = .placed since) (ht : since ≤ s.tlc) (hi : s.imageOf g = (u, .ok bs))
    (hc : (if g.cells.all (u.staged g.tob) then g.tob.pcrc else crc32 bs) = g.tob.pcrc) (he : entriesOk (imageWords bs) g.tob.plen = true)
    (hm : memWords (u.declare (imageWords bs) g.tob).sched.rings (imageWords bs) g.tob = .ok ms)
    (hk : (u.declare (imageWords bs) g.tob).checkpointTrap g.step.op g.tob g.step.n g.cells.length = none) :
    let d := u.declare (imageWords bs) g.tob
    s.stagingCheck gid = (ms.foldl (fun (s : State) m => s.stageMem gid g m)
      ((g.cells.filter fun c => !d.staged g.tob c).foldl (fun (s : State) c => s.swapPlane g.tob bs c) d)).modGang gid fun h =>
        { h with phase := .staged (d.tlc + d.stageTime g) } := by
  simp only [State.stagingCheck, hg, hp, hi, if_neg (Nat.not_lt.2 ht), hc, he, hm, hk]
  simp

/-! What the downbeat's work on memory leaves of the gangs and of the time (R24, R30). -/

/-- A step of the downbeat changes neither a gang nor the time. -/
def State.sameGangs (s t : State) : Prop := t.gangs = s.gangs ∧ t.tlc = s.tlc

theorem State.sameGangs_trans {s t u : State} (a : s.sameGangs t) (b : t.sameGangs u) : s.sameGangs u := ⟨b.1.trans a.1, b.2.trans a.2⟩

theorem State.accNote_sameGangs (s : State) (g : Gang) (rank : Nat) : s.sameGangs (s.accNote g rank) := by
  have note (r : Read) : s.sameGangs (s.correctedAll (some g) 5 r) := ⟨(s.correctedAll_frame _ _ _).1, (s.correctedAll_frame _ _ _).2.1⟩
  unfold State.accNote
  split
  · exact ⟨rfl, rfl⟩
  · split
    · exact note _
    · exact ⟨rfl, rfl⟩

theorem State.restore_sameGangs (s : State) (core : Nat) (as : List (Nat × Nat)) (bs : List (List Byte × List Nat)) :
    s.sameGangs (s.restore core as bs) := by
  induction as generalizing s bs with
  | nil => exact ⟨rfl, rfl⟩
  | cons a t ih =>
    cases bs with
    | nil => exact ⟨rfl, rfl⟩
    | cons b r => exact sameGangs_trans ⟨State.store_gangs _ _ _ _, State.store_tlc _ _ _ _⟩ (ih _ _)

theorem State.parityReset_sameGangs (s : State) (core : Nat) : s.sameGangs (s.parityReset core) := by
  unfold State.parityReset
  split <;> exact ⟨rfl, rfl⟩

theorem State.setInfo_sameGangs (s : State) (core : Nat) (i : CoreInfo) : s.sameGangs (s.setInfo core i) := ⟨rfl, rfl⟩

theorem State.prepare_sameGangs (s : State) (g : Gang) (rank core : Nat) : s.sameGangs (s.prepare g rank core).1 := by
  unfold State.prepare
  refine sameGangs_trans (sameGangs_trans ?_ (State.parityReset_sameGangs _ core)) (State.setInfo_sameGangs _ core _)
  split
  · exact ⟨rfl, rfl⟩
  · exact ⟨(State.restore_sameGangs _ core _ _).1, (State.restore_sameGangs _ core _ _).2⟩

theorem foldl_sameGangs {α : Type} (f : State → α → State) (hf : ∀ (s : State) (a : α), s.sameGangs (f s a)) (l : List α) (s : State) :
    s.sameGangs (l.foldl f s) := by
  induction l generalizing s with
  | nil => exact ⟨rfl, rfl⟩
  | cons a t ih => exact State.sameGangs_trans (hf s a) (ih _)

/-! The downbeat (R24, R27). -/

/-- A fold that hands a state on and collects one value for each element. -/
theorem foldl_collect {α β σ : Type} (f : σ → α → σ) (v : σ → α → β) (l : List α) (q : σ × List β) :
    (l.foldl (fun q a => (f q.1 a, q.2 ++ [v q.1 a])) q).1 = l.foldl f q.1 ∧
    (l.foldl (fun q a => (f q.1 a, q.2 ++ [v q.1 a])) q).2.length = q.2.length + l.length ∧
    (∀ (k : Nat) (b : β), q.2[k]? = some b → (l.foldl (fun q a => (f q.1 a, q.2 ++ [v q.1 a])) q).2[k]? = some b) ∧
    ∀ (k : Nat) (a : α), l[k]? = some a → ∃ u, (l.foldl (fun q a => (f q.1 a, q.2 ++ [v q.1 a])) q).2[q.2.length + k]? = some (v u a) := by
  induction l generalizing q with
  | nil => simp
  | cons x xs ih =>
    obtain ⟨hs, hl, hold, hnew⟩ := ih (f q.1 x, q.2 ++ [v q.1 x])
    simp only [List.foldl_cons]
    refine ⟨hs, ?_, fun k b hk => hold k b ?_, fun k a hk => ?_⟩
    · simp only [hl, List.length_append, List.length_cons, List.length_nil]
      omega
    · rw [List.getElem?_append_left (List.getElem?_eq_some_iff.1 hk).1, hk]
    · cases k with
      | zero =>
        obtain rfl : x = a := by simpa using hk
        exact ⟨q.1, hold _ _ (by simp)⟩
      | succ k =>
        obtain ⟨u, hu⟩ := hnew k a (by simpa using hk)
        exact ⟨u, by simpa [Nat.add_assoc, Nat.add_comm 1 k] using hu⟩

/-- The ranks of a gang with their cores. -/
def Gang.ranks (g : Gang) : List (Nat × Nat) := (List.range g.cells.length).zip g.cells

theorem Gang.ranks_length (g : Gang) : g.ranks.length = g.cells.length := by simp [Gang.ranks]

theorem Gang.ranks_at (g : Gang) (r cell : Nat) (h : g.cells[r]? = some cell) : g.ranks[r]? = some (r, cell) := by
  have hr : r < g.cells.length := (List.getElem?_eq_some_iff.1 h).1
  rw [Gang.ranks, List.getElem?_zip_eq_some]
  exact ⟨by simp [hr], h⟩

/-- Without ACCRES a rank starts with an accumulator of zeros. -/
theorem State.startAcc_zero (s : State) (g : Gang) (rank : Nat) (h : g.tob.acc = false) : s.startAcc g rank = Vector.replicate 128 0 := by
  simp [State.startAcc, h]

/-- A core at the downbeat, from the state its regions are prepared in. -/
def State.startCore (g : Gang) (accs : List (Vector Lane 128)) (ss : List Stream) (u : State) (p : Nat × Nat) : Core :=
  Core.start p.2 p.1 (tobIndex g.tob g.step.n p.1) (g.tob.resBits (u.prepare g p.1 p.2).2) g.tob.args ((accs[p.1]?).getD (Vector.replicate 128 0))
    g.tob.chkm g.tob.wbud ss

/-- The streams of a gang's memory at the downbeat. -/
def Gang.startMems (g : Gang) (rings : List RingDecl) (t : Nat) : List MStream :=
  g.mems.map fun m => if m.len = 0 then m else { m with
    strm := Stream.start m.strm.id m.entry t, counts := [0, 0, 0, 0], base := (ringOf rings g.tob m.n).1, lines := (ringOf rings g.tob m.n).2 }

theorem Gang.startMems_at (g : Gang) (rings : List RingDecl) (t i : Nat) (m : MStream) (h : g.mems[i]? = some m) (hl : m.len ≠ 0) :
    (g.startMems rings t)[i]? = some { m with
      strm := Stream.start m.strm.id m.entry t, counts := [0, 0, 0, 0], base := (ringOf rings g.tob m.n).1, lines := (ringOf rings g.tob m.n).2 } := by
  simp [Gang.startMems, h, hl]

/-- The program's words that the downbeat reads, from the first core's active plane. -/
def State.entryWords (s : State) (cell : Nat) : List Nat := imageWords (s.fetch (imKey cell (s.info cell).active 0) 48).bytes

/-- Whether a step holds a node of the Belfry from its downbeat, and the state in which it does. -/
def State.holds (s : State) (g : Gang) : Bool := g.tob.bopt == 1 && (aget g.tob.bnode s.belfry.nodes).any fun v => v.domain == g.root
def State.hold (s u : State) (g : Gang) : State :=
  if s.holds g then { u with belfry := { u.belfry with nodes := amod g.tob.bnode (fun v => { v with ref := v.ref + 1 }) u.belfry.nodes } } else u

theorem State.hold_sameGangs (s u : State) (g : Gang) : u.sameGangs (s.hold u g) := by
  unfold State.hold
  split <;> exact ⟨rfl, rfl⟩

/-- The state in which the accumulators are reloaded, and what the ranks make of it, with their cores. -/
def State.noted (s : State) (g : Gang) : State := g.ranks.foldl (fun (s : State) p => s.accNote g p.1) s
def State.prepared (a : State) (g : Gang) (ss : List Stream) : State × List Core :=
  g.ranks.foldl (fun (q : State × List Core) p =>
    ((q.1.prepare g p.1 p.2).1, q.2 ++ [State.startCore g (g.ranks.map fun p => a.startAcc g p.1) ss q.1 p])) (a, [])

theorem State.downbeat_eq (s : State) (gid : Nat) (g : Gang) (hg : aget gid s.gangs = some g) (hn : s.downbeatNow g = true) :
    let a := s.noted g
    let r := a.prepared g (startStreams (s.entryWords (g.cells.headD 0)) a.tlc)
    s.downbeat gid = (a.hold r.1 g).modGang gid fun h => { h with
      phase := .running, dbt := a.tlc, segStart := a.tlc, cores := r.2, refs := if a.holds g then [h.tob.bnode] else []
      mems := h.startMems a.sched.rings a.tlc } := by
  rw [State.downbeat, hg]
  exact if_neg (c := (!s.downbeatNow g) = true) (by rw [hn]; decide)

theorem State.noted_sameGangs (s : State) (g : Gang) : s.sameGangs (s.noted g) :=
  foldl_sameGangs _ (fun _ _ => State.accNote_sameGangs _ _ _) _ _

theorem State.prepared_sameGangs (a : State) (g : Gang) (ss : List Stream) : a.sameGangs (a.prepared g ss).1 := by
  rw [State.prepared, (foldl_collect (fun (u : State) p => (u.prepare g p.1 p.2).1) _ g.ranks (a, [])).1]
  exact foldl_sameGangs _ (fun _ _ => State.prepare_sameGangs _ _ _ _) _ _

theorem State.prepared_length (a : State) (g : Gang) (ss : List Stream) : (a.prepared g ss).2.length = g.cells.length := by
  rw [State.prepared, (foldl_collect (fun (u : State) p => (u.prepare g p.1 p.2).1) _ g.ranks (a, [])).2.1, Gang.ranks_length]
  exact Nat.zero_add _

/-- Every rank starts on its core; only the contents of CARVE.RES depend on the state its regions were prepared in. -/
theorem State.prepared_at (a : State) (g : Gang) (ss : List Stream) (r cell : Nat) (h : g.cells[r]? = some cell) :
    ∃ res, (a.prepared g ss).2[r]? = some (Core.start cell r (tobIndex g.tob g.step.n r) res g.tob.args (a.startAcc g r) g.tob.chkm g.tob.wbud ss) := by
  obtain ⟨u, hu⟩ := (foldl_collect (fun (u : State) p => (u.prepare g p.1 p.2).1)
    (State.startCore g (g.ranks.map fun p => a.startAcc g p.1) ss) g.ranks (a, [])).2.2.2 r _ (g.ranks_at r cell h)
  simp only [List.length_nil, Nat.zero_add] at hu
  refine ⟨g.tob.resBits (u.prepare g r cell).2, hu.trans ?_⟩
  simp only [State.startCore, List.getElem?_map, g.ranks_at r cell h]
  rfl

/-- The gang at its downbeat. -/
theorem State.downbeat_gang (s : State) (gid : Nat) (g : Gang) (hg : aget gid s.gangs = some g) (hn : s.downbeatNow g = true) :
    (s.downbeat gid).tlc = s.tlc ∧ ∃ refs, aget gid (s.downbeat gid).gangs = some { g with
      phase := .running, dbt := s.tlc, segStart := s.tlc, refs := refs
      cores := ((s.noted g).prepared g (startStreams (s.entryWords (g.cells.headD 0)) s.tlc)).2
      mems := g.startMems (s.noted g).sched.rings s.tlc } := by
  obtain ⟨hag, hat⟩ := s.noted_sameGangs g
  have same := State.sameGangs_trans ((s.noted g).prepared_sameGangs g (startStreams (s.entryWords (g.cells.headD 0)) s.tlc))
    ((s.noted g).hold_sameGangs _ g)
  have he := s.downbeat_eq gid g hg hn
  simp only [hat] at he
  have hu := congrArg (aget gid) (same.1.trans hag)
  rw [hg] at hu
  rw [he]
  exact ⟨same.2.trans hat, _, (modGang_self _ _ _).trans (congrArg (Option.map _) hu)⟩

theorem State.downbeatNow_of (s : State) (g : Gang) (ready : Nat) (hp : g.phase = .staged ready) (hr : ready ≤ s.tlc) (ht : s.tlc % 128 = 0)
    (h1 : s.root.thermalHold = false) (h2 : s.root.powerHold = false) (hm : ∀ m ∈ g.mems, (s.pch m.pch).settled s.tlc = true) :
    s.downbeatNow g = true := by
  simpa [State.downbeatNow, hp, hr, ht, h1, h2] using hm

/-! A stream's first word (R24, R122). -/

theorem State.dueAt_start (s : State) (q : Gang) (r : Nat) (id : StreamId) (pc t : Nat) (w : Read) (h : s.wordAt q r id pc = some w) :
    s.dueAt q r (Stream.start id pc t) = t + idleOf w.word := by
  have : (if idleOf w.word < 0 then 0 else idleOf w.word) = idleOf w.word := if_neg (Nat.not_lt_zero _)
  simp only [State.dueAt, Stream.start, h, this]

theorem State.fetchInstr_beyond (s : State) (q : Gang) (r : Nat) (st : Stream) (h : s.wordAt q r st.id st.pc = none) :
    s.fetchInstr q r st = ([], .error { cause := 0 }) := by
  simp only [State.fetchInstr, h]

theorem State.wordAt_core_beyond (s : State) (q : Gang) (r : Nat) (c : Core) (id : StreamId) (pc : Nat) (hc : q.coreAt r = some c)
    (hid : id.isMem = false) (hl : (s.info c.gcore).len ≤ pc) : s.wordAt q r id pc = none := by
  cases id with
  | d n => cases hid
  | c | m | v | l | s => simp only [State.wordAt, hc, if_neg (Nat.not_lt.2 hl)]

theorem State.wordAt_mem_beyond (s : State) (q : Gang) (r : Nat) (n : Fin 16) (m : MStream) (pc : Nat) (hm : q.memAt n.val = some m)
    (hl : m.entry + m.len ≤ pc) : s.wordAt q r (.d n) pc = none := by
  have hn : ¬ pc < m.entry + m.len := Nat.not_lt.2 hl
  simp [State.wordAt, hm, hn]

/-- Settles O50: the staging check by its equations, and the downbeat by the gang it leaves, whose cores come one by one of the fold over
the ranks while the work on memory changes no gang. -/
theorem stepBegins : Obligations.StepBegins := by
  intro s gid g hg
  refine ⟨fun since u tr hp ht hi => congrArg Host.Outcome.next (s.stagingCheck_unread u gid since g tr hg hp ht hi),
    fun since u bs ms hp ht hi hc he hm hk => congrArg Host.Outcome.next (s.stagingCheck_staged u gid since g bs ms hg hp ht hi hc he hm hk), ?_⟩
  intro ready hp hr ht h1 h2 hm first ws start
  obtain ⟨htlc, refs, hgang⟩ := s.downbeat_gang gid g hg (s.downbeatNow_of g ready hp hr ht h1 h2 hm)
  refine ⟨⟨_, _, rfl, hgang, rfl, rfl, rfl, htlc, State.prepared_length _ _ _, by simp [Gang.startMems], fun r cell hcell => ?_,
      fun i m hi hl => ⟨_, g.startMems_at _ _ i m hi hl, rfl, rfl, rfl, rfl, rfl⟩⟩,
    fun q r id pc w hw => s.dueAt_start q r id pc s.tlc w hw,
    fun q r c st hc hid hl => s.fetchInstr_beyond q r st (s.wordAt_core_beyond q r c st.id st.pc hc hid hl),
    fun q r n m st hid hm hl => s.fetchInstr_beyond q r st (hid ▸ s.wordAt_mem_beyond q r n m st.pc hm hl)⟩
  obtain ⟨res, hres⟩ := (s.noted g).prepared_at g (startStreams (s.entryWords (g.cells.headD 0)) s.tlc) r cell hcell
  exact ⟨_, hres, fun ha => State.startAcc_zero _ g r ha, rfl, rfl, rfl, rfl, rfl, rfl, rfl, rfl, rfl, rfl, rfl, rfl, rfl, rfl, rfl, rfl, rfl, rfl,
    rfl, rfl, rfl, rfl, rfl, rfl, rfl, rfl⟩

end Sys2Proof.Machine

namespace Sys2Proof.Machine

/-! The release of a segment (R96). -/

/-- A stream that waits at a segment's boundary runs on from its release; any other stays as it is. -/
theorem Stream.release_eq (t : Nat) (st : Stream) :
    st.release t = if st.st = .hold ∨ st.st = .cued then { st with st := .run, base := t, floor := 0, opened := [] } else st := by
  unfold Stream.release
  cases h : st.st <;> simp

/-- The counts that a core has after a release: those of its CUE, or the old ones. -/
def Gang.cueCounts (g : Gang) (r : Nat) (old : List Nat) : List Nat := ((g.cues.find? fun q => q.rank == r).map (·.counts)).getD old

/-- The gang at a release. -/
def Gang.released (g : Gang) (t : Nat) : Gang := { g with
  segStart := t, cues := [], nest := []
  cores := g.cores.map fun c => { c with counts := g.cueCounts c.rank c.counts, streams := c.streams.map (Stream.release t) }
  mems := g.mems.map fun m => { m with counts := g.cueCounts 0 m.counts, strm := m.strm.release t } }

/-- The release as the model writes it, over what it makes of the counts. -/
theorem State.segmentRelease_eq (s : State) (gid : Nat) (g : Gang) (hg : aget gid s.gangs = some g) (hl : g.live = true) (hc : g.allCued = true)
    (hr : g.releaseAt = s.tlc) (hf : g.releaseFaults s.tlc = []) : s.segmentRelease gid = { s with gangs := aset gid (g.released s.tlc) s.gangs } := by
  have counts : (fun (r : Nat) (old : List Nat) => match g.cues.find? fun q => q.rank == r with | some q => q.counts | none => old) = g.cueCounts := by
    funext r old
    unfold Gang.cueCounts
    cases g.cues.find? fun q => q.rank == r <;> rfl
  unfold State.segmentRelease Gang.released
  rw [hg, ← counts]
  dsimp only
  rw [if_neg (by simp [hl, hc, hr]), hf]
  rfl

/-- A stream other than `c` that runs or has ended at a release is among its faults (R96, R155). -/
theorem Gang.releaseFaults_missed (g : Gang) (t r : Nat) (c : Core) (st : Stream) (hc : g.coreAt r = some c) (hs : st ∈ c.streams) (hid : st.id ≠ .c)
    (h : st.st = .run ∨ st.st = .ended) : ∃ f ∈ g.releaseFaults t, f.1.rank = r ∧ f.1.strm = st.id ∧ f.2.cause = 16 ∧ f.2.lo = 2 := by
  have hm : st.missed = true := by
    obtain e | e := h <;> simp [Stream.missed, hid, e]
  have hz : (r, c) ∈ (List.range g.cores.length).zip g.cores := by
    have hlt : r < g.cores.length := (List.getElem?_eq_some_iff.1 hc).1
    exact List.mem_of_getElem? (i := r) (List.getElem?_zip_eq_some.2 ⟨by simp [hlt], hc⟩)
  refine ⟨(⟨r, st.id, st.pc, t⟩, { cause := 16, lo := 2, due := t - g.dbt, other := (g.cues.find? fun q => q.rank == r).map (·.who) }), ?_, rfl, rfl, rfl, rfl⟩
  refine List.mem_append_left _ (List.mem_append_left _ ?_)
  rw [← List.flatMap_eq_foldl]
  refine List.mem_flatMap.2 ⟨_, hz, List.mem_flatten.2 ⟨_, List.mem_map.2 ⟨st, hs, rfl⟩, ?_⟩⟩
  simp [hm]

/-! Budgets (R37, R151). -/

/-- What a core's wait takes of its budget. -/
def Core.spend (c : Core) : Core :=
  match c.strm .c with
  | some st => (match st.st with | .wait _ _ => { c with budget := c.budget - 1 } | _ => c)
  | none => c

theorem Core.spend_budget_wait (c : Core) (st : Stream) (w : WaitCond) (who : Who) (h : c.strm .c = some st) (hw : st.st = .wait w who) :
    c.spend.budget = c.budget - 1 := by
  simp only [Core.spend, h, hw]

theorem Core.spend_budget_other (c : Core) (st : Stream) (h : c.strm .c = some st) (hw : ∀ w who, st.st ≠ .wait w who) : c.spend.budget = c.budget := by
  simp only [Core.spend, h]

/-- What the end of a cycle changes of a core after its budget: streams and claims. -/
theorem Gang.endCycle_cores (t : Nat) (g : Gang) : (g.endCycle t).cores = (if g.live then g.spendBudget else g).cores.map fun c =>
    { c with claims := c.claims.filter fun k => decide (t ≤ k.land + 20), streams := c.streams.map Stream.endCycle } := by
  unfold Gang.endCycle
  dsimp only
  generalize (if g.live = true then g.spendBudget else g) = h
  split
  · split
    · split <;> rfl
    · rfl
  · rfl

/-- Each core of a live gang ends its cycle with what its wait took of its budget. -/
theorem Gang.endCycle_budget (g : Gang) (t r : Nat) (c : Core) (hl : g.live = true) (hc : g.coreAt r = some c) :
    ∃ d, (g.endCycle t).coreAt r = some d ∧ d.budget = c.spend.budget := by
  have hs : g.spendBudget.cores[r]? = some c.spend := by
    show (g.cores.map Core.spend)[r]? = _
    rw [List.getElem?_map, show g.cores[r]? = some c from hc]
    rfl
  refine ⟨{ c.spend with claims := c.spend.claims.filter fun k => decide (t ≤ k.land + 20), streams := c.spend.streams.map Stream.endCycle }, ?_, rfl⟩
  rw [Gang.coreAt, Gang.endCycle_cores, if_pos hl, List.getElem?_map, hs]
  rfl

/-! Iterations and dynamic waits (R97, R151, R152, R244). -/

theorem State.iteration_inner (s : State) (gid rank : Nat) (id : StreamId) (g : Gang) (st : Stream) (l : LoopLv) (r : List LoopLv)
    (hg : aget gid s.gangs = some g) (hl : g.live = true) (hs : g.strm rank id = some st) (hr : st.st = .run) (he : st.loops = l :: r)
    (hb : boundaryLevel s.tlc st.loops = some l) (hd : l.endl.isSome = true) :
    s.iteration gid rank id = s.modGang gid fun g => g.modStrm rank id Stream.iterate := by
  have hn : st.boundaryNow s.tlc = true := by simp [Stream.boundaryNow, hr, hb]
  simp only [State.iteration, hg, hs, Option.bind_some, Option.map_some, hl, hn]
  rw [he] at hb ⊢
  simp [hb, hd]

theorem State.waitEnd_tags (s : State) (gid rank : Nat) (g : Gang) (c : Core) (m : BitVec 16) (who : Who) (hg : aget gid s.gangs = some g)
    (hl : g.live = true) (hw : g.waitOf rank = some (c, .tags m, who)) (hp : c.pend &&& m = 0) :
    s.waitEnd gid rank = (s.modGang gid fun g => g.modStrm rank .c fun st =>
      { st with st := .run, base := s.tlc + 1, floor := 0 }).addAgenda gid [⟨s.tlc + 1, who, .clrDone m⟩] := by
  have hh : s.waitHolds g c (.tags m) who = true := by simpa [State.waitHolds] using hp
  simp only [State.waitEnd, hg, hw, Option.bind_some, Option.map_some, hl, hh]
  rfl

theorem State.waitEnd_gong (s : State) (gid rank : Nat) (g : Gang) (c : Core) (h : BitVec 64) (lat : Nat) (who : Who) (hg : aget gid s.gangs = some g)
    (hl : g.live = true) (hw : g.waitOf rank = some (c, .gong h lat, who)) (he : s.gongWaitEnds (s.handleKey g c h) h lat who.issue = true) :
    s.waitEnd gid rank = s.modGang gid fun g => g.modStrm rank .c fun st => { st with st := .run, base := s.tlc + 1, floor := 0 } := by
  simp only [State.waitEnd, hg, hw, Option.bind_some, Option.map_some, hl, show s.waitHolds g c (.gong h lat) who = true from he]
  rfl

theorem State.budgetOut_tags (s : State) (gid rank : Nat) (g : Gang) (c : Core) (m : BitVec 16) (who : Who) (hg : aget gid s.gangs = some g)
    (hl : g.live = true) (hw : g.waitOf rank = some (c, .tags m, who)) (hp : c.pend &&& m ≠ 0) (hb : c.budget = 0) :
    s.budgetOut gid rank = (s.raise gid s.tlc (some who) { cause := 49, lo := m.toNat, hi := 0 }).modGang gid fun g =>
      { g.modStrm rank .c (fun st => { st with st := .stopped }) with
        wait := if g.fault.any fun f => f.who == some who && f.trap.cause == 49 then some .now else g.wait } := by
  have hh : s.waitHolds g c (.tags m) who = false := by simpa [State.waitHolds] using hp
  simp only [State.budgetOut, hg, hw, Option.bind_some, Option.map_some, hl, hh, hb]
  rfl

/-! Untimed beats and completions (R213, R215, R374). -/

theorem State.beatLanding_eq (s : State) (id mv gid : Nat) (g : Gang) (r : Req) (ms : List Move) (m : Move)
    (hq : (s.startReq id).reqAt id = some (gid, g, r)) (hg : g.moves = true) (hr : r.moves = some ms) (hm : ms[r.pick ms mv]? = some m)
    (hw : (s.startReq id).moveWaits (s.startReq id).used id m = false) :
    let u := s.startReq id
    let t := (u.modReq id fun q => { q with moves := some (ms.eraseIdx (r.pick ms mv)), lastBeat := u.tlc }).landMove u gid r m
    s.beatLanding id mv = { t with used := bankMark m.dst ++ t.used } := by
  simp only [State.beatLanding, State.landBeat, hq, hg, hr, hm, hw]
  simp

/-- A request that may complete without a fault leaves its gang. -/
theorem State.completeReq_eq (s : State) (id gid : Nat) (g : Gang) (r : Req) (hq : (s.startReq id).reqAt id = some (gid, g, r)) (hl : g.live = true)
    (hm : r.mayComplete (s.startReq id).tlc = true) (hn : r.late = none) :
    s.completeReq id false = (((s.startReq id).poolDrop id).modGang gid fun g => g.dropReq r).reqCounts gid g r := by
  simp only [State.completeReq, if_false, hq, hl, hm, hn, Bool.false_eq_true]
  simp

theorem State.engineEnd_plain (s : State) (r : Req) (ok : Bool) (h : ∀ op a, r.kind ≠ .engine op a) : s.engineEnd r ok = s := by
  unfold State.engineEnd
  split
  · next op a e => exact absurd e (h op a)
  · rfl

theorem State.finishReq_plain (s : State) (id gid : Nat) (g : Gang) (r : Req) (hq : (s.startReq id).reqAt id = some (gid, g, r))
    (h : ∀ op a, r.kind ≠ .engine op a) : s.finishReq id false = s.completeReq id false := by
  simp only [State.finishReq, hq, if_false, Bool.false_eq_true]
  split
  · next a b =>
    obtain ⟨-, -, rfl⟩ : gid = _ ∧ g = _ ∧ r = _ := by simpa using a
    exact State.engineEnd_plain _ _ _ h
  · rfl

/-- A request that may complete without a fault has its moves, and is not worked on. -/
theorem State.startReq_of_mayComplete (s : State) (id gid : Nat) (g : Gang) (r : Req) (hq : s.reqAt id = some (gid, g, r)) (hn : r.late = none)
    (hm : r.mayComplete s.tlc = true) : s.startReq id = s := by
  have hu : r.unstarted = false := by
    have : r.moves = some [] := by
      simp only [Req.mayComplete, hn, Option.isSome_none, Bool.false_or, Bool.and_eq_true, beq_iff_eq] at hm
      exact hm.1
    simp [Req.unstarted, this]
  simp only [State.startReq, hq, hu]

/-! The end of a deposit (R374): what completion leaves of the Belfry, and who waits. -/

theorem State.raise_belfry (s : State) (gid t : Nat) (w : Option Who) (tr : Trap) : (s.raise gid t w tr).belfry = s.belfry := by
  obtain ⟨err, tr', h⟩ := s.raise_eq gid t w tr
  rw [h]
  rfl

theorem State.reqCounts_belfry (s : State) (gid : Nat) (g : Gang) (r : Req) : (s.reqCounts gid g r).belfry = s.belfry := by
  have one (u : State) (reg : Nat) (inb : Bool) (h : BitVec 64) (key : Nat) : (if u.tlc < reg then u.addAgenda gid [⟨reg, r.who, .count inb h key⟩]
      else match u.opFlit gid r.who key with
        | some tr => u.raise gid u.tlc (some r.who) tr
        | none => { u with gongQ := u.gongQ ++ (g.countUpd gid r.who inb h key).toList }).belfry = u.belfry := by
    split
    · rfl
    · split
      · exact State.raise_belfry _ _ _ _ _
      · rfl
  unfold State.reqCounts
  split
  · split
    · rfl
    · dsimp only
      split
      · split
        · exact (one _ _ _ _ _).trans (one _ _ _ _ _)
        · exact one _ _ _ _ _
      · split
        · exact one _ _ _ _ _
        · rfl
  · rfl

theorem State.reqAt_none_iff (s : State) (id : Nat) : s.reqAt id = none ↔ ∀ p ∈ s.gangs, ∀ r ∈ p.2.reqs, r.id ≠ id := by
  simp [State.reqAt, List.findSome?_eq_none_iff, List.find?_eq_none]

theorem State.reqAt_id (s : State) (id gid : Nat) (g : Gang) (r : Req) (h : s.reqAt id = some (gid, g, r)) : r.id = id := by
  obtain ⟨p, -, hp⟩ := List.exists_of_findSome?_eq_some h
  obtain ⟨q, hq, e⟩ := Option.map_eq_some_iff.1 hp
  obtain ⟨-, -, rfl⟩ : p.1 = gid ∧ p.2 = g ∧ q = r := by simpa using e
  simpa using List.find?_some hq

/-- A change of a request that keeps its id brings none about. -/
theorem State.reqAt_modReq_none (s : State) (i id : Nat) (f : Req → Req) (hf : ∀ r, (f r).id = r.id) (h : s.reqAt id = none) :
    (s.modReq i f).reqAt id = none := by
  rw [State.reqAt_none_iff] at h ⊢
  simp only [State.modReq, List.mem_map, forall_exists_index, and_imp, forall_apply_eq_imp_iff₂]
  intro p hp r hr
  split
  · rw [hf]
    exact h p hp r hr
  · exact h p hp r hr

theorem State.settled_reqAt_none (s : State) (n id : Nat) (h : s.reqAt id = none) : (s.settled n).reqAt id = none := by
  unfold State.settled
  generalize s.belfry.waiting = l
  induction l generalizing s with
  | nil => exact h
  | cons w t ih => exact ih _ (s.reqAt_modReq_none w.id id _ (fun r => by split <;> rfl) h)

theorem State.settled_belfry (s : State) (n : Nat) : (s.settled n).belfry = s.belfry := by
  unfold State.settled
  generalize s.belfry.waiting = l
  induction l generalizing s with
  | nil => rfl
  | cons w t ih => exact ih _

/-- A deposit that ends well makes its node valid. -/
theorem State.depositFinish_valid (s : State) (id n : Nat) (v : Node) (hw : s.depWait id = none) (hn : s.node n = some v) (hv : v.state = 1)
    (hr : s.reqAt id = none) :
    (s.depositFinish id (some n) true).node n = some { v with state := 2 } ∧ (s.depositFinish id (some n) true).reqAt id = none := by
  have he : s.depositFinish id (some n) true = (s.modNode n fun v => { v with state := 2 }).settled n := by
    simp [State.depositFinish, hw, hn, hv]
  rw [he]
  refine ⟨?_, State.settled_reqAt_none _ n id hr⟩
  rw [State.node, State.settled_belfry]
  exact (aget_amod_self _ _ _).trans (congrArg (Option.map _) hn)

theorem State.depositDone_valid (s : State) (id gid addr n : Nat) (g : Gang) (r : Req) (v : Node) (hq : s.reqAt id = some (gid, g, r))
    (hk : r.kind = .engine 0xC5 addr) (hn : r.node = some n) (hw : s.depWait id = none) (hl : r.late = none) (hg : g.live = true)
    (hm : r.mayComplete s.tlc = true) (hv : s.node n = some v) (h1 : v.state = 1) (hc : (s.completeReq id false).reqAt id = none) :
    (s.depositDone id).node n = some { v with state := 2 } ∧ (s.depositDone id).reqAt id = none := by
  have hs := s.startReq_of_mayComplete id gid g r hq hl hm
  have hb : (s.completeReq id false).belfry = s.belfry := by
    rw [s.completeReq_eq id gid g r (by rw [hs, hq]) hg (by rw [hs]; exact hm) hl, State.reqCounts_belfry, hs]
    rfl
  have he : s.depositDone id = (s.completeReq id false).depositFinish id (some n) true := by
    have hf : s.finishReq id false = (s.completeReq id false).engineEnd r true := by
      simp only [State.finishReq, Bool.false_eq_true, if_false, hs, hq, hc, hl]
      rfl
    simp [State.depositDone, hq, hn, hw, hl, hg, hm, hf, State.engineEnd, hk, s.reqAt_id id gid g r hq]
  rw [he]
  exact State.depositFinish_valid _ id n v (by rw [State.depWait, hb]; exact hw) (by rw [State.node, hb]; exact hv) h1 hc

/-- Settles O53: the release, the boundaries, the waits, the beats and the completions, each by the equation of its event. -/
theorem stepEvents : Obligations.StepEvents := by
  intro s gid rank id mv strm g hg hl
  refine ⟨fun ⟨hc, hr, hf⟩ => ?_, fun ⟨hc, hr⟩ r c st => g.releaseFaults_missed s.tlc r c st, fun r c st hc hs => ?_,
    fun st l r hs hr he hb hd => congrArg Host.Outcome.next (s.iteration_inner gid rank strm g st l r hg hl hs hr he hb hd),
    fun c m who hw hp => congrArg Host.Outcome.next (s.waitEnd_tags gid rank g c m who hg hl hw hp),
    fun c h lat who hw hh => congrArg Host.Outcome.next (s.waitEnd_gong gid rank g c h lat who hg hl hw hh),
    fun c m who hw hp hb => congrArg Host.Outcome.next (s.budgetOut_tags gid rank g c m who hg hl hw hp hb),
    fun gid' g' r ms m hq hg' hr hm hw => congrArg Host.Outcome.next (s.beatLanding_eq id mv gid' g' r ms m hq hg' hr hm hw),
    fun gid' g' r hq hg' hm hn hk => congrArg Host.Outcome.next
      ((s.finishReq_plain id gid' g' r hq hk).trans (s.completeReq_eq id gid' g' r hq hg' hm hn)),
    fun gid' g' r addr n v hq hk hn hw hlate hg' hm hv h1 hc =>
      ⟨_, rfl, s.depositDone_valid id gid' addr n g' r v hq hk hn hw hlate hg' hm hv h1 hc⟩⟩
  · refine congrArg Host.Outcome.next ((s.segmentRelease_eq gid g hg hl hc hr hf).trans ?_)
    rw [Gang.released, funext (Stream.release_eq s.tlc)]
    rfl
  · obtain ⟨d, hd, hbud⟩ := g.endCycle_budget s.tlc r c hl hc
    exact ⟨d, hd, fun hw => hbud.trans (c.spend_budget_other st hs hw), fun w who hw => hbud.trans (c.spend_budget_wait st w who hs hw)⟩

end Sys2Proof.Machine

namespace Sys2Proof.Machine

/-! Slots (R331, R332). -/

/-- What keeps a dispatch slot from being one. -/
theorem State.slot_open (s : State) (ht : s.tlc % 16 = 0) (hk : s.ticked.contains (0, 0) = false) (h1 : s.root.thermalHold = false)
    (h2 : s.root.powerHold = false) : ¬ (s.tlc % 16 ≠ 0 ∨ s.ticked.contains (0, 0) = true ∨ s.root.thermalHold = true ∨ s.root.powerHold = true) := by
  simp [ht, h1, h2]
  simpa using hk

theorem State.dispatchSlot_eq (s : State) (ht : s.tlc % 16 = 0) (hk : s.ticked.contains (0, 0) = false) (h1 : s.root.thermalHold = false)
    (h2 : s.root.powerHold = false) : s.dispatchSlot = match (s.tickOnce 0 0).grantReserve.chooseClass with
      | none => (s.tickOnce 0 0).grantReserve
      | some c => ((s.tickOnce 0 0).grantReserve.serve c).grantReserve :=
  if_neg (s.slot_open ht hk h1 h2)

/-- Without reservations there is nothing to grant. -/
theorem State.grantReserve_nil (s : State) (h : s.sched.reservations = []) : s.grantReserve = s := by
  have e : ({ s with sched := { s.sched with reservations := [] } } : State) = s := by rw [← h]
  simp [State.grantReserve, h, e, State.grantIn]

theorem State.preemptFold_nil (s : State) (st : QStep) (t : Tob) (cells : List Nat) (h : s.keptMet st.op t cells = []) :
    (((s.keptMet st.op t cells).map (·.op)).eraseDups).foldl State.preempt s = s := by
  simp [h]

/-- No save takes no time. -/
theorem State.saveTime_nil (s : State) : s.saveTime [] = 0 := by simp [State.saveTime]

theorem State.unbound_nil (s : State) (t : Tob) (h : t.named = []) : s.unbound t = none := by simp [State.unbound, h]

/-- The device as a head leaves its queue. -/
def State.leaves (s : State) (q : Nat) (st : QStep) (t : TobEnt) : State :=
  let s := s.modQueue q fun v => { v with front := v.front.drop 1, deficit := v.deficit - t.tob.steplen, pass := 0 }
  { s with sched := { s.sched with
    decisions := s.sched.decisions + 1, nextId := s.sched.nextId + 1, reservations := s.sched.reservations.filter fun r => r.step != st.id } }

/-- The gang of a dispatched head. -/
def State.gangOf (s : State) (q : Nat) (st : QStep) (t : TobEnt) (j : Job) (cells : List Nat) : Gang :=
  { Gang.shell q { st with attempt := st.attempt + 1 } t j.root j.brken cells s.tlc with id := s.sched.nextId }

/-- A head that meets no kept state and leases nothing goes to its place (R335). -/
theorem State.dispatch_plain (s : State) (q : Nat) (st : QStep) (t : TobEnt) (cells : List Nat) (j : Job) (hk : s.keptMet st.op t.tob cells = [])
    (hf : (s.queue q).front.head? = some st) (hj : s.job st.job = some j) (hn : t.tob.named = []) :
    s.dispatch q st t cells = { s.leaves q st t with gangs := aset s.sched.nextId (s.gangOf q st t j cells) s.gangs } := by
  have hj' : (s.leaves q st t).job st.job = some j := hj
  unfold State.dispatch
  dsimp only
  rw [State.preemptFold_nil s st t.tob cells hk, hk, if_neg (by simp [hf])]
  have hb : s.tlc + s.saveTime (([] : List Kept).map (·.op)).eraseDups = s.tlc := by simp [State.saveTime_nil]
  rw [hb]
  change (match (s.leaves q st t).job st.job with | none => _ | some j => _) = _
  rw [hj']
  dsimp only
  rw [State.unbound_nil _ _ hn, hn]
  rfl

/-- The round reaches a head that the queue's deficit covers and that has a place. -/
theorem State.roundRobin_dispatch (s : State) (c q fuel : Nat) (qs : List Nat) (st : QStep) (t : TobEnt) (cells : List Nat)
    (hp : aget c s.sched.classPtr = some q) (hh : s.readyHead q = some (st, t)) (hd : t.tob.steplen ≤ (s.queue q).deficit)
    (hc : s.place st t.tob = some cells) : State.roundRobin c qs (fuel + 1) [] s = s.dispatch q st t cells := by
  simp only [State.roundRobin, hp, hh, if_neg (Int.not_lt.2 hd), hc]

theorem State.serve_dispatch (s : State) (c q : Nat) (st : QStep) (t : TobEnt) (cells : List Nat) (hr : s.sched.reservations = [])
    (hp : aget c s.sched.classPtr = some q) (hh : s.readyHead q = some (st, t)) (hd : t.tob.steplen ≤ (s.queue q).deficit)
    (hc : s.place st t.tob = some cells) : s.serve c = s.dispatch q st t cells := by
  simp only [State.serve, hr, List.findSome?_nil]
  have pos : 2 ^ 22 * ((s.classQueues c).length + 1) = (2 ^ 22 * ((s.classQueues c).length + 1) - 1) + 1 := by omega
  rw [pos]
  exact s.roundRobin_dispatch c q _ _ st t cells hp hh hd hc

theorem State.readyHead_front (s : State) (q : Nat) (st : QStep) (t : TobEnt) (h : s.readyHead q = some (st, t)) : (s.queue q).front.head? = some st := by
  unfold State.readyHead at h
  dsimp only at h
  split at h
  · cases h
  · next a l e =>
    split at h
    · obtain ⟨t', -, ht⟩ := Option.map_eq_some_iff.1 h
      simp only [Prod.mk.injEq] at ht
      rw [e, ← ht.1]
      rfl
    · cases h

theorem State.leaves_queue (s : State) (q : Nat) (st : QStep) (t : TobEnt) : (s.leaves q st t).queue q =
    { s.queue q with front := (s.queue q).front.drop 1, deficit := (s.queue q).deficit - t.tob.steplen, pass := 0 } := by
  simp [State.leaves, State.queue, State.modQueue, State.setQueue]

/-! Waiters, pre-emption and holds (R338, R50, R337). -/

theorem State.waiterRelease_eq (s : State) (id : Nat) (w : Waiter) (hf : (s.sched.waiters.find? fun w => w.step.id == id) = some w)
    (hm : s.waiterMet w = true) : s.waiterRelease id = { s.toFront w.q w.step with sched := { (s.toFront w.q w.step).sched with
      waiters := s.sched.waiters.filter fun v => v.step.id != id, lastMove := s.tlc } } := by
  simp [State.waiterRelease, hf, hm]

/-- A pre-emption takes place where no kept state of the operator is held and no live gang stands on its cores. -/
theorem State.preemption_eq (s : State) (op : Nat) (h : ∀ k ∈ s.sched.kept, k.op = op → k.saved = none → k.held = false ∧
    ∀ g ∈ s.gangs, g.2.live = true → g.2.cells.contains k.core = false) : s.preemption op = s.preempt op := by
  refine if_neg ?_
  have hheld : (s.sched.kept.any fun k => k.op == op && k.saved.isNone && k.held) = false := by
    rw [List.any_eq_false]
    intro k hk
    simp only [Bool.and_eq_true, beq_iff_eq, Option.isNone_iff_eq_none, not_and, and_imp]
    exact fun ho hs => by simp [(h k hk ho hs).1]
  have hmay : s.mayPreempt op = true := by
    simp only [State.mayPreempt, List.all_eq_true, List.mem_filter, Bool.and_eq_true, beq_iff_eq, Option.isNone_iff_eq_none, and_imp]
    intro k hk ho hs g hg
    cases hl : g.2.live with
    | false => rfl
    | true => simpa using (h k hk ho hs).2 g hg hl
  simp [hheld, hmay]

theorem State.correctedAll_nil (s : State) (g : Option Gang) (src : Nat) (r : Read) (h : r.fixed = []) : s.correctedAll g src r = s := by
  simp [State.correctedAll, h]

/-- A segment that reads without an error or a correction is saved with its poisoned beats. -/
def State.segOf (s : State) (core : Nat) (a : Nat × Nat) : List Byte × List Nat :=
  ((s.fetch (cmKey core a.1) a.2).bytes, (List.range (a.2 / 32)).filter fun i => s.poison.contains (cmKey core a.1 / 32 + i))

theorem State.saveSeg_clean (s : State) (core : Nat) (a : Nat × Nat) (hb : (s.fetch (cmKey core a.1) a.2).bad = none)
    (hf : (s.fetch (cmKey core a.1) a.2).fixed = []) : s.saveSeg core a.1 a.2 = (s, .ok (s.segOf core a)) := by
  simp only [State.saveSeg, hb, State.correctedAll_nil _ _ _ _ hf, State.segOf]

theorem State.saveAll_clean (s : State) (core : Nat) (segs : List (Nat × Nat))
    (h : ∀ a ∈ segs, (s.fetch (cmKey core a.1) a.2).bad = none ∧ (s.fetch (cmKey core a.1) a.2).fixed = []) :
    s.saveAll core segs = (s, .ok (segs.map (s.segOf core))) := by
  induction segs with
  | nil => rfl
  | cons a t ih =>
    obtain ⟨hb, hf⟩ := h a List.mem_cons_self
    simp only [State.saveAll, s.saveSeg_clean core a hb hf, ih fun b hm => h b (List.mem_cons_of_mem a hm), List.map_cons]

/-- The pre-emption of the one kept state there is. -/
theorem State.preempt_one (s : State) (op : Nat) (k : Kept) (hk : s.sched.kept = [k]) (ho : k.op = op) (hs : k.saved = none) (hr : k.rank ≠ noRank)
    (hg : ∀ g ∈ s.gangs, g.2.live = true → g.2.cells.contains k.core = false)
    (hc : ∀ a ∈ k.segs, (s.fetch (cmKey k.core a.1) a.2).bad = none ∧ (s.fetch (cmKey k.core a.1) a.2).fixed = []) :
    s.preempt op = { s with sched := { s.sched with kept := [{ k with held := false, saved := some (k.segs.map (s.segOf k.core)) }] } } := by
  have hall : (s.gangs.all fun g => !(g.2.live && g.2.cells.contains k.core)) = true := by
    rw [List.all_eq_true]
    intro g hm
    cases hl : g.2.live with
    | false => rfl
    | true => simpa using hg g hm hl
  have hsame : ({ s with sched := { s.sched with kept := [k] } } : State) = s := by rw [← hk]
  have hrank : (k.rank == noRank) = false := by simpa using hr
  simp only [State.preempt, hk, List.filter_cons, List.filter_nil, ho, hs, hall, hrank, Option.isNone_none, beq_self_eq_true, Bool.and_false,
    Bool.not_false, Bool.and_self, if_true, hsame, List.foldl_cons, List.foldl_nil, s.saveAll_clean k.core k.segs hc, List.map_cons, List.map_nil]

/-! Regions and futures, records (R306, R321, R324, R328, R341). -/

theorem State.regionResident_eq (s : State) (job lreg pch : Nat) (rows : List Nat) (hj : s.jobLive job = true) (hm : (s.pch pch).mode = .timed)
    (hl : lreg < 64) (hp : pch < 512) (hn : rows.length ≤ 49152) (hr : ∀ r ∈ rows, r < 49152 ∧ s.rowRetired pch r = false) :
    s.regionResident job lreg pch rows = { s with sched := { s.sched with
      regions := (s.sched.regions.filter fun r => !(r.job == job && r.lreg == lreg)) ++ [⟨job, lreg, pch, rows⟩] } } := by
  have hany : (rows.any fun r => decide (49152 ≤ r) || s.rowRetired pch r) = false := by
    rw [List.any_eq_false]
    intro r h
    simp [Nat.not_le.2 (hr r h).1, (hr r h).2]
  refine if_neg ?_
  simp [hj, hm, hany, Nat.not_le.2 hl, Nat.not_le.2 hp, Nat.not_lt.2 hn]

theorem State.physWrite_sched (s : State) (k : Nat) (bs : List Byte) (psn : Bool) : (s.physWrite k bs psn).sched = s.sched := by
  unfold State.physWrite
  split
  · split <;> rfl
  · exact State.store_sched _ _ _ _

/-- Where no waiter's condition is met nothing wakes. -/
theorem State.wake_none (s : State) (f : WaitOn → Bool) (h : ∀ w ∈ s.sched.waiters, f w.on = false) : s.wake f = s := by
  have hm : (s.sched.waiters.map fun w => if f w.on then { w with on := .now } else w) = s.sched.waiters :=
    (List.map_congr_left fun w hw => if_neg (by simp [h w hw])).trans (List.map_id _)
  unfold State.wake
  rw [hm]

theorem State.futureResolved_quiet (s : State) (root va k : Nat) (entry : BitVec 64) (hk : s.stopEntry va 5 0 root = some k)
    (hb : (leNat (s.physRead k 8).bytes).testBit 5 = true) (hr : s.leafRetired (s.stopLevel va 5 0 root) entry.toNat = false)
    (hw : ∀ w ∈ s.sched.waiters, ∀ r v, w.on ≠ .page r v) : s.futureResolved root va entry = s.physWrite k (leBytes 8 entry.toNat) false := by
  have hs : (s.physWrite k (leBytes 8 entry.toNat) false).sched.waiters = s.sched.waiters := by rw [State.physWrite_sched]
  unfold State.futureResolved
  rw [hk]
  dsimp only
  rw [if_neg (by simp [hb, hr]), List.filterMap_eq_nil_iff.2, State.wake_none]
  · rfl
  · intro w hm
    split
    · next r v e => exact absurd e (hw w (hs ▸ hm) r v)
    · rfl
  · intro w hm
    split
    · next r v e => exact absurd e (hw w (hs ▸ hm) r v)
    · rfl

theorem State.queueWrite_new (s : State) (q : Nat) (v qr : BitVec 128) (hv : v = qr &&& ~~~0xFF3E) (hq : q < 1024) (he : (s.queue q).en = false)
    (h1 : fld v.toNat 32 6 ≠ 0) (h2 : fld v.toNat 38 24 ≠ 0) : s.queueWrite q qr = s.modQueue q fun x => { x with rec_ := v } := by
  unfold State.queueWrite
  dsimp only
  rw [← hv, if_neg (by simp [Nat.not_le.2 hq, h1, h2]), he]
  rfl

/-- A record that clears EN holds an enabled queue. -/
theorem State.queueWrite_hold (s : State) (q : Nat) (qr : BitVec 128) (hq : q < 1024) (he : (s.queue q).en = true) (hb : qr.getLsbD 0 = false) :
    s.queueWrite q qr = s.modQueue q fun x => { x with rec_ := x.rec_ &&& ~~~1 } := by
  have hv : (qr &&& ~~~0xFF3E).getLsbD 0 = false := by rw [BitVec.getLsbD_and, hb, Bool.false_and]
  unfold State.queueWrite
  dsimp only
  rw [hv, if_neg (by simp [Nat.not_le.2 hq]), he]
  rfl

theorem State.versionWrite_eq (s : State) (vr : BitVec 512) (hg : fld vr.toNat 0 16 < 4096) (hv : fld vr.toNat 16 16 ≠ 0)
    (hn : ∀ x ∈ s.sched.versions, ¬ (x.graph = fld vr.toNat 0 16 ∧ x.version = fld vr.toNat 16 16)) :
    s.versionWrite vr = ({ s with sched := { s.sched with versions :=
      (s.sched.versions.map fun x => if x.graph == fld vr.toNat 0 16 then { x with current := false } else x) ++
        [({ graph := fld vr.toNat 0 16, version := fld vr.toNat 16 16, rec_ := vr, current := true } : Version)] } } : State).freeVersions := by
  have hany : (s.sched.versions.any fun x => x.graph == fld vr.toNat 0 16 && x.version == fld vr.toNat 16 16) = false := by
    rw [List.any_eq_false]
    intro x hx
    simpa using hn x hx
  refine if_neg ?_
  simp [Nat.not_le.2 hg, hv, hany]

theorem State.hangTimeout_due (s : State) (h : s.hangDue = true) : ∃ ring mem evs, s.hangTimeout = { s with sched := { s.sched with
    hangRing := ring, hangMem := mem, hangSeq := (s.sched.hangSeq + 1) % 2 ^ 32, lastHang := s.tlc, events := evs } } :=
  ⟨_, _, _, if_neg (by simp [h])⟩

/-- The gang a slot dispatches, and its queue, where there is one head to serve and nothing is reserved. -/
theorem State.dispatchSlot_gang (s : State) (q c : Nat) (st : QStep) (t : TobEnt) (cells : List Nat) (j : Job)
    (ht : s.tlc % 16 = 0) (ho : s.ticked.contains (0, 0) = false) (h1 : s.root.thermalHold = false) (h2 : s.root.powerHold = false)
    (hr : s.sched.reservations = []) (hc : (s.tickOnce 0 0).chooseClass = some c) (hp : aget c s.sched.classPtr = some q)
    (hh : (s.tickOnce 0 0).readyHead q = some (st, t)) (hd : t.tob.steplen ≤ (s.queue q).deficit)
    (hpl : (s.tickOnce 0 0).place st t.tob = some cells) (hk : (s.tickOnce 0 0).keptMet st.op t.tob cells = []) (hn : t.tob.named = [])
    (hj : s.job st.job = some j) :
    let u := s.tickOnce 0 0
    s.dispatchSlot = { u.leaves q st t with gangs := aset s.sched.nextId (u.gangOf q st t j cells) s.gangs } := by
  intro u
  have hu : u.grantReserve = u := u.grantReserve_nil hr
  rw [s.dispatchSlot_eq ht ho h1 h2, hu, hc]
  dsimp only
  rw [u.serve_dispatch c q st t cells hr hp hh hd hpl, u.dispatch_plain q st t cells j hk (u.readyHead_front q st t hh) hj hn]
  refine State.grantReserve_nil _ ?_
  show (u.sched.reservations.filter _) = []
  rw [show u.sched.reservations = [] from hr]
  rfl

/-- Settles O55: the slot by its equation and, for a lone head, by the dispatch it comes to; the other steps each by the equation of its
event. -/
theorem schedulerEvents : Obligations.SchedulerEvents := by
  intro s id op job lreg pch q root va rows entry qr vr
  refine ⟨fun ht hk h1 h2 => congrArg Host.Outcome.next (s.dispatchSlot_eq ht hk h1 h2), ?_, fun w hf hm => ?_,
    fun h => congrArg Host.Outcome.next (s.preemption_eq op h), ?_, rfl, fun hj hm hl hp hn hr => ?_,
    fun k hk hb hr hw => congrArg Host.Outcome.next (s.futureResolved_quiet root va k entry hk hb hr hw),
    fun v hv hq he h1 h2 => congrArg Host.Outcome.next (s.queueWrite_new q v qr hv hq he h1 h2),
    fun hq he hb => congrArg Host.Outcome.next (s.queueWrite_hold q qr hq he hb),
    fun hg hv hn => congrArg Host.Outcome.next (s.versionWrite_eq vr hg hv hn), fun h => ?_⟩
  · intro u c st t cells j ht hk h1 h2 hr hc hqs hp hh hd hpl hkm hn hj
    refine ⟨_, u.gangOf q st t j cells, congrArg Host.Outcome.next (s.dispatchSlot_gang q c st t cells j ht hk h1 h2
      hr hc hp hh hd hpl hkm hn hj), aget_aset_self _ _ _, rfl, rfl, rfl, rfl, rfl, ?_, ?_, ?_, rfl⟩
    · exact congrArg (·.front) (u.leaves_queue q st t)
    · exact congrArg (·.deficit) (u.leaves_queue q st t)
    · exact congrArg (·.pass) (u.leaves_queue q st t)
  · refine ⟨_, congrArg Host.Outcome.next (s.waiterRelease_eq id w hf hm), s.toFront_front w.q w.step, fun v hv => ?_, rfl⟩
    simpa using (List.mem_filter.1 hv).2
  · intro k hk ho hs hh hr hg segs hc
    have honly : ∀ k' ∈ s.sched.kept, k'.op = op → k'.saved = none → k'.held = false ∧
        ∀ g ∈ s.gangs, g.2.live = true → g.2.cells.contains k'.core = false := by
      intro k' hk' _ _
      obtain rfl : k' = k := by simpa [hk] using hk'
      exact ⟨hh, hg⟩
    exact congrArg Host.Outcome.next ((s.preemption_eq op honly).trans (s.preempt_one op k hk ho hs hr hg hc))
  · exact ⟨_, congrArg Host.Outcome.next (s.regionResident_eq job lreg pch rows hj hm hl hp hn hr), rfl, rfl⟩
  · obtain ⟨ring, mem, evs, e⟩ := s.hangTimeout_due h
    exact ⟨_, congrArg Host.Outcome.next e, rfl, rfl, rfl, rfl, rfl⟩

end Sys2Proof.Machine

namespace Sys2Proof.Machine

/-! Conversions, and described blocks in lanes (R64, R168 to R170). -/

/-- A float plan writes the active lanes and raises the flags of these only (R86, R158). -/
theorem Ctx.fPlan_eq (x : Ctx) (reads : List Loc) (d : Opnd) (k : BitVec 3) (r : List (Nat × Flags)) (lat : Nat) :
    x.fPlan reads d k r lat = ⟨kloc k.toNat :: reads, .ok (x.vEff d (x.gov k) (r.map (·.1)) lat
      (flagsOf ((lanesIn (x.gov k)).map fun i => ((r[i]?).getD (0, 0)).2)))⟩ :=
  x.vPlan_eq _ _ _ _ _ _

/-- Settles O19: each conversion's plan is a float plan of its lane function. -/
theorem vectorConversions : Obligations.VectorConversions := by
  intro st dst src rnd k d a
  exact ⟨Completes.of_plan (exec_of_planOf rfl) fun x _ => x.fPlan_eq _ _ _ _ _, Completes.of_plan (exec_of_planOf rfl) fun x _ => x.fPlan_eq _ _ _ _ _,
    Completes.of_plan (exec_of_planOf rfl) fun x _ => x.fPlan_eq _ _ _ _ _, Completes.of_plan (exec_of_planOf rfl) fun x _ => x.fPlan_eq _ _ _ _ _⟩

/-- VQNT with a legal control word refuses adaptive INT blocks (R169). -/
theorem planVqnt_adaptInt {c : Opnd} {x : Ctx} (h : fld (x.c.rd c) 12 4 = 0) (wid : BitVec 3) (sg : Bool) (d a e : Opnd) :
    planVqnt wid true true sg d a c e x = ⟨[a.vloc, c.xloc], .error (blkTrap 5 0)⟩ := if_neg (not_not.2 h)

/-- VXPD with a legal control word rounds the row it reads (R170), and is cause 64 for a row that breaks R70. `simp` unfolds the plan here: by `dsimp`
the kernel would run the row read. -/
theorem planVxpd_ok {sg : Bool} {c a : Opnd} {x : Ctx} {vals : List Dy} {fm : Bool} {cur : Nat} (h : fld (x.c.rd c) 7 9 = 0)
    (hr : rowRead sg ((List.range 8).map (laneBlock (x.c.vrd a))) (fld (x.c.rd c) 0 7 + 1) 0 [] false = .ok (vals, fm, cur))
    (fmt : BitVec 4) (rnd : BitVec 2) (d : Opnd) : planVxpd sg fmt rnd d a c x =
      let r := vals.map (roundF (fmtOf fmt.toNat) rnd false)
      x.vPlan [a.vloc, c.xloc] d (maskOf ((List.range 128).map fun i => decide (i < fld (x.c.rd c) 0 7 + 1)))
        (r.map (·.1) ++ List.replicate (128 - (fld (x.c.rd c) 0 7 + 1)) 0) 3 (flagsOf (r.map (·.2)) ||| flagIf fm flagFM) := by
  simp only [planVxpd, h, hr, ne_eq, not_true_eq_false, if_false]

theorem planVxpd_error {sg : Bool} {c a : Opnd} {x : Ctx} {er : RowBad} (h : fld (x.c.rd c) 7 9 = 0)
    (hr : rowRead sg ((List.range 8).map (laneBlock (x.c.vrd a))) (fld (x.c.rd c) 0 7 + 1) 0 [] false = .error er)
    (fmt : BitVec 4) (rnd : BitVec 2) (d : Opnd) : planVxpd sg fmt rnd d a c x =
      ⟨[a.vloc, c.xloc], .error (blkTrap er.reason ((((List.range 8).map (laneBlock (x.c.vrd a)))[er.blk]?).getD 0))⟩ := by
  simp only [planVxpd, h, hr, ne_eq, not_true_eq_false, if_false]

/-- Settles O20: the plans of VQNT and VXPD, branch by branch. -/
theorem blockQuantiseAndExpand : Obligations.BlockQuantiseAndExpand := by
  intro wid adapt int sg fmt rnd d a c e
  refine ⟨Completes.of_plan (exec_of_planOf rfl) fun x ⟨h, hn⟩ => ?_, Faults.of_plan (exec_of_planOf rfl) fun x ⟨h, ha, hi⟩ => ?_,
    fun vals fm cur => Completes.of_plan (exec_of_planOf rfl) fun x ⟨h, hr⟩ => ?_,
    fun er => Faults.of_plan (exec_of_planOf rfl) fun x ⟨h, hr⟩ => ?_⟩
  · unfold planVqnt
    dsimp only
    rw [if_neg (not_not.2 h), if_neg (by simpa using hn)]
    rfl
  · subst ha hi
    exact planVqnt_adaptInt h wid sg d a e
  · exact (planVxpd_ok h hr fmt rnd d).trans (x.vPlan_eq _ _ _ _ _ _)
  · exact planVxpd_error h hr fmt rnd d

end Sys2Proof.Machine

namespace Sys2Proof.Machine

/-! Feeds (R74, R179, R184 to R187): what a fetch reads, the rows it stashes, and the entry a fill gives its receivers. -/

/-! Late reads of own core memory (R104, R106, R386). -/

theorem State.lateRead_free {s : State} {gid rank addr n : Nat} {c : Core} (hc : s.coreOn gid rank = some c)
    (h1 : hazardOf s.tlc true c.claims (.cm addr n) = none) (h2 : hazardOf s.tlc false c.claims (.cm addr n) = none) (w : Who) :
    s.lateRead gid rank w addr n = (s, true) := by
  obtain ⟨g, hg, hr⟩ := Option.bind_eq_some_iff.1 hc
  simp only [State.lateRead, hg, hr, h1, h2]

theorem State.fetch_fixed {s : State} (h : s.err.upsets = []) (k n : Nat) : (s.fetch k n).fixed = [] := by
  simp [State.fetch, h]

theorem Read.trap_none {r : Read} (hp : r.psn = false) (hb : r.bad = none) (k n space addr : Nat) (poison : List Nat) :
    r.trap k n space addr poison = none := by
  simp [Read.trap, hp, hb]

/-- A read that meets no claim and no error pattern gives the bytes of memory, where the data keep their poison. -/
theorem State.lateBytes_free {s : State} {gid rank addr n : Nat} {c : Core} (hc : s.coreOn gid rank = some c) (hu : s.err.upsets = [])
    (h1 : hazardOf s.tlc true c.claims (.cm addr n) = none) (h2 : hazardOf s.tlc false c.claims (.cm addr n) = none) (w : Who) :
    s.lateBytes gid rank c.gcore w addr n true = (s, some (s.fetch (cmKey c.gcore addr) n)) := by
  simp only [State.lateBytes, State.lateRead_free hc h1 h2, Bool.not_true, Bool.false_eq_true, if_false, Bool.and_false]
  rw [Read.trap_none (r := { bytes := _, psn := false, bad := _, fixed := _ }) rfl (State.fetch_plain hu _ _).2,
    State.correctedAll_nil _ _ _ _ (State.fetch_fixed hu _ _)]

/-! Fetches of plain and of described rows (R74, R185). -/

/-- A fetch of a plain row stashes the k-groups of one line. -/
theorem State.feedFetch_plain {s : State} {gid : Nat} {w : Who} {c : Core} {f : FeedDesc} {src round : Nat} (hc : s.coreOn gid w.rank = some c)
    (hu : s.err.upsets = []) (hf : f.fmt ≠ 9) (h1 : hazardOf s.tlc true c.claims (.cm (src + f.rowOff + 64 * round) 64) = none)
    (h2 : hazardOf s.tlc false c.claims (.cm (src + f.rowOff + 64 * round) 64) = none) (cont : Bool) (row : Nat) :
    s.feedFetch gid w f src cont round row =
      let ad := src + f.rowOff + 64 * round
      s.addStash gid (((s.plainRecs c.gcore f.fmt ad f.perRound (s.mem.bytes (cmKey c.gcore ad) 64)).zip (List.range f.perRound)).map fun p =>
        .krec w (round * f.perRound + p.2) row p.1.1 p.1.2) := by
  have hb : (aget gid s.gangs).bind (·.coreAt w.rank) = some c := hc
  simp only [State.feedFetch, hb, if_pos hf, State.lateBytes_free hc hu h1 h2, (State.fetch_plain hu _ _).1]

/-- What a fetch of a described row gives: `need` k-groups in hand go to the entries of the round, and the cursor moves on. -/
def State.feedGive (s : State) (gid : Nat) (w : Who) (f : FeedDesc) (round row need : Nat) (cur : RowCur) (fl : Flags) : State :=
  (s.addStash gid (((cur.buf.take need).zip (List.range need)).map fun p =>
    .krec w (round * f.perRound + p.2) row p.1 (if p.2 = 0 then fl else 0))).modCore gid w.rank fun c => c.modLatch f.qb fun l =>
      { l with curs := aset row ⟨cur.blk, cur.taken + need, cur.buf.drop need⟩ l.curs }

/-- The k-groups decoded from a block at `ad`, of a row of which `got` are decoded already. -/
def State.feedRecs (s : State) (gcore : Nat) (f : FeedDesc) (b ad got : Nat) : List KRec :=
  (List.range (min (count (blkMw b) / 8) ((f.kl + 8) / 8 - got))).map fun j => blockRec b ad j (f.kl + 1 - 8 * got)
    ((s.psnKey (cmKey gcore ad) 32).orElse fun _ => s.psnKey (cmKey gcore (ad + (2 + blkMw b * 8 * j / 8))) (blkMw b))

theorem State.length_feedRecs (s : State) (gcore : Nat) (f : FeedDesc) (b ad got : Nat) :
    (s.feedRecs gcore f b ad got).length = min (count (blkMw b) / 8) ((f.kl + 8) / 8 - got) := by
  rw [State.feedRecs, List.length_map, List.length_range]

/-- A fetch of a described row with enough in hand reads nothing. -/
theorem State.feedFetch_hand {s : State} {gid : Nat} {w : Who} {c : Core} {f : FeedDesc} {round row : Nat} {cont : Bool}
    (hc : s.coreOn gid w.rank = some c) (h9 : f.fmt = 9)
    (hn : f.need round (rowStart c f cont round row).taken ≤ (rowStart c f cont round row).buf.length) (src : Nat) :
    s.feedFetch gid w f src cont round row =
      s.feedGive gid w f round row (f.need round (rowStart c f cont round row).taken) (rowStart c f cont round row) 0 := by
  have hb : (aget gid s.gangs).bind (·.coreAt w.rank) = some c := hc
  simp only [State.feedFetch, hb, if_neg (not_not.2 h9), if_pos hn]
  rfl

/-- A fetch of a described row decodes the block its cursor names where what is in hand does not suffice. -/
theorem State.feedFetch_block {s : State} {gid : Nat} {w : Who} {c : Core} {f : FeedDesc} {src round row ad b : Nat} {cont : Bool} {cur : RowCur}
    (hc : s.coreOn gid w.rank = some c) (hu : s.err.upsets = []) (h9 : f.fmt = 9) (hcur : rowStart c f cont round row = cur)
    (hn : cur.buf.length < f.need round cur.taken) (hblk : cur.blk < slotBlocks (f.kl + 1) f.mmax) (had : src + 64 * cur.blk = ad)
    (h1 : hazardOf s.tlc true c.claims (.cm ad 64) = none) (h2 : hazardOf s.tlc false c.claims (.cm ad 64) = none)
    (hb : leNat (s.mem.bytes (cmKey c.gcore ad) 64) = b) :
    s.feedFetch gid w f src cont round row = (blkBad b).elim
      (if (cur.buf ++ s.feedRecs c.gcore f b ad (cur.taken + cur.buf.length)).length < f.need round cur.taken
        then s.raiseCut gid s.tlc w (blkTrap 7 b 0 ad)
        else s.feedGive gid w f round row (f.need round cur.taken)
          ⟨cur.blk + 1, cur.taken, cur.buf ++ s.feedRecs c.gcore f b ad (cur.taken + cur.buf.length)⟩ (flagIf (blkFM b) flagFM))
      fun why => s.raiseCut gid s.tlc w (blkTrap why b 0 ad) := by
  have hcore : (aget gid s.gangs).bind (·.coreAt w.rank) = some c := hc
  simp only [State.feedFetch, hcore, if_neg (not_not.2 h9), hcur, if_neg (Nat.not_le.2 hn), if_neg (Nat.not_le.2 hblk), had,
    State.lateBytes_free hc hu h1 h2, (State.fetch_plain hu _ _).1, hb, ite_lt_eq_min]
  cases blkBad b with
  | some why => rfl
  | none =>
    cases hp : s.psnKey (cmKey c.gcore ad) 32 <;>
      simp only [State.feedRecs, State.feedGive, hp, Option.elim_none, Option.orElse_none, Option.orElse_some]

/-- Of the k-groups a fetch gives, the first carries the flags of its block. -/
theorem zip_firstFlag {α β : Type} (recs : List α) {need : Nat} (h : recs.length = need) (fl : Flags) (out : α → Nat → Flags → β) :
    (recs.zip (List.range need)).map (fun p => out p.1 p.2 (if p.2 = 0 then fl else 0)) =
      ((recs.zip (fl :: List.replicate (need - 1) 0)).zip (List.range (recs.zip (fl :: List.replicate (need - 1) (0 : Flags))).length)).map
        fun p => out p.1.1 p.2 p.1.2 := by
  apply List.ext_getElem
  · simp; omega
  · intro i _ _
    cases i <;> simp

/-! Fills (R179, R185, R186). -/

theorem aset_aset {α : Type} (k : Nat) (v w : α) (l : List (Nat × α)) : aset k v (aset k w l) = aset k v l := by
  induction l with
  | nil => simp [aset]
  | cons a t ih =>
    obtain ⟨a, u⟩ := a
    rcases Nat.lt_trichotomy k a with h | h | h
    · simp [aset, h]
    · simp [aset, h]
    · simp [aset, Nat.lt_asymm h, Nat.ne_of_gt h, ih]

@[simp] theorem Core.latch_modLatch (c : Core) (qb : Bool) (f : Latch → Latch) : (c.modLatch qb f).latch qb = f (c.latch qb) := by cases qb <;> rfl
@[simp] theorem Core.latch_modLatch_not (c : Core) (qb : Bool) (f : Latch → Latch) : (c.modLatch qb f).latch (!qb) = c.latch (!qb) := by
  cases qb <;> rfl
theorem Core.modLatch_modLatch (c : Core) (qb : Bool) (f h : Latch → Latch) : (c.modLatch qb f).modLatch qb h = c.modLatch qb fun l => h (f l) := by
  cases qb <;> rfl

/-- A fill that lands leaves an entry with its rows, due as it was. -/
theorem Latch.filled_entry (l : Latch) (t e : Nat) (rows : List KRec) : ∃ x, l.filled t e rows = { l with entries := aset e x l.entries } ∧
    x.rows = rows ∧ ∀ y, aget e l.entries = some y → x.due = y.due ∧ x.cut = y.cut := by
  unfold Latch.filled
  split
  next y hy => exact ⟨_, rfl, rfl, fun z hz => by cases hy.symm.trans hz; exact ⟨rfl, rfl⟩⟩
  next hn => exact ⟨_, rfl, rfl, fun z hz => by cases hn.symm.trans hz⟩

/-- Filling an entry twice with the same rows is filling it once. -/
theorem Latch.filled_filled (l : Latch) (t e : Nat) (rows : List KRec) : (l.filled t e rows).filled t e rows = l.filled t e rows := by
  obtain ⟨x, hx, hr, -⟩ := l.filled_entry t e rows
  rw [hx, Latch.filled]
  simp only [aget_aset_self, aset_aset]
  rw [← hr]

theorem Core.modLatch_filled_twice (qb : Bool) (t e : Nat) (rows : List KRec) (c : Core) :
    ((c.modLatch qb fun l => l.filled t e rows).modLatch qb fun l => l.filled t e rows) = c.modLatch qb fun l => l.filled t e rows := by
  simp only [Core.modLatch_modLatch, Latch.filled_filled]

/-- A change that is the same twice, made to some cores of a gang, a core of which may be named twice. -/
theorem Gang.coreAt_foldl_modCore {f : Core → Core} (hf : ∀ c, f (f c) = f c) (rs : List Nat) {g : Gang} {r : Nat} {c : Core}
    (hc : g.coreAt r = some c) : (rs.foldl (fun (g : Gang) q => g.modCore q f) g).coreAt r = some (if r ∈ rs then f c else c) := by
  induction rs generalizing g c with
  | nil => simpa using hc
  | cons q rs ih =>
    rw [List.foldl_cons]
    have hq : (g.modCore q f).coreAt r = some (if q = r then f c else c) := by
      rw [Gang.coreAt_modCore, hc]; split <;> rfl
    rw [ih hq]
    by_cases h : q = r
    · simp [h, hf]
    · simp [h, Ne.symm h]

/-- The record that a stashed k-group gives to entry `j` of a feed, under its row. -/
def Stash.krecOf (w : Who) (j : Nat) : Stash → Option (Nat × KRec × Flags)
  | .krec w' j' row r fl => if w' == w && j' == j then some (row, r, fl) else none
  | _ => none

/-- The rows stashed for an entry: the first record of each row, a zero k-group where there is none. -/
theorem Gang.stashed_rows (g : Gang) (w : Who) (j : Nat) : (g.stashed w j).1 =
    (List.range 128).map fun i => ((aget i (g.stash.filterMap (Stash.krecOf w j))).map (·.1)).getD (zeroRec false) := by
  have hl : g.stash.filterMap (Stash.krecOf w j) = g.stash.filterMap fun s => match s with
      | .krec w' j' row r fl => if w' == w && j' == j then some (row, r, fl) else none
      | _ => none := List.filterMap_congr fun s _ => by cases s <;> rfl
  rw [hl]
  exact List.map_congr_left fun i _ => by cases aget i _ <;> rfl

/-- The first record listed under a row is the first one stashed for it. -/
theorem aget_krecOf (w : Who) (j row : Nat) (l : List Stash) : (aget row (l.filterMap (Stash.krecOf w j))).map (·.1) = l.findSome? fun e => match e with
    | .krec w' j' row' k _ => if w' = w ∧ j' = j ∧ row' = row then some k else none
    | _ => none := by
  induction l with
  | nil => rfl
  | cons e l ih =>
    rw [List.filterMap_cons, List.findSome?_cons]
    cases e
    case krec w' j' row' k fl =>
      by_cases h : w' = w ∧ j' = j
      · by_cases hr : row' = row
        · simp [Stash.krecOf, h, hr, aget]
        · simp [Stash.krecOf, h, hr, aget, ih]
      · simp [Stash.krecOf, h, ← and_assoc, ih]
    all_goals exact ih

theorem State.parityFresh_gangs (s : State) (cs : List Nat) (l : Loc) : (s.parityFresh cs l).gangs = s.gangs := by
  unfold State.parityFresh
  split <;> rfl

/-- Without flits in error a fill lands in each of its receivers, and its flags in the issuing core. -/
theorem State.coreOn_feedFill {s : State} {gid : Nat} {w : Who} {g : Gang} {f : FeedDesc} {j r : Nat} {c : Core} (hg : aget gid s.gangs = some g)
    (hf : s.err.flits = []) (hr : r ∈ g.receivers w.rank f) (hc : g.coreAt r = some c) : ∃ fl,
    (s.feedFill gid w f j).coreOn gid r =
      some { c.modLatch f.qb fun l => l.filled s.tlc ((f.e + j) % 128) (g.stashed w j).1 with flags := fl } := by
  have hbad : ((aget gid s.gangs).bind fun g => (g.receivers w.rank f).findSome? fun r =>
      s.badFlit (((g.coreAt w.rank).map (·.gcore)).getD 0 / 32) (((g.coreAt r).map (·.gcore)).getD 0 / 32)) = none := by
    rw [hg]
    exact List.findSome?_eq_none_iff.2 fun r _ => State.badFlit_none hf _ _
  unfold State.feedFill
  simp only [hbad]
  rw [State.coreOn, State.modGang_self, State.parityFresh_gangs, hg, Option.map_some, Option.bind_some]
  have hcore := (Gang.coreAt_foldl_modCore (f := fun c => c.modLatch f.qb fun l => l.filled s.tlc ((f.e + j) % 128) (g.stashed w j).1)
    (Core.modLatch_filled_twice _ _ _ _) (g.receivers w.rank f) hc).trans (congrArg some (if_pos hr))
  by_cases hw : w.rank = r
  · exact ⟨_, (Gang.coreAt_modCore _ _ _ _).trans ((if_pos hw).trans (congrArg (Option.map _) hcore))⟩
  · exact ⟨_, (Gang.coreAt_modCore _ _ _ _).trans ((if_neg hw).trans hcore)⟩

/-- The check of R184 and R185 that a feed makes of its descriptor passes what they allow. -/
theorem FeedDesc.legal (f : FeedDesc) {cont : Bool} (hfmt : f.fmtOk = true) (h1 : 1 ≤ f.n) (h2 : f.n ≤ 128) (hbase : f.base % 64 = 0)
    (hpitch : f.pitch % 64 = 0) (hplain : f.fmt ≠ 9 → f.rowOff % 64 = 0 ∧ cont = false) :
    (!f.fmtOk || f.n == 0 || decide (f.n > 128) || f.base % 64 != 0 || f.pitch % 64 != 0 || (f.fmt != 9 && f.rowOff % 64 != 0) ||
      (f.fmt != 9 && cont)) = false := by
  by_cases h9 : f.fmt = 9
  · simp [hfmt, Nat.ne_of_gt h1, Nat.not_lt.2 h2, hbase, hpitch, h9]
  · simp [hfmt, Nat.ne_of_gt h1, Nat.not_lt.2 h2, hbase, hpitch, hplain h9]

/-- Settles O24: the feeds' plan where its descriptor is legal, the fetches by the equations of their rows, the fill by what it leaves in a
receiver. -/
theorem feedsFillLatches : Obligations.FeedsFillLatches := by
  intro qb cont mc e cw kn inst instx f fx ixs rows rowsx ok fillAt eff
  have hplan (fd : FeedDesc) (reads : List Loc) (cont : Bool) (rows : List (Option Nat)) (x : Ctx) (h : ok fd cont rows x) :
      feedPlan x reads fd cont rows = ⟨reads, .ok (eff fd cont rows x)⟩ := by
    obtain ⟨hfmt, hn1, hn2, hbase, hpitch, hplain, hrel, hspan⟩ := h
    have hlegal := fd.legal hfmt hn1 hn2 hbase hpitch hplain
    refine (if_neg (Bool.eq_false_iff.1 hlegal)).trans ((if_neg (Nat.not_lt.2 hrel)).trans ?_)
    dsimp only
    rw [List.findSome?_eq_none_iff.2]
    · rfl
    · rintro ⟨r, _ | b⟩ hp
      · rfl
      · exact if_pos (by simpa using hspan _ hp b rfl)
  refine ⟨Completes.of_plan (exec_of_planOf (p := planFeed qb cont mc e cw kn) (by cases qb <;> rfl)) fun x h => hplan _ _ _ _ x h,
    Completes.of_plan (exec_of_planOf (p := planFeedx qb mc e cw kn) (by cases qb <;> rfl)) fun x ⟨h1, h2, h⟩ => ?_, ?_, ?_⟩
  · refine (if_neg ?_).trans (hplan _ _ _ _ x h)
    simp only [h2, bne_self_eq_false, Bool.or_false, decide_eq_true_eq]
    exact Nat.not_lt.2 h1
  · intro s gid who c fd src u row hc hu free bytes rows
    refine ⟨fun hf ⟨h1, h2⟩ => (State.feedFetch_plain hc hu hf h1 h2 cont row).trans ?_, ?_⟩
    · simp only [rows, List.length_map, List.length_range]
      rfl
    intro cur need give
    have hgive (cur : RowCur) (fl : Flags) (h : need ≤ cur.buf.length) : s.feedGive gid who fd u row need cur fl = give cur fl := by
      simp only [give, rows, State.feedGive]
      rw [zip_firstFlag (cur.buf.take need) (List.length_take_of_le h) fl fun r j fl => Stash.krec who (u * fd.perRound + j) row r fl]
    refine ⟨fun h9 hn => (State.feedFetch_hand hc h9 hn src).trans (hgive cur 0 hn), fun h9 hn hblk ⟨h1, h2⟩ => ?_⟩
    intro ad b got k recs
    have hblock := State.feedFetch_block (gid := gid) (w := who) (row := row) (cont := cont) hc hu h9 rfl hn hblk rfl h1 h2 rfl
    have hlen : (cur.buf ++ s.feedRecs c.gcore fd b ad got).length = cur.buf.length + k := by
      rw [List.length_append, s.length_feedRecs]
    refine ⟨fun why hw => hblock.trans (congrArg (Option.elim · _ _) hw), fun hb hl => hblock.trans ((congrArg (Option.elim · _ _) hb).trans ?_),
      fun hb hl => hblock.trans ((congrArg (Option.elim · _ _) hb).trans ?_)⟩
    · exact if_pos (hlen ▸ hl)
    · exact (if_neg (Nat.not_lt.2 (hlen ▸ hl))).trans (hgive _ _ (hlen ▸ hl))
  · intro s gid who g fd j r c hg hf hr hc got
    obtain ⟨fl, hd⟩ := State.coreOn_feedFill (j := j) hg hf hr hc
    obtain ⟨x, hx, hrows, hdue⟩ := (c.latch fd.qb).filled_entry s.tlc ((fd.e + j) % 128) (g.stashed who j).1
    have hl : ({ c.modLatch fd.qb fun l => l.filled s.tlc ((fd.e + j) % 128) (g.stashed who j).1 with flags := fl } : Core).latch fd.qb =
        { c.latch fd.qb with entries := aset ((fd.e + j) % 128) x (c.latch fd.qb).entries } :=
      (Core.latch_modLatch c fd.qb _).trans hx
    obtain ⟨hxf, hvf, -, hacc, -⟩ := c.sameFiles_modLatch fd.qb fun l => l.filled s.tlc ((fd.e + j) % 128) (g.stashed who j).1
    refine ⟨_, hd, hacc, hxf, hvf, ⟨x, ?_, ?_, hdue⟩, fun k hk => ?_, Core.latch_modLatch_not c fd.qb _⟩
    · rw [hl]
      exact aget_aset_self _ _ _
    · rw [hrows, Gang.stashed_rows]
      exact List.map_congr_left fun i _ => congrArg (Option.getD · _) (aget_krecOf who j i g.stash)
    · rw [hl]
      exact aget_aset_ne _ _ hk

end Sys2Proof.Machine

namespace Sys2Proof.Machine

/-! The array (R78, R79, R180, R190): when a multiply may issue, what consuming a pair does, what lands. -/

/-- An array instruction that issues on or after both releases finds the array free (R181). -/
theorem Ctx.arrayBusy_none {x : Ctx} (ha : x.c.ports.arrRel ≤ x.s.tlc) (hb : x.c.ports.accRel ≤ x.s.tlc) : x.arrayBusy = none :=
  (if_neg (Nat.not_lt.2 ha)).trans (if_neg (Nat.not_lt.2 hb))

/-! Entries when they are consumed. -/

theorem entryTrap_filled {l : Latch} {e t : Nat} {x : LatchEntry} (h : aget e l.entries = some x) (hd : x.due ≤ t) (hc : x.cut = false)
    (dbt : Nat) (qb : Bool) : entryTrap dbt t l qb e = none := by
  simp [entryTrap, h, LatchEntry.isFilled, hd, hc]

theorem entryTrap_empty {l : Latch} {e : Nat} (h : aget e l.entries = none) (dbt t : Nat) (qb : Bool) :
    (entryTrap dbt t l qb e).isSome = true := by
  simp [entryTrap, h]

theorem entryTrap_pending {l : Latch} {e t : Nat} {x : LatchEntry} (h : aget e l.entries = some x) (hp : t < x.due ∨ x.cut = true)
    (dbt : Nat) (qb : Bool) : (entryTrap dbt t l qb e).isSome = true := by
  have hf : x.isFilled t = false := by
    rcases hp with hd | hc
    · simp [LatchEntry.isFilled, Nat.not_le.2 hd]
    · simp [LatchEntry.isFilled, hc]
  simp [entryTrap, h, hf]

theorem entryTrap_cause {l : Latch} {dbt t e : Nat} {qb : Bool} {tr : Trap} (h : entryTrap dbt t l qb e = some tr) : tr.cause = 16 := by
  unfold entryTrap at h
  split at h
  · cases h; rfl
  · split at h
    · cases h; rfl
    · cases h

/-- Of some faults one is reported (R108). -/
theorem lowestTrap_mem {l : List Trap} (h : l ≠ []) : ∃ tr ∈ l, lowestTrap l = some tr := by
  induction l with
  | nil => exact absurd rfl h
  | cons a t ih =>
    rw [lowestTrap]
    split
    next => exact ⟨a, List.mem_cons_self, rfl⟩
    next b hb =>
      have hm : b ∈ t := by
        obtain ⟨tr, htr, e⟩ := ih (by rintro rfl; cases hb)
        rwa [Option.some.inj (hb.symm.trans e)]
      split
      · exact ⟨b, List.mem_cons_of_mem a hm, rfl⟩
      · exact ⟨a, List.mem_cons_self, rfl⟩

/-- A pair with an entry of QA that is not filled is cause 16, whatever the entry of QB (R180). -/
theorem State.mmaPair_unfilled {s : State} {gid : Nat} {who : Who} {g : Gang} {c : Core} {a : Nat} (hg : aget gid s.gangs = some g)
    (hc : g.coreAt who.rank = some c) (h : (entryTrap g.dbt s.tlc c.qa false a).isSome = true) (j b bw : Nat) (ap2 sa sb : Bool) :
    ∃ tr : Trap, tr.cause = 16 ∧ s.mmaPair gid who j a b bw ap2 sa sb = s.raiseCut gid s.tlc who tr := by
  obtain ⟨t0, h0⟩ := Option.isSome_iff_exists.1 h
  obtain ⟨tr, hm, e⟩ := lowestTrap_mem (l := (entryTrap g.dbt s.tlc c.qa false a).toList ++ (entryTrap g.dbt s.tlc c.qb true b).toList)
    (by simp [h0])
  refine ⟨tr, ?_, by simp only [State.mmaPair, hg, hc, e]⟩
  rcases List.mem_append.1 hm with hm | hm
  · exact entryTrap_cause (Option.mem_toList.1 hm)
  · exact entryTrap_cause (Option.mem_toList.1 hm)

/-- A pair of filled entries whose records the control word allows is taken, or is cause 65 for its first poisoned record (R180, R190). -/
theorem State.mmaPair_filled {s : State} {gid : Nat} {who : Who} {g : Gang} {c : Core} {ea eb : LatchEntry} {a b bw : Nat} {ap2 sa sb : Bool}
    (hg : aget gid s.gangs = some g) (hc : g.coreAt who.rank = some c) (ha : aget a c.qa.entries = some ea) (hb : aget b c.qb.entries = some eb)
    (hta : entryTrap g.dbt s.tlc c.qa false a = none) (htb : entryTrap g.dbt s.tlc c.qb true b = none)
    (hra : ∀ r ∈ ea.rows, recBad r sa (decide (r.w > 8) && !ap2) = false) (hrb : ∀ r ∈ eb.rows, recBad r sb (decide (r.w > bw)) = false) (j : Nat) :
    s.mmaPair gid who j a b bw ap2 sa sb =
      ((ea.rows ++ eb.rows).findSome? (·.psn)).elim (s.addStash gid [.pair who j ea.rows eb.rows]) fun k => s.raiseCut gid s.tlc who (psnTrap k) := by
  have hbad : (ea.rows.filter fun r => recBad r sa (decide (r.w > 8) && !ap2)) ++ eb.rows.filter (fun r => recBad r sb (decide (r.w > bw))) = [] := by
    rw [List.filter_eq_nil_iff.2 fun r hr => by simp [hra r hr], List.filter_eq_nil_iff.2 fun r hr => by simp [hrb r hr], List.append_nil]
  simp only [State.mmaPair, hg, hc, hta, htb, ha, hb, Option.toList_none, List.append_nil, lowestTrap, Option.map_some, Option.getD_some, hbad]
  cases (ea.rows ++ eb.rows).findSome? (·.psn) <;> rfl

/-! Rows of cells. -/

/-- The digits of a number in base 2^32 that a row is packed as. -/
theorem fld_cells (l : List Nat) (i : Nat) : fld (l.foldr (fun c n => c % 2 ^ 32 + 2 ^ 32 * n) 0) (32 * i) 32 = (l[i]?).getD 0 % 2 ^ 32 := by
  induction l generalizing i with
  | nil => simp [fld]
  | cons c l ih =>
    rw [List.foldr_cons]
    generalize l.foldr (fun c n => c % 2 ^ 32 + 2 ^ 32 * n) 0 = n at ih
    cases i with
    | zero => simp [fld]
    | succ i =>
      have hd : (c % 2 ^ 32 + 2 ^ 32 * n) / 2 ^ 32 = n := by omega
      rw [List.getElem?_cons_succ, ← ih, fld, fld, show 32 * (i + 1) = 32 + 32 * i by ring, Nat.pow_add, ← Nat.div_div_eq_div_mul, hd]

/-- A row of 128 cells reads back cell by cell. -/
theorem cellsOfRow_rowOfCells {l : List Nat} (h : l.length = 128) : cellsOfRow (rowOfCells l) = l.map (· % 2 ^ 32) := by
  apply List.ext_getElem
  · simp [cellsOfRow, h]
  · intro i hi _
    have hlt : i < 128 := by simpa [cellsOfRow] using hi
    have hl : i < l.length := h ▸ hlt
    simp only [cellsOfRow, List.getElem_map, List.getElem_range]
    rw [rowOfCells, fld_ofNat (by omega), fld_cells, List.getElem?_eq_getElem hl, Option.getD_some]

/-- Writing rows one by one changes the accumulator only. -/
theorem Core.foldl_setAccRow (v : Nat → Lane) (l : List Nat) (c : Core) : l.foldl (fun c r => c.setAccRow r (v r)) c =
    { c with acc := l.foldl (fun a r => a.setIfInBounds r (v r)) c.acc } := by
  induction l generalizing c with
  | nil => rfl
  | cons r l ih => rw [List.foldl_cons, ih]; rfl

theorem Vector.getElem_foldl_setIfInBounds {α : Type} {n : Nat} (v : Nat → α) (l : List Nat) (a : Vector α n) (i : Nat) (hi : i < n) :
    (l.foldl (fun a r => a.setIfInBounds r (v r)) a)[i] = if i ∈ l then v i else a[i] := by
  induction l generalizing a with
  | nil => simp
  | cons r l ih =>
    rw [List.foldl_cons, ih, Vector.getElem_setIfInBounds]
    by_cases hm : i ∈ l
    · simp [hm]
    · by_cases hr : r = i
      · simp [hm, hr]
      · simp [hm, hr, Ne.symm hr]

/-! The landing. -/

/-- A cell of a landing multiply: its promotion windows, or what it was above the diagonal of MMAC (R79, R190). -/
def mmaCell (prs : List (List KRec × List KRec)) (n p : Nat) (sa sb zero : Bool) (diag : Option Int) (r i old : Nat) : Nat × Flags :=
  if (match diag with | some d => decide ((i : Int) > (r : Int) + d) | none => false) then (old, 0) else
    cellWindows p ((n + p - 1) / p) (prs.map fun pr =>
      cellPair ((pr.1[r]?).getD (zeroRec false)) ((pr.2[i]?).getD (zeroRec false)) sa sb) (if zero then 0 else old, 0)

/-- What a landing does to its core, where row r of those listed becomes the cells `row r` and raises their flags. -/
def Core.landRows (row : Nat → List (Nat × Flags)) (l : List Nat) (c : Core) : Core :=
  let rows := l.map row
  let d := (l.zip rows).foldl (fun (c : Core) q => c.setAccRow q.1 (rowOfCells (q.2.map (·.1)))) c
  { d with flags := flagsAfter d.flags 0 (flagsOf (rows.map fun l => flagsOf (l.map (·.2)))) }

theorem Core.landRows_eq (row : Nat → List (Nat × Flags)) (l : List Nat) (c : Core) : c.landRows row l =
    { c with
      acc := l.foldl (fun a r => a.setIfInBounds r (rowOfCells ((row r).map (·.1)))) c.acc
      flags := flagsAfter c.flags 0 (flagsOf (l.map fun r => flagsOf ((row r).map (·.2)))) } := by
  have hd : (l.zip (l.map row)).foldl (fun (c : Core) q => c.setAccRow q.1 (rowOfCells (q.2.map (·.1)))) c =
      { c with acc := l.foldl (fun a r => a.setIfInBounds r (rowOfCells ((row r).map (·.1)))) c.acc } := by
    rw [← List.map_prod_left_eq_zip, List.foldl_map]
    exact Core.foldl_setAccRow _ l c
  simp only [Core.landRows, hd, List.map_map, Function.comp_def]

theorem Core.landRows_acc (row : Nat → List (Nat × Flags)) (c : Core) (r : Fin 128) :
    (c.landRows row (List.range 128)).acc[r.val] = rowOfCells ((row r.val).map (·.1)) := by
  rw [Core.landRows_eq]
  exact (Vector.getElem_foldl_setIfInBounds _ _ _ _ r.isLt).trans (if_pos (List.mem_range.2 r.isLt))

/-- The row of a core that a landing multiply gives, cell by cell. -/
def Core.mmaRow (c : Core) (cell : Nat → Nat → Nat → Nat × Flags) (r : Nat) : List (Nat × Flags) :=
  ((List.range 128).zip (c.accRow r)).map fun o => cell r o.1 o.2

theorem State.mmaLand_eq (s : State) (gid : Nat) (w : Who) (n p : Nat) (sa sb zero : Bool) (diag : Option Int) :
    s.mmaLand gid w n p sa sb zero diag =
      s.modGang gid fun g => (g.modCore w.rank fun c =>
        c.landRows (c.mmaRow (mmaCell (g.pairs w n) n p sa sb zero diag)) (List.range 128)).dropPairs w := rfl

theorem State.parityCells_gangs (s : State) (gid : Nat) (w : Who) (hit : Nat → Bool) : (s.parityCells gid w hit).gangs = s.gangs := by
  unfold State.parityCells
  split
  · rfl
  · split <;> rfl

/-- The landing of a multiply changes its core as its cells have it. -/
theorem State.coreOn_mmaLand {s : State} {gid : Nat} {who : Who} {g : Gang} {c : Core} (hg : aget gid s.gangs = some g)
    (hc : g.coreAt who.rank = some c) (n p : Nat) (sa sb zero : Bool) (diag : Option Int) :
    (s.landAct gid who (.mmaLand n p sa sb zero diag)).coreOn gid who.rank =
      some (c.landRows (c.mmaRow (mmaCell (g.pairs who n) n p sa sb zero diag)) (List.range 128)) := by
  rw [State.landAct, State.coreOn, State.parityCells_gangs, State.mmaLand_eq, State.modGang_self, hg]
  refine (Gang.coreAt_modCore g who.rank who.rank _).trans ?_
  rw [if_pos rfl, hc]
  rfl

/-! A promotion window of one cell. -/

theorem windowCell_inv {ps : List CellPair} (h : ∃ x ∈ ps, x.inv = true) (ew : Int) (acc : Nat) :
    windowCell ew acc ps = ((fmtOf 0).nan, flagIV) := if_pos (List.any_eq_true.2 h)

theorem windowCell_idle {ps : List CellPair} (h : ∀ x ∈ ps, x.inv = false ∧ x.live = false) (ew : Int) (acc : Nat) :
    windowCell ew acc ps = (acc, 0) := by
  have hi : ps.any (·.inv) = false := List.any_eq_false.2 fun x hx => by simp [(h x hx).1]
  have hl : ps.filter (·.live) = [] := List.filter_eq_nil_iff.2 fun x hx => by simp [(h x hx).2]
  simp [windowCell, hi, hl]

/-- The sum of a window's products, without its exactness. -/
theorem windowSum_fst (ew : Int) (ps : List CellPair) (a : Int) (b : Bool) :
    (ps.foldl (fun (p : Int × Bool) c =>
      let x := roundAt 0 ⟨c.t, c.e⟩ ew
      (p.1 + x.1, p.2 || !x.2)) (a, b)).1 = (ps.map fun x => (roundAt 0 ⟨x.t, x.e⟩ ew).1).foldl (· + ·) a := by
  induction ps generalizing a b with
  | nil => rfl
  | cons x ps ih => exact ih _ _

/-- A window of live pairs adds its sum to a finite cell in one rounding, and leaves the cell for a sum of zero (R79). -/
theorem windowCell_live {ps : List CellPair} (h : ∀ x ∈ ps, x.inv = false ∧ x.live = true) {acc : Nat} {neg : Bool} {m : Nat} {e : Int}
    (ha : (fmtOf 0).val acc = .fin neg m e) (ew : Int) :
    let sum := (ps.map fun x => (roundAt 0 ⟨x.t, x.e⟩ ew).1).foldl (· + ·) 0
    (windowCell ew acc ps).1 = if sum = 0 then acc else (roundF (fmtOf 0) 0 false ((FVal.fin neg m e).dy.add ⟨sum, ew⟩)).1 := by
  intro sum
  have hi : ps.any (·.inv) = false := List.any_eq_false.2 fun x hx => by simp [(h x hx).1]
  have hl : ps.filter (·.live) = ps := List.filter_eq_self.2 fun x hx => (h x hx).2
  by_cases hn : ps = []
  · subst hn
    rw [windowCell_idle (by simp)]
    exact (if_pos rfl).symm
  · have hs := windowSum_fst ew ps 0 false
    simp only [windowCell, hi, hl, List.isEmpty_eq_false_iff.2 hn, Bool.false_eq_true, if_false, ha, hs]
    exact apply_ite Prod.fst _ _ _

/-- Settles O27: the plan shared by the three instructions, consumption by the state of the entries, the landing cell by cell, and the window
by its live pairs. -/
theorem multiplySchedules : Obligations.MultiplySchedules := by
  intro p cw kn w n bw per ents rel form
  have hform (i : Instr) (zero causal : Bool) (hi : planOf i = some (planMma zero causal p cw kn)) : form i zero causal := by
    refine Completes.of_plan (exec_of_planOf hi) fun x hx => ?_
    obtain ⟨h30, hdiag, hbw, hn1, hn2, harr, hacc⟩ := hx
    refine (if_neg ?_).trans ?_
    · rintro (h | h | h | h | h)
      · exact h h30
      · cases causal
        · exact absurd (hdiag rfl) (by simpa using h)
        · exact absurd h (by simp)
      · have hc : (decide (2 ≤ fld (x.c.rd cw) 2 4) && decide (fld (x.c.rd cw) 2 4 ≤ 8) || fld (x.c.rd cw) 2 4 == 15) = true := by
          simpa using hbw
        rw [hc] at h
        exact absurd h (by decide)
      · exact absurd h (Nat.ne_of_gt hn1)
      · exact absurd h (Nat.not_lt.2 hn2)
    · rw [Ctx.arrayBusy_none harr hacc]
      rfl
  refine ⟨hform _ false false rfl, hform _ false true rfl, hform _ true false rfl, ?_, ?_, fun l => cellsOfRow_rowOfCells,
    fun ew acc q k ps fl => ⟨rfl, rfl, fun h => windowCell_inv h ew acc, fun h => windowCell_idle h ew acc, fun neg m e h ha => windowCell_live h ha ew⟩⟩
  · intro s gid who g c ea eb j a b bw ap2 sa sb hg hc
    refine ⟨fun ha hb hda hdb hca hcb hra hrb => ?_, fun ha => State.mmaPair_unfilled hg hc (entryTrap_empty ha _ _ _) _ _ _ _ _ _,
      fun ha hp => State.mmaPair_unfilled hg hc (entryTrap_pending ha hp _ _) _ _ _ _ _ _⟩
    have hpair := State.mmaPair_filled hg hc ha hb (entryTrap_filled ha hda hca _ _) (entryTrap_filled hb hdb hcb _ _) hra hrb j
    refine ⟨fun h => hpair.trans ?_, fun k hk => hpair.trans ?_⟩
    · rw [List.findSome?_eq_none_iff.2 h]; rfl
    · rw [hk]; rfl
  · intro s gid who g c n q sa sb zero diag hg hc cell row
    exact ⟨_, State.coreOn_mmaLand hg hc n q sa sb zero diag, by rw [Core.landRows_eq]; rfl, Core.landRows_acc _ c⟩

end Sys2Proof.Machine

namespace Sys2Proof.Laws.RoundTrip

/-- The law of the layout for every instruction: one lemma of the family for each constructor, in the order of the opcode table. -/
theorem holds (i : Instr) : Statement i :=
  @Instr.casesOn Statement i
    add sub mul mulh div rem min max and or xor andn shl shr rot clz popc extr insr cmp sel mov addi andi ori xori shli shri cmpi li liu
    lih agen ageni ld st spill fill br call ret brx loop endl cue hold wait await endstep mfsr mtsr abs neg adds subs muli ctz brev crcx
    rollk ktox xtok btst movc vadd vsub vmul vmulh vmin vmax vand vor vxor vandn vshl vshr vabs vneg vadds vsubs vfadd vfsub vfmul vfma
    vfms vfnma vfnms vfmin vfmax vfabs vfneg vsqrt vrcp vrsq vexp2 vlog2 vcmp vfcmp kand kor kxor knot kpopc vsel vcvt vcvtfi vcvtif vcvtii
    vqnt vxpd vsplat vbcast vred vfred vscan vfscan vperm vrot vcmpr viota vld vlds vldx vst vsts vstx vgetx vmov feeda feedb feedax feedbx
    wina winb cropa qclr mma mmac aclr ald asav drn drna drnf wcfg wpadv boxcfg poolmx poolav ascl abias aclmp ardv awrv drnr mmaz feedd
    mcfg mstat qstat copy copya seqcfg mcopy tlfetch ucopy gath gaths scat scatw pin unpin xform xformv ufill xstat atadd atmin atmax atand
    ator atxor atswp atcas atfmin atfmax atfadd gongArr gongWait gongHdl gongInit lstep lgraph cmuTab cmuFrm mpb belLook belDep belRes
    belPin act rd wr pre prea refpb rda wra ringSet ringSeek ringAdv ringGong wrm rdz wrz dmark nop trap trapnz brk svc event ckmark ill
    unassignedOpcode stepOverrun abandonmentFinish trapRecord stepCompletion flagAreaWrite segmentRelease loopIterationStart dynamicWaitEnd
    waitBudgetExhausted untimedBeatLanding untimedCompletion traceForward refreshAccrual baseDieRefresh abandonPrecharge pooledSlot scrub
    dispatchSlot stagingCheck downbeat waiterRelease futureResolved regionResident preemption affinityHoldExpiry hangTimeout
    queueRecordWrite versionRegister pchModeChange launchPacket framePacket accessUnitConsumed frameOutput frameGongArrival streamOpen
    layerTableLoad frameScoring belfryDeposit depositCopyDone belfryLookup belfryResumption belfryPin rowRepair dieSubstitution
    substitutionEnd dieAbsent hostWindowWrite hostWindowRead invgo invalidationDone econs rctlGo registerWrite getVersion getCapabilities
    negotiateAlgorithms getDigests getCertificate challenge getMeasurements configurationRequest coldReset bootStage functionLevelReset
    thermalHold thermalHoldEnd powerHold powerHoldEnd thermalShutdown jobAbort lineRemap
end Sys2Proof.Laws.RoundTrip

namespace Sys2Proof

/-! Decoding what was encoded (R87, R89, R116, R129). -/

theorem judge_of_wf {i : Instr} (h : i.wf = true) : judge i = .ok i := by
  obtain ⟨hfirst, hcont⟩ := Bool.and_eq_true_iff.1 h
  rw [judge, if_pos hfirst, if_pos hcont]

/-- A word of a one-word opcode, whatever follows it, is the instruction its body lays out. -/
theorem decode_one_word {i : Instr} {op : BitVec 8} {body : BitVec 46} {st : StreamId} (hlow : op.toNat < 0xE0) (hst : streamOk op.toNat st = true)
    (hone : twoWords op.toNat = false) (hb : decodeBody op.toNat body 0 = .ok i) (hw : i.wf = true) (idle : BitVec 10) (nxt : Option Word) :
    decode st (idle ++ op ++ body) nxt = .ok i := by
  simp only [decode, opOf_word, bodyOf_word, hb, judge_of_wf hw]
  simp [Nat.not_le.2 hlow, hst, hone]

/-- A word of a two-word opcode and its continuation word are the instruction their bodies lay out. -/
theorem decode_two_words {i : Instr} {op : BitVec 8} {body cont : BitVec 46} {st : StreamId} (hlow : op.toNat < 0xE0)
    (hst : streamOk op.toNat st = true) (htwo : twoWords op.toNat = true) (hb : decodeBody op.toNat body cont = .ok i) (hw : i.wf = true)
    (idle : BitVec 10) : decode st (idle ++ op ++ body) (some ((0 : BitVec 18) ++ cont)) = .ok i := by
  simp only [decode, opOf_word, bodyOf_word, bodyOf_cont, hb, judge_of_wf hw, top_cont]
  simp [Nat.not_le.2 hlow, hst, htwo]

@[simp] theorem wordsOf_word (idle : BitVec 10) (op : BitVec 8) (body : BitVec 46) :
    wordsOf (idle ++ op ++ body) = if twoWords op.toNat then 2 else 1 := by
  rw [wordsOf, opOf_word]

/-- Settles O42: the body is read back by the law of its layout (`RoundTrip.holds`), and the words by whether the opcode takes one or two. -/
theorem decodeEncodeAgree : Obligations.DecodeEncodeAgree := by
  intro i e idle st he hw hst
  obtain ⟨hb, hc, hlow⟩ := Laws.RoundTrip.holds i e he
  obtain ⟨op, body, cont⟩ := e
  cases cont with
  | none => exact ⟨_, _, rfl, decode_one_word hlow hst hc.symm hb hw idle _, idleOf_word _ _ _, by simp [← hc], opOf_word _ _ _⟩
  | some x => exact ⟨_, _, rfl, decode_two_words hlow hst hc.symm hb hw idle, idleOf_word _ _ _, by simp [← hc], opOf_word _ _ _⟩

end Sys2Proof

namespace Sys2Proof.Machine

/-! Branches (R93, R122, R147, R148, R154). -/

/-- A target from word 6 to the program's end that lies after the LOOP of every open level is no fault. -/
theorem Ctx.branchTrap_none {x : Ctx} {tgt : Int}
    (h : 6 ≤ tgt ∧ tgt < x.s.progLen x.g x.who.rank x.who.strm ∧ ∀ l ∈ x.st.loops, (l.loopPc : Int) < tgt) : x.branchTrap tgt = none := by
  obtain ⟨hlow, hend, hloops⟩ := h
  have hback : x.st.loops.any (fun l => decide (tgt ≤ l.loopPc)) = false :=
    List.any_eq_false.2 fun l hl => by simpa using hloops l hl
  rw [Ctx.branchTrap, if_neg (by omega), hback, if_neg Bool.false_ne_true]

theorem Ctx.branchPlan_ok {x : Ctx} {tgt : Int} (h : x.branchTrap tgt = none) (reads : List Loc) (e : Eff) :
    x.branchPlan reads tgt e = ⟨reads, .ok { e with flow := some (Stream.branch x.t tgt) }⟩ := by
  rw [Ctx.branchPlan, h]

theorem planBr_taken {cond : BitVec 3} {a : Opnd} {x : Ctx} (h : brTaken cond.toNat (x.c.sx a) = true) (off : BitVec 24) :
    planBr cond a off x = x.branchPlan (if cond = 0 then [] else [a.xloc]) (x.st.pc + off.toInt) {} := if_pos h

theorem planBr_untaken {cond : BitVec 3} {a : Opnd} {x : Ctx} (h : brTaken cond.toNat (x.c.sx a) = false) (off : BitVec 24) :
    planBr cond a off x = ⟨if cond = 0 then [] else [a.xloc], .ok {}⟩ := if_neg (by simp [h])

/-- Settles O10: a taken branch is the plan of its target, which is no fault where the three conditions hold. -/
theorem branchesTaken : Obligations.BranchesTaken := by
  intro cond a off ok go
  refine ⟨?_, ?_, ?_, ?_, ?_⟩
  · exact Completes.of_plan (exec_of_planOf rfl) fun x ⟨htaken, h⟩ =>
      (planBr_taken htaken off).trans (Ctx.branchPlan_ok (Ctx.branchTrap_none h) _ _)
  · exact Completes.of_plan (exec_of_planOf rfl) fun x h => planBr_untaken h off
  all_goals exact Completes.of_plan (exec_of_planOf rfl) fun x h => Ctx.branchPlan_ok (Ctx.branchTrap_none h) _ _

/-! HOLD, AWAIT, ENDSTEP and CUE (R96, R149 to R155, R181, R272). -/

theorem planHold_released {x : Ctx} (hl : x.st.loops = []) (hp : x.portsTrap = none) :
    planHold x = ⟨[], .ok { flow := some fun s => { s with pc := s.pc + 1, st := .hold } }⟩ := by
  simp [planHold, hl, hp]

theorem planAwait_outside {x : Ctx} (hl : x.st.loops = []) (mask : BitVec 16) :
    planAwait mask x = ⟨[], .ok { flow := some fun s => { s with pc := s.pc + 1, st := .wait (.tags mask) x.who } }⟩ := by
  simp [planAwait, hl]

theorem planEndstep_released {x : Ctx} (hl : x.st.loops = []) (hh : x.who.strm = .c → x.held = false) (hp : x.portsTrap = none)
    (hb : x.openBank = none) : planEndstep x = ⟨[], .ok { flow := some fun s => { s with st := .ended } }⟩ := by
  have hheld : ¬ (x.who.strm = .c ∧ x.held) := fun ⟨hc, h⟩ => by simp [hh hc] at h
  simp [planEndstep, hl, hheld, hp, hb, firstTrap, lowestTrap]

/-- The record that a CUE leaves with its gang: its release cycle and the counts of its operand (R150). -/
def Ctx.cueRec (x : Ctx) (a : Opnd) (off : BitVec 8) : CueRec :=
  ⟨x.who.rank, x.s.tlc + off.toNat, (List.range 4).map fun j => fld (x.c.rd a) (16 * j) 16, x.who⟩

theorem planCue_in_range {x : Ctx} {off : BitVec 8} (ho : (if x.g.twoDies then 104 else 16) ≤ off.toNat) (hl : x.st.loops = []) (a : Opnd) :
    planCue a off x = ⟨[a.xloc], .ok { gang := fun g => { g with cues := g.cues ++ [x.cueRec a off] }
                                       flow := some fun s => { s with pc := s.pc + 1, st := .cued } }⟩ := by
  refine (if_neg (Nat.not_lt.2 ho)).trans (if_neg ?_)
  simp [hl]

/-- Settles O12, instruction by instruction: each is its plan, and what would refuse it is absent. -/
theorem waitsEndsAndCues : Obligations.WaitsEndsAndCues := by
  refine ⟨fun n mask => ⟨?_, ?_, ?_, ?_⟩, fun a off => ⟨?_, ?_⟩⟩
  · exact Completes.of_plan (exec_of_planOf rfl) fun x _ => rfl
  · exact Completes.of_plan (exec_of_planOf rfl) fun x ⟨hl, hp⟩ => planHold_released hl hp
  · exact Completes.of_plan (exec_of_planOf rfl) fun x hl => planAwait_outside hl mask
  · exact Completes.of_plan (exec_of_planOf rfl) fun x ⟨hl, hh, hp, hb⟩ => planEndstep_released hl hh hp hb
  · exact Completes.of_plan (exec_of_planOf rfl) fun x ⟨ho, hl⟩ => planCue_in_range ho hl a
  · exact Faults.of_plan (exec_of_planOf rfl) fun x ho => if_pos ho

/-! LOOP and ENDL (R97, R153, R154). -/

/-- The first opening in the gang of the level that this LOOP opens: its cycle and its period (R154). -/
def Ctx.firstOpening (x : Ctx) (lvl : Nat) : Option (Nat × Nat × Nat × Nat) := x.g.nest.find? fun e => e.1 == lvl && e.2.1 == x.st.opens lvl

/-- What a LOOP adds to its gang's nest: its own opening, where it is the first. -/
def Ctx.noteOpening (x : Ctx) (lvl per : Nat) (g : Gang) : Gang := match x.firstOpening lvl with
  | some _ => g
  | none => { g with nest := g.nest ++ [(lvl, x.st.opens lvl, x.s.tlc, per)] }

/-- The level is the next, and whoever opened it first did so on this cycle with this period. -/
def Ctx.loopFits (x : Ctx) (lvl per : Nat) : Prop :=
  lvl = x.st.loops.length ∧ ∀ e, x.firstOpening lvl = some e → e.2.2.1 = x.s.tlc ∧ e.2.2.2 = per

/-- A LOOP that fits the nest opens its level, or goes on past it where its count is zero (R154). -/
theorem planLoop_fits {x : Ctx} {lvl : BitVec 2} {per : BitVec 20} (h : x.loopFits lvl.toNat (per.toNat + 1)) :
    planLoop lvl per x =
      if (x.counts[lvl.toNat]?).getD 0 = 0 then
        ⟨[], .ok { gang := x.noteOpening lvl.toNat (per.toNat + 1)
                   flow := some fun s => { s with
                     opened := aset lvl.toNat (x.st.opens lvl.toNat + 1) s.opened
                     pc := (findEndl x.s x.g x.who.rank x.who.strm lvl.toNat 16384 (x.st.pc + 1)).getD
                       (x.s.progLen x.g x.who.rank x.who.strm - 1) + 1
                     base := x.s.tlc + 1, floor := 0 } }⟩
      else
        ⟨[], .ok { gang := x.noteOpening lvl.toNat (per.toNat + 1)
                   flow := some fun s => { s with
                     opened := aset lvl.toNat (x.st.opens lvl.toNat + 1) s.opened, pc := s.pc + 1, base := x.s.tlc + 1, floor := 0
                     loops := ⟨lvl.toNat, x.s.tlc + 1, per.toNat + 1, (x.counts[lvl.toNat]?).getD 0, 0, s.pc + 1, s.pc, none⟩ ::
                       s.loops } }⟩ := by
  obtain ⟨hl, hfirst⟩ := h
  refine (if_neg (not_not_intro hl)).trans ((if_neg ?_).trans rfl)
  change ¬ (match x.firstOpening lvl.toNat with | some e => e.2.2.1 != x.t || e.2.2.2 != per.toNat + 1 | none => false) = true
  cases hf : x.firstOpening lvl.toNat with
  | none => simp
  | some e =>
    obtain ⟨ht, hp⟩ := hfirst e hf
    simp [ht, hp, Ctx.t]

theorem planEndl_innermost {x : Ctx} {lvl : BitVec 2} {l : LoopLv} {rest : List LoopLv} (hs : x.st.loops = l :: rest) (hl : l.lvl = lvl.toNat)
    (he : l.endl = none) :
    planEndl lvl x = ⟨[], .ok { flow := some fun s => { s with
      pc := if l.iter + 1 < l.count then l.bodyPc else s.pc + 1
      base := l.origin + (l.iter + 1) * l.period, floor := 0
      loops := { l with endl := some x.s.tlc } :: rest } }⟩ := by
  simp only [planEndl, hs, hl, he, ne_eq, not_true, Option.isSome_none, Bool.false_eq_true, or_self, if_false]
  rfl

/-- Settles O13: LOOP by whether its count is zero, ENDL by the innermost level. -/
theorem loopsOpenAndClose : Obligations.LoopsOpenAndClose := by
  intro lvl per opens first fits note cnt
  refine ⟨?_, ?_, fun l rest => ?_⟩
  · exact Completes.of_plan (exec_of_planOf rfl) fun x ⟨hfits, hcnt⟩ => (planLoop_fits hfits).trans (if_neg hcnt)
  · exact Completes.of_plan (exec_of_planOf rfl) fun x ⟨hfits, hcnt⟩ => (planLoop_fits hfits).trans (if_pos hcnt)
  · exact Completes.of_plan (exec_of_planOf rfl) fun x ⟨hs, hl, he⟩ => planEndl_innermost hs hl he

end Sys2Proof.Machine

namespace Sys2Proof.Machine

/-! The faults of a word at issue (R104 to R108, R129, R384). -/

/-- The fault that is reported is of the lowest cause among all (R108). -/
theorem lowestTrap_le {l : List Trap} {b : Trap} (h : lowestTrap l = some b) : ∀ u ∈ l, b.cause ≤ u.cause := by
  induction l generalizing b with
  | nil => exact fun u hu => nomatch hu
  | cons a t ih =>
    rw [lowestTrap] at h
    intro u hu
    split at h
    next hn =>
      have ht : t = [] := by_contra fun hne => by
        obtain ⟨tr, _, e⟩ := lowestTrap_mem hne
        cases hn.symm.trans e
      cases h
      rw [ht, List.mem_singleton] at hu
      rw [hu]
    next c hc =>
      have hle := ih hc
      split at h <;> cases h <;> rcases List.mem_cons.1 hu with rfl | hu
      · omega
      · exact hle u hu
      · exact Nat.le_refl _
      · have := hle u hu
        omega

/-- A word that meets some fault raises one of lowest cause, and does nothing else (R41, R108). -/
theorem Ctx.run_lowest {x : Ctx} {i : Instr} {p : Plan} {tr : Trap} (h : tr ∈ x.traps i p) :
    ∃ low ∈ x.traps i p, (∀ u ∈ x.traps i p, low.cause ≤ u.cause) ∧ x.run i p = x.s.raise x.gid x.t (some x.who) low := by
  obtain ⟨low, hmem, hlow⟩ := lowestTrap_mem (List.ne_nil_of_mem h)
  exact ⟨low, hmem, lowestTrap_le hlow, by simp only [Ctx.run, hlow]⟩

/-- A word that meets none takes effect. -/
theorem Ctx.run_ok {x : Ctx} {i : Instr} {p : Plan} {e : Eff} (he : p.res = .ok e) (h : x.traps i p = []) : x.run i p = x.issued p.reads e := by
  simp only [Ctx.run, h, lowestTrap, he]
  rfl

/-- An early read of a timed delivery is among the faults a decoded word meets (R106). -/
theorem Ctx.missTrap_mem {x : Ctx} {i : Instr} {p : Plan} {l : Loc} {h : Hazard} (hd : x.decodeTrap i = none) (hl : l ∈ p.reads)
    (hh : hazardOf x.t true (x.against p) l = some h) : missTrap x.g.dbt h ∈ x.traps i p := by
  have hm : h ∈ p.reads.filterMap (hazardOf x.t true (x.against p)) := List.mem_filterMap.2 ⟨l, hl, hh⟩
  simp only [Ctx.traps, Ctx.trapsBy, hd, List.mem_append]
  exact .inl (.inl (.inr (List.mem_map_of_mem hm)))

/-- In trap mode every hazard is (R104). -/
theorem Ctx.hazTrap_mem {x : Ctx} {i : Instr} {p : Plan} {h : Hazard} (hd : x.decodeTrap i = none) (hm : x.c.mode = 2) (hh : h ∈ x.hazards p) :
    hazTrap x.g.dbt h ∈ x.traps i p := by
  simp only [Ctx.traps, Ctx.trapsBy, hd, if_pos hm, List.mem_append]
  exact .inr (List.mem_map_of_mem hh)

/-- HITS counts the recorded hazards up to 65535, and the log keeps 32 (R36, R105). -/
theorem Core.record_hits (c : Core) (dbt : Nat) (w : Who) (hs : List Hazard) : (c.record dbt w hs).hits = min (c.hits + hs.length) 65535 := by
  simp only [Core.record]
  split <;> omega

theorem Core.length_record_log (c : Core) (dbt : Nat) (w : Who) (hs : List Hazard) : (c.record dbt w hs).log.length ≤ 32 := by
  simp [Core.record]

/-- In record mode the core that issues records the hazards of the word's reads (R36, R104). -/
theorem Ctx.coreOn_issued {x : Ctx} {e : Eff} {c : Core} (hm : x.c.mode = 1) (hc : (x.commit e).coreOn x.gid x.who.rank = some c) (p : Plan) :
    (x.issued p.reads e).coreOn x.gid x.who.rank = some (c.record x.g.dbt x.who (x.hazards p)) := by
  rw [Ctx.issued, State.coreOn_modCore_self hc, if_pos hm, x.hazards_reads p]

/-- Settles O48: the faults of a word are those of `Ctx.traps`, of which the lowest is raised; with none it takes effect and records. -/
theorem issueFaults : Obligations.IssueFaults := by
  intro i p s x hp hx
  have hexec : exec i s = .next (x.run i (p x)) := (exec_of_planOf hp s).trans (issue_next hx)
  obtain rfl : x.s = s := State.ctx_s hx
  have hlowest (tr : Trap) (h : tr ∈ x.traps i (p x)) : ∃ low ∈ x.traps i (p x), (∀ u ∈ x.traps i (p x), low.cause ≤ u.cause) ∧
      exec i x.s = .next (x.s.raise x.gid x.s.tlc (some x.who) low) := by
    obtain ⟨low, hmem, hle, hrun⟩ := Ctx.run_lowest h
    exact ⟨low, hmem, hle, hexec.trans (congrArg _ hrun)⟩
  refine ⟨hlowest, fun l h hd hl hh => ?_, fun hd hm hne => ?_, fun e he hnone => ⟨?_, fun hm c hc => ?_⟩⟩
  · have hmem := Ctx.missTrap_mem hd hl hh
    obtain ⟨low, _, hle, hrun⟩ := hlowest _ hmem
    exact ⟨low, hle _ hmem, hrun⟩
  · obtain ⟨h, hh⟩ := List.exists_mem_of_ne_nil _ hne
    have hmem := Ctx.hazTrap_mem hd hm hh
    obtain ⟨low, _, hle, hrun⟩ := hlowest _ hmem
    exact ⟨low, hle _ hmem, hrun⟩
  · exact hexec.trans (congrArg _ (Ctx.run_ok he hnone))
  · exact ⟨_, Ctx.coreOn_issued hm hc (p x), Core.record_hits _ _ _ _, le_max_of_le_right (Core.length_record_log _ _ _ _)⟩

end Sys2Proof.Machine

namespace Sys2Proof.Machine

/-! The next thing that happens (log 3), and the word a stream fetches (R89, R92, R386). -/

theorem step_of_run {s t : State} {i : Instr} (h : s.turn = .run i t) : step s = exec i t := by simp only [step, h]
theorem step_of_auto {s : State} {a : Auto} (h : s.turn = .auto a) : step s = .next (a.apply s) := by simp only [step, h]
theorem step_of_done {s t : State} (h : s.turn = .done t) : step s = .next t := by simp only [step, h]

section
variable {s : State}

theorem State.turn_input {i : Instr} {t : State} (h : s.nextInput = some (i, t)) : s.turn = .run i t := by simp only [State.turn, h]

variable (hin : s.nextInput = none)
include hin

theorem State.turn_early {a : Auto} (h : s.early = some a) : s.turn = .auto a := by simp only [State.turn, hin, h]

variable (he : s.early = none)
include he

theorem State.turn_word {gid rank : Nat} {g : Gang} {st : Stream} (h : s.dueWord = some (gid, g, rank, st)) :
    s.turn = s.wordTurn gid g rank st := by simp only [State.turn, hin, he, h]

variable (hw : s.dueWord = none)
include hw

theorem State.turn_gangs {a : Auto} (h : s.lateGangs = some a) : s.turn = .auto a := by simp only [State.turn, hin, he, hw, h]

theorem State.turn_gongs (hl : s.lateGangs = none) (h : s.gongQ ≠ []) : s.turn = .done s.gongsDone := by
  simp [State.turn, hin, he, hw, hl, h]

theorem State.turn_late {a : Auto} (hl : s.lateGangs = none) (hq : s.gongQ = []) (h : s.lateEvent = some a) : s.turn = .auto a := by
  simp [State.turn, hin, he, hw, hl, hq, h]

theorem State.turn_cycle (hl : s.lateGangs = none) (hq : s.gongQ = []) (h : s.lateEvent = none) : s.turn = .done s.nextCycle := by
  simp [State.turn, hin, he, hw, hl, hq, h]

end

/-- The word that issues runs where its stream decodes it, with the cursor on the stream and the corrections of its fetch recorded. -/
theorem State.wordTurn_ok {s : State} {gid rank : Nat} {g : Gang} {st : Stream} {rs : List Read} {i : Instr}
    (h : { s with cursor := ⟨gid, rank, st.id⟩ }.fetchInstr g rank st = (rs, .ok i)) :
    s.wordTurn gid g rank st = .run i ({ s with cursor := ⟨gid, rank, st.id⟩ }.fetched g rs) := by
  simp only [State.wordTurn, h]

/-- It faults at issue where it is refused (R129). -/
theorem State.wordTurn_error {s : State} {gid rank : Nat} {g : Gang} {st : Stream} {rs : List Read} {tr : Trap}
    (h : { s with cursor := ⟨gid, rank, st.id⟩ }.fetchInstr g rank st = (rs, .error tr)) :
    s.wordTurn gid g rank st =
      .done (({ s with cursor := ⟨gid, rank, st.id⟩ }.fetched g rs).raise gid s.tlc (some ⟨rank, st.id, st.pc, s.tlc⟩) tr) := by
  simp only [State.wordTurn, h]

/-- A word that its code delivers whole brings no machine check (R386). -/
theorem Read.fetchTrap_none {r : Read} (h : r.bad = none) : r.fetchTrap = none := by rw [Read.fetchTrap, h]

theorem State.fetchInstr_one {s : State} {g : Gang} {rank : Nat} {st : Stream} {r : Read} {i : Instr} (hr : s.wordAt g rank st.id st.pc = some r)
    (hb : r.bad = none) (h1 : wordsOf r.word = 1) (hd : decode st.id r.word none = .ok i) : s.fetchInstr g rank st = ([r], .ok i) := by
  simp [State.fetchInstr, hr, h1, Read.fetchTrap_none hb, lowestTrap, hd]

theorem State.fetchInstr_two {s : State} {g : Gang} {rank : Nat} {st : Stream} {r q : Read} {i : Instr} (hr : s.wordAt g rank st.id st.pc = some r)
    (hb : r.bad = none) (h2 : wordsOf r.word = 2) (hq : s.wordAt g rank st.id (st.pc + 1) = some q) (hqb : q.bad = none)
    (hd : decode st.id r.word (some q.word) = .ok i) : s.fetchInstr g rank st = ([r, q], .ok i) := by
  simp [State.fetchInstr, hr, h2, hq, Read.fetchTrap_none hb, Read.fetchTrap_none hqb, lowestTrap, hd]

/-- Settles O40: the cases of `State.turn`, and what a stream fetches. -/
theorem stepRunsDecodedWord : Obligations.StepRunsDecodedWord := by
  intro s
  refine ⟨fun i t h => step_of_run (State.turn_input h), fun hin => ⟨fun a h => step_of_auto (State.turn_early hin h), ?_, ?_⟩,
    fun g rank st r i hr hb h1 hd => State.fetchInstr_one hr hb h1 hd,
    fun g rank st r q i hr hb h2 hq hqb hd => State.fetchInstr_two hr hb h2 hq hqb hd, ?_, ?_⟩
  · intro gid g rank st he hw
    have hturn := State.turn_word hin he hw
    exact ⟨fun rs i h => step_of_run (hturn.trans (State.wordTurn_ok h)), fun rs tr h => step_of_done (hturn.trans (State.wordTurn_error h))⟩
  · intro he hw
    exact ⟨fun a h => step_of_auto (State.turn_gangs hin he hw h), fun hl h => step_of_done (State.turn_gongs hin he hw hl h),
      fun hl hq => ⟨fun a h => step_of_auto (State.turn_late hin he hw hl hq h), fun h => step_of_done (State.turn_cycle hin he hw hl hq h)⟩⟩
  · intro g rank c pc id hc hid hpc
    cases id with
    | d n => cases hid
    | c | m | v | l | s => simp only [State.wordAt, hc, if_pos hpc]
  · intro g rank n m pc hm hlow hend
    simp [State.wordAt, hm, hlow, hend]

/-- Settles O41: each word is fixed, and the decoder evaluates it. -/
theorem specWordsDecode : Obligations.SpecWordsDecode := ⟨rfl, rfl, rfl, rfl, rfl, rfl, rfl, rfl⟩

end Sys2Proof.Machine

namespace Sys2Proof.Machine

/-! Targets that R122 and R154 refuse. -/

theorem Ctx.branchPlan_error {x : Ctx} {tgt : Int} {tr : Trap} (h : x.branchTrap tgt = some tr) (reads : List Loc) (e : Eff) :
    x.branchPlan reads tgt e = ⟨reads, .error tr⟩ := by
  rw [Ctx.branchPlan, h]

theorem Ctx.branchTrap_outside {x : Ctx} {tgt : Int} (h : tgt < 6 ∨ (x.s.progLen x.g x.who.rank x.who.strm : Int) ≤ tgt) :
    x.branchTrap tgt = some { cause := 0 } := if_pos h

theorem Ctx.branchTrap_backward {x : Ctx} {tgt : Int} (hin : ¬ (tgt < 6 ∨ (x.s.progLen x.g x.who.rank x.who.strm : Int) ≤ tgt))
    (hback : ∃ l ∈ x.st.loops, tgt ≤ (l.loopPc : Int)) : x.branchTrap tgt = some { cause := 16, lo := 3 } :=
  (if_neg hin).trans (if_pos (by simpa using hback))

/-- A word that branches to `tgt` wherever `taken` holds meets both faults of a target: cause 0 outside the program, and cause 16
at or before an open level's LOOP. -/
theorem Faults.of_branchPlan {i : Instr} {plan : Ctx → Plan} {reads : Ctx → List Loc} {taken : Ctx → Prop} {tgt : Ctx → Int} {e : Ctx → Eff}
    (hi : planOf i = some plan) (hp : ∀ x, taken x → plan x = x.branchPlan (reads x) (tgt x) (e x)) :
    Faults i reads (fun x => taken x ∧ (tgt x < 6 ∨ (x.s.progLen x.g x.who.rank x.who.strm : Int) ≤ tgt x)) (fun _ => { cause := 0 }) ∧
    Faults i reads
      (fun x => taken x ∧ ¬ (tgt x < 6 ∨ (x.s.progLen x.g x.who.rank x.who.strm : Int) ≤ tgt x) ∧ ∃ l ∈ x.st.loops, tgt x ≤ (l.loopPc : Int))
      (fun _ => { cause := 16, lo := 3 }) :=
  ⟨Faults.of_plan (exec_of_planOf hi) fun x ⟨ht, hout⟩ => (hp x ht).trans (Ctx.branchPlan_error (Ctx.branchTrap_outside hout) _ _),
    Faults.of_plan (exec_of_planOf hi) fun x ⟨ht, hin, hback⟩ =>
      (hp x ht).trans (Ctx.branchPlan_error (Ctx.branchTrap_backward hin hback) _ _)⟩

/-! Words that the nest refuses (R150, R151, R154, R155). -/

/-- The test by which CUE, HOLD, AWAIT and ENDSTEP find themselves inside a level. -/
theorem Stream.not_isEmpty_loops {st : Stream} (h : st.loops ≠ []) : (!st.loops.isEmpty) = true := by simpa using h

theorem planCue_inside {x : Ctx} {off : BitVec 8} (ho : (if x.g.twoDies then 104 else 16) ≤ off.toNat) (hl : x.st.loops ≠ []) (a : Opnd) :
    planCue a off x = .bad [a.xloc] 16 kindNest := (if_neg (Nat.not_lt.2 ho)).trans (if_pos (Stream.not_isEmpty_loops hl))

theorem planLoop_otherLevel {x : Ctx} {lvl : BitVec 2} (h : lvl.toNat ≠ x.st.loops.length) (per : BitVec 20) :
    planLoop lvl per x = .bad [] 16 kindNest := if_pos h

theorem planEndl_otherLevel {x : Ctx} {lvl : BitVec 2} (h : ∀ l rest, x.st.loops = l :: rest → l.lvl ≠ lvl.toNat) :
    planEndl lvl x = .bad [] 16 kindNest := by
  cases hs : x.st.loops with
  | nil => simp only [planEndl, hs]
  | cons l rest => simp only [planEndl, hs, if_pos (Or.inl (h l rest hs))]

theorem planHold_inside {x : Ctx} (hl : x.st.loops ≠ []) : planHold x = .bad [] 16 kindNest := if_pos (Stream.not_isEmpty_loops hl)

theorem planAwait_inside {x : Ctx} (hl : x.st.loops ≠ []) (mask : BitVec 16) : planAwait mask x = .bad [] 16 kindNest :=
  if_pos (Stream.not_isEmpty_loops hl)

theorem planEndstep_inside {x : Ctx} (hl : x.st.loops ≠ []) : planEndstep x = .bad [] 16 kindNest := if_pos (Stream.not_isEmpty_loops hl)

theorem planEndstep_held {x : Ctx} (hl : x.st.loops = []) (hc : x.who.strm = .c) (hh : x.held = true) :
    planEndstep x = .bad [] 16 kindStruct := (if_neg (by simp [hl])).trans (if_pos ⟨hc, hh⟩)

/-- Settles O11: the four branches by the two faults of a target, the other words by the branch of each plan that refuses it. -/
theorem targetAndNestFaults : Obligations.TargetAndNestFaults := by
  refine ⟨fun cond a off => ⟨?_, ?_, ?_, ?_⟩, fun lvl per mask a off => ⟨?_, ?_, ?_, ?_, ?_, ?_, ?_⟩⟩
  · exact Faults.of_branchPlan rfl fun x htaken => planBr_taken htaken off
  · exact Faults.of_branchPlan rfl fun x _ => rfl
  · exact Faults.of_branchPlan rfl fun x _ => rfl
  · exact Faults.of_branchPlan rfl fun x _ => rfl
  · exact Faults.of_plan (exec_of_planOf rfl) fun x ⟨ho, hl⟩ => planCue_inside ho hl a
  · exact Faults.of_plan (exec_of_planOf rfl) fun x h => planLoop_otherLevel h per
  · exact Faults.of_plan (exec_of_planOf rfl) fun x h => planEndl_otherLevel h
  · exact Faults.of_plan (exec_of_planOf rfl) fun x hl => planHold_inside hl
  · exact Faults.of_plan (exec_of_planOf rfl) fun x hl => planAwait_inside hl mask
  · exact Faults.of_plan (exec_of_planOf rfl) fun x hl => planEndstep_inside hl
  · exact Faults.of_plan (exec_of_planOf rfl) fun x ⟨hl, hc, hh⟩ => planEndstep_held hl hc hh

end Sys2Proof.Machine

namespace Sys2Proof.Machine

/-! Scalar words that write one `x` operand (R131). -/

/-- A word whose plan writes one operand completes with the effect of that write. -/
theorem Completes.of_xPlan {i : Instr} {plan : Ctx → Plan} {reads : Ctx → List Loc} {d : Opnd} {v : Ctx → Int} {lat : Nat}
    (hi : planOf i = some plan) (hp : ∀ x, plan x = x.xPlan (reads x) d (v x) lat) :
    Completes i reads always (fun x => x.xEff d (v x) lat) :=
  Completes.of_plan (exec_of_planOf hi) fun x _ => (hp x).trans (x.xPlan_eq _ _ _ _ _)

/-- The words of R132 to R134 and R137, by their operation. -/
theorem Completes.bin (op : Bin) {i : Instr} {sg : Bool} {d a b : Opnd} (hi : planOf i = some (planBin op sg d a b)) :
    Completes i (fun _ => [a.xloc, b.xloc]) always
      (fun x => x.xEff d (op.res sg d.width (x.c.ext sg a) (x.c.ext sg b) (x.c.rd b)) op.lat) :=
  Completes.of_xPlan hi fun _ => rfl

/-- The words of R135, by their operation. -/
theorem Completes.un (op : Un) {i : Instr} {sg : Bool} {d a : Opnd} (hi : planOf i = some (planUn op sg d a)) :
    Completes i (fun _ => [a.xloc]) always (fun x => x.xEff d (op.res (x.c.ext sg a) (x.c.rd a) a.width) 1) :=
  Completes.of_xPlan hi fun _ => rfl

/-- The words of R139 with an 18-bit immediate, by their operation. -/
theorem Completes.imm (op : Imm) {i : Instr} {d a : Opnd} {imm : BitVec 18} (hi : planOf i = some (planImm op d a imm)) :
    Completes i (fun _ => [a.xloc]) always (fun x => x.xEff d (op.res (x.c.sx a) imm.toInt) op.lat) :=
  Completes.of_xPlan hi fun _ => rfl

/-- Settles O1: each word is `planBin` for its operation. -/
theorem twoOperandInstructions : Obligations.TwoOperandInstructions :=
  ⟨fun _ _ _ _ => ⟨.bin .add rfl, .bin .sub rfl, .bin .mul rfl, .bin .mulh rfl, .bin .min rfl, .bin .max rfl, .bin .adds rfl, .bin .subs rfl⟩,
    fun _ _ _ _ => ⟨.bin .and rfl, .bin .or rfl, .bin .xor rfl, .bin .andn rfl⟩⟩

/-! Division (R133). -/

/-- The quotient of the magnitudes, signed by the two signs, is the quotient truncated toward zero. -/
theorem signed_natAbs_div (a b : Int) :
    (if (a < 0) != (b < 0) then -((a.natAbs / b.natAbs : Nat) : Int) else (a.natAbs / b.natAbs : Nat)) = a.tdiv b := by
  match a, b with
  | .ofNat m, .ofNat n => rfl
  | .ofNat m, .negSucc n => simp [Int.tdiv, Int.negSucc_lt_zero]
  | .negSucc m, .ofNat n => simp [Int.tdiv, Int.negSucc_lt_zero]
  | .negSucc m, .negSucc n => simp [Int.tdiv, Int.negSucc_lt_zero]

theorem divRem_zero (a : Int) : divRem a 0 = (-1, a, flagDZ) := if_pos rfl

theorem divRem_of_ne {a b : Int} (hb : b ≠ 0) : divRem a b = (a.tdiv b, a.tmod b, 0) := by
  simp only [divRem, if_neg hb, signed_natAbs_div, Int.tmod_def, mul_comm]

theorem planDiv_eq (sg : Bool) (d a b : Opnd) (x : Ctx) : planDiv sg d a b x = ⟨[a.xloc, b.xloc], .ok
    (if x.c.ext sg b = 0 then x.xEff d (-1) (divLat d a b) flagDZ
      else x.xEff d ((x.c.ext sg a).tdiv (x.c.ext sg b)) (divLat d a b))⟩ := by
  rw [planDiv, Ctx.xPlan_eq]
  split
  next h => rw [h, divRem_zero]
  next h => rw [divRem_of_ne h]

theorem planRem_eq (sg : Bool) (d a b : Opnd) (x : Ctx) : planRem sg d a b x = ⟨[a.xloc, b.xloc], .ok
    (if x.c.ext sg b = 0 then x.xEff d (x.c.ext sg a) (divLat d a b) flagDZ
      else x.xEff d ((x.c.ext sg a).tmod (x.c.ext sg b)) (divLat d a b))⟩ := by
  rw [planRem, Ctx.xPlan_eq]
  split
  next h => rw [h, divRem_zero]
  next h => rw [divRem_of_ne h]

/-- Settles O2: `divRem` is the truncated quotient with its remainder, and its case of a zero divisor. -/
theorem divisionAndRemainder : Obligations.DivisionAndRemainder := fun sg d a b =>
  ⟨Completes.of_plan (exec_of_planOf rfl) fun x _ => planDiv_eq sg d a b x,
    Completes.of_plan (exec_of_planOf rfl) fun x _ => planRem_eq sg d a b x⟩

/-! The range of an extended operand (R65, R131). -/

theorem Opnd.width_le_64 (o : Opnd) : o.width ≤ 64 := by
  have := o.wcode.isLt
  unfold Opnd.width
  omega

theorem Core.rd_lt (c : Core) (o : Opnd) : c.rd o < 2 ^ o.width := Nat.mod_lt _ (by positivity)

theorem ext_range (sg : Bool) (a w : Nat) : -((2 ^ w : Nat) : Int) ≤ ext sg a w ∧ ext sg a w < (2 ^ w : Nat) := by
  have := Nat.mod_lt a (Nat.two_pow_pos w)
  cases sg with
  | false =>
    simp only [ext, zext, Bool.false_eq_true, if_false]
    omega
  | true =>
    simp only [ext, sext, if_true]
    split <;> omega

theorem Core.ext_range (c : Core) (sg : Bool) (o : Opnd) : -((2 ^ 64 : Nat) : Int) ≤ c.ext sg o ∧ c.ext sg o < (2 ^ 64 : Nat) := by
  have hw : 2 ^ o.width ≤ 2 ^ 64 := Nat.pow_le_pow_right (by decide) (Opnd.width_le_64 o)
  obtain ⟨hlo, hhi⟩ := Machine.ext_range sg (c.rd o) o.width
  unfold Core.ext
  omega

/-- An operand is zero exactly where its extension is. -/
theorem ext_eq_zero {a w : Nat} (h : a < 2 ^ w) (sg : Bool) : ext sg a w = 0 ↔ a = 0 := by
  cases sg with
  | false => simp [ext, zext, Nat.mod_eq_of_lt h]
  | true =>
    have := Nat.two_pow_pos (w - 1)
    simp only [ext, sext, Nat.mod_eq_of_lt h, if_true]
    split <;> omega

theorem Core.ext_eq_zero (c : Core) (sg : Bool) (o : Opnd) : c.ext sg o = 0 ↔ c.rd o = 0 := Machine.ext_eq_zero (c.rd_lt o) sg

/-- The bits of a 64-bit value from bit 64 up are its sign. -/
theorem bitAt_eq {a : Int} (h : -((2 ^ 64 : Nat) : Int) ≤ a ∧ a < (2 ^ 64 : Nat)) (n : Nat) : bitAt a n = a / (2 ^ n : Nat) % 2 := by
  unfold bitAt
  split
  · obtain ⟨hlo, hhi⟩ := h
    have hn : 2 ^ 64 ≤ 2 ^ n := Nat.pow_le_pow_right (by decide) ‹_›
    have hq : a / (2 ^ n : Nat) = if a < 0 then -1 else 0 := by
      split
      · exact Int.ediv_eq_neg_one_of_neg_of_le ‹_› (by omega)
      · exact Int.ediv_eq_zero_of_lt (by omega) (by omega)
    rw [hq]
    split <;> rfl
  · rfl

/-- Settles O3: `planBin` for the shifts, the rotation and the bit test, whose bit 64 and up is the sign, and the plan of CMP. -/
theorem shiftsAndComparisons : Obligations.ShiftsAndComparisons := fun sg d a _ =>
  ⟨.bin .shl rfl, .bin .shr rfl, .bin .rot rfl, fun _ => .of_xPlan rfl fun _ => rfl,
    .of_xPlan rfl fun x => congrArg (x.xPlan _ d · 1) (bitAt_eq (x.c.ext_range sg a) _)⟩

/-! Selection (R138). -/

theorem planSel_eq (sg : Bool) (d a b c : Opnd) (x : Ctx) : planSel sg d a b c x =
    x.xPlan [a.xloc, b.xloc, c.xloc] d (if x.c.ext sg c ≠ 0 then x.c.ext sg a else x.c.ext sg b) 1 := by
  simp only [planSel, ne_eq, Core.ext_eq_zero]

theorem planMovc_moves {sg : Bool} {b : Opnd} {x : Ctx} (h : x.c.ext sg b ≠ 0) (d a : Opnd) :
    planMovc sg d a b x = x.xPlan [a.xloc, b.xloc] d (x.c.ext sg a) 1 := if_pos fun hb => h ((x.c.ext_eq_zero sg b).2 hb)

theorem planMovc_keeps {sg : Bool} {b : Opnd} {x : Ctx} (h : x.c.ext sg b = 0) (d a : Opnd) :
    planMovc sg d a b x = ⟨[a.xloc, b.xloc], .ok {}⟩ := if_neg (not_not.2 ((x.c.ext_eq_zero sg b).1 h))

/-- Settles O4: `planUn` for its operations, and SEL and MOVC by whether an extension is zero. -/
theorem oneOperandAndSelection : Obligations.OneOperandAndSelection :=
  ⟨fun sg d a => ⟨.un .mov rfl, .of_xPlan rfl fun x => congrArg (x.xPlan _ d · 1) (Int.natCast_natAbs (x.c.ext sg a)), .un .neg rfl,
      .un .clz rfl, .un .ctz rfl, .un .popc rfl, .un .brev rfl⟩,
    fun sg d a b c => ⟨.of_xPlan rfl fun _ => rfl, .of_xPlan rfl fun _ => rfl, .of_xPlan rfl (planSel_eq sg d a b c),
      .of_plan (exec_of_planOf rfl) fun _ h => (planMovc_moves h d a).trans (Ctx.xPlan_eq ..),
      .of_plan (exec_of_planOf rfl) fun _ h => planMovc_keeps h d a⟩⟩

/-- Settles O5: `planImm` for its operations, and the plans of the other words. -/
theorem immediatesAndAddresses : Obligations.ImmediatesAndAddresses :=
  ⟨fun _ _ _ _ _ => ⟨.imm .addi rfl, .imm .andi rfl, .imm .ori rfl, .imm .xori rfl, .imm .muli rfl, .of_xPlan rfl fun _ => rfl,
      .of_xPlan rfl fun _ => rfl, .imm .cmpi rfl⟩,
    fun _ _ => ⟨.of_xPlan rfl fun _ => rfl, .of_xPlan rfl fun _ => rfl, .of_xPlan rfl fun _ => rfl⟩,
    fun _ _ _ _ _ _ => ⟨.of_xPlan rfl fun _ => rfl, .of_xPlan rfl fun _ => rfl⟩⟩

/-- Settles O6: the plans of CRCX, ROLLK, KTOX and XTOK. -/
theorem checksumKeyAndMaskHalves : Obligations.ChecksumKeyAndMaskHalves := fun _ _ _ _ _ =>
  ⟨.of_xPlan rfl fun _ => rfl, .of_xPlan rfl fun _ => rfl, .of_xPlan rfl fun _ => rfl,
    .of_plan (exec_of_planOf rfl) fun x _ => x.kPlan_eq _ _ _ _ _ _⟩

end Sys2Proof.Machine

namespace Sys2Proof.Machine

/-! Loads and stores of own core memory (R142, R143). -/

/-- The fault of a load at `ad` that would consume poisoned beat `b` (R387). -/
def Ctx.beatTrap (x : Ctx) (ad : Int) (b : Nat) : Trap :=
  { cause := 65, key := b * 32
    hi := packBits [(0, 3, 0), (8, 56, ad.toNat / 32 * 32 + (b * 32 - cmKey x.c.gcore ad.toNat / 32 * 32))] }

/-- The first poisoned beat among those that `n` bytes at `ad` of own core memory touch. -/
def Ctx.poisonedBeat (x : Ctx) (ad : Int) (n : Nat) : Option Nat := (beatsOf (cmKey x.c.gcore ad.toNat) n).find? x.s.poison.contains

/-- A load's fault of poison names its first poisoned beat. -/
theorem Ctx.cmPoison_eq (x : Ctx) (ad : Int) (n : Nat) : x.cmPoison ad n = (x.poisonedBeat ad n).map (x.beatTrap ad) := by
  unfold Ctx.cmPoison Ctx.poisonedBeat
  cases hf : (beatsOf (cmKey x.c.gcore ad.toNat) n).find? x.s.poison.contains with
  | none => exact Read.trap_none (List.any_eq_false.2 (List.find?_eq_none.1 hf)) rfl ..
  | some b =>
    have hb : (beatsOf (cmKey x.c.gcore ad.toNat) n).any x.s.poison.contains = true :=
      List.any_eq_true.2 ⟨b, List.mem_of_find?_eq_some hf, List.find?_some hf⟩
    have hn : n ≠ 0 := by rintro rfl; simp [beatsOf] at hb
    rw [beatsOf, if_neg hn] at hf
    simp only [Read.trap, hb, hf, if_true, Option.getD_some, Option.map_some, Ctx.beatTrap]

theorem Ctx.poisonedBeat_eq_none {x : Ctx} {ad : Int} {n : Nat} :
    x.poisonedBeat ad n = none ↔ ∀ b ∈ beatsOf (cmKey x.c.gcore ad.toNat) n, x.s.poison.contains b = false := by
  simp [Ctx.poisonedBeat, List.find?_eq_none]

section
variable {x : Ctx} {n : Nat} {a : Opnd} {imm : BitVec 18}

theorem planLoad_outside (h : x.g.inCarve (x.cmAddr a imm) n = false) (d : Opnd) :
    planLoad n d a imm x = ⟨a.xloc :: cmLoc (x.cmAddr a imm) n, .error { cause := 33, lo := rangeLo 0 (x.cmAddr a imm) }⟩ :=
  if_pos (by rw [h]; rfl)

theorem planLoad_poisoned {b : Nat} (hin : x.g.inCarve (x.cmAddr a imm) n = true) (hb : x.poisonedBeat (x.cmAddr a imm) n = some b) (d : Opnd) :
    planLoad n d a imm x = ⟨a.xloc :: cmLoc (x.cmAddr a imm) n, .error (x.beatTrap (x.cmAddr a imm) b)⟩ := by
  simp only [planLoad, hin, x.cmPoison_eq, hb, Bool.not_true, Bool.false_eq_true, if_false, Option.map_some]

theorem planLoad_loads (hin : x.g.inCarve (x.cmAddr a imm) n = true) (hb : x.poisonedBeat (x.cmAddr a imm) n = none) (d : Opnd) :
    planLoad n d a imm x = ⟨a.xloc :: cmLoc (x.cmAddr a imm) n, .ok
      { claims := [(d.xloc, x.s.tlc + 4)]
        acts := (x.s.tlc, .xload (x.cmAddr a imm).toNat n d.start.toNat d.width (x.s.tlc + 4)) ::
          bankActs (x.s.tlc + 1) x.c.gcore false (linesOf (x.cmAddr a imm).toNat n) }⟩ := by
  simp only [planLoad, hin, x.cmPoison_eq, hb, Bool.not_true, Bool.false_eq_true, if_false, Option.map_none]
  rfl

theorem planStore_outside (h : x.g.inCarve (x.cmAddr a imm) n = false) (d : Opnd) :
    planStore n d a imm x = ⟨[a.xloc, d.xloc], .error { cause := 33, lo := rangeLo 0 (x.cmAddr a imm) }⟩ := if_pos (by rw [h]; rfl)

theorem planStore_stores (h : x.g.inCarve (x.cmAddr a imm) n = true) (d : Opnd) :
    planStore n d a imm x = ⟨[a.xloc, d.xloc], .ok
      { claims := [(.cm (x.cmAddr a imm).toNat n, x.s.tlc + 3)]
        acts := (x.s.tlc + 3, .mem (cmKey x.c.gcore (x.cmAddr a imm).toNat) (leBytes n (x.c.rd d)) false) ::
          bankActs (x.s.tlc + 3) x.c.gcore true (linesOf (x.cmAddr a imm).toNat n) }⟩ := if_neg (by rw [h]; decide)

end

/-! What a load reads on its issue cycle (R102, R143, R386, R389). -/

/-- The fault of a beat of own core memory that cannot be corrected, found in a read at `addr` (R386). -/
def uncorrectable (gcore addr u : Nat) : Trap :=
  { cause := 82, key := u, hi := packBits [(0, 3, 0), (8, 56, (addr + u - cmKey gcore addr) / 32 * 32)] }

theorem State.loadRead_corrected {s : State} {gcore addr n : Nat} (h : (s.fetch (cmKey gcore addr) n).bad = none) (gid : Nat) (w : Who)
    (reach : Nat) : s.loadRead gid w gcore addr n reach =
      (s.correctedAll (aget gid s.gangs) 0 (s.fetch (cmKey gcore addr) n), (s.fetch (cmKey gcore addr) n).bytes) := by
  simp only [State.loadRead, Read.trap, h, Bool.false_eq_true, if_false]

theorem State.loadRead_uncorrectable {s : State} {gcore addr n u : Nat} (h : (s.fetch (cmKey gcore addr) n).bad = some u)
    (hu : storeOf u = some .core) (gid : Nat) (w : Who) (reach : Nat) : s.loadRead gid w gcore addr n reach =
      ((s.correctedAll (aget gid s.gangs) 0 (s.fetch (cmKey gcore addr) n)).addAgenda gid [⟨reach, w, .late (uncorrectable gcore addr u)⟩],
        (s.fetch (cmKey gcore addr) n).bytes) := by
  simp only [State.loadRead, Read.trap, h, hu, Bool.false_eq_true, if_false]
  rfl

/-- Where no error pattern stands, a load reads memory and changes nothing. -/
theorem State.loadRead_plain {s : State} (h : s.err.upsets = []) (gid : Nat) (w : Who) (gcore addr n reach : Nat) :
    s.loadRead gid w gcore addr n reach = (s, s.mem.bytes (cmKey gcore addr) n) := by
  obtain ⟨hbytes, hbad⟩ := State.fetch_plain h (cmKey gcore addr) n
  rw [State.loadRead_corrected hbad, State.correctedAll_nil _ _ _ _ (State.fetch_fixed h _ _), hbytes]

theorem State.readAct_xload {s : State} {gid : Nat} {w : Who} {c : Core} (hc : s.coreOf gid w = some c) (addr n start width land : Nat) :
    s.readAct gid w (.xload addr n start width land) = (s.loadRead gid w c.gcore addr n (s.tlc + 1)).1.addAgenda gid
      [⟨land, w, .wx start width (leNat (s.loadRead gid w c.gcore addr n (s.tlc + 1)).2 % 2 ^ width)⟩] := by
  simp only [State.readAct, hc]
  rfl

/-- Settles O7: the three outcomes of `planLoad`, for LD and for FILL, and of the read that it schedules. -/
theorem scalarLoads : Obligations.ScalarLoads := by
  intro d a imm ad key load
  have hload {n : Nat} {i : Instr} (hi : planOf i = some (planLoad n d a imm)) : load n i :=
    ⟨.of_plan (exec_of_planOf hi) fun x ⟨hin, hpsn⟩ => planLoad_loads hin (Ctx.poisonedBeat_eq_none.2 hpsn) d,
      fun b => .of_plan (exec_of_planOf hi) fun x ⟨hin, hb⟩ => planLoad_poisoned hin hb d,
      .of_plan (exec_of_planOf hi) fun x hout => planLoad_outside hout d⟩
  refine ⟨hload rfl, hload rfl, ?_⟩
  intro s gid w c addr n start width land hc r lands
  refine ⟨fun h => (State.fetch_plain h _ _).1, fun hb => ?_, fun u hb hu => ?_⟩
  · rw [State.readAct_xload hc, State.loadRead_corrected hb]
  · rw [State.readAct_xload hc, State.loadRead_uncorrectable hb hu]
    rfl

/-- Settles O8: the two outcomes of `planStore`, for ST and for SPILL. -/
theorem scalarStores : Obligations.ScalarStores := by
  intro d a imm
  constructor <;>
    · rintro n rfl
      exact ⟨.of_plan (exec_of_planOf rfl) fun x hin => planStore_stores hin d,
        .of_plan (exec_of_planOf rfl) fun x hout => planStore_outside hout d⟩

end Sys2Proof.Machine

namespace Sys2Proof.Machine

/-! Vector loads and stores at issue (R175 to R177). -/

/-- The address of lane `i` in a list of lane addresses. -/
def laneAt (ads : List Int) (i : Nat) : Int := (ads[i]?).getD 0

/-- What a load into lanes reads: the governing mask, its address operands, and the bytes of every active lane. -/
def Ctx.laneLocs (x : Ctx) (k : BitVec 3) (reads : List Loc) (ads : List Int) (n : Nat) : List Loc :=
  kloc k.toNat :: reads ++ ((lanesIn (x.gov k)).map fun i => cmLoc (laneAt ads i) n).foldr (· ++ ·) []

theorem Ctx.laneOut_some {x : Ctx} {ads : List Int} {act : List Nat} {n j : Nat}
    (h : act.find? (fun i => !x.g.inCarve (laneAt ads i) n) = some j) : x.laneOut ads act n = some (laneAt ads j) := congrArg _ h

theorem Ctx.laneOut_none {x : Ctx} {ads : List Int} {act : List Nat} {n : Nat} (h : ∀ i ∈ act, x.g.inCarve (laneAt ads i) n = true) :
    x.laneOut ads act n = none := by
  have hf : act.find? (fun i => !x.g.inCarve (laneAt ads i) n) = none := by simpa [List.find?_eq_none] using h
  exact congrArg _ hf

/-- The fault of poison of a load into lanes is that of the first lane that has a poisoned beat. -/
theorem Ctx.lanePoison_eq (x : Ctx) (ads : List Int) (act : List Nat) (n : Nat) :
    act.findSome? (fun i => x.cmPoison (laneAt ads i) n) =
      (act.findSome? fun i => (x.poisonedBeat (laneAt ads i) n).map fun b => (i, b)).map fun p => x.beatTrap (laneAt ads p.1) p.2 := by
  rw [List.map_findSome?]
  congr 1
  funext i
  rw [Ctx.cmPoison_eq, Function.comp_apply, Option.map_map]
  rfl

section
variable {x : Ctx} {k : BitVec 3} {d : Opnd} {ads : List Int}

theorem planLaneLoad_outside {j : Nat} (h : (lanesIn (x.gov k)).find? (fun i => !x.g.inCarve (laneAt ads i) (laneBytes d)) = some j)
    (reads : List Loc) : planLaneLoad reads k d ads x =
      ⟨x.laneLocs k reads ads (laneBytes d), .error { cause := 33, lo := rangeLo 0 (laneAt ads j) }⟩ := by
  simp only [planLaneLoad, Ctx.laneOut_some h]
  rfl

theorem planLaneLoad_poisoned {p : Nat × Nat} (hin : ∀ i ∈ lanesIn (x.gov k), x.g.inCarve (laneAt ads i) (laneBytes d) = true)
    (hp : ((lanesIn (x.gov k)).findSome? fun i => (x.poisonedBeat (laneAt ads i) (laneBytes d)).map fun b => (i, b)) = some p)
    (reads : List Loc) : planLaneLoad reads k d ads x =
      ⟨x.laneLocs k reads ads (laneBytes d), .error (x.beatTrap (laneAt ads p.1) p.2)⟩ := by
  have hpsn := x.lanePoison_eq ads (lanesIn (x.gov k)) (laneBytes d)
  rw [hp, Option.map_some] at hpsn
  unfold laneAt at hpsn
  simp only [planLaneLoad, Ctx.laneOut_none hin, hpsn]
  rfl

theorem planLaneLoad_loads (hin : ∀ i ∈ lanesIn (x.gov k), x.g.inCarve (laneAt ads i) (laneBytes d) = true)
    (hp : ∀ i ∈ lanesIn (x.gov k), x.poisonedBeat (laneAt ads i) (laneBytes d) = none)
    (reads : List Loc) : planLaneLoad reads k d ads x = ⟨x.laneLocs k reads ads (laneBytes d), .ok
      { claims := if x.gov k = 0 then [] else [(.v d.start.toNat d.slices (x.gov k), x.s.tlc + 12)]
        acts := (if x.gov k = 0 then [] else
            [(x.s.tlc, .vload (ads.map Int.toNat) (x.gov k) (laneBytes d) d.start.toNat d.width (x.s.tlc + 12))]) ++
          x.groupActs (x.s.tlc + 1) false ads (lanesIn (x.gov k)) (laneBytes d) }⟩ := by
  have hpsn : (lanesIn (x.gov k)).findSome? (fun i => x.cmPoison ((ads[i]?).getD 0) (laneBytes d)) = none :=
    List.findSome?_eq_none_iff.2 fun i hi => (x.cmPoison_eq _ _).trans (congrArg _ (hp i hi))
  simp only [planLaneLoad, Ctx.laneOut_none hin, hpsn]
  rfl

theorem planLaneStore_outside {j : Nat} (h : (lanesIn (x.gov k)).find? (fun i => !x.g.inCarve (laneAt ads i) (laneBytes d)) = some j)
    (reads : List Loc) : planLaneStore reads k d ads x =
      ⟨kloc k.toNat :: d.vloc :: reads, .error { cause := 33, lo := rangeLo 0 (laneAt ads j) }⟩ := by
  simp only [planLaneStore, Ctx.laneOut_some h]
  rfl

theorem planLaneStore_stores (hin : ∀ i ∈ lanesIn (x.gov k), x.g.inCarve (laneAt ads i) (laneBytes d) = true) (reads : List Loc) :
    planLaneStore reads k d ads x = ⟨kloc k.toNat :: d.vloc :: reads, .ok
      { claims := (lanesIn (x.gov k)).map fun i => (.cm (laneAt ads i).toNat (laneBytes d), x.s.tlc + 3 + i / 16)
        acts := ((lanesIn (x.gov k)).map fun i => (x.s.tlc + 3 + i / 16,
            .mem (cmKey x.c.gcore (laneAt ads i).toNat) (leBytes (laneBytes d) (nth (x.c.vrd d) i)) false)) ++
          x.groupActs (x.s.tlc + 3) true ads (lanesIn (x.gov k)) (laneBytes d) }⟩ := by
  simp only [planLaneStore, Ctx.laneOut_none hin]
  rfl

end

section
variable {x : Ctx} {d a : Opnd} {imm : BitVec 18}

theorem planVld_outside (h : x.g.inCarve (x.cmAddr a imm) (128 * laneBytes d) = false) : planVld d a imm x =
    ⟨a.xloc :: cmLoc (x.cmAddr a imm) (128 * laneBytes d), .error { cause := 33, lo := rangeLo 0 (x.cmAddr a imm) }⟩ := if_pos (by rw [h]; rfl)

theorem planVld_poisoned {b : Nat} (hin : x.g.inCarve (x.cmAddr a imm) (128 * laneBytes d) = true)
    (hb : x.poisonedBeat (x.cmAddr a imm) (128 * laneBytes d) = some b) : planVld d a imm x =
      ⟨a.xloc :: cmLoc (x.cmAddr a imm) (128 * laneBytes d), .error (x.beatTrap (x.cmAddr a imm) b)⟩ := by
  simp only [planVld, hin, x.cmPoison_eq, hb, Bool.not_true, Bool.false_eq_true, if_false, Option.map_some]

theorem planVld_loads (hin : x.g.inCarve (x.cmAddr a imm) (128 * laneBytes d) = true)
    (hb : x.poisonedBeat (x.cmAddr a imm) (128 * laneBytes d) = none) : planVld d a imm x =
      ⟨a.xloc :: cmLoc (x.cmAddr a imm) (128 * laneBytes d), .ok
        { claims := [(.v d.start.toNat d.slices (BitVec.allOnes 128), x.s.tlc + 5)]
          acts := (x.s.tlc, .vload [(x.cmAddr a imm).toNat] (BitVec.allOnes 128) (laneBytes d) d.start.toNat d.width (x.s.tlc + 5)) ::
            bankActs (x.s.tlc + 1) x.c.gcore false (linesOf (x.cmAddr a imm).toNat (128 * laneBytes d)) }⟩ := by
  simp only [planVld, hin, x.cmPoison_eq, hb, Bool.not_true, Bool.false_eq_true, if_false, Option.map_none]
  rfl

theorem planVst_outside (h : x.g.inCarve (x.cmAddr a imm) (128 * laneBytes d) = false) : planVst d a imm x =
    ⟨[a.xloc, d.vloc], .error { cause := 33, lo := rangeLo 0 (x.cmAddr a imm) }⟩ := if_pos (by rw [h]; rfl)

theorem planVst_stores (h : x.g.inCarve (x.cmAddr a imm) (128 * laneBytes d) = true) : planVst d a imm x = ⟨[a.xloc, d.vloc], .ok
    { claims := [(.cm (x.cmAddr a imm).toNat (128 * laneBytes d), x.s.tlc + 3)]
      acts := (x.s.tlc + 3, .mem (cmKey x.c.gcore (x.cmAddr a imm).toNat) (((x.c.vrd d).map (leBytes (laneBytes d))).foldr (· ++ ·) []) false) ::
        bankActs (x.s.tlc + 3) x.c.gcore true (linesOf (x.cmAddr a imm).toNat (128 * laneBytes d)) }⟩ := if_neg (by rw [h]; decide)

end

/-! What a vector load reads on its issue cycle. -/

theorem mem_lanesIn {m : Mask} {i : Nat} : i ∈ lanesIn m ↔ i < 128 ∧ m.getLsbD i = true := by simp [lanesIn]

/-- A list of lanes with a value each, looked up by lane. -/
theorem aget_map_lanes {α : Type} (f : Nat → α) (i : Nat) (l : List Nat) :
    aget i (l.map fun j => (j, f j)) = if i ∈ l then some (f i) else none := by
  induction l with
  | nil => rfl
  | cons j t ih =>
    rw [List.map_cons, aget, ih]
    by_cases h : j = i
    · simp [h]
    · simp [h, Ne.symm h]

theorem State.readAct_vload {s : State} {gid : Nat} {w : Who} {c : Core} (hc : s.coreOf gid w = some c) (addrs : List Nat) (m : Mask)
    (n start width land : Nat) : s.readAct gid w (.vload addrs m n start width land) =
      (s.laneReads gid w c.gcore addrs m n).1.addAgenda gid
        [⟨land, w, .wv start width m ((List.range 128).map fun i => (aget i (s.laneReads gid w c.gcore addrs m n).2).getD 0)⟩] := by
  simp only [State.readAct, hc]
  rfl

/-- The lanes of VLD in one read of all of them (R175). -/
theorem State.laneReads_one (s : State) (gid : Nat) (w : Who) (gcore a : Nat) (m : Mask) (n : Nat) :
    s.laneReads gid w gcore [a] m n = ((s.loadRead gid w gcore a (128 * n) (s.tlc + 1)).1, (List.range 128).map fun i =>
      (i, leNat (((s.loadRead gid w gcore a (128 * n) (s.tlc + 1)).2.drop (i * n)).take n))) := rfl

/-- The read of one active lane, after those of the lanes before it. -/
def readLane (gid : Nat) (w : Who) (gcore : Nat) (addrs : List Nat) (n t : Nat) (q : State × List (Nat × Nat)) (i : Nat) :
    State × List (Nat × Nat) :=
  let r := q.1.loadRead gid w gcore ((addrs[i]?).getD 0) n (t + 1 + i / 16)
  (r.1, q.2 ++ [(i, leNat r.2)])

/-- The active lanes are read one after another, each lane group on its cycle (R176). -/
theorem State.laneReads_many {addrs : List Nat} (h : addrs.length = 128) (s : State) (gid : Nat) (w : Who) (gcore : Nat) (m : Mask) (n : Nat) :
    s.laneReads gid w gcore addrs m n = (lanesIn m).foldl (readLane gid w gcore addrs n s.tlc) (s, []) := by
  unfold State.laneReads
  split
  · cases h
  · rfl

theorem foldl_readLane_plain {s : State} (hu : s.err.upsets = []) (gid : Nat) (w : Who) (gcore : Nat) (addrs : List Nat) (n t : Nat)
    (act : List Nat) (done : List (Nat × Nat)) : act.foldl (readLane gid w gcore addrs n t) (s, done) =
      (s, done ++ act.map fun i => (i, leNat (s.mem.bytes (cmKey gcore ((addrs[i]?).getD 0)) n))) := by
  induction act generalizing done with
  | nil => simp
  | cons i act ih => rw [List.foldl_cons, readLane, State.loadRead_plain hu, ih, List.map_cons, List.append_assoc, List.singleton_append]

/-- Where no error pattern stands, each active lane reads memory, and nothing else changes. -/
theorem State.laneReads_plain {s : State} (hu : s.err.upsets = []) {addrs : List Nat} (h : addrs.length = 128) (gid : Nat) (w : Who)
    (gcore : Nat) (m : Mask) (n : Nat) : s.laneReads gid w gcore addrs m n =
      (s, (lanesIn m).map fun i => (i, leNat (s.mem.bytes (cmKey gcore ((addrs[i]?).getD 0)) n))) := by
  rw [State.laneReads_many h, foldl_readLane_plain hu, List.nil_append]

/-- Settles O22: the three outcomes of `planVld` and of `planLaneLoad`, and of the reads that they schedule. -/
theorem vectorLoads : Obligations.VectorLoads := by
  intro k d a b imm n key psn fault at_ lanes ad
  have hlanes {reads : List Loc} {ads : Ctx → List Int} {i : Instr} (hi : planOf i = some fun x => planLaneLoad reads k d (ads x) x) :
      lanes reads ads i :=
    ⟨.of_plan (exec_of_planOf hi) fun x ⟨hin, hp⟩ => planLaneLoad_loads hin hp reads,
      fun p => .of_plan (exec_of_planOf hi) fun x ⟨hin, hp⟩ => planLaneLoad_poisoned hin hp reads,
      fun j => .of_plan (exec_of_planOf hi) fun x hj => planLaneLoad_outside hj reads⟩
  refine ⟨.of_plan (exec_of_planOf rfl) fun x ⟨hin, hb⟩ => planVld_loads hin hb,
    fun q => .of_plan (exec_of_planOf rfl) fun x ⟨hin, hb⟩ => planVld_poisoned hin hb,
    .of_plan (exec_of_planOf rfl) fun x hout => planVld_outside hout, hlanes rfl, hlanes rfl, ?_⟩
  intro s gid w c addr addrs m size start width land hc lands one all r late
  refine ⟨?_, fun hlen => ?_, fun hu => ⟨State.loadRead_plain hu .., fun hlen => ?_⟩, fun reach hb => State.loadRead_corrected hb ..,
    fun reach u hb hk => State.loadRead_uncorrectable hb hk ..⟩
  · rw [State.readAct_vload hc, State.laneReads_one]
    refine congrArg (lands one.1) (List.map_congr_left fun i hi => ?_)
    rw [aget_map_lanes, if_pos hi, Option.getD_some]
  · rw [State.readAct_vload hc, State.laneReads_many hlen]
    rfl
  · rw [State.readAct_vload hc, State.laneReads_plain hu hlen]
    refine congrArg (lands s) (List.map_congr_left fun i hi => ?_)
    rw [aget_map_lanes, apply_ite (Option.getD · 0)]
    exact if_congr (mem_lanesIn.trans (and_iff_right (List.mem_range.1 hi))) rfl rfl

/-- Settles O23: the two outcomes of `planVst` and of `planLaneStore`. -/
theorem vectorStores : Obligations.VectorStores := by
  intro k d a b imm n at_ lanes
  have hlanes {reads : List Loc} {ads : Ctx → List Int} {i : Instr} (hi : planOf i = some fun x => planLaneStore reads k d (ads x) x) :
      lanes reads ads i :=
    ⟨.of_plan (exec_of_planOf hi) fun x hin => planLaneStore_stores hin reads,
      fun j => .of_plan (exec_of_planOf hi) fun x hj => planLaneStore_outside hj reads⟩
  exact ⟨.of_plan (exec_of_planOf rfl) fun x hin => planVst_stores hin, .of_plan (exec_of_planOf rfl) fun x hout => planVst_outside hout,
    hlanes rfl, hlanes rfl⟩

end Sys2Proof.Machine

namespace Sys2Proof.Machine

/-! Vector words that write lanes or a mask (R158, R159). -/

section
variable {i : Instr} {plan : Ctx → Plan} {reads : Ctx → List Loc} {lat : Nat} {fl : Ctx → Flags}

/-- A word whose plan writes lanes completes with the effect of that write. -/
theorem Completes.of_vPlan {d : Opnd} {m : Ctx → Mask} {vals : Ctx → List Nat} (hi : planOf i = some plan)
    (hp : ∀ x, plan x = x.vPlan (reads x) d (m x) (vals x) lat (fl x)) :
    Completes i reads always (fun x => x.vEff d (m x) (vals x) lat (fl x)) :=
  .of_plan (exec_of_planOf hi) fun x _ => (hp x).trans (x.vPlan_eq ..)

/-- A word whose plan writes a mask completes with the effect of that write. -/
theorem Completes.of_kPlan {k : Nat} {bits : Mask} {val : Ctx → Mask} (hi : planOf i = some plan)
    (hp : ∀ x, plan x = x.kPlan (reads x) k bits (val x) lat (fl x)) :
    Completes i reads always (fun x => x.kEff k bits (val x) lat (fl x)) :=
  .of_plan (exec_of_planOf hi) fun x _ => (hp x).trans (x.kPlan_eq ..)

end

/-! Integer words (R160). -/

/-- The two-operand words of R160, by their operation. -/
theorem Completes.vbin (op : Bin) {i : Instr} {sg : Bool} {k : BitVec 3} {d a b : Opnd} (hi : planOf i = some (planVBin op sg k d a b)) :
    Completes i (fun _ => [kloc k.toNat, a.vloc, b.vloc]) always (fun x => x.vEff d (x.gov k)
      ((x.c.vrd a).zipWith (fun p q => low (op.res sg d.width (ext sg p a.width) (ext sg q b.width) q) d.width) (x.c.vrd b)) op.vlat) :=
  .of_vPlan hi fun _ => rfl

/-- The one-operand words of R160, by their operation. -/
theorem Completes.vun (op : Un) {i : Instr} {sg : Bool} {k : BitVec 3} {d a : Opnd} (hi : planOf i = some (planVUn op sg k d a)) :
    Completes i (fun _ => [kloc k.toNat, a.vloc]) always
      (fun x => x.vEff d (x.gov k) ((x.c.vrd a).map fun p => low (op.res (ext sg p a.width) p a.width) d.width) 2) :=
  .of_vPlan hi fun _ => rfl

/-- Settles O16: each word is `planVBin` or `planVUn` for the operation of its scalar word. -/
theorem integerVectorArithmetic : Obligations.IntegerVectorArithmetic := fun _ _ _ _ _ =>
  ⟨.vbin .add rfl, .vbin .sub rfl, .vbin .mul rfl, .vbin .mulh rfl, .vbin .min rfl, .vbin .max rfl, .vbin .and rfl, .vbin .or rfl,
    .vbin .xor rfl, .vbin .andn rfl, .vbin .adds rfl, .vbin .subs rfl, .vbin .shl rfl, .vbin .shr rfl, .vun .abs rfl, .vun .neg rfl,
    .vun .mov rfl⟩

/-! Floating-point words (R161 to R164). -/

/-- The effect of a word with a value and flags for each lane: the active lanes are written, and the flags of these only are raised (R86, R158). -/
def Ctx.fEff (x : Ctx) (d : Opnd) (k : BitVec 3) (r : List (Nat × Flags)) (lat : Nat) : Eff :=
  x.vEff d (x.gov k) (r.map (·.1)) lat (flagsOf ((lanesIn (x.gov k)).map fun i => ((r[i]?).getD (0, 0)).2))

section
variable {i : Instr} {fmt : BitVec 4} {rnd : BitVec 2} {k : BitVec 3} {d a b c : Opnd}

/-- A word whose plan is a float plan completes with the effect of its lane results. -/
theorem Completes.of_fPlan {plan : Ctx → Plan} {reads : List Loc} {r : Ctx → List (Nat × Flags)} {lat : Nat} (hi : planOf i = some plan)
    (hp : ∀ x, plan x = x.fPlan reads d k (r x) lat) : Completes i (fun _ => kloc k.toNat :: reads) always (fun x => x.fEff d k (r x) lat) :=
  .of_plan (exec_of_planOf hi) fun x _ => (hp x).trans (x.fPlan_eq ..)

/-- The fused words of R162, by whether the product and the addend are negated. -/
theorem Completes.vfma (np nc : Bool) (hi : planOf i = some (planVfma np nc fmt rnd k d a b c)) :
    Completes i (fun _ => [kloc k.toNat, a.vloc, b.vloc, c.vloc]) always (fun x => x.fEff d k
      (((x.fvals fmt a).zip (x.fvals fmt b)).zipWith (fun p q => fmaV (fmtOf fmt.toNat) rnd (if np then p.1.negate else p.1) p.2
        (if nc then q.negate else q)) (x.fvals fmt c)) (fmaLat fmt)) :=
  .of_fPlan hi fun _ => rfl

/-- The minimum and the maximum of R163. -/
theorem Completes.vfmm (mx : Bool) (hi : planOf i = some (planVfmm mx fmt k d a b)) :
    Completes i (fun _ => [kloc k.toNat, a.vloc, b.vloc]) always
      (fun x => x.fEff d k ((x.fvals fmt a).zipWith (fminmaxV (fmtOf fmt.toNat) mx) (x.fvals fmt b)) 2) :=
  .of_fPlan hi fun _ => rfl

/-- The sign operations of R163. -/
theorem Completes.vfsign (neg : Bool) (hi : planOf i = some (planVfsign neg fmt k d a)) :
    Completes i (fun _ => [kloc k.toNat, a.vloc]) always (fun x => x.fEff d k ((x.fvals fmt a).map (fsignV (fmtOf fmt.toNat) neg)) 2) :=
  .of_fPlan hi fun _ => rfl

/-- The functions of R164, by name. -/
theorem Completes.vfn1 (fn : Fn1) (hi : planOf i = some (planVfn1 fn fmt rnd k d a)) :
    Completes i (fun _ => [kloc k.toNat, a.vloc]) always (fun x => x.fEff d k ((x.fvals fmt a).map (fn1V fn (fmtOf fmt.toNat) rnd)) 12) :=
  .of_fPlan hi fun _ => rfl

end

/-- Settles O17: each word's plan is a float plan of its lane function. -/
theorem floatVectorArithmetic : Obligations.FloatVectorArithmetic := fun _ _ _ _ _ _ _ =>
  ⟨.of_fPlan rfl fun _ => rfl, .of_fPlan rfl fun _ => rfl, .of_fPlan rfl fun _ => rfl,
    .vfma false false rfl, .vfma false true rfl, .vfma true false rfl, .vfma true true rfl, .vfmm false rfl, .vfmm true rfl,
    .vfsign false rfl, .vfsign true rfl, .vfn1 .sqrt rfl, .vfn1 .rcp rfl, .vfn1 .rsq rfl, .vfn1 .exp2 rfl, .vfn1 .log2 rfl⟩

/-! Comparisons and masks (R159, R165, R166). -/

/-- Mask logic of two masks, by its operation on their bits. -/
theorem Completes.kbin (f : Mask → Mask → Mask) {i : Instr} {kd ka kb : BitVec 3} (hi : planOf i = some (planKBin f kd ka kb)) :
    Completes i (fun _ => [kloc ka.toNat, kloc kb.toNat]) always
      (fun x => x.kEff kd.toNat (BitVec.allOnes 128) (f (x.gov ka) (x.gov kb)) 2) :=
  .of_kPlan hi fun _ => rfl

/-- Settles O18: all but KPOPC write the whole of a mask, KPOPC an `x` operand. -/
theorem comparisonsAndMasks : Obligations.ComparisonsAndMasks := fun _ _ _ _ _ _ _ _ _ _ =>
  ⟨.of_kPlan rfl fun _ => rfl, .of_kPlan rfl fun _ => rfl, .kbin (· &&& ·) rfl, .kbin (· ||| ·) rfl, .kbin (· ^^^ ·) rfl,
    .of_kPlan rfl fun _ => rfl, .of_xPlan rfl fun _ => rfl⟩

/-! Lane movement, reductions and scans (R167, R171 to R174). -/

/-- Settles O21: VGETX and the reductions write an `x` operand, VFRED with the flags of its tree; the other words write lanes. -/
theorem laneMovementAndReductions : Obligations.LaneMovementAndReductions :=
  ⟨fun _ _ _ _ _ => ⟨.of_vPlan rfl fun _ => rfl, .of_vPlan rfl fun _ => rfl, .of_vPlan rfl fun _ => rfl, .of_vPlan rfl fun _ => rfl,
      .of_vPlan rfl fun _ => rfl, .of_vPlan rfl fun _ => rfl, .of_vPlan rfl fun _ => rfl, .of_xPlan rfl fun _ => rfl⟩,
    fun _ _ _ _ _ _ _ _ => ⟨.of_xPlan rfl fun _ => rfl, .of_vPlan rfl fun _ => rfl,
      .of_plan (exec_of_planOf rfl) fun x _ => x.xPlan_eq .., .of_vPlan rfl fun _ => rfl⟩⟩

end Sys2Proof.Machine

namespace Sys2Proof.Machine

/-! Latch words (R188, R189, R199): what QCLR leaves of a latch, and the check of a count. -/

/-- The entries a predicate on keys keeps are found as before, the others not. -/
theorem aget_filter_key {α : Type} (p : Nat → Bool) (k : Nat) (l : List (Nat × α)) :
    aget k (l.filter fun q => p q.1) = if p k then aget k l else none := by
  induction l with
  | nil => simp
  | cons a t ih =>
    obtain ⟨a, v⟩ := a
    by_cases hk : a = k
    · subst hk
      by_cases hp : p a <;> simp [aget, hp, ih]
    · by_cases hp : p a <;> simp [aget, hp, hk, ih]

/-- QCLR empties the entries it counts, modulo 128, and no other (R189). -/
theorem Latch.aget_clear (l : Latch) (rcu : Bool) (e n i : Nat) :
    aget i (l.clear rcu e n).entries = if ∃ j, j < n ∧ (e + j) % 128 = i then none else aget i l.entries := by
  have hany : ((List.range n).any fun j => (e + j) % 128 == i) = true ↔ ∃ j, j < n ∧ (e + j) % 128 = i := by simp
  rw [Latch.clear, aget_filter_key fun k => !((List.range n).any fun j => (e + j) % 128 == k)]
  by_cases h : ∃ j, j < n ∧ (e + j) % 128 = i
  · rw [if_pos h, hany.2 h]; rfl
  · rw [if_neg h, Bool.eq_false_iff.2 (mt hany.1 h)]; rfl

/-- A count from 1 to its limit passes the check of its word. -/
theorem count_ok {n lim : Nat} (h1 : 1 ≤ n) (h2 : n ≤ lim) : ¬(n = 0 ∨ n > lim) := by omega

/-- Settles O25: a fill by `Latch.filled`, QCLR by `Latch.clear`, and the plans of the four words. -/
theorem latchInstructions : Obligations.LatchInstructions := by
  intro qb rcu e cw kn w n b ent filled
  refine ⟨fun s gid who c q k m rows hc => ⟨?_, ?_⟩, Completes.of_plan (exec_of_planOf rfl) fun x ⟨hw, hfmt, h1, h2, hv, hrel⟩ => ?_,
    Completes.of_plan (exec_of_planOf rfl) fun x ⟨h1, h2⟩ => if_neg (count_ok h1 h2), Completes.of_xPlan rfl fun x => rfl, Completes.of_xPlan rfl fun x => rfl⟩
  · obtain ⟨x, hx, hrows, hdue⟩ := (c.latch q).filled_entry s.tlc k rows
    have hl := (Core.latch_modLatch c q fun l => l.filled s.tlc k rows).trans hx
    refine ⟨_, x, (State.coreOn_landed hc _ _).1, ?_, hrows, hdue, ?_, fun i hi => ?_⟩
    · rw [hl]; exact aget_aset_self _ _ _
    · rw [hl]
    · rw [hl]; exact aget_aset_ne _ _ hi
  · have hl := Core.latch_modLatch c q fun l => l.clear rcu k m
    exact ⟨_, State.coreOn_modCore_self hc _, congrArg Latch.curs hl, Core.latch_modLatch_not c q _,
      fun i => (congrArg (aget i ·.entries) hl).trans ((c.latch q).aget_clear rcu k m i)⟩
  · refine (if_neg ?_).trans (if_neg (Nat.not_lt.2 hrel))
    simp only [not_or]
    exact ⟨not_not.2 hw, Nat.not_lt.2 hfmt, Nat.ne_of_gt h1, Nat.not_lt.2 h2, Nat.not_lt.2 hv⟩

end Sys2Proof.Machine

namespace Sys2Proof.Machine

/-! The window generator (R192, R194, R195). -/

/-- The descriptor that a window accepts passes its check: a described pixel is one aligned block of the window's channels, a plain one has no
first k-group (R195). -/
theorem FeedDesc.windowOk (f : FeedDesc) {c : Nat} (hfmt : f.fmtOk = true) (h1 : 1 ≤ f.n) (h2 : f.n ≤ 128)
    (hk : if f.fmt = 9 then f.kl + 1 = c ∧ c ≤ count f.mmax ∧ f.base % 64 = 0 ∧ f.pitch % 64 = 0 else f.kl = 0) :
    (!f.fmtOk || !(if f.fmt = 9 then f.kl + 1 == c && decide (c ≤ count f.mmax) && f.base % 64 == 0 && f.pitch % 64 == 0 else f.kl == 0) ||
      f.n == 0 || decide (f.n > 128)) = false := by
  by_cases h9 : f.fmt = 9
  · rw [if_pos h9] at hk
    simp [hfmt, h9, hk, Nat.ne_of_gt h1, Nat.not_lt.2 h2]
  · rw [if_neg h9] at hk
    simp [hfmt, h9, hk, Nat.ne_of_gt h1, Nat.not_lt.2 h2]

/-- Settles O26: three configuration words, and the window's plan where its descriptor is legal, the port released and the image inside. -/
theorem windowsFillLatches : Obligations.WindowsFillLatches := by
  intro qb e cw kn inst f
  refine ⟨Completes.of_plan (exec_of_planOf rfl) fun x ⟨h1, h2⟩ => if_neg (count_ok h1 h2),
    Completes.of_plan (exec_of_planOf rfl) fun x h => if_neg (not_not.2 h),
    Completes.of_plan (exec_of_planOf rfl) fun x h => if_neg (not_not.2 h), fun gw c => ?_⟩
  intro w one
  refine Completes.of_plan (exec_of_planOf (p := planWin qb e cw kn) (by cases qb <;> rfl)) fun x h => ?_
  obtain ⟨hwin, hfmt, h1, h2, hk, hrel, hin⟩ := h
  have hok := (f x).windowOk hfmt h1 h2 hk
  simp only [planWin, hwin]
  refine (if_neg (Bool.eq_false_iff.1 hok)).trans ((if_neg (Nat.not_lt.2 hrel)).trans ((if_neg ?_).trans ?_))
  · rw [hin]; decide
  · rfl

end Sys2Proof.Machine

namespace Sys2Proof.Machine

/-! The accumulator port (R181, R191): when it is free, the checks of its operands, what a landing row or clearing changes. -/

/-- A port instruction that issues on or after the landing and the release finds the port free (R181). -/
theorem Ctx.portBusy_none {x : Ctx} (hl : x.c.ports.arrLand ≤ x.s.tlc) (hr : x.c.ports.accRel ≤ x.s.tlc) : x.portBusy = none :=
  (if_neg (Nat.not_lt.2 hl)).trans (if_neg (Nat.not_lt.2 hr))

/-- On a free port the rows of a word have their acts, and the port is taken until the last of them lands. -/
theorem Ctx.portPlan_free {x : Ctx} (h : x.portBusy = none) (reads : List Loc) (n : Nat) (claims : List (Loc × Nat))
    (per : Nat → List (Nat × Act)) : x.portPlan reads n claims per =
      ⟨reads, .ok { claims := claims, acts := ((List.range n).map per).foldr (· ++ ·) [], core := fun c => c.portUse (x.s.tlc + n + 8) }⟩ := by
  simp only [Ctx.portPlan, h]
  rfl

theorem rowsOk_of {r n lim : Nat} (h1 : 1 ≤ n) (h2 : n ≤ lim) (h3 : r + n ≤ 128) : rowsOk r n lim = true := by
  simp [rowsOk, h1, h2, h3]

theorem portBase_of {w : Nat} (h1 : w / 2 ^ 21 = 0) (h2 : w % 64 = 0) : portBase w = some w :=
  if_neg (by rw [h1, h2]; decide)

theorem portVs_of {w n : Nat} (h1 : w / 2 ^ 10 = 0) (h2 : w + 8 * n ≤ 1024) : portVs w n = some w :=
  if_neg (by rw [h1, decide_eq_false (Nat.not_lt.2 h2)]; decide)

/-- A change of one core that clears parity errors of its accumulator changes that core alone. -/
theorem State.coreOn_modCore_parityCells {s : State} {gid : Nat} {w : Who} {c : Core} (h : s.coreOn gid w.rank = some c) (f : Core → Core)
    (hit : Nat → Bool) : ((s.modCore gid w.rank f).parityCells gid w hit).coreOn gid w.rank = some (f c) := by
  rw [State.coreOn, State.parityCells_gangs]
  exact State.coreOn_modCore_self h f

/-- Rewriting rows of the accumulator one by one, each from what it holds. -/
theorem Core.foldl_setAccRow_own (f : Lane → Lane) (l : List Nat) (c : Core) :
    l.foldl (fun c r => c.setAccRow r (f ((c.acc.toList[r]?).getD 0))) c =
      { c with acc := l.foldl (fun a r => a.setIfInBounds r (f ((a.toList[r]?).getD 0))) c.acc } := by
  induction l generalizing c with
  | nil => rfl
  | cons r l ih => rw [List.foldl_cons, ih]; rfl

theorem Vector.getElem_foldl_setIfInBounds_own {n : Nat} (f : Lane → Lane) {l : List Nat} (hl : l.Nodup) (a : Vector Lane n) (i : Nat) (hi : i < n) :
    (l.foldl (fun a r => a.setIfInBounds r (f ((a.toList[r]?).getD 0))) a)[i] = if i ∈ l then f a[i] else a[i] := by
  induction l generalizing a with
  | nil => simp
  | cons r l ih =>
    obtain ⟨hr, hl⟩ := List.nodup_cons.1 hl
    rw [List.foldl_cons, ih hl, Vector.getElem_setIfInBounds]
    by_cases h : r = i
    · subst h
      simp [hr, hi]
    · simp [h, Ne.symm h]

/-- Clearing a column clears its cell in every row (R193). -/
theorem Core.accClear_column (c : Core) (i : Nat) : ∃ acc, c.accClear true i = { c with acc := acc } ∧
    ∀ q : Fin 128, acc[q.val] = setSlices c.acc[q.val] (8 * i) 32 0 := by
  have h : c.accClear true i = _ := (if_pos rfl).trans (Core.foldl_setAccRow_own (setSlices · (8 * i) 32 0) (List.range 128) c)
  refine ⟨_, h, fun q => ?_⟩
  rw [Vector.getElem_foldl_setIfInBounds_own (setSlices · (8 * i) 32 0) List.nodup_range, if_pos (List.mem_range.2 q.isLt)]

theorem State.fetch_psn_clean {s : State} (hu : s.err.upsets = []) {k n : Nat} (hp : ∀ b ∈ beatsOf k n, s.poison.contains b = false) :
    (s.fetch k n).psn = false := by
  have hany : (beatsOf k n).any s.poison.contains = false := List.any_eq_false.2 fun b hb => Bool.eq_false_iff.1 (hp b hb)
  simp only [State.fetch, hu, List.isEmpty_nil, if_true, hany]

/-- A late read that meets no claim, no error pattern and no poison gives the bytes of memory, whether or not the data keep poison. -/
theorem State.lateBytes_clean {s : State} {gid rank addr n : Nat} {c : Core} (hc : s.coreOn gid rank = some c) (hu : s.err.upsets = [])
    (h1 : hazardOf s.tlc true c.claims (.cm addr n) = none) (h2 : hazardOf s.tlc false c.claims (.cm addr n) = none)
    (hp : ∀ b ∈ beatsOf (cmKey c.gcore addr) n, s.poison.contains b = false) (w : Who) (keeps : Bool) :
    s.lateBytes gid rank c.gcore w addr n keeps = (s, some (s.fetch (cmKey c.gcore addr) n)) := by
  simp only [State.lateBytes, State.lateRead_free hc h1 h2, Bool.not_true, Bool.false_eq_true, if_false, State.fetch_psn_clean hu hp, Bool.false_and]
  rw [Read.trap_none (r := { bytes := _, psn := false, bad := _, fixed := _ }) rfl (State.fetch_plain hu _ _).2,
    State.correctedAll_nil _ _ _ _ (State.fetch_fixed hu _ _)]

/-- Settles O29: each word is a port plan on a free port once its operands pass; a landing row and a clearing change the accumulator alone. -/
theorem accumulatorPort : Obligations.AccumulatorPort := by
  intro rnd r cw kn n w at_ free fits lined rows eff cells each
  have hbusy {x : Ctx} (h : free x) : x.portBusy = none := Ctx.portBusy_none h.1 h.2
  have hport {x : Ctx} (h : free x) (reads : List Loc) (claims : List (Loc × Nat)) (per : Nat → List (Nat × Act)) :
      x.portPlan reads (n x) claims per = ⟨reads, .ok (eff x claims per)⟩ := Ctx.portPlan_free (hbusy h) ..
  have hrows {x : Ctx} {lim : Nat} (h : fits x lim) : ¬(!rowsOk r.toNat (n x) lim) = true := by
    obtain ⟨h1, h2, h3⟩ := h
    rw [rowsOk_of h1 h2 h3]; decide
  have hin {x : Ctx} (h : lined x) : ¬(!x.g.inCarve (w x) (512 * n x) && x.portBusy.isNone) = true := by
    obtain ⟨-, -, hcarve⟩ := h
    simp [hcarve]
  have hbase {x : Ctx} (h : lined x) : portBase (x.c.rd cw) = some (w x) := by
    obtain ⟨htop, hline, -⟩ := h
    exact portBase_of htop hline
  have hvs {x : Ctx} {m : Nat} (h1 : w x / 2 ^ 10 = 0) (h2 : w x + 8 * m ≤ 1024) : portVs (x.c.rd cw) m = some (w x) := portVs_of h1 h2
  have hcell {i : Instr} {f : Nat → Nat → Nat × Flags} (hi : planOf i = some fun x => x.cellPlan r cw kn f) : each i f :=
    Completes.of_plan (exec_of_planOf hi) fun x ⟨hf, hn, hw, hv⟩ => by
      simp only [Ctx.cellPlan, hvs (m := 1) hw hv]
      exact (if_neg (hrows hn)).trans (hport hf ..)
  refine ⟨.of_plan (exec_of_planOf rfl) fun x ⟨hf, hn⟩ => (if_neg (hrows hn)).trans (hport hf ..),
    .of_plan (exec_of_planOf rfl) fun x ⟨hf, hn, hl⟩ => ?_, .of_plan (exec_of_planOf rfl) fun x ⟨hf, hn, hl⟩ => ?_,
    .of_plan (exec_of_planOf rfl) fun x ⟨hf, hn, hw, hv⟩ => ?_, .of_plan (exec_of_planOf rfl) fun x ⟨hf, hn, hw, hv⟩ => ?_, hcell rfl, hcell rfl,
    .of_plan (exec_of_planOf rfl) fun x ⟨hf, hn, hlo, hhi, hlt⟩ => ?_, fun s gid who c i v hc => ⟨?_, ?_, ?_⟩,
    fun s gid who c row addr land hc hu h1 h2 hp => ?_⟩
  · simp only [planAld, hbase hl]
    exact (if_neg (hrows hn)).trans ((if_neg (hin hl)).trans (hport hf ..))
  · simp only [planAsav, hbase hl]
    exact (if_neg (hrows hn)).trans ((if_neg (hin hl)).trans (hport hf ..))
  · simp only [planArdv, hvs (m := x.c.rd kn) hw hv]
    exact (if_neg (hrows hn)).trans (hport hf ..)
  · simp only [planAwrv, hvs (m := x.c.rd kn) hw hv]
    exact (if_neg (hrows hn)).trans (hport hf ..)
  · have hok : ((f32v (fld (w x) 0 32)).isNan || (f32v (fld (w x) 32 32)).isNan ||
        (f32v (fld (w x) 32 32)).ltV true (f32v (fld (w x) 0 32)) || !rowsOk r.toNat (n x) 128) = false := by
      rw [hlo, hhi, hlt, Bool.eq_false_iff.2 (hrows hn)]; rfl
    exact (if_neg (Bool.eq_false_iff.1 hok)).trans (hport hf ..)
  · exact (State.coreOn_landed hc _ _).1
  · exact State.coreOn_modCore_parityCells hc _ _
  · obtain ⟨acc, h, hacc⟩ := c.accClear_column i
    exact ⟨_, (State.coreOn_modCore_parityCells hc _ _).trans (congrArg some h), rfl, hacc⟩
  · have hcore : (aget gid s.gangs).bind (·.coreAt who.rank) = some c := hc
    simp only [State.readAct, State.aldRow, hcore, State.lateBytes_clean hc hu h1 h2 hp, (State.fetch_plain hu _ _).1]
    rfl

end Sys2Proof.Machine

namespace Sys2Proof.Machine

/-! Drains (R192, R193): the effect of one all of whose rows fit their slots. -/

/-- What row i of a drain does when it lands: CLR first, then its bytes, the banks they reach and its flags. -/
def Ctx.drainLanding (x : Ctx) (k : Drain) (d : DrainCw) (r : Nat) (out : Nat → List Byte × Flags) (i : Nat) : List (Nat × Act) :=
  (if d.clr then [(x.s.tlc + i + 8, Act.accClear (k == .drnr) (r + i))] else []) ++
    ((x.s.tlc + i + 8, .mem (cmKey x.c.gcore (d.base + i * d.pitch)) (out i).1 false) ::
      bankActs (x.s.tlc + i + 8) x.c.gcore true (linesOf (d.base + i * d.pitch) (out i).1.length) ++ flagActs (x.s.tlc + i + 8) (out i).2)

/-- The claim on the place of row i of a drain. -/
def Ctx.drainClaim (x : Ctx) (d : DrainCw) (out : Nat → List Byte × Flags) (i : Nat) : Loc × Nat :=
  (.cm (d.base + i * d.pitch) (out i).1.length, x.s.tlc + i + 8)

/-- The effect of a drain of n rows. -/
def Ctx.drainEff (x : Ctx) (k : Drain) (d : DrainCw) (r n : Nat) (out : Nat → List Byte × Flags) : Eff :=
  { claims := (List.range n).map (x.drainClaim d out)
    acts := ((List.range n).map (x.drainLanding k d r out)).foldr (· ++ ·) []
    core := fun c => c.portUse (x.s.tlc + n + 8) }

section
variable {x : Ctx} {k : Drain} {r : BitVec 7} {cw kn : Opnd} {d : DrainCw} {n : Nat} {out : Nat → List Byte × Flags}

/-- The rows of a drain, each under its number, where none passes its slot. -/
theorem DrainCw.rows_ok {src : Nat → List Nat} (h : ∀ i, i < n → d.row (src i) = .ok (out i)) :
    (List.range n).map (fun i => (i, d.row (src i))) = (List.range n).map fun i => (i, .ok (out i)) :=
  List.map_congr_left fun i hi => by rw [h i (List.mem_range.1 hi)]

/-- A drain on a free port whose control word, place and rows pass writes every row. -/
theorem planDrain_rows (hd : drainCw k (x.c.rd cw) x.c.outDesc = d) (hn : x.c.rd kn = n) (hr : rowsOk r.toNat n 128 = true)
    (hok : d.ok k (x.c.rd cw) = true) (hslot : d.fmt = 9 → d.slotOk = true) (hbusy : x.portBusy = none)
    (hin : x.g.inCarve d.base ((n - 1) * d.pitch + d.rowBytes) = true) (hint : ¬(d.fmt = 9 ∧ d.adapt = true ∧ d.int = true))
    (hrow : ∀ i, i < n → d.row (x.c.drainSrc k (r.toNat + i)) = .ok (out i)) :
    planDrain k r cw kn x = ⟨[cw.xloc, kn.xloc] ++ d.cells k r.toNat n, .ok (x.drainEff k d r.toNat n out)⟩ := by
  have hbad : (!rowsOk r.toNat n 128 || !d.ok k (x.c.rd cw) || (d.fmt == 9 && !d.slotOk)) = false := by
    rw [hr, hok]
    by_cases h9 : d.fmt = 9
    · simp [hslot h9]
    · simp [h9]
  have hadapt : ¬(d.fmt == 9 && d.adapt && d.int) = true := by simpa [and_assoc] using hint
  simp only [planDrain, hd, hn, hbad, hbusy, hin, DrainCw.rows_ok hrow]
  refine (if_neg (by decide)).trans ((if_neg (by decide)).trans ((if_neg hadapt).trans ((Ctx.portPlan_free hbusy _ _ _ _).trans ?_)))
  rw [List.filterMap_map, Ctx.drainEff, (List.filterMap_eq_map_iff_forall_eq_some (g := x.drainClaim d out)).2 fun i _ => by rfl,
    List.map_congr_left (g := x.drainLanding k d r.toNat out) fun i hi => by rw [aget_map_lanes, if_pos hi]; rfl]
end

/-- Settles O30: the plan shared by the four drains, where every row fits its slot. -/
theorem drainsWriteRows : Obligations.DrainsWriteRows := by
  intro r cw kn form
  have hform (i : Instr) (k : Drain) (hi : planOf i = some (planDrain k r cw kn)) : form i k := fun out =>
    Completes.of_plan (exec_of_planOf hi) fun x ⟨h1, h2, h3, hok, hslot, hland, hrel, hin, hint, hrow⟩ =>
      planDrain_rows rfl rfl (rowsOk_of h1 h2 h3) hok hslot (Ctx.portBusy_none hland hrel) hin hint hrow
  exact ⟨hform _ .drn rfl, hform _ .drna rfl, hform _ .drnf rfl, hform _ .drnr rfl⟩

end Sys2Proof.Machine

namespace Sys2Proof.Machine

/-! Pooling (R180, R196): the consumption of an entry, one k-group taken into a row, and the landing. -/

/-- An entry that is not filled is cause 16 (R180). -/
theorem State.poolEntry_unfilled {s : State} {gid : Nat} {who : Who} {g : Gang} {c : Core} {k : Nat} (hg : aget gid s.gangs = some g)
    (hc : g.coreAt who.rank = some c) (h : (entryTrap g.dbt s.tlc c.qa false k).isSome = true) (j : Nat) :
    ∃ tr : Trap, tr.cause = 16 ∧ s.poolEntry gid who j k = s.raiseCut gid s.tlc who tr := by
  obtain ⟨tr, htr⟩ := Option.isSome_iff_exists.1 h
  exact ⟨tr, entryTrap_cause htr, by simp only [State.poolEntry, hg, hc, htr]⟩

/-- A filled entry without poison is taken. -/
theorem State.poolEntry_filled {s : State} {gid : Nat} {who : Who} {g : Gang} {c : Core} {k : Nat} {x : LatchEntry} (hg : aget gid s.gangs = some g)
    (hc : g.coreAt who.rank = some c) (hx : aget k c.qa.entries = some x) (ht : entryTrap g.dbt s.tlc c.qa false k = none)
    (hp : ∀ r ∈ x.rows, r.psn = none) (j : Nat) : s.poolEntry gid who j k = s.addStash gid [.pair who j x.rows []] := by
  simp only [State.poolEntry, hg, hc, ht, hx, Option.map_some, Option.getD_some, List.findSome?_eq_none_iff.2 hp]

/-- The cells of a row of which k-group `grp` of columns changes. -/
theorem groupCells_fst (grp : Nat) (f : Nat → Nat → Nat × Flags) (cells : List Nat) :
    (((List.range 128).zip cells).map fun q => if q.1 / 8 = grp then f (q.1 % 8) q.2 else (q.2, (0 : Flags))).map (·.1) =
      ((List.range 128).zip cells).map fun p => if p.1 / 8 = grp then (f (p.1 % 8) p.2).1 else p.2 := by
  rw [List.map_map]
  exact List.map_congr_left fun p _ => apply_ite Prod.fst _ _ _

/-- One cell of a row with element `i` of a valid k-group: their maximum, or their sum (R196). -/
def poolCell (mx sg : Bool) (r : KRec) (i cell : Nat) : Nat × Flags :=
  let v := roundF (fmtOf 0) 0 false ⟨((r.mants sg)[i]?).getD 0, r.e⟩
  let out := if mx then fminmaxV (fmtOf 0) true (f32v cell) (f32v v.1) else faddV (fmtOf 0) 0 (f32v cell) (f32v v.1)
  (out.1, v.2 ||| out.2)

section
variable {r : KRec} {grp : Nat} {st : List Nat × Nat × Flags}

/-- A pad takes no part in a maximum (R196). -/
theorem poolRow_pad (hi : r.inv = false) (hp : r.pd = true) (incl sg : Bool) : poolRow true incl sg grp r st = st := by
  simp [poolRow, hi, hp]

/-- An invalid k-group makes its cells NaN (R75, R196). -/
theorem poolRow_invalid (hi : r.inv = true) (mx incl sg : Bool) : (poolRow mx incl sg grp r st).1 =
    ((List.range 128).zip st.1).map fun p => if p.1 / 8 = grp then (fmtOf 0).nan else p.2 := by
  simp only [poolRow, hi, if_true]
  exact groupCells_fst grp (fun _ _ => ((fmtOf 0).nan, flagIV)) st.1

/-- A valid k-group goes into its cells, and the first group of an entry into the count of an average (R196). -/
theorem poolRow_valid {mx : Bool} (hi : r.inv = false) (hp : mx = true → r.pd = false) (incl sg : Bool) :
    (poolRow mx incl sg grp r st).1 = ((List.range 128).zip st.1).map (fun p => if p.1 / 8 = grp then (poolCell mx sg r (p.1 % 8) p.2).1 else p.2) ∧
      (poolRow mx incl sg grp r st).2.1 = if !mx && grp == 0 && (!r.pd || incl) then st.2.1 + 1 else st.2.1 := by
  have hpad : ¬(mx && r.pd) = true := by
    cases mx
    · simp
    · simp [hp rfl]
  simp only [poolRow, hi, Bool.false_eq_true, if_false, if_neg hpad]
  exact ⟨groupCells_fst grp (poolCell mx sg r) st.1, trivial⟩

end

/-- Rewriting rows and counts one by one changes these two only. -/
theorem Core.foldl_setAccRow_cnt (v : Nat → Lane) (m : Nat → Nat) (l : List Nat) (c : Core) :
    l.foldl (fun (c : Core) r => { c.setAccRow r (v r) with cnt := c.cnt.setIfInBounds r (m r) }) c =
      { c with acc := l.foldl (fun a r => a.setIfInBounds r (v r)) c.acc, cnt := l.foldl (fun a r => a.setIfInBounds r (m r)) c.cnt } := by
  induction l generalizing c with
  | nil => rfl
  | cons r l ih => rw [List.foldl_cons, ih]; rfl

/-- What a landing pooling does to its core, where row r of those listed becomes the cells and the count `row r` and raises their flags. -/
def Core.landPooled (row : Nat → List Nat × Nat × Flags) (l : List Nat) (c : Core) : Core :=
  let rows := l.map row
  let d := (l.zip rows).foldl (fun (c : Core) q => { c.setAccRow q.1 (rowOfCells q.2.1) with cnt := c.cnt.setIfInBounds q.1 q.2.2.1 }) c
  { d with flags := flagsAfter d.flags 0 (flagsOf (rows.map (·.2.2))) }

theorem Core.landPooled_eq (row : Nat → List Nat × Nat × Flags) (l : List Nat) (c : Core) : ∃ fl, c.landPooled row l =
    { c with
      acc := l.foldl (fun a r => a.setIfInBounds r (rowOfCells (row r).1)) c.acc
      cnt := l.foldl (fun a r => a.setIfInBounds r (row r).2.1) c.cnt
      flags := fl } := by
  simp only [Core.landPooled, ← List.map_prod_left_eq_zip, List.foldl_map,
    Core.foldl_setAccRow_cnt (fun r => rowOfCells (row r).1) (fun r => (row r).2.1)]
  exact ⟨_, rfl⟩

/-- A row of a core once the entries `prs` are taken into its cells and count. -/
def Core.poolTaken (c : Core) (prs : List (List KRec × List KRec)) (m grp : Nat) (mx ini incl sg : Bool) (r : Nat) : List Nat × Nat × Flags :=
  ((List.range m).zip prs).foldl (fun st p => poolRow mx incl sg (p.1 % grp) ((p.2.1[r]?).getD (zeroRec false)) st)
    (if ini then List.replicate 128 (if mx then (fmtOf 0).signed true (fmtOf 0).infBits else 0) else c.accRow r,
      if ini && !mx then 0 else (c.cnt.toList[r]?).getD 0, 0)

/-- A row at the end of a pooling: FIN of an average divides the columns below 8G by the count (R196). -/
def poolEnd (mx fin : Bool) (grp : Nat) (st : List Nat × Nat × Flags) : List Nat × Nat × Flags :=
  if fin && !mx then
    let out := ((List.range 128).zip st.1).map fun q =>
      if 8 * grp ≤ q.1 then (q.2, (0 : Flags)) else if st.2.1 = 0 then (0, (0 : Flags)) else fDivN (q.2, 0) st.2.1
    (out.map (·.1), st.2.1, st.2.2 ||| flagsOf (out.map (·.2)))
  else st

theorem poolEnd_count (mx fin : Bool) (grp : Nat) (st : List Nat × Nat × Flags) : (poolEnd mx fin grp st).2.1 = st.2.1 := by
  unfold poolEnd
  split <;> rfl

theorem poolEnd_cells (mx fin : Bool) (grp : Nat) (st : List Nat × Nat × Flags) : (poolEnd mx fin grp st).1 =
    if fin = true ∧ mx = false then ((List.range 128).zip st.1).map fun p =>
      if 8 * grp ≤ p.1 then p.2 else if st.2.1 = 0 then 0 else (fDivN (p.2, 0) st.2.1).1 else st.1 := by
  by_cases h : fin = true ∧ mx = false
  · rw [poolEnd, if_pos (by simp [h]), if_pos h]
    refine List.map_map.trans ?_
    exact List.map_congr_left fun p _ => (apply_ite Prod.fst _ _ _).trans (congrArg _ (apply_ite Prod.fst _ _ _))
  · rw [poolEnd, if_neg (by simpa using h), if_neg h]

theorem State.poolLand_eq (s : State) (gid : Nat) (w : Who) (m grp : Nat) (mx ini fin incl sg : Bool) :
    s.poolLand gid w m grp mx ini fin incl sg = s.modGang gid fun g => (g.modCore w.rank fun c =>
      c.landPooled (fun r => poolEnd mx fin grp (c.poolTaken (g.pairs w m) m grp mx ini incl sg r)) (List.range 128)).dropPairs w := rfl

/-- The landing of a pooling changes its core as its rows have it. -/
theorem State.coreOn_poolLand {s : State} {gid : Nat} {who : Who} {g : Gang} {c : Core} (hg : aget gid s.gangs = some g)
    (hc : g.coreAt who.rank = some c) (m grp : Nat) (mx ini fin incl sg : Bool) :
    (s.landAct gid who (.poolLand m grp mx ini fin incl sg)).coreOn gid who.rank =
      some (c.landPooled (fun r => poolEnd mx fin grp (c.poolTaken (g.pairs who m) m grp mx ini incl sg r)) (List.range 128)) := by
  rw [State.landAct, State.coreOn, State.parityCells_gangs, State.poolLand_eq, State.modGang_self, hg]
  refine (Gang.coreAt_modCore g who.rank who.rank _).trans ?_
  rw [if_pos rfl, hc]
  rfl

/-! Sampling (R197, R198). -/

/-- CROPA without its configuration is cause 2. -/
theorem planCropa_unconfigured {x : Ctx} (h : x.c.win = none ∨ x.c.box = none) (e : BitVec 7) (cw : Opnd) :
    planCropa e cw x = .bad [cw.xloc] 2 := by
  rcases h with h | h
  · simp only [planCropa, h]
  · cases hw : x.c.win <;> simp only [planCropa, h, hw]

/-- CROPA before its list has landed is cause 2. -/
theorem planCropa_early {x : Ctx} {gw : BitVec 64} {c : Nat} {b : BoxState} (hw : x.c.win = some (gw, c)) (hb : x.c.box = some b)
    (h : x.s.tlc < b.landed) (e : BitVec 7) (cw : Opnd) : planCropa e cw x = .bad [cw.xloc] 2 := by
  have hlt : decide (x.t < b.landed) = true := decide_eq_true h
  simp only [planCropa, hw, hb, hlt, Bool.true_or, if_true]

/-- Once the list has landed, the descriptor that a crop accepts passes its check: plain pixels, and no field it does not use (R198). -/
theorem FeedDesc.cropOk (f : FeedDesc) {t landed : Nat} (hland : landed ≤ t) (hfmt : f.fmt ≤ 5) (hkl : f.kl = 0) (hmax : f.mmax = 0) :
    (decide (t < landed) || decide (f.fmt > 5) || f.kl != 0 || f.mmax != 0) = false := by
  simp [Nat.not_lt.2 hland, Nat.not_lt.2 hfmt, hkl, hmax]

/-- Settles O28: the plans of the four words, consumption by the state of the entry, the landing row by row, and one k-group by its kind. -/
theorem poolingAndSampling : Obligations.PoolingAndSampling := by
  refine ⟨fun init fin e cw kn => ?_, fun e cw gw c b => ?_⟩
  · intro w n form base ls
    have hform (i : Instr) (mx : Bool) (hi : planOf i = some (planPool mx init fin e cw kn)) : form i mx := by
      refine Completes.of_plan (exec_of_planOf hi) fun x ⟨h6, hincl, h1, h2, harr, hacc⟩ => (if_neg ?_).trans ?_
      · have hmx : ¬(mx && fld (x.c.rd cw) 4 1 != 0) = true := by
          cases mx
          · simp
          · simpa using hincl rfl
        simp only [not_or]
        exact ⟨not_not.2 h6, hmx, Nat.ne_of_gt h1, Nat.not_lt.2 h2⟩
      · rw [Ctx.arrayBusy_none harr hacc]
        rfl
    refine ⟨hform _ true rfl, hform _ false rfl, fun s gid who g c x j k hg hc => ⟨fun hx hd hcut hp => ?_, fun hx => ?_⟩,
      fun s gid who g c m grp mx ini dv incl sg hg hc => ?_, fun incl sg grp cnt r cells fl _ => ?_,
      .of_plan (exec_of_planOf rfl) fun x ⟨h34, h1, h2, h16, hrel, hin⟩ => ?_,
      .of_plan (exec_of_planOf rfl) fun x ⟨gw, c, b, hw, hb, h⟩ => planCropa_early hw hb h e cw,
      .of_plan (exec_of_planOf rfl) fun x h => planCropa_unconfigured h e cw⟩
    · exact State.poolEntry_filled hg hc hx (entryTrap_filled hx hd hcut _ _) hp j
    · exact State.poolEntry_unfilled hg hc (entryTrap_empty hx _ _ _) j
    · intro start count taken out
      obtain ⟨fl, hland⟩ := c.landPooled_eq (fun r => poolEnd mx dv grp (c.poolTaken (g.pairs who m) m grp mx ini incl sg r)) (List.range 128)
      refine ⟨_, (State.coreOn_poolLand hg hc m grp mx ini dv incl sg).trans (congrArg some hland), rfl, fun r => ⟨?_, ?_⟩⟩
      · dsimp only
        rw [Vector.getElem_foldl_setIfInBounds, if_pos (List.mem_range.2 r.isLt), poolEnd_cells]
        rfl
      · dsimp only
        rw [Vector.getElem_foldl_setIfInBounds, if_pos (List.mem_range.2 r.isLt), poolEnd_count]
        rfl
    · refine ⟨fun hi hp => poolRow_pad hi hp incl sg, fun hi hp => (poolRow_valid hi (fun _ => hp) incl sg).1, fun hi => ?_,
        fun mx hi => poolRow_invalid hi mx incl sg⟩
      obtain ⟨hcells, hcnt⟩ := poolRow_valid (mx := false) (grp := grp) (st := (cells, cnt, fl)) hi nofun incl sg
      refine ⟨hcells, hcnt.trans ?_⟩
      simp only [Bool.not_false, Bool.true_and, Bool.and_eq_true, beq_iff_eq, Bool.or_eq_true, Bool.not_eq_true']
    · refine (if_neg ?_).trans ((if_neg (Nat.not_lt.2 hrel)).trans ((if_neg ?_).trans rfl))
      · simp only [not_or]
        exact ⟨not_not.2 h34, Nat.ne_of_gt h1, Nat.not_lt.2 h2, not_not.2 h16⟩
      · rw [hin]; decide
  · intro w f near smp pix one
    refine .of_plan (exec_of_planOf rfl) fun x ⟨hwin, hbox, hland, hfmt, hkl, hmm, hrel, hin⟩ => ?_
    have hok := (f x).cropOk (t := x.s.tlc) hland hfmt hkl hmm
    simp only [planCropa, hwin, hbox]
    refine (if_neg (Bool.eq_false_iff.1 hok)).trans ((if_neg (Nat.not_lt.2 hrel)).trans ((if_neg ?_).trans rfl))
    rw [hin]; decide

end Sys2Proof.Machine

namespace Sys2Proof.Machine

/-! Plans under checks (R108): the lowest fault that a list of checks finds, else the effect. Copies and untimed requests are of this form. -/

/-- A plan has its effect where no check finds a fault, and else the lowest fault. -/
def Plan.checked (checks : List (Option Trap)) (reads : List Loc) (e : Eff) : Plan :=
  match firstTrap checks with
  | some tr => ⟨reads, .error tr⟩
  | none => ⟨reads, .ok e⟩

section
variable {l : List (Option Trap)} {reads : List Loc} {e : Eff}

theorem firstTrap_none (h : l.Forall (· = none)) : firstTrap l = none := by
  rw [firstTrap, List.filterMap_eq_nil_iff (f := id).2 (List.forall_iff_forall_mem.1 h), lowestTrap]

theorem firstTrap_last (h : l.Forall (· = none)) (tr : Trap) : firstTrap (l ++ [some tr]) = some tr := by
  rw [firstTrap, List.filterMap_append, List.filterMap_eq_nil_iff (f := id).2 (List.forall_iff_forall_mem.1 h)]
  rfl

theorem Plan.checked_ok (h : l.Forall (· = none)) : Plan.checked l reads e = ⟨reads, .ok e⟩ := by
  rw [Plan.checked, firstTrap_none h]

theorem Plan.checked_last (h : l.Forall (· = none)) (tr : Trap) : Plan.checked (l ++ [some tr]) reads e = ⟨reads, .error tr⟩ := by
  rw [Plan.checked, firstTrap_last h]

end

theorem trapIf_none {b : Bool} (h : b = false) (tr : Trap) : trapIf b tr = none := by rw [h, trapIf, if_neg Bool.false_ne_true]

/-- A count from 1 to its limit passes its check. -/
theorem countTrap_none {n lim : Nat} (h1 : 1 ≤ n) (h2 : n ≤ lim) (tr : Trap) : trapIf (n == 0 || decide (n > lim)) tr = none :=
  trapIf_none (by simp [Nat.ne_of_gt h1, h2]) tr

theorem Ctx.baseTrap_none {x : Ctx} {p : Place} {n : Nat} (h : p.inRange x.s x.g n = true) : x.baseTrap p n = none :=
  trapIf_none (by rw [h]; rfl) _

/-- A destination in `im:` passes where the block allows program writes (R209). -/
theorem Ctx.imTrap_none {x : Ctx} {d : Place} (h : d.space = 1 → x.g.tob.flags / 4 % 2 = 1) : x.imTrap d = none :=
  trapIf_none (by simpa using h) _

theorem Ctx.dscTraps_none {x : Ctx} {a : Nat} (h32 : a % 32 = 0) (hlt : a < 2 ^ 21) (hin : (Place.cm a).inRange x.s x.g 32 = true) :
    (x.dscTraps a).Forall (· = none) :=
  ⟨trapIf_none (by simpa [h32] using hlt) _, Ctx.baseTrap_none hin⟩

theorem Ctx.bases_some {x : Ctx} {f : FcArgs} {d s : Place} {ud us : Nat} (hd : placeOf f.dsp.toNat (x.c.rd f.da) = some d)
    (hs : placeOf f.ssp.toNat (x.c.rd f.sa) = some s) (had : d.aligned false ud = true) (has : s.aligned false us = true) :
    x.bases f ud us = some (d, s) := by
  simp only [Ctx.bases, hd, hs, had, has, Bool.and_self, if_true]

/-- An untimed request with room in its core's queue, whose handle and operands pass, has the effect of a request (R213). -/
theorem Ctx.request_ok {x : Ctx} {reads : List Loc} {tag : BitVec 4} {kind : ReqKind} {io : BitVec 2} {h : Option (Nat × Except Trap Place)}
    {traps : List (Option Trap)} {im : Bool} {due : Option Nat} {first : Nat → List (Nat × Act)} (hroom : x.roomForRequest = true)
    (hh : hdlTrap h = none) (ht : traps.Forall (· = none)) :
    x.request reads tag kind io h traps im due first = ⟨reads, .ok (x.requestEff tag kind io h im due first)⟩ := by
  have hqueue : trapIf (decide (32 ≤ (x.g.reqs.filter fun r => r.who.rank == x.who.rank).length)) { cause := 16, lo := 5 } = none :=
    trapIf_none (decide_eq_false (Nat.not_le.2 (of_decide_eq_true hroom))) _
  exact Plan.checked_ok (e := x.requestEff tag kind io h im due first) ((List.forall_cons ..).2 ⟨hh, (List.forall_cons ..).2 ⟨hqueue, ht⟩⟩)

end Sys2Proof.Machine

namespace Sys2Proof.Machine

/-! Untimed requests (R213, R216 to R225): each plan whose operands pass is a request. -/

/-- The fault of an MCOPY whose pixels in a vault do not all lie inside it (R224). -/
def Ctx.pixelTrap (x : Ctx) (t : Tile) (p : Place) (offs : List Nat) : Option Trap :=
  match p with
  | .vt _ => trapIf (offs.any fun o => !((p.move (o : Int)).any fun q => q.inRange x.s x.g t.pb)) (p.rangeTrap 0)
  | _ => none

theorem Ctx.pixelTrap_none {x : Ctx} {t : Tile} {p : Place} {offs : List Nat}
    (h : ∀ v, p = .vt v → ∀ o ∈ offs, ((p.move (o : Int)).any fun q => q.inRange x.s x.g t.pb) = true) : x.pixelTrap t p offs = none := by
  cases p with
  | vt v => exact trapIf_none (List.any_eq_false.2 fun o ho => by rw [h v rfl o ho]; decide) _
  | _ => rfl

section
variable {x : Ctx} {f : FcArgs} {d s : Place} (hroom : x.roomForRequest = true) (hh : hdlTrap (x.hdl f) = none)
include hroom hh

/-- GATH, SCAT and SCATW. -/
theorem planGather_ok {mk : Place → Place → Nat → ReqKind} (hb : x.bases f 32 32 = some (d, s))
    (hdsc : (x.dscTraps (x.c.rd f.ln)).Forall (· = none)) (hs : s.inRange x.s x.g 1 = true) (hd : d.inRange x.s x.g 1 = true) :
    planGather mk f x = ⟨fcReads f true,
      .ok (x.requestEff f.tag (mk d s (x.c.rd f.ln)) (f.mod.extractLsb' 0 2) (x.hdl f) false none fun _ => [])⟩ := by
  simp only [planGather, hb]
  exact Ctx.request_ok hroom hh (List.forall_append.2 ⟨hdsc, Ctx.baseTrap_none hs, Ctx.baseTrap_none hd⟩) ..

/-- An MCOPY through a slot that has landed; `px` are the pixels that it moves, none for an inactive entry (R224). -/
theorem planMcopy_ok {t : Tile} {px : List (Nat × Nat)} (hb : x.bases f 32 32 = some (d, s)) (hslot : x.slotTrap (f.aux.toNat % 8) = none)
    (htile : tileOf (x.c.slot (f.aux.toNat % 8)) = some t) (hs : s.inRange x.s x.g 1 = true) (hd : d.inRange x.s x.g 1 = true)
    (hpx : px = if fld (x.c.rd f.ln) 32 4 = 1 then t.pixels (x.c.rd f.ln) else []) (hsv : x.pixelTrap t s (px.map (·.2)) = none)
    (hdv : x.pixelTrap t d (px.map (·.1)) = none) (hov : fld (x.c.rd f.ln) 32 4 = 1 → tileOverlap t (x.c.rd f.ln) d s = false) :
    planMcopy f x = ⟨fcReads f true, .ok (x.requestEff f.tag
      (.mcopy d.space s.space d.raw s.raw (BitVec.ofNat 64 (x.c.rd f.ln)) (x.c.slot (f.aux.toNat % 8))) (f.mod.extractLsb' 0 2) (x.hdl f) false
      (if px.isEmpty then some (x.s.tlc + 2) else none) fun _ => [])⟩ := by
  subst hpx
  simp only [planMcopy, hb, hslot, htile]
  have hmeet : trapIf (decide (fld (x.c.rd f.ln) 32 4 = 1) && tileOverlap t (x.c.rd f.ln) d s) { cause := 35, lo := s.raw, hi := d.raw } = none :=
    trapIf_none (by simpa using hov) _
  exact Ctx.request_ok hroom hh ⟨Ctx.baseTrap_none hs, Ctx.baseTrap_none hd, hsv, hdv, hmeet⟩

end

/-- Settles O33: the plan of each untimed instruction, whose every check passes. -/
theorem untimedRequests : Obligations.UntimedRequests := by
  intro f d s t n at_ dsc here px vtOk form
  have hbases {x : Ctx} {ud us : Nat} (h : at_ x ud us) : x.bases f ud us = some (d, s) := by
    obtain ⟨hd, hs, had, has⟩ := h
    exact Ctx.bases_some hd hs had has
  have hdsc {x : Ctx} (h : dsc x) : (x.dscTraps (x.c.rd f.ln)).Forall (· = none) := by
    obtain ⟨h32, hlt, hin⟩ := h
    exact Ctx.dscTraps_none h32 hlt hin
  have hgather {i : Instr} {mk : Place → Place → Nat → ReqKind} (hi : planOf i = some (planGather mk f)) :
      form i (fun x => at_ x 32 32 ∧ dsc x ∧ here x s 1 ∧ here x d 1) (fun x => mk d s (n x)) (fun _ => false) fun _ => none :=
    .of_plan (exec_of_planOf hi) fun x ⟨hroom, hh, hat, hd, hs, hde⟩ => planGather_ok hroom hh (hbases hat) (hdsc hd) hs hde
  refine ⟨.of_plan (exec_of_planOf rfl) fun x ⟨hroom, hh, hat, h1, h2, him, hs, hd⟩ => ?_,
    .of_plan (exec_of_planOf rfl) fun x ⟨hroom, hh, hp, hal, h1, h2, hd⟩ => ?_,
    hgather (mk := fun d s a => .gath (f.var.getLsbD 0) s.space d.raw s.raw a) rfl, hgather (mk := fun d s a => .scat d.space d.raw s.raw a) rfl,
    hgather (mk := fun d s a => .scatw s.space d.raw s.raw a) rfl,
    .of_plan (exec_of_planOf rfl) fun x ⟨hroom, hh, hp, hal, h16, hlt, hd, hs, htab⟩ => ?_,
    .of_plan (exec_of_planOf rfl) fun x ⟨hroom, hh, hat, hslot, htile, hs, hd, hsv, hdv, hov⟩ => ?_,
    .of_plan (exec_of_planOf rfl) fun x ⟨hroom, hh, hat, h1, h2, hs, hd⟩ => ?_⟩
  · simp only [planUcopy, hbases hat]
    exact Ctx.request_ok hroom hh ⟨countTrap_none h1 h2 _, Ctx.imTrap_none him, Ctx.baseTrap_none hs, Ctx.baseTrap_none hd⟩
  · simp only [planUfill, hp]
    exact (if_neg (by rw [hal]; decide)).trans (Ctx.request_ok hroom hh ⟨countTrap_none h1 h2 _, Ctx.baseTrap_none hd⟩)
  · have hok : ¬(!s.aligned false 32 || decide (x.c.rd f.da % 16 ≠ 0) || decide (x.c.rd f.da ≥ 2 ^ 21)) = true := by
      simpa [hal, h16] using hlt
    simp only [planGaths, hp]
    exact (if_neg hok).trans (Ctx.request_ok hroom hh (List.forall_append.2 ⟨hdsc hd, Ctx.baseTrap_none hs, Ctx.baseTrap_none htab⟩) ..)
  · exact planMcopy_ok hroom hh (hbases hat) hslot htile hs hd rfl (Ctx.pixelTrap_none hsv) (Ctx.pixelTrap_none hdv) hov
  · simp only [planTlfetch, hbases hat]
    exact Ctx.request_ok hroom hh ⟨countTrap_none h1 h2 _, Ctx.baseTrap_none hs, Ctx.baseTrap_none hd⟩

end Sys2Proof.Machine

namespace Sys2Proof.Machine

/-! Engine commands, PIN and UNPIN (R220, R248). -/

/-- The pins of the core's die. -/
def Ctx.diePins (x : Ctx) : List PinEnt := x.s.pins.filter fun p => p.die == x.c.gcore / 32

/-- The job has a pin of this many beats at this address of the die. -/
def Ctx.hasPin (x : Ctx) (va n : Nat) : Bool := x.diePins.any fun p => p.job == x.g.step.job && p.va == va && p.beats == n

/-- The die's row cache has no entry, or not the beats, for a pin of this many beats (R220). -/
def Ctx.cacheFull (x : Ctx) (n : Nat) : Prop := 64 ≤ x.diePins.length ∨ 32768 < (x.diePins.map (·.beats)).foldl (· + ·) 0 + n

/-- An aligned address of 54 bits passes the check of PIN. -/
theorem pinAddr_ok {va : Nat} (h32 : va % 32 = 0) (hlt : va < 2 ^ 54) : ¬(va % 32 ≠ 0 ∨ va ≥ 2 ^ 54) :=
  not_or.2 ⟨not_not.2 h32, Nat.not_le.2 hlt⟩

section
variable {x : Ctx} {a : Opnd}

/-- An engine command with room in the queue and an aligned block in range is a request that reads its block on the next cycle (R248). -/
theorem planEngine_ok (hroom : x.roomForRequest = true) (h64 : x.c.rd a % 64 = 0) (hlt : x.c.rd a < 2 ^ 21)
    (hin : (Place.cm (x.c.rd a)).inRange x.s x.g 64 = true) (op : Nat) (tag : BitVec 4) :
    planEngine op a tag x = ⟨[a.xloc], .ok (x.requestEff tag (.engine op (x.c.rd a)) 0 none false none
      fun id => (x.s.tlc + 1, .blockRead id (x.c.rd a)) :: bankActs (x.s.tlc + 1) x.c.gcore false [x.c.rd a / 64])⟩ :=
  (if_neg (not_or.2 ⟨not_not.2 h64, Nat.not_le.2 hlt⟩)).trans (Ctx.request_ok hroom rfl (Ctx.baseTrap_none hin))

variable {beats : BitVec 12} (h32 : x.c.rd a % 32 = 0) (hlt : x.c.rd a < 2 ^ 54)
include h32 hlt

theorem planPin_again (had : x.hasPin (x.c.rd a) (beats.toNat + 1) = true) (d : Opnd) : planPin d a beats x = ⟨[a.xloc], .ok (x.xEff d 1 4)⟩ :=
  (if_neg (pinAddr_ok h32 hlt)).trans ((if_pos had).trans (x.xPlan_eq ..))

theorem planPin_full (had : x.hasPin (x.c.rd a) (beats.toNat + 1) = false) (hfull : x.cacheFull (beats.toNat + 1)) (d : Opnd) :
    planPin d a beats x = ⟨[a.xloc], .ok (x.xEff d 0 4)⟩ :=
  (if_neg (pinAddr_ok h32 hlt)).trans ((if_neg (Bool.eq_false_iff.1 had)).trans ((if_pos hfull).trans (x.xPlan_eq ..)))

theorem planPin_enters (had : x.hasPin (x.c.rd a) (beats.toNat + 1) = false) (hfits : ¬x.cacheFull (beats.toNat + 1)) (d : Opnd) :
    planPin d a beats x = ⟨[a.xloc], .ok
      { claims := [(d.xloc, x.s.tlc + 4)], acts := [(x.s.tlc + 4, .wx d.start.toNat d.width 1)]
        dev := fun s => { s with pins := s.pins ++ [⟨x.c.gcore / 32, x.g.step.job, x.c.rd a, beats.toNat + 1⟩] } }⟩ :=
  (if_neg (pinAddr_ok h32 hlt)).trans ((if_neg (Bool.eq_false_iff.1 had)).trans ((if_neg hfits).trans rfl))

end

/-- Settles O34: the plan shared by the seven engine commands, the three outcomes of PIN, and UNPIN. -/
theorem engineCommandsAndPins : Obligations.EngineCommandsAndPins := by
  intro d a tag beats ad form n die mine had legal full hit ans
  have hform {i : Instr} {op : Nat} (hi : planOf i = some (planEngine op a tag)) : form i op :=
    .of_plan (exec_of_planOf hi) fun x ⟨hroom, h64, hlt, hin⟩ => planEngine_ok hroom h64 hlt hin op tag
  refine ⟨hform rfl, hform rfl, hform rfl, hform rfl, hform rfl, hform rfl, hform rfl, ?_, ?_, ?_, ?_⟩
  · exact .of_plan (exec_of_planOf rfl) fun x ⟨⟨h32, hlt⟩, hhad⟩ => planPin_again h32 hlt hhad d
  · exact .of_plan (exec_of_planOf rfl) fun x ⟨⟨h32, hlt⟩, hnew, hfull⟩ => planPin_full h32 hlt hnew hfull d
  · exact .of_plan (exec_of_planOf rfl) fun x ⟨⟨h32, hlt⟩, hnew, hfits⟩ => planPin_enters h32 hlt hnew hfits d
  · exact .of_plan (exec_of_planOf rfl) fun x _ => rfl

end Sys2Proof.Machine

namespace Sys2Proof.Machine

/-! SEQCFG, XFORM, XFORMV and XSTAT (R210, R226 to R229). -/

section
variable {x : Ctx} {f : FcArgs} {p : Place} {lim : Nat}

/-- The checks that XFORM and XFORMV share pass where the base is aligned, `par` and the count legal and the transform port released. -/
theorem Ctx.xformBad_none (hp : placeOf f.dsp.toNat (x.c.rd f.da) = some p) (hal : p.aligned true 64 = true)
    (hpar : xformPar f.var.toNat (x.c.rd f.sa) = true) (h1 : 1 ≤ x.c.rd f.ln) (h2 : x.c.rd f.ln ≤ lim) (hrel : x.c.ports.xf ≤ x.s.tlc) :
    x.xformBad f lim = none := by
  have hcount : ¬(decide (x.c.rd f.ln = 0) || decide (x.c.rd f.ln > lim)) = true := by simpa using ⟨Nat.ne_of_gt h1, h2⟩
  simp only [Ctx.xformBad, hp, hal, hpar]
  exact (if_neg (by decide)).trans ((if_neg hcount).trans (trapIf_none (decide_eq_false (Nat.not_lt.2 hrel)) _))

end

/-- A SEQCFG reads an aligned line of its carve-out. -/
theorem Gang.seqOk_of {g : Gang} {ad : Nat} (h64 : ad % 64 = 0) (hin : g.inCarve ad 64 = true) : g.seqOk ad = true := by
  rw [Gang.seqOk, h64, hin]; rfl

/-- A tag's status read at the end of a cycle lands on the next one (R229). -/
theorem State.readAct_readTag {s : State} {gid : Nat} {w : Who} {g : Gang} {c : Core} (hg : aget gid s.gangs = some g)
    (hc : s.coreOf gid w = some c) (n st wd : Nat) :
    s.readAct gid w (.readTag n st wd) = s.addAgenda gid [⟨s.tlc + 1, w, .wx st wd (c.tagStat n % 2 ^ wd)⟩] := by
  simp only [State.readAct, State.readCore, hg, hc]

/-- Settles O32: the plans of the four words past their checks, and what XSTAT reads. -/
theorem sequencerAndTransforms : Obligations.SequencerAndTransforms := by
  intro slot off f d a p ad n base at_ ready
  have hbad {x : Ctx} {lim : Nat} (h : ready x lim) : x.xformBad f lim = none := by
    obtain ⟨hp, hal, hpar, h1, h2, hrel⟩ := h
    exact Ctx.xformBad_none hp hal hpar h1 h2 hrel
  refine ⟨.of_plan (exec_of_planOf rfl) fun x ⟨h64, hin⟩ => ?_, .of_plan (exec_of_planOf rfl) fun x ⟨hr, hin⟩ => ?_,
    .of_plan (exec_of_planOf rfl) fun x ⟨hr, hhome, hin⟩ => ?_, .of_plan (exec_of_planOf rfl) fun x h => if_neg (Nat.not_lt.2 h),
    fun s gid w g c k st wd hg hc => State.readAct_readTag hg hc k st wd⟩
  · exact (if_neg (not_not.2 h64)).trans (if_neg (by rw [Gang.seqOk_of h64 hin]; decide))
  · simp only [planXform, hbad hr]
    exact if_neg (by rw [hin]; decide)
  · simp only [planXformv, hbad hr]
    exact (if_neg (by rw [hhome]; decide)).trans (if_neg (by rw [hin]; decide))

end Sys2Proof.Machine

namespace Sys2Proof.Machine

/-! Timed copies (R203 to R212): the checks of a copy and of its lines. -/

/-- The first fault of one line of a MOVE, the source's before the destination's (R205, R206). -/
def Ctx.lineTrap (x : Ctx) (d s : Place) (q : Option Place × Option Place) : Option Trap :=
  match q.2, q.1 with
  | none, _ => some (s.rangeTrap 0)
  | some b, none => if !b.inRange x.s x.g 64 then some (b.rangeTrap 0) else some (d.rangeTrap 0)
  | some b, some a => if !b.inRange x.s x.g 64 then some (b.rangeTrap 0) else if !a.inRange x.s x.g 64 then some (a.rangeTrap 0) else none

/-- The lines of a MOVE under their numbers, destination and source. -/
def moveLines (d s : Place) (offs : List (Int × Int)) : List (Nat × Option Place × Option Place) :=
  (List.range offs.length).zip (offs.map fun o => (d.move o.1, s.move o.2))

/-- Both places of a line are in range. -/
def Ctx.lineFits (x : Ctx) (q : Nat × Option Place × Option Place) : Prop :=
  ∃ a b, q.2 = (some a, some b) ∧ a.inRange x.s x.g 64 = true ∧ b.inRange x.s x.g 64 = true

/-- The path of a MOVE: to its far place, the source unless that is the core's own memory (R204). -/
def Ctx.movePath (x : Ctx) (d s : Place) : Path := x.pathTo (if s.isOwn x.who.rank then d else s)

section
variable {x : Ctx} {d s : Place}

theorem Ctx.lineTrap_none {q : Nat × Option Place × Option Place} (h : x.lineFits q) : x.lineTrap d s q.2 = none := by
  obtain ⟨a, b, hq, ha, hb⟩ := h
  simp only [Ctx.lineTrap, hq, ha, hb, Bool.not_true, Bool.false_eq_true, if_false]

/-- A line whose source leaves the range, or whose destination does where its source does not, faults at that place. -/
theorem Ctx.lineTrap_bad {q : Nat × Option Place × Option Place} {bad : Place} (hbad : bad.inRange x.s x.g 64 = false)
    (h : q.2.2 = some bad ∨ ∃ b, q.2.2 = some b ∧ b.inRange x.s x.g 64 = true ∧ q.2.1 = some bad) :
    x.lineTrap d s q.2 = some (bad.rangeTrap 0) := by
  rcases h with hsrc | ⟨b, hsrc, hb, hdst⟩
  · cases hdst : q.2.1 <;> simp only [Ctx.lineTrap, hsrc, hdst, hbad, Bool.not_false, if_true]
  · simp only [Ctx.lineTrap, hsrc, hdst, hb, hbad, Bool.not_true, Bool.not_false, Bool.false_eq_true, if_false, if_true]

/-- The first line that faults gives the copy's fault. -/
theorem Ctx.lineTrap_first {l : List (Nat × Option Place × Option Place)} {k : Nat} {q : Nat × Option Place × Option Place} {tr : Trap}
    (hfits : ∀ q ∈ l.take k, x.lineFits q) (hk : l[k]? = some q) (hq : x.lineTrap d s q.2 = some tr) :
    (l.findSome? fun q => x.lineTrap d s q.2) = some tr := by
  obtain ⟨hlt, rfl⟩ := List.getElem?_eq_some_iff.1 hk
  refine List.findSome?_eq_some_iff.2 ⟨l.take k, l[k], l.drop (k + 1), ?_, hq, fun q hq => Ctx.lineTrap_none (hfits q hq)⟩
  rw [List.getElem_cons_drop, List.take_append_drop]

/-- A copy past the release of its port, on its slot where its path has one, with a valid handle and a destination it may write, meets none of
the faults that come before its lines (R203, R204, R209). -/
theorem Ctx.copyTraps_none {path : Path} {h : Option (Nat × Except Trap Place)} (hh : hdlTrap h = none) (hrel : x.c.ports.rel path ≤ x.s.tlc)
    (hslot : (path == .lat || path == .inter) = true → (x.s.tlc - x.g.dbt) % 8 = x.c.gcore % 8)
    (him : d.space = 1 → x.g.tob.flags / 4 % 2 = 1) : (x.copyTraps d path h).Forall (· = none) := by
  have hon : ((path == .lat || path == .inter) && (x.s.tlc - x.g.dbt) % 8 != x.c.gcore % 8) = false := by
    cases hfar : (path == .lat || path == .inter)
    · rfl
    · simp [hslot hfar]
  exact ⟨hh, trapIf_none (decide_eq_false (Nat.not_lt.2 hrel)) _, trapIf_none hon _, Ctx.imTrap_none him⟩

variable {f : FcArgs} {reads : List Loc} {offs : List (Int × Int)}

/-- A MOVE is a plan under checks: those of its copy, then those of its lines in their order. -/
theorem Ctx.movePlan_checked (x : Ctx) (f : FcArgs) (reads : List Loc) (d s : Place) (offs : List (Int × Int)) :
    ∃ e, x.movePlan f reads d s offs [] = Plan.checked (x.copyTraps d (x.movePath d s) (x.hdl f) ++
      [(moveLines d s offs).findSome? fun q => x.lineTrap d s q.2]) reads e := ⟨_, rfl⟩

/-- A MOVE that meets no other fault has that of its first line outside. -/
theorem Ctx.movePlan_bad {k : Nat} {q : Nat × Option Place × Option Place} {bad : Place}
    (hc : (x.copyTraps d (x.movePath d s) (x.hdl f)).Forall (· = none)) (hfits : ∀ q ∈ (moveLines d s offs).take k, x.lineFits q)
    (hk : (moveLines d s offs)[k]? = some q) (hbad : bad.inRange x.s x.g 64 = false)
    (hq : q.2.2 = some bad ∨ ∃ b, q.2.2 = some b ∧ b.inRange x.s x.g 64 = true ∧ q.2.1 = some bad) :
    x.movePlan f reads d s offs [] = ⟨reads, .error (bad.rangeTrap 0)⟩ := by
  obtain ⟨e, he⟩ := x.movePlan_checked f reads d s offs
  rw [he, Ctx.lineTrap_first hfits hk (Ctx.lineTrap_bad hbad hq), Plan.checked_last hc]

/-- Lines that all fit add no fault to those of the copy. -/
theorem Ctx.moveChecks_none (hc : (x.copyTraps d (x.movePath d s) (x.hdl f)).Forall (· = none)) (hfits : ∀ q ∈ moveLines d s offs, x.lineFits q) :
    (x.copyTraps d (x.movePath d s) (x.hdl f) ++ [(moveLines d s offs).findSome? fun q => x.lineTrap d s q.2]).Forall (· = none) :=
  List.forall_append.2 ⟨hc, List.findSome?_eq_none_iff.2 fun q hq => Ctx.lineTrap_none (hfits q hq)⟩

/-- COPY and COPYA past the checks of their operands are a MOVE. -/
theorem planCopy_move (hd : placeOf f.dsp.toNat (x.c.rd f.da) = some d) (hs : placeOf f.ssp.toNat (x.c.rd f.sa) = some s)
    (had : d.aligned true 64 = true) (has : s.aligned true 64 = true) (h1 : 1 ≤ x.c.rd f.ln) (h2 : x.c.rd f.ln ≤ 32768) (hvar : f.var = 0) :
    planCopy f x = x.movePlan f (fcReads f true) d s
      ((List.range (x.c.rd f.ln)).map fun k => (((64 * k : Nat) : Int), ((64 * k : Nat) : Int))) [] := by
  simp only [planCopy, hd, hs, had, has]
  exact (if_neg (by decide)).trans ((if_neg (count_ok h1 h2)).trans (if_pos hvar))

theorem planCopya_move {ls : List (Nat × Int × Int)} (hd : placeOf f.dsp.toNat (x.c.rd f.da) = some d)
    (hs : placeOf f.ssp.toNat (x.c.rd f.sa) = some s) (had : d.aligned true 64 = true) (has : s.aligned true 64 = true)
    (hslot : x.slotTrap (f.aux.toNat % 8) = none)
    (hls : (if d.space = 1 then affineOf (x.c.slot (f.aux.toNat % 8)) 8 8 else affineOf (x.c.slot (f.aux.toNat % 8)) 64 1) = some ls) :
    planCopya f x = x.movePlan f (fcReads f false) d s ((List.range (ls.foldl (fun n l => n * l.1) 1)).map (affineLine ls)) [] := by
  simp only [planCopya, hd, hs, had, has, hslot, hls]
  exact if_neg (by decide)

/-- A COPY of another kind between own core memories is a converting one (R207). -/
theorem planCopy_conv {da sa : Nat} (hdsp : f.dsp = 0) (hssp : f.ssp = 0) (hda : x.c.rd f.da = da) (hsa : x.c.rd f.sa = sa)
    (hdlt : da < 2 ^ 21) (hslt : sa < 2 ^ 21) (hd64 : da % 64 = 0) (hs64 : sa % 64 = 0) (h1 : 1 ≤ x.c.rd f.ln) (h2 : x.c.rd f.ln ≤ 32768)
    (hvar : f.var ≠ 0) : planCopy f x = x.convPlan f (fcReads f true) da sa (x.c.rd f.ln) := by
  have hplace {v : Nat} (h : v < 2 ^ 21) : placeOf 0 v = some (.cm v) := if_pos h
  have haligned {v : Nat} (h : v % 64 = 0) : (Place.cm v).aligned true 64 = true := beq_iff_eq.2 h
  have hd : placeOf f.dsp.toNat (x.c.rd f.da) = some (.cm da) := by rw [hdsp, hda]; exact hplace hdlt
  have hs : placeOf f.ssp.toNat (x.c.rd f.sa) = some (.cm sa) := by rw [hssp, hsa]; exact hplace hslt
  simp only [planCopy, hd, hs, haligned hd64, haligned hs64]
  exact (if_neg (by decide)).trans ((if_neg (count_ok h1 h2)).trans (if_neg hvar))

/-- The bytes that a converting COPY of n lines reads (R207). -/
def convSource (var n : Nat) : Nat := match var with | 1 => 32 * n | 2 => 128 * n | 3 => 16 * n | _ => 64 * n

/-- The checks of a converting COPY of n lines (R207, R208). -/
def Ctx.convChecks (x : Ctx) (f : FcArgs) (da sa n : Nat) : List (Option Trap) :=
  [trapIf ((f.var.toNat == 3 && n % 4 != 0) || (f.var.toNat == 4 && n % (64 / 2 ^ f.es) != 0)) { cause := 2, inCont := true }] ++
    x.copyTraps (.cm da) .loc (x.hdl f) ++
    [trapIf (!x.g.inCarve sa (convSource f.var.toNat n)) ((Place.cm sa).rangeTrap 0), trapIf (!x.g.inCarve da (64 * n)) ((Place.cm da).rangeTrap 0),
     trapIf (meet da (64 * n) sa (convSource f.var.toNat n)) { cause := 35, lo := sa, hi := da }]

theorem Ctx.convChecks_none {da sa n : Nat} (h3 : f.var.toNat = 3 → n % 4 = 0) (h4 : f.var.toNat = 4 → n % (64 / 2 ^ f.es) = 0)
    (hh : hdlTrap (x.hdl f) = none) (hrel : x.c.ports.loc ≤ x.s.tlc) (hsin : x.g.inCarve sa (convSource f.var.toNat n) = true)
    (hdin : x.g.inCarve da (64 * n) = true) (hmeet : meet da (64 * n) sa (convSource f.var.toNat n) = false) :
    (x.convChecks f da sa n).Forall (· = none) := by
  have hcount : ((f.var.toNat == 3 && n % 4 != 0) || (f.var.toNat == 4 && n % (64 / 2 ^ f.es) != 0)) = false := by
    simpa using ⟨h3, h4⟩
  have hcopy : (x.copyTraps (.cm da) .loc (x.hdl f)).Forall (· = none) := Ctx.copyTraps_none hh hrel nofun nofun
  exact List.forall_append.2 ⟨(List.forall_cons ..).2 ⟨trapIf_none hcount _, hcopy⟩,
    trapIf_none (by rw [hsin]; rfl) _, trapIf_none (by rw [hdin]; rfl) _, trapIf_none hmeet _⟩

end

/-- Settles O31: COPY and COPYA are a MOVE of their lines, a COPY of another kind a conversion, each a plan under checks. -/
theorem timedCopies : Obligations.TimedCopies := by
  refine ⟨fun f d s => ?_, fun f da sa => ?_⟩
  · intro lines path tm last fits ready eff plain
    have hmove {x : Ctx} {reads : List Loc} {offs : List (Int × Int)}
        (hc : (x.copyTraps d (x.movePath d s) (x.hdl f)).Forall (· = none)) (hfits : ∀ q ∈ lines offs, fits x q) :
        x.movePlan f reads d s offs [] = ⟨reads, .ok (eff x offs)⟩ :=
      Plan.checked_ok (e := eff x offs) (Ctx.moveChecks_none hc hfits)
    refine ⟨.of_plan (exec_of_planOf rfl) fun x ⟨hvar, h1, h2, ⟨hd, hs, had, has, hh, hrel, hslot, him⟩, hfits⟩ => ?_,
      fun k bad => .of_plan (exec_of_planOf rfl) fun x ⟨hvar, h1, h2, ⟨hd, hs, had, has, hh, hrel, hslot, him⟩, hfits, q, hk, hbad, hq⟩ => ?_,
      fun ls => .of_plan (exec_of_planOf rfl) fun x ⟨hseq, hls, ⟨hd, hs, had, has, hh, hrel, hslot, him⟩, hfits⟩ => ?_⟩
    · exact (planCopy_move hd hs had has h1 h2 hvar).trans (hmove (Ctx.copyTraps_none hh hrel hslot him) hfits)
    · exact (planCopy_move hd hs had has h1 h2 hvar).trans
        (Ctx.movePlan_bad (Ctx.copyTraps_none hh hrel hslot him) hfits hk hbad hq)
    · exact (planCopya_move hd hs had has hseq hls).trans (hmove (Ctx.copyTraps_none hh hrel hslot him) hfits)
  · intro n var es src extra land key one rd
    refine .of_plan (exec_of_planOf rfl) fun x
      ⟨hvar, hdsp, hssp, hda, hsa, hdlt, hslt, hd64, hs64, h1, h2, h3, h4, hh, hrel, hsin, hdin, hmeet⟩ => ?_
    exact (planCopy_conv hdsp hssp hda hsa hdlt hslt hd64 hs64 h1 h2 hvar).trans
      (Plan.checked_ok (Ctx.convChecks_none h3 h4 hh hrel hsin hdin hmeet))

end Sys2Proof.Machine

namespace Sys2Proof.Machine

/-! Atomics (R230 to R235). -/

/-- The bank reached by an atomic on a word of n bytes: the core's own, or that of the vault (R234). -/
def Ctx.atBank (x : Ctx) (p : Place) (n : Nat) : List (Nat × Act) :=
  let reach := x.s.tlc + p.lat x.g x.c
  if p.isOwn x.who.rank then bankActs reach x.c.gcore true (linesOf p.raw n)
  else [(reach, Act.vbank (p.die x.g x.c) (fld p.raw 24 4) (vtBank (p.raw % 2 ^ 24)) .rmw true)]

/-- The reach of an atomic is in the issuer's window of the wheel of the die that holds its word (R235). -/
def Ctx.inWindow (x : Ctx) (p : Place) : Prop :=
  wheelFirst x.c.gcore (p.die x.g x.c) ≤ (x.s.tlc + p.lat x.g x.c) % 128 ∧
    (x.s.tlc + p.lat x.g x.c) % 128 ≤ wheelFirst x.c.gcore (p.die x.g x.c) + 2

/-- An atomic on an aligned word in range, reached in own memory or in the window, has its effect. -/
theorem planAt_ok {x : Ctx} {p : Place} {sp : BitVec 3} {a b : Opnd} (hp : placeOf sp.toNat (x.c.rd a) = some p)
    (hreach : p.isOwn x.who.rank = true ∨ x.inWindow p) (hin : p.inRange x.s x.g (b.width / 8) = true) (hal : p.raw % (b.width / 8) = 0)
    (op : AtOp) (flag : Bool) (d : Opnd) (c : Option Opnd) :
    planAt op flag sp d a b c x = ⟨[a.xloc, b.xloc] ++ c.toList.map Opnd.xloc, .ok {
      claims := (if p.isOwn x.who.rank then [(.cm p.raw (b.width / 8), x.s.tlc + p.lat x.g x.c)] else []) ++ [(d.xloc, x.s.tlc + 2 * p.lat x.g x.c)]
      acts := (x.s.tlc + p.lat x.g x.c, .atomic op flag (p.key x.s x.g x.c) b.width (x.c.rd b) ((c.map x.c.rd).getD 0) d.start.toNat
        (x.s.tlc + 2 * p.lat x.g x.c)) :: x.atBank p (b.width / 8) }⟩ := by
  have hwheel : ¬((!p.isOwn x.who.rank) = true ∧
      (!(decide (wheelFirst x.c.gcore (p.die x.g x.c) ≤ (x.s.tlc + p.lat x.g x.c) % 128) &&
        decide ((x.s.tlc + p.lat x.g x.c) % 128 ≤ wheelFirst x.c.gcore (p.die x.g x.c) + 2))) = true) := by
    rcases hreach with hown | ⟨hfrom, hto⟩
    · simp [hown]
    · simp [hfrom, hto]
  simp only [planAt, hp]
  exact (if_neg hwheel).trans ((if_neg (by rw [hin]; decide)).trans ((if_neg (not_not.2 hal)).trans rfl))

/-- An atomic that reads its word without a fault or a correction updates it, and schedules the old value and the flags (R231, R232). -/
theorem State.atomic_updates {s : State} {gid : Nat} {w : Who} {key wd : Nat} (hflit : s.opFlit gid w key = none)
    (hpsn : (s.fetch key (wd / 8)).psn = false) (hbad : (s.fetch key (wd / 8)).bad = none) (hfixed : (s.fetch key (wd / 8)).fixed = [])
    (op : AtOp) (flag : Bool) (vb vc dst land : Nat) :
    let old := leNat (s.fetch key (wd / 8)).bytes
    s.atomic gid w op flag key wd vb vc dst land =
      (s.store key (leBytes (wd / 8) (op.apply flag wd old vb vc).1)).modGang gid fun g =>
        { g with agenda := g.agenda ++ ((land, Act.wx dst wd old) :: flagActs land (op.apply flag wd old vb vc).2).map fun q => (⟨q.1, w, q.2⟩ : Timed) } := by
  simp only [State.atomic, hflit, Read.trap_none hpsn hbad, State.correctedAll_nil _ _ _ _ hfixed]
  rfl

/-- Settles O35: the plan shared by the atomics past its checks, and the update of a word read without a fault. -/
theorem atomicsReachAndUpdate : Obligations.AtomicsReachAndUpdate := by
  intro flag sp d a b c p reach ready form
  have hform {i : Instr} {op : AtOp} {flag : Bool} (hi : planOf i = some (planAt op flag sp d a b none)) : form i op flag [] fun _ => 0 :=
    .of_plan (exec_of_planOf hi) fun x ⟨hp, hreach, hin, hal⟩ => planAt_ok hp hreach hin hal op flag d none
  refine ⟨hform rfl, hform rfl, hform rfl, hform rfl, hform rfl, hform rfl, hform rfl,
    .of_plan (exec_of_planOf rfl) fun x ⟨hp, hreach, hin, hal⟩ => planAt_ok hp hreach hin hal .cas false d (some c),
    hform rfl, hform rfl, hform rfl, ?_⟩
  intro s gid w op key wd vb vc dst land hflit hpsn hbad hfixed
  exact State.atomic_updates hflit hpsn hbad hfixed op flag vb vc dst land

end Sys2Proof.Machine

namespace Sys2Proof.Machine

/-! Gong instructions and launches (R239 to R244, R247). -/

section
variable {x : Ctx} {p : Place}

/-- GONG.INIT of a gong in range reaches it on issue + L (R241). -/
theorem planGongInit_ok {sp : BitVec 3} {a b : Opnd} (hb : x.c.rd b ≠ 0) (hp : x.gongAt sp.toNat (x.c.rd a) = .ok p) :
    planGongInit sp a b x = ⟨[a.xloc, b.xloc], .ok {
      claims := if p.isOwn x.who.rank then [(.cm (p.raw % 2 ^ 21) 16, x.s.tlc + p.lat x.g x.c)] else []
      acts := (x.s.tlc + p.lat x.g x.c, .gongInit (p.key x.s x.g x.c) (BitVec.ofNat 32 (x.c.rd b))) ::
        if p.isOwn x.who.rank then bankActs (x.s.tlc + p.lat x.g x.c) x.c.gcore true (linesOf (p.raw % 2 ^ 21) 16)
        else x.peerBank p (x.s.tlc + p.lat x.g x.c) true }⟩ := by
  simp only [planGongInit, hp]
  exact if_neg hb

/-- GONG.HDL with a generation of its own writes the handle on the next cycle (R242). -/
theorem planGongHdl_given {sp : BitVec 3} {a : Opnd} (hp : x.gongAt sp.toNat (x.c.rd a) = .ok p) (d b : Opnd) :
    planGongHdl false sp d a b x = ⟨[a.xloc, b.xloc], .ok (x.xEff d (packHandle (x.c.rd b % 16) sp.toNat p.raw) 1)⟩ := by
  simp only [planGongHdl, hp]
  exact x.xPlan_eq ..

/-- GONG.HDL.cur reads the generation L cycles later (R242, log 96). -/
theorem planGongHdl_current {sp : BitVec 3} {a : Opnd} (hp : x.gongAt sp.toNat (x.c.rd a) = .ok p) (d b : Opnd) :
    planGongHdl true sp d a b x = ⟨[a.xloc], .ok {
      claims := [(d.xloc, x.s.tlc + 2 * p.lat x.g x.c)]
      acts := (x.s.tlc + p.lat x.g x.c, .gongHdl (BitVec.ofNat 64 (packHandle 0 sp.toNat p.raw)) (p.key x.s x.g x.c) d.start.toNat
        (x.s.tlc + 2 * p.lat x.g x.c)) :: x.peerBank p (x.s.tlc + p.lat x.g x.c) false }⟩ := by
  simp only [planGongHdl, hp]
  rfl

section
variable {a : Opnd} (hp : x.handle (x.c.rd a) false = .ok p)
include hp

/-- GONG.ARR registers its handle and is put off to the step's completion where an entry is free (R243). -/
theorem planGongArr_defers (hroom : x.c.compl.length < 8) (d : Opnd) (n : BitVec 12) :
    planGongArr d a n x = ⟨[a.xloc], .ok {
      claims := [(d.xloc, x.s.tlc + 1)]
      acts := (x.s.tlc + 1, .wx d.start.toNat d.width 1) :: x.registers (x.c.rd a) p
      core := fun c => { c with compl := c.compl ++ [.arrive (BitVec.ofNat 64 (x.c.rd a)) n.toNat x.st.pc] } }⟩ := by
  simp only [planGongArr, hp]
  exact if_pos hroom

theorem planGongArr_full (hfull : ¬x.c.compl.length < 8) (d : Opnd) (n : BitVec 12) :
    planGongArr d a n x = ⟨[a.xloc], .ok (x.xEff d 0 1)⟩ := by
  simp only [planGongArr, hp]
  exact (if_neg hfull).trans (x.xPlan_eq ..)

/-- GONG.WAIT outside of loops waits for the gong its handle names (R244). -/
theorem planGongWait_ok (hloops : x.st.loops = []) :
    planGongWait a x = ⟨[a.xloc], .ok { flow := some fun s =>
      { s with pc := s.pc + 1, st := .wait (.gong (BitVec.ofNat 64 (x.c.rd a)) (p.lat x.g x.c)) x.who } }⟩ := by
  simp only [planGongWait, hp, hloops]
  rfl

end

section
variable {a b : Opnd} {lead : Bool} {bad : Nat → Bool} (hqueue : x.c.rd b < 1024) (hbad : bad (x.c.rd a) = false)
include hqueue hbad

/-- A queue and a value that a launch accepts pass its check (R247). -/
theorem launch_legal : ¬(x.c.rd b ≥ 1024 ∨ bad (x.c.rd a) = true) :=
  not_or.2 ⟨Nat.not_le.2 hqueue, Bool.eq_false_iff.1 hbad⟩

/-- A launch of the leader's, in another rank (R247). -/
theorem planLaunch_otherRank (hlead : lead = true) (hrank : x.who.rank ≠ 0) (entry : Nat → Nat → Compl) (d : Opnd) :
    planLaunch bad entry lead d a b x = ⟨[a.xloc, b.xloc], .ok (x.xEff d 2 1)⟩ :=
  (if_neg (launch_legal hqueue hbad)).trans ((if_pos ⟨hlead, hrank⟩).trans (x.xPlan_eq ..))

variable (hrank : lead = true → x.who.rank = 0)
include hrank

theorem planLaunch_defers (hroom : x.c.compl.length < 8) (entry : Nat → Nat → Compl) (d : Opnd) :
    planLaunch bad entry lead d a b x = ⟨[a.xloc, b.xloc], .ok {
      claims := [(d.xloc, x.s.tlc + 1)], acts := [(x.s.tlc + 1, .wx d.start.toNat d.width 1)]
      core := fun c => { c with compl := c.compl ++ [entry (x.c.rd a) (x.c.rd b)] } }⟩ :=
  (if_neg (launch_legal hqueue hbad)).trans ((if_neg fun h => h.2 (hrank h.1)).trans (if_pos hroom))

theorem planLaunch_full (hfull : ¬x.c.compl.length < 8) (entry : Nat → Nat → Compl) (d : Opnd) :
    planLaunch bad entry lead d a b x = ⟨[a.xloc, b.xloc], .ok (x.xEff d 0 1)⟩ :=
  (if_neg (launch_legal hqueue hbad)).trans ((if_neg fun h => h.2 (hrank h.1)).trans ((if_neg hfull).trans (x.xPlan_eq ..)))

end
end

/-- Settles O36: the plans of GONG.INIT, GONG.HDL, GONG.ARR and GONG.WAIT, and the three outcomes of the plan that LSTEP and LGRAPH share. -/
theorem gongInstructions : Obligations.GongInstructions := by
  intro cur lead sp d a b n p room later launch
  have hlaunch {i : Instr} {bad : Nat → Bool} {entry : Nat → Nat → Nat → Compl}
      (hi : planOf i = some fun x => planLaunch bad (fun v q => entry v q x.st.pc) lead d a b x) : launch i bad entry := by
    refine ⟨.of_plan (exec_of_planOf hi) fun x ⟨⟨hq, hv⟩, hl, hr⟩ => ?_, .of_plan (exec_of_planOf hi) fun x ⟨⟨hq, hv⟩, hr, hroom⟩ => ?_,
      .of_plan (exec_of_planOf hi) fun x ⟨⟨hq, hv⟩, hr, hfull⟩ => ?_⟩
    · exact planLaunch_otherRank hq hv hl hr _ d
    · exact planLaunch_defers hq hv hr hroom _ d
    · exact planLaunch_full hq hv hr hfull _ d
  refine ⟨.of_plan (exec_of_planOf rfl) fun x ⟨hb, hp⟩ => planGongInit_ok hb hp,
    .of_plan (exec_of_planOf rfl) fun x ⟨hcur, hp⟩ => ?_, .of_plan (exec_of_planOf rfl) fun x ⟨hcur, hp⟩ => ?_,
    .of_plan (exec_of_planOf rfl) fun x ⟨hp, hroom⟩ => planGongArr_defers hp hroom d n,
    .of_plan (exec_of_planOf rfl) fun x ⟨hp, hfull⟩ => planGongArr_full hp hfull d n,
    .of_plan (exec_of_planOf rfl) fun x ⟨hloops, hp⟩ => planGongWait_ok hp hloops, ?_, ?_⟩
  · subst hcur; exact planGongHdl_given hp d b
  · subst hcur; exact planGongHdl_current hp d b
  · exact hlaunch (bad := fun v => v % 256 != 0) (entry := .lstep) rfl
  · exact hlaunch (bad := fun v => v / 2 ^ 28 != 0) (entry := .lgraph) rfl

end Sys2Proof.Machine

namespace Sys2Proof.Machine

/-! Layer tables (R250 to R352): the slot that CMU.TAB leaves, and its answers. -/

/-- Values put under successive keys are found there. -/
theorem aget_foldl_aset {α : Type} (mk : Nat → α) (base : Nat) (old : List (Nat × α)) (es : List Nat) {i : Nat} (hi : i < es.length) :
    aget (base + i) (((List.range es.length).zip es).foldl (fun l p => aset (base + p.1) (mk p.2) l) old) = some (mk ((es[i]?).getD 0)) := by
  induction es using List.reverseRecOn with
  | nil => exact absurd hi (Nat.not_lt_zero i)
  | append_singleton es e ih =>
    simp only [List.length_append, List.length_singleton] at hi ⊢
    rw [List.range_succ, List.zip_append (by simp), List.foldl_append]
    simp only [List.zip_cons_cons, List.zip_nil_right, List.foldl_cons, List.foldl_nil]
    rcases Nat.lt_succ_iff_lt_or_eq.1 hi with hlt | rfl
    · rw [aget_aset_ne _ _ (by omega), ih hlt, List.getElem?_append_left hlt]
    · rw [aget_aset_self, List.getElem?_concat_length, Option.getD_some]

/-- The fields of a CMU.TAB block are in range (R250). -/
def TabFields (b : List Byte) : Prop :=
  blockClean b [(0, 12)] = true ∧ bfld b 0 2 < 512 ∧ 1 ≤ bfld b 3 1 ∧ bfld b 2 1 + bfld b 3 1 ≤ 64 ∧ hvOk (bfld b 4 8) = true ∧ bfld b 12 1 ≤ 1

theorem TabFields.ok {b : List Byte} (h : TabFields b) :
    (blockClean b [(0, 12)] && decide (bfld b 0 2 < 512) && decide (1 ≤ bfld b 3 1) && decide (bfld b 2 1 + bfld b 3 1 ≤ 64) && hvOk (bfld b 4 8) &&
      decide (bfld b 12 1 ≤ 1)) = true := by
  simp only [Bool.and_eq_true, decide_eq_true_eq, and_assoc]
  exact h

/-- A slot after CMU.TAB has loaded layer entries from a layer on, with or without the reset (R351). -/
def CmuSlot.loaded (v : CmuSlot) (l0 : Nat) (es : List Nat) (reset : Bool) : CmuSlot :=
  let old := if reset then v.layers.map fun p => (p.1, { p.2 with isNew := true, ages := [] }) else v.layers
  let ls := ((List.range es.length).zip es).foldl (fun l p => aset (l0 + p.1) ({ entry := BitVec.ofNat 64 p.2, isNew := true, ages := [] } : CmuLayer) l) old
  if reset then { v with layers := ls, last := none, size := none, repeatCopy := none } else { v with layers := ls }

theorem CmuSlot.loaded_busy (v : CmuSlot) (l0 : Nat) (es : List Nat) (reset : Bool) : (v.loaded l0 es reset).busy = v.busy := by
  cases reset <;> rfl

theorem CmuSlot.loaded_layer (v : CmuSlot) (l0 : Nat) (es : List Nat) (reset : Bool) {i : Nat} (hi : i < es.length) :
    aget (l0 + i) (v.loaded l0 es reset).layers = some ⟨BitVec.ofNat 64 ((es[i]?).getD 0), true, []⟩ := by
  cases reset <;> exact aget_foldl_aset (fun e => (⟨BitVec.ofNat 64 e, true, []⟩ : CmuLayer)) l0 _ es hi

section
variable {s u : State} {id gid addr : Nat} {g : Gang} {r : Req} {c : Core} (hreq : s.engineReq id 0xC1 = some (gid, g, r, c, addr))
include hreq

/-- A slot out of range is the command's fault (R250). -/
theorem State.layerTable_noSlot (hslot : 512 ≤ bfld r.block 0 2) : s.layerTable id = s.nextDraw.refuse id g c { cause := 2 } := by
  simp only [State.layerTable, hreq]
  exact if_pos (by simp [Nat.not_lt.2 hslot])

variable (hf : TabFields r.block)
include hf

/-- A table for a slot whose scoring is outstanding answers 2 (R251, R360). -/
theorem State.layerTable_busy (hbusy : (s.cmuSlot (bfld r.block 0 2)).busy.isSome = true) :
    s.layerTable id = s.nextDraw.answer id g c addr [] 2 (bfld r.block 3 1) 0 := by
  simp only [State.layerTable, hreq, hf.ok, Bool.not_true, Bool.false_eq_true, if_false]
  exact if_pos hbusy

/-- A table whose entries can all be read and are all accepted is loaded (R351, R352). -/
theorem State.layerTable_loads {bs : List Byte} (hfree : (s.cmuSlot (bfld r.block 0 2)).busy = none)
    (hread : s.nextDraw.readAt id g c (.hv (bfld r.block 4 8)) (8 * bfld r.block 3 1) = (u, .ok bs)) (hok : (elemsOf 8 bs).all layerOk = true) :
    s.layerTable id = (u.setCmu (bfld r.block 0 2) ((s.cmuSlot (bfld r.block 0 2)).loaded (bfld r.block 2 1) (elemsOf 8 bs) (bfld r.block 12 1 == 1))).answer
      id g c addr [] 0 (bfld r.block 3 1) 0 := by
  have hbusy : ¬(s.nextDraw.cmuSlot (bfld r.block 0 2)).busy.isSome = true := Bool.eq_false_iff.1 (congrArg Option.isSome hfree)
  simp only [State.layerTable, hreq, hf.ok, if_neg hbusy, hread, hok, Bool.not_true, Bool.false_eq_true, if_false]
  rfl

end

end Sys2Proof.Machine

namespace Sys2Proof.Machine

/-! Scoring (R354 to R360): the answers of CMU.FRM to a slot out of range, a stale frame and a first one. -/

/-- The fields of a CMU.FRM block are in range (R250). -/
def FrmFields (b : List Byte) : Prop :=
  blockClean b [(0, 2), (4, 27)] = true ∧ bfld b 0 2 < 512 ∧ bfld b 2 1 ≤ 3 ∧ hvOk (bfld b 8 8) = true ∧ hvOk (bfld b 16 8) = true ∧
    bfld b 24 4 % 32 = 0 ∧ 64 ≤ bfld b 24 4 ∧ bfld b 24 4 ≤ 524288

theorem FrmFields.ok {b : List Byte} (h : FrmFields b) :
    (blockClean b [(0, 2), (4, 27)] && decide (bfld b 0 2 < 512) && decide (bfld b 2 1 ≤ 3) && hvOk (bfld b 8 8) && hvOk (bfld b 16 8) &&
      bfld b 24 4 % 32 == 0 && decide (64 ≤ bfld b 24 4) && decide (bfld b 24 4 ≤ 524288)) = true := by
  simp only [Bool.and_eq_true, decide_eq_true_eq, beq_iff_eq, and_assoc]
  exact h

theorem FrmFields.slot_lt {b : List Byte} : FrmFields b → bfld b 0 2 < 512 := fun ⟨_, hslot, _⟩ => hslot

/-- A motion report is of this frame, of a size in range, and not of too many tiles of the slot's layers (R353, R354). -/
def HeadFields (v : CmuSlot) (frame : Nat) (hd : List Byte) : Prop :=
  bfld hd 4 4 = frame ∧ 64 ≤ bfld hd 0 2 ∧ bfld hd 0 2 ≤ 4096 ∧ 64 ≤ bfld hd 2 2 ∧ bfld hd 2 2 ≤ 2304 ∧
    ((enabledLayers v.layers).map fun p => (geoOf p.2.entry (bfld hd 0 2) (bfld hd 2 2)).ntx * (geoOf p.2.entry (bfld hd 0 2) (bfld hd 2 2)).nty).foldl
      (· + ·) 0 ≤ 8192

theorem HeadFields.ok {v : CmuSlot} {frame : Nat} {hd : List Byte} (h : HeadFields v frame hd) :
    ¬(bfld hd 4 4 ≠ frame ∨ bfld hd 0 2 < 64 ∨ 4096 < bfld hd 0 2 ∨ bfld hd 2 2 < 64 ∨ 2304 < bfld hd 2 2 ∨
      8192 < ((enabledLayers v.layers).map fun p =>
        (geoOf p.2.entry (bfld hd 0 2) (bfld hd 2 2)).ntx * (geoOf p.2.entry (bfld hd 0 2) (bfld hd 2 2)).nty).foldl (· + ·) 0) := by
  simp only [not_or, not_not, Nat.not_lt]
  exact h

/-- A slot whose command is outstanding, with what it becomes on its completion (R360). -/
def CmuSlot.scoring (v : CmuSlot) (id : Nat) (next : List (Nat × CmuLayer) × Nat × (Nat × Nat)) : CmuSlot := { v with busy := some id, next := some next }

/-- The layers of a slot that has had no frame, scored for the block b, the report's head hd and its records (R355). -/
def CmuSlot.firstScores (v : CmuSlot) (b hd bs : List Byte) : List Scored :=
  (enabledLayers v.layers).map fun p => scoreLayer p.1 p.2 (geoOf p.2.entry (bfld hd 0 2) (bfld hd 2 2))
    (decide (bfld b 2 1 ≠ 0) || bfld hd 8 1 % 4 != 0) (match v.size with | some z => !(z == (bfld hd 0 2, bfld hd 2 2)) | none => false)
    (bfld b 4 4) (bfld b 24 4) (elemsOf 8 bs)

section
variable {s u u' : State} {id gid addr : Nat} {g : Gang} {r : Req} {c : Core} {hd bs : List Byte}
  (hreq : s.engineReq id 0xC2 = some (gid, g, r, c, addr))
include hreq

/-- A slot out of range is the command's fault (R250), and no slot becomes busy. -/
theorem State.frameScore_noSlot (hslot : 512 ≤ bfld r.block 0 2) : s.frameScore id = s.refuse id g c { cause := 2 } := by
  have hno : ¬bfld r.block 0 2 < 512 := Nat.not_lt.2 hslot
  simp only [State.frameScore, hreq, hno, false_and, if_false, decide_false, Bool.and_false, Bool.false_and, Bool.not_false, if_true]

variable (hf : FrmFields r.block) (hfree : (s.cmuSlot (bfld r.block 0 2)).busy = none)
  (hread : (s.nextDraw.setCmu (bfld r.block 0 2) { s.cmuSlot (bfld r.block 0 2) with busy := some id, next := none }).readAt id g c
    (.hv (bfld r.block 8 8)) 32 = (u, .ok hd))
  (hhead : HeadFields (s.cmuSlot (bfld r.block 0 2)) (bfld r.block 4 4) hd)
include hf hfree hread hhead

/-- A frame earlier than the slot's last is answered with 3 (R251, R354). -/
theorem State.frameScore_stale {l : Nat} (hlast : (s.cmuSlot (bfld r.block 0 2)).last = some l) (hlt : bfld r.block 4 4 < l) :
    s.frameScore id = u.answer id g c addr [] 3 0 0 := by
  have hbusy : ¬(bfld r.block 0 2 < 512 ∧ (s.cmuSlot (bfld r.block 0 2)).busy.isSome = true) := by simp [hfree]
  have hagain : ((s.cmuSlot (bfld r.block 0 2)).last == some (bfld r.block 4 4)) = false := by
    simpa [hlast] using Nat.ne_of_gt hlt
  simp only [State.frameScore, hreq, if_neg hbusy, hf.ok, if_pos hf.slot_lt, hagain, hread, if_neg hhead.ok, Bool.not_true, Bool.false_eq_true, if_false]
  rw [hlast]
  exact if_pos (decide_eq_true hlt)

/-- The first frame of a slot is scored: its slot is busy with the command until it completes, and its lists are the work (R355 to R360). -/
theorem State.frameScore_first (hlast : (s.cmuSlot (bfld r.block 0 2)).last = none)
    (hrecs : u.readAt id g c (.hv (bfld r.block 8 8 + 32)) (8 * (ceilDiv (bfld hd 0 2) 16 * ceilDiv (bfld hd 2 2) 16)) = (u', .ok bs)) :
    let sc := (s.cmuSlot (bfld r.block 0 2)).firstScores r.block hd bs
    ∃ ls, s.frameScore id = (u'.setCmu (bfld r.block 0 2)
        ((s.cmuSlot (bfld r.block 0 2)).scoring id (ls, bfld r.block 4 4, (bfld hd 0 2, bfld hd 2 2)))).answer id g c addr
      (sc.map fun x => putAt (.hv (bfld r.block 16 8 + x.layer * bfld r.block 24 4)) x.bytes).flatten 0
      ((sc.map (·.n)).foldl (· + ·) 0) (sc.foldl (fun m x => if x.whole then m + 2 ^ x.layer else m) 0) := by
  have hbusy : ¬(bfld r.block 0 2 < 512 ∧ (s.cmuSlot (bfld r.block 0 2)).busy.isSome = true) := by simp [hfree]
  have hagain : ((s.cmuSlot (bfld r.block 0 2)).last == some (bfld r.block 4 4)) = false := by rw [hlast]; rfl
  simp only [State.frameScore, hreq, if_neg hbusy, hf.ok, if_pos hf.slot_lt, hagain, hread, if_neg hhead.ok, Bool.not_true, Bool.false_eq_true, if_false, hrecs]
  simp only [CmuSlot.scoring, hlast, Bool.and_false, Bool.or_false, Bool.false_eq_true, if_false]
  exact ⟨_, rfl⟩

end

end Sys2Proof.Machine

namespace Sys2Proof.Machine

/-! Deposits (R373): their service from the choice of a node on, for units that no node holds. -/

/-- The node that a deposit takes, with its run (R369, R373). -/
def State.depositNode (s : State) (g : Gang) (r : Req) (w : DepWait) (run need : Nat) : Node :=
  { key := BitVec.ofNat 64 w.key, stamp := s.tlc, domain := g.root, rung := run, runl := need, parent := bfld r.block 0 2
    depth := w.depth + 1, ref := 0, logg := bfld r.block 2 1, next := bfld r.block 24 1, state := 1, child := 0 }

/-- The nodes with one more, a child of its parent (R374). -/
def State.withChild (s : State) (nodes : List (Nat × Node)) (n : Nat) (v : Node) : State :=
  let nodes := aset n v (amod v.parent (fun w => { w with child := w.child + 1, ref := w.ref + 1 }) nodes)
  { s with belfry := { s.belfry with nodes := nodes } }

section
variable {s : State} {r : Req} {w : DepWait} {size : Nat} (hnew : ∀ v ∈ s.belfry.nodes, v.2.key.toNat ≠ w.key)
include hnew

/-- No node is a candidate where none has the deposit's key. -/
theorem candidates_eq_nil (P : Nat × Node → Bool) : (s.belfry.nodes.filter fun v => P v && v.2.key.toNat == w.key) = [] :=
  List.filter_eq_nil_iff.2 fun v hv => by simp [hnew v hv]

/-- A deposit for which no room can be made is dropped (R251, R373). -/
theorem State.depServe_dropped (hroom : makeRoom (bfld r.block 0 2) (poolGranules size) (runLen (bfld r.block 2 1) (w.exts.map (·.2)))
      (s.belfry.nodes.length + 1) s.belfry.nodes = none) (gid : Nat) (g : Gang) (c : Core) (addr base : Nat) :
    s.depServe gid g r c addr base size w =
      ({ s with belfry := { s.belfry with drop := s.belfry.drop + 1 } } : State).answer w.id g c addr [] 2 0 0 := by
  simp only [State.depServe, candidates_eq_nil hnew, List.find?_nil, State.matchUnits, List.length_nil, Nat.add_zero, hroom]

/-- A deposit for which room is made takes a node, and moves its units and extents to the node's run (R373, R374). -/
theorem State.depServe_takes {nodes : List (Nat × Node)} {n run : Nat}
    (hroom : makeRoom (bfld r.block 0 2) (poolGranules size) (runLen (bfld r.block 2 1) (w.exts.map (·.2))) (s.belfry.nodes.length + 1) s.belfry.nodes =
      some (nodes, n, run)) (gid : Nat) (g : Gang) (c : Core) (addr base : Nat) :
    s.depServe gid g r c addr base size w =
      ((s.withChild nodes n (s.depositNode g r w run (runLen (bfld r.block 2 1) (w.exts.map (·.2))))).takeRef gid n).setDeposit w.id g c addr n run base
        (bfld r.block 2 1) (bfld r.block 8 8) w.exts := by
  simp only [State.depServe, candidates_eq_nil hnew, List.find?_nil, State.matchUnits, List.length_nil, Nat.add_zero, hroom]
  rfl

end

/-- The fields of a BEL.DEP block are in range (R250). -/
def DepFields (b : List Byte) : Prop :=
  blockClean b [(0, 2), (8, 24)] = true ∧ 4 ≤ bfld b 2 1 ∧ bfld b 2 1 ≤ 12 ∧ hvOk (bfld b 8 8) = true ∧ hvOk (bfld b 16 8) = true ∧
    bfld b 8 8 % 32 = 0 ∧ bfld b 16 8 % 32 = 0 ∧ bfld b 24 1 ≤ 8

theorem DepFields.ok {b : List Byte} (h : DepFields b) :
    (blockClean b [(0, 2), (8, 24)] && decide (4 ≤ bfld b 2 1) && decide (bfld b 2 1 ≤ 12) && hvOk (bfld b 8 8) && hvOk (bfld b 16 8) &&
      bfld b 8 8 % 32 == 0 && bfld b 16 8 % 32 == 0 && decide (bfld b 24 1 ≤ 8)) = true := by
  simp only [Bool.and_eq_true, decide_eq_true_eq, beq_iff_eq, and_assoc]
  exact h

/-- The extent entries of a command, as they stand in its list (R250). -/
def extentEntries (n : Nat) (bs : List Byte) : List (List Byte) := (List.range n).map fun i => (bs.drop (16 * i)).take 16

section
variable {s : State} {id gid addr : Nat} {g : Gang} {r : Req} {c : Core} (hreq : s.engineReq id 0xC5 = some (gid, g, r, c, addr))
  (hturn : s.mayServe id = true)
include hreq hturn

theorem State.belDeposit_noPool (hpool : s.belfry.pool = none) : s.belDeposit id = s.refuse id g c { cause := 2 } := by
  simp only [State.belDeposit, hreq, hturn, hpool, Bool.not_true, Bool.false_eq_true, if_false]

variable {base size : Nat} (hpool : s.belfry.pool = some (base, size))
include hpool

/-- A deposit that waited goes on with what it has read (R373). -/
theorem State.belDeposit_waited {w : DepWait} (hwait : s.depWait id = some w) :
    s.belDeposit id = (s.stopWait id).depServe gid g r c addr base size w := by
  simp only [State.belDeposit, hreq, hturn, hpool, hwait, Bool.not_true, Bool.false_eq_true, if_false]

/-- A deposit whose parent, units and extents can be read is served (R372, R373). -/
theorem State.belDeposit_serves {u u' : State} {us bs : List Byte} {pk pd : Nat} (hwait : s.depWait id = none) (hf : DepFields r.block)
    (hparent : s.nextDraw.depositParent g.root (bfld r.block 0 2) (bfld r.block 2 1) = some (pk, pd))
    (hunits : s.nextDraw.belRead id g c (bfld r.block 8 8) (32 * 2 ^ bfld r.block 2 1) = (u, .ok us))
    (hexts : u.belRead id g c (bfld r.block 16 8) (16 * bfld r.block 24 1) = (u', .ok bs))
    (hok : (extentEntries (bfld r.block 24 1) bs).all extentOk = true) :
    s.belDeposit id = u'.depServe gid g r c addr base size
      ⟨id, rollUnits pk (unitsOf (2 ^ bfld r.block 2 1) us), pd, us, (extentEntries (bfld r.block 24 1) bs).map extentOf⟩ := by
  have hents : ((List.range (bfld r.block 24 1)).map fun i => (bs.drop (16 * i)).take 16).all extentOk = true := hok
  simp only [State.belDeposit, hreq, hturn, hpool, hwait, hf.ok, hparent, hunits, hexts, hents, Bool.not_true, Bool.false_eq_true, if_false]
  rfl

end

end Sys2Proof.Machine

namespace Sys2Proof.Machine

/-! Lookups (R375), resumptions (R376) and pins (R377). -/

/-- The fields of a BEL.LOOK block are in range (R250). -/
def LookFields (b : List Byte) : Prop :=
  blockClean b [(0, 12)] = true ∧ hvOk (bfld b 0 8) = true ∧ bfld b 0 8 % 32 = 0 ∧ 1 ≤ bfld b 8 4 ∧ bfld b 8 4 ≤ 2 ^ 24 ∧
    4 ≤ bfld b 12 1 ∧ bfld b 12 1 ≤ 12

theorem LookFields.ok {b : List Byte} {pool : Bool} (h : LookFields b) (hpool : pool = true) :
    (pool && blockClean b [(0, 12)] && hvOk (bfld b 0 8) && bfld b 0 8 % 32 == 0 && decide (1 ≤ bfld b 8 4) && decide (bfld b 8 4 ≤ 2 ^ 24) &&
      decide (4 ≤ bfld b 12 1) && decide (bfld b 12 1 ≤ 12)) = true := by
  simp only [Bool.and_eq_true, decide_eq_true_eq, beq_iff_eq, and_assoc]
  exact ⟨hpool, h⟩

/-- The boundary keys of the whole spans of a lookup's units (R375). -/
def lookupKeys (b bs : List Byte) : List Nat :=
  boundaryKeys (2 ^ bfld b 12 1) (bfld b 8 4 / 2 ^ bfld b 12 1) 0 (unitsOf (bfld b 8 4 / 2 ^ bfld b 12 1 * 2 ^ bfld b 12 1) bs)

section
variable {s u : State} {id gid addr : Nat} {g : Gang} {r : Req} {c : Core} (hreq : s.engineReq id 0xC4 = some (gid, g, r, c, addr))
  (hturn : s.mayServe id = true)
include hreq hturn

theorem State.belLookup_noPool (hpool : s.belfry.pool = none) : s.belLookup id = s.nextDraw.refuse id g c { cause := 2 } := by
  simp only [State.belLookup, hreq, hturn, Bool.not_true, Bool.false_eq_true, if_false]
  exact if_pos (by simp [State.nextDraw, hpool])

variable {bs : List Byte} (hpool : s.belfry.pool.isSome = true) (hf : LookFields r.block)
  (hread : s.nextDraw.belRead id g c (bfld r.block 0 8) (32 * (bfld r.block 8 4 / 2 ^ bfld r.block 12 1 * 2 ^ bfld r.block 12 1)) = (u, .ok bs))
include hpool hf hread

/-- A lookup that no node's key meets answers 3 (R251, R375). -/
theorem State.belLookup_misses (hprobe : u.probe g.root (bfld r.block 12 1) (lookupKeys r.block bs) = none) :
    s.belLookup id = u.answer id g c addr [] 3 0 0xFFFF := by
  rw [lookupKeys] at hprobe
  have hok := hf.ok (pool := s.nextDraw.belfry.pool.isSome) hpool
  simp only [State.belLookup, hreq, hturn, hok, hread, hprobe, State.confirm, Bool.not_true, Bool.false_eq_true, if_false]

/-- A lookup answers the deepest node that its units confirm, and holds it (R375, R377). -/
theorem State.belLookup_finds {u' : State} {h m : Nat} {v : Node} {rej : Bool}
    (hprobe : u.probe g.root (bfld r.block 12 1) (lookupKeys r.block bs) = some h)
    (hconfirm : u.confirm bs (u.pathOf h) none = (u', .ok (some m, rej))) (hnode : u'.node m = some v) :
    s.belLookup id = (u'.takeRef gid m).answer id g c addr [] 0 (v.depth * 2 ^ bfld r.block 12 1) (m + rej.toNat * 2 ^ 32) := by
  rw [lookupKeys] at hprobe
  have hok := hf.ok (pool := s.nextDraw.belfry.pool.isSome) hpool
  simp only [State.belLookup, hreq, hturn, hok, hread, hprobe, hconfirm, hnode, Bool.not_true, Bool.false_eq_true, if_false]

end

/-- The fields of a BEL.RES block are in range (R250). -/
def ResFields (b : List Byte) : Prop := blockClean b [(0, 1), (4, 9)] = true ∧ bfld b 4 4 % 16 = 0 ∧ bfld b 8 2 ≠ 0

theorem ResFields.ok {b : List Byte} {pool : Option (Nat × Nat)} (h : ResFields b) (hpool : pool.isSome = true) :
    ¬(pool.isNone = true ∨ (!blockClean b [(0, 1), (4, 9)]) = true ∨ bfld b 4 4 % 16 ≠ 0 ∨ bfld b 8 2 = 0) := by
  obtain ⟨hclean, h16, hmax⟩ := h
  simp [Option.isSome_iff_ne_none.1 hpool, hclean, h16, hmax]

/-- The nodes of a resumption's path are used on this cycle (R376, R378). -/
def State.stamped (s : State) (way : List Nat) : State := way.foldl (fun (s : State) m => s.modNode m fun v => { v with stamp := s.tlc }) s

/-- What a resumption writes: the head of the chain, and the entries it has room for (R376). -/
def chainBytes (v : Node) (es : List Nat) (n : Nat) : List Byte :=
  (leBytes 4 es.length ++ leBytes 2 v.depth ++ leBytes 1 v.logg ++ leBytes 9 0) ++ ((es.take n).map (leBytes 16)).flatten

section
variable {s : State} {id gid addr : Nat} {g : Gang} {r : Req} {c : Core} (hreq : s.engineReq id 0xC6 = some (gid, g, r, c, addr))
  (hturn : s.mayServe id = true) (hpool : s.belfry.pool.isSome = true) (hf : ResFields r.block)
  (hcarve : g.inCarve (bfld r.block 4 4) (16 + 16 * bfld r.block 8 2) = true)
include hreq hturn hpool hf hcarve

theorem State.belResume_unknown (hnode : s.nodeIn g.root (bfld r.block 0 2) = none) :
    s.belResume id = s.nextDraw.answer id g c addr [] 3 0 0 := by
  have hnode' : s.nextDraw.nodeIn g.root (bfld r.block 0 2) = none := hnode
  have hok := hf.ok (pool := s.nextDraw.belfry.pool) hpool
  simp only [State.belResume, hreq, hturn, if_neg hok, hcarve, hnode', Bool.not_true, Bool.false_eq_true, if_false]

/-- A resumption of a valid node lists the extents of its path, and holds the node (R376, R377). -/
theorem State.belResume_lists {u : State} {v : Node} {es : List Nat} (hnode : s.nodeIn g.root (bfld r.block 0 2) = some v) (hvalid : v.state = 2)
    (hchain : s.nextDraw.chain (s.nextDraw.pathOf (bfld r.block 0 2)) = (u, .ok es)) :
    s.belResume id = ((u.stamped (s.nextDraw.pathOf (bfld r.block 0 2))).takeRef gid (bfld r.block 0 2)).answer id g c addr
      (putAt (.cm (bfld r.block 4 4)) (chainBytes v es (bfld r.block 8 2))) 0 (es.take (bfld r.block 8 2)).length 0 := by
  have hnode' : s.nextDraw.nodeIn g.root (bfld r.block 0 2) = some v := hnode
  have hok := hf.ok (pool := s.nextDraw.belfry.pool) hpool
  simp only [State.belResume, hreq, hturn, if_neg hok, hcarve, hnode', hvalid, hchain, Bool.not_true, Bool.false_eq_true, if_false, ne_eq, not_true]
  rfl

end

/-- A node held by a pin of the job (R377). -/
def State.pinned (s : State) (n job : Nat) : State :=
  let t := s.modNode n fun v => { v with ref := v.ref + 1 }
  { t with belfry := { t.belfry with pins := s.belfry.pins ++ [(n, job)] } }

/-- The fields of a BEL.PIN block in range pass its check (R250). -/
theorem pinFields_ok {b : List Byte} {pool : Option (Nat × Nat)} (hpool : pool.isSome = true) (hclean : blockClean b [(0, 2)] = true)
    (hun : bfld b 2 1 ≤ 1) : ¬(pool.isNone = true ∨ (!blockClean b [(0, 2)]) = true ∨ 1 < bfld b 2 1) := by
  simp [Option.isSome_iff_ne_none.1 hpool, hclean, hun]

section
variable {s : State} {id gid addr : Nat} {g : Gang} {r : Req} {c : Core} (hreq : s.engineReq id 0xC7 = some (gid, g, r, c, addr))
  (hturn : s.mayServe id = true) (hpool : s.belfry.pool.isSome = true) (hclean : blockClean r.block [(0, 2)] = true) (hun : bfld r.block 2 1 ≤ 1)
include hreq hturn hpool hclean hun

theorem State.belPin_unknown (hnode : s.nodeIn g.root (bfld r.block 0 2) = none) : s.belPin id = s.answer id g c addr [] 3 0 0 := by
  simp only [State.belPin, hreq, hturn, if_neg (pinFields_ok hpool hclean hun), hnode, Bool.not_true, Bool.false_eq_true, if_false]

variable {v : Node} (hnode : s.nodeIn g.root (bfld r.block 0 2) = some v) (hstate : v.state ≠ 1)
include hnode hstate

/-- A pin that the job has, or the end of one that it does not have, changes nothing (R251, R377). -/
theorem State.belPin_again (hhas : s.belfry.pins.contains (bfld r.block 0 2, g.step.job) = (bfld r.block 2 1 == 0)) :
    s.belPin id = s.answer id g c addr [] 1 0 0 := by
  simp only [State.belPin, hreq, hturn, if_neg (pinFields_ok hpool hclean hun), hnode, if_neg hstate, Bool.not_true, Bool.false_eq_true, if_false]
  exact if_pos hhas

theorem State.belPin_pins (hpin : bfld r.block 2 1 = 0) (hhas : s.belfry.pins.contains (bfld r.block 0 2, g.step.job) = false) :
    s.belPin id = (s.pinned (bfld r.block 0 2) g.step.job).answer id g c addr [] 0 0 0 := by
  simp only [State.belPin, hreq, hturn, if_neg (pinFields_ok hpool hclean hun), hnode, if_neg hstate, Bool.not_true, Bool.false_eq_true, if_false]
  refine (if_neg (by rw [hhas, hpin]; decide)).trans ?_
  simp only [hpin, if_true]
  rfl

end

/-! The engines' steps are what the engines do (R351 to R377). -/

theorem exec_layerTableLoad (id : Nat) (s : State) : exec (.layerTableLoad id) s = .next (s.layerTable id) := rfl
theorem exec_frameScoring (id : Nat) (s : State) : exec (.frameScoring id) s = .next (s.frameScore id) := rfl
theorem exec_belfryDeposit (id : Nat) (s : State) : exec (.belfryDeposit id) s = .next (s.belDeposit id) := rfl
theorem exec_belfryLookup (id : Nat) (s : State) : exec (.belfryLookup id) s = .next (s.belLookup id) := rfl
theorem exec_belfryResumption (id : Nat) (s : State) : exec (.belfryResumption id) s = .next (s.belResume id) := rfl
theorem exec_belfryPin (id : Nat) (s : State) : exec (.belfryPin id) s = .next (s.belPin id) := rfl

/-- Settles O57: a clause for each of the answers above. -/
theorem engineAnswers : Obligations.EngineAnswers := by
  intro s u u' id gid addr g r c bs asks b slot fault block answers serves d drawn
  have answered {i : Instr} {v t : State} (hi : exec i s = .next v) (h : v = t) : exec i s = .next t := h ▸ hi
  refine ⟨?_, ?_, ?_, ?_, ?_, ?_, ?_, ?_, ?_⟩
  · exact fun hreq hslot => answered (exec_layerTableLoad id s) (State.layerTable_noSlot hreq hslot)
  · intro hreq hclean hslot hn hlast hva hreset
    have hf : TabFields b := ⟨hclean, hslot, hn, hlast, hva, hreset⟩
    refine ⟨fun hbusy => answered (exec_layerTableLoad id s) (State.layerTable_busy hreq hf hbusy), fun hfree hread hok => ?_⟩
    refine ⟨_, answered (exec_layerTableLoad id s) (State.layerTable_loads hreq hf hfree hread hok), ?_, ?_, ?_, ?_⟩
    · exact (CmuSlot.loaded_busy ..).trans hfree
    · intro h; rw [h]; exact ⟨rfl, rfl⟩
    · intro h; rw [h]; exact ⟨rfl, rfl⟩
    · exact fun i hi => CmuSlot.loaded_layer _ _ _ _ hi
  · exact fun hreq hslot => answered (exec_frameScoring id s) (State.frameScore_noSlot hreq hslot)
  · intro hd hreq hfree hclean hslot hmode hmva hout h32 h64 hmax hread hframe hw hw' hh hh' w h on htiles
    have hf : FrmFields b := ⟨hclean, hslot, hmode, hmva, hout, h32, h64, hmax⟩
    have hhead : HeadFields (s.cmuSlot slot) (bfld b 4 4) hd := ⟨hframe, hw, hw', hh, hh', htiles⟩
    refine ⟨fun l hlast hlt => answered (exec_frameScoring id s) (State.frameScore_stale hreq hf hfree hread hhead hlast hlt), fun hlast hrecs => ?_⟩
    obtain ⟨ls, hscored⟩ := State.frameScore_first hreq hf hfree hread hhead hlast hrecs
    exact ⟨(s.cmuSlot slot).scoring id (ls, bfld b 4 4, (w, h)), rfl, rfl, ⟨ls, rfl⟩, answered (exec_frameScoring id s) hscored⟩
  · intro hreq hturn
    refine ⟨fun hpool => answered (exec_belfryDeposit id s) (State.belDeposit_noPool hreq hturn hpool),
      fun base size w hpool hwait => answered (exec_belfryDeposit id s) (State.belDeposit_waited hreq hturn hpool hwait), ?_⟩
    intro base size us pk pd hpool hwait hclean h4 h12 hua hua32 hea hea32 hn hparent hunits hexts hok key exts need hnew
    have hserved := State.belDeposit_serves hreq hturn hpool hwait ⟨hclean, h4, h12, hua, hea, hua32, hea32, hn⟩ hparent hunits hexts hok
    let w : DepWait := ⟨id, key, pd, us, exts⟩
    refine ⟨fun hroom => answered (exec_belfryDeposit id s) (hserved.trans (State.depServe_dropped (w := w) hnew hroom ..)), fun nodes n run hroom => ?_⟩
    exact ⟨u'.withChild nodes n (u'.depositNode g r w run need), rfl, rfl, rfl,
      answered (exec_belfryDeposit id s) (hserved.trans (State.depServe_takes (w := w) hnew hroom ..))⟩
  · exact fun hreq hturn hpool => answered (exec_belfryLookup id s) (State.belLookup_noPool hreq hturn hpool)
  · rintro ⟨hreq, hturn, hpool⟩ hclean hva h32 h1 hmax h4 h12 gran sp hread keys
    have hf : LookFields b := ⟨hclean, hva, h32, h1, hmax, h4, h12⟩
    exact ⟨fun hprobe => answered (exec_belfryLookup id s) (State.belLookup_misses hreq hturn hpool hf hread hprobe),
      fun h m v rej hprobe hconfirm hnode => answered (exec_belfryLookup id s) (State.belLookup_finds hreq hturn hpool hf hread hprobe hconfirm hnode)⟩
  · rintro ⟨hreq, hturn, hpool⟩ hclean h16 hmax hcarve
    have hf : ResFields b := ⟨hclean, h16, hmax⟩
    exact ⟨fun hnode => answered (exec_belfryResumption id s) (State.belResume_unknown hreq hturn hpool hf hcarve hnode),
      fun v es hnode hvalid hchain => answered (exec_belfryResumption id s) (State.belResume_lists hreq hturn hpool hf hcarve hnode hvalid hchain)⟩
  · rintro ⟨hreq, hturn, hpool⟩ hclean hun
    refine ⟨fun hnode => answered (exec_belfryPin id s) (State.belPin_unknown hreq hturn hpool hclean hun hnode),
      fun v hnode hstate => ⟨fun hhas => ?_, fun hpin hhas => ?_⟩⟩
    · exact answered (exec_belfryPin id s) (State.belPin_again hreq hturn hpool hclean hun hnode hstate hhas)
    · exact answered (exec_belfryPin id s) (State.belPin_pins hreq hturn hpool hclean hun hnode hstate hpin hhas)

end Sys2Proof.Machine

namespace Sys2Proof.Machine

/-! Row and column commands of memory streams (R258 to R266, R270). -/

/-- No broken rule, no fault (R260). -/
theorem Ctx.timingTrap_none {x : Ctx} {m : MStream} {op : Nat} {ls : List Limit} (h : ls = []) : x.timingTrap m op ls = none := by
  rw [h]
  rfl

section
variable {x : Ctx} {m : MStream} (hm : x.m = some m)
include hm

/-- On a memory stream a command's plan is that of its stream and pseudo-channel (R255). -/
theorem Ctx.withMem_some (k : MStream → Pch → Plan) : x.withMem k = k m (x.s.pch m.pch) := by
  rw [Ctx.withMem, hm]

/-- An ACT that breaks no rule opens the physical row of a row of the region (R262). -/
theorem planAct_ok {bank : BitVec 4} {row : BitVec 16} {phys : Nat} (h : (x.s.pch m.pch).broken opAct bank.toNat x.t = [])
    (hrow : m.rows[m.rb + row.toNat]? = some phys) :
    planAct bank row x = pchPlan m fun q => q.activate x.t bank.toNat phys := by
  simp only [planAct, Ctx.withMem_some hm, Ctx.timingTrap_none (x := x) h, hrow]

/-- One that breaks a rule faults with the rule it reports (R260, R275). -/
theorem planAct_fault {bank : BitVec 4} {tr : Trap}
    (h : x.timingTrap m opAct ((x.s.pch m.pch).broken opAct bank.toNat x.t) = some tr) (row : BitVec 16) :
    planAct bank row x = ⟨[], .error tr⟩ := by
  simp only [planAct, Ctx.withMem_some hm, h]

/-- The rules bind a PRE of an active bank alone (R265). -/
theorem planPre_ok {bank : BitVec 4}
    (h : ((x.s.pch m.pch).bankAt bank.toNat x.t).row.isSome = true → (x.s.pch m.pch).broken opPre bank.toNat x.t = []) :
    planPre bank x = pchPlan m fun q => q.precharge x.t opPre bank.toNat := by
  have hrules : (if ((x.s.pch m.pch).bankAt bank.toNat x.t).row.isSome then (x.s.pch m.pch).broken opPre bank.toNat x.t else []) = [] :=
    ite_eq_right_iff.2 h
  simp only [planPre, Ctx.withMem_some hm, Ctx.timingTrap_none (x := x) hrules]

/-- PREA precharges every active bank where none of them breaks a rule (R265). -/
theorem planPrea_ok (h : ∀ b ∈ (List.range 16).filter fun b => ((x.s.pch m.pch).bankAt b x.t).row.isSome,
      (x.s.pch m.pch).broken opPrea b x.t = []) :
    planPrea x = pchPlan m fun q => ((List.range 16).filter fun b => ((x.s.pch m.pch).bankAt b x.t).row.isSome).foldl
      (fun q b => q.precharge x.t opPrea b) q := by
  have hrules := List.flatten_eq_nil_iff.2 (List.forall_mem_map.2 h)
  simp only [planPrea, Ctx.withMem_some hm, Ctx.timingTrap_none (x := x) hrules]

/-- A REFPB that breaks no rule and pulls in no more than eight refreshes lowers the debt (R266, R270). -/
theorem planRefpb_ok {bank : BitVec 4} (h : (x.s.pch m.pch).broken opRefpb bank.toNat x.t = [])
    (hdebt : -8 ≤ (x.s.pch m.pch).debtAfter bank.toNat x.t - 1) :
    planRefpb bank x = pchPlan m fun q => q.refresh x.t bank.toNat := by
  simp only [planRefpb, Ctx.withMem_some hm]
  rw [Ctx.timingTrap_none (List.append_eq_nil_iff.2 ⟨h, if_neg (Int.not_lt.2 hdebt)⟩)]

end

/-- Settles O37: the plan of each command where its rules are met, and of an ACT where one is broken. -/
theorem rowCommands : Obligations.RowCommands := by
  intro bank row m phys p changes active
  exact ⟨.of_plan (exec_of_planOf rfl) fun x ⟨hm, h, hrow⟩ => planAct_ok hm h hrow,
    .of_plan (exec_of_planOf rfl) fun x ⟨hm, h⟩ => planPre_ok hm h,
    .of_plan (exec_of_planOf rfl) fun x ⟨hm, h⟩ => planPrea_ok hm h,
    .of_plan (exec_of_planOf rfl) fun x ⟨hm, h, hdebt⟩ => planRefpb_ok hm h hdebt,
    fun tr => .of_plan (exec_of_planOf rfl) fun x ⟨hm, h⟩ => planAct_fault hm h row⟩

section
variable {x : Ctx} {m : MStream} {bank : BitVec 4} {col : BitVec 5} {phys : Nat}

/-- A command that breaks no rule finds its column in the open row (R258, R263). -/
theorem Ctx.column_ok {op : Nat} (h : (x.s.pch m.pch).broken op bank.toNat x.t = [])
    (hopen : ((x.s.pch m.pch).bankAt bank.toNat x.t).row = some phys) :
    x.column m (x.s.pch m.pch) op bank.toNat col.toNat = .ok (colKey m.pch phys bank.toNat col.toNat) := by
  simp only [Ctx.column, Ctx.timingTrap_none (x := x) h, hopen]

variable (hm : x.m = some m) (hopen : ((x.s.pch m.pch).bankAt bank.toNat x.t).row = some phys)
include hm hopen

/-- RD and RDA deliver the column's beat to the ring (R263, R264). -/
theorem planRd_ok {auto : Bool} {beat : BitVec 13} {addr : Nat}
    (h : (x.s.pch m.pch).broken (if auto then opRda else opRd) bank.toNat x.t = []) (hbeat : m.beat beat.toNat = some addr) :
    planRd auto bank col beat x =
      let v := x.s.fetch (colKey m.pch phys bank.toNat col.toNat) 32
      let d := x.deliverRing m addr v.bytes (v.psn || v.bad.isSome)
      ⟨[], .ok { deliver := d.1, acts := d.2
                 dev := fun s => x.deliverNote m addr
                   ((s.modPch m.pch fun q => q.column x.t (if auto then opRda else opRd) bank.toNat).colNote x.gid v (some (x.ringKey m addr))) }⟩ := by
  simp only [planRd, Ctx.withMem_some hm, hbeat, Ctx.column_ok h hopen]

/-- RDZ reads the column and delivers nothing (R263). -/
theorem planRdz_ok (h : (x.s.pch m.pch).broken opRdz bank.toNat x.t = []) :
    planRdz bank col x = ⟨[], .ok {
      dev := fun s => (s.modPch m.pch fun q => q.column x.t opRdz bank.toNat).colNote x.gid
        (x.s.fetch (colKey m.pch phys bank.toNat col.toNat) 32) none }⟩ := by
  simp only [planRdz, Ctx.withMem_some hm, Ctx.column_ok h hopen]

/-- WR, WRA and WRM store the groups of their mask from the ring's beat, and keep the others (R263, R264). -/
theorem planWrite_ok {op : Nat} {beat : BitVec 13} {addr : Nat} {r : RingRead} (h : (x.s.pch m.pch).broken op bank.toNat x.t = [])
    (hbeat : m.beat beat.toNat = some addr) (hring : x.ringFetch m addr = .ok r) (mask : BitVec 8) :
    planWrite op mask bank col beat x =
      let k := colKey m.pch phys bank.toNat col.toNat
      let old := x.s.fetch k 32
      ⟨[], .ok { gang := x.ringLog m r
                 dev := fun s =>
                  let s := s.modPch m.pch fun q => q.column x.t op bank.toNat
                  let s := if op = opWrm then s.colNote x.gid old (if mask = BitVec.allOnes 8 then none else some k) else s
                  (x.ringNote m r k s).store k
                     (((List.range 32).zip (r.rd.bytes.zip old.bytes)).map fun q => if mask.getLsbD (q.1 / 4) then q.2.1 else q.2.2)
                    (r.psn || (op == opWrm && !decide (mask = BitVec.allOnes 8) && (old.psn || old.bad.isSome))) }⟩ := by
  simp only [planWrite, Ctx.withMem_some hm, hbeat, Ctx.column_ok h hopen, hring]

/-- WRZ stores zeros (R263). -/
theorem planWrz_ok (h : (x.s.pch m.pch).broken opWrz bank.toNat x.t = []) :
    planWrz bank col x = ⟨[], .ok {
      dev := fun s => (s.modPch m.pch fun q => q.column x.t opWrz bank.toNat).store
        (colKey m.pch phys bank.toNat col.toNat) (List.replicate 32 0) }⟩ := by
  simp only [planWrz, Ctx.withMem_some hm, Ctx.column_ok h hopen]

end

/-- Settles O38: the plan that RD and RDA share, the one that WR, WRA and WRM share, and those of RDZ and WRZ. -/
theorem columnCommands : Obligations.ColumnCommands := by
  intro bank col beat mask m addr phys r p k opened read write
  have hread {i : Instr} {auto : Bool} (hi : planOf i = some (planRd auto bank col beat)) : read i (if auto then opRda else opRd) :=
    .of_plan (exec_of_planOf hi) fun x ⟨⟨hm, h, hopen⟩, hbeat⟩ => planRd_ok hm hopen h hbeat
  have hwrite {i : Instr} {op : Nat} {mask : BitVec 8} (hi : planOf i = some (planWrite op mask bank col beat)) : write i op mask :=
    .of_plan (exec_of_planOf hi) fun x ⟨⟨hm, h, hopen⟩, hbeat, hring⟩ => planWrite_ok hm hopen h hbeat hring mask
  exact ⟨hread (auto := false) rfl, hread (auto := true) rfl,
    .of_plan (exec_of_planOf rfl) fun x ⟨hm, h, hopen⟩ => planRdz_ok hm hopen h,
    hwrite rfl, hwrite rfl, hwrite rfl,
    .of_plan (exec_of_planOf rfl) fun x ⟨hm, h, hopen⟩ => planWrz_ok hm hopen h⟩

end Sys2Proof.Machine

namespace Sys2Proof.Machine

/-! Ring commands and DMARK (R256, R267 to R269). -/

section
variable {x : Ctx} {m : MStream} (hm : x.m = some m)
include hm

/-- RING.SET of a rank of the gang and of lines inside the carve-out sets the ring, at its first beat (R267). -/
theorem planRingSet_ok {base : BitVec 16} {lines : BitVec 13} {rank : BitVec 6} (hrank : rank.toNat < x.g.cores.length)
    (hin : x.g.inCarve ((64 * base.toNat : Nat) : Int) (64 * (lines.toNat + 1)) = true) :
    planRingSet base lines rank x = ringPlan m fun q => { q with rank := rank.toNat, base := base.toNat, lines := lines.toNat + 1, cur := 0 } :=
  (Ctx.withMem_some hm _).trans ((if_neg (Nat.not_le.2 hrank)).trans (if_neg (by rw [hin]; decide)))

/-- RING.SEEK of a beat of the ring moves the cursor and the row base there (R267). -/
theorem planRingSeek_ok {beat : BitVec 13} (hbeat : beat.toNat < 2 * m.lines) (rows : BitVec 16) :
    planRingSeek rows beat x = ringPlan m fun q => { q with cur := beat.toNat, rb := rows.toNat } :=
  (Ctx.withMem_some hm _).trans (if_neg (Nat.not_le.2 hbeat))

/-- RING.ADV moves the cursor round the ring and the row base inside a region's rows (R267). -/
theorem planRingAdv_ok {rows : BitVec 16} (hlines : m.lines ≠ 0) (hlow : 0 ≤ (m.rb : Int) + rows.toInt) (hhigh : (m.rb : Int) + rows.toInt ≤ 49151)
    (beat : BitVec 13) :
    planRingAdv rows beat x =
      ringPlan m fun q => { q with cur := (q.cur + beat.toNat) % (2 * q.lines), rb := ((m.rb : Int) + rows.toInt).toNat } :=
  (Ctx.withMem_some hm _).trans (if_neg (not_or.2 ⟨hlines, not_or.2 ⟨Int.not_lt.2 hlow, Int.not_lt.2 hhigh⟩⟩))

/-- RING.GONG of a handle that can be read counts it down on issue + 136 (R268). -/
theorem planRingGong_ok {beat : BitVec 13} {addr : Nat} {r : RingRead} (hbeat : m.beat beat.toNat = some addr)
    (hring : x.ringFetch m addr = .ok r) (hpsn : r.psn = false) :
    planRingGong beat x = ⟨[], .ok {
      gang := x.ringLog m r
      acts := (x.t + 136, .ringRegist (BitVec.ofNat 64 (leNat (r.rd.bytes.take 8)))) ::
        (match x.handle (leNat (r.rd.bytes.take 8)) false with | .ok p => x.peerBank p (x.t + 136) true | .error _ => [])
      dev := x.ringNote m r (x.ringKey m addr) }⟩ := by
  simp only [planRingGong, Ctx.withMem_some hm, hbeat, hring]
  exact if_neg (Bool.eq_false_iff.1 hpsn)

/-- DMARK delivers its mark to its beat (R269). -/
theorem planDmark_ok {beat : BitVec 13} {addr : Nat} (hbeat : m.beat beat.toNat = some addr) (code : BitVec 8) :
    planDmark beat code x = ⟨[], .ok {
      deliver := (x.deliverRing m addr ((x.s.pch m.pch).mark x.t m.n code) false).1
      acts := (x.deliverRing m addr ((x.s.pch m.pch).mark x.t m.n code) false).2
      dev := x.deliverNote m addr }⟩ := by
  simp only [planDmark, Ctx.withMem_some hm, hbeat]

end

/-- Settles O39: the plan of each command whose operands pass. -/
theorem ringCommands : Obligations.RingCommands := by
  intro base rows lines beat rank code m addr r changes
  exact ⟨.of_plan (exec_of_planOf rfl) fun x ⟨hm, hrank, hin⟩ => planRingSet_ok hm hrank hin,
    .of_plan (exec_of_planOf rfl) fun x ⟨hm, hbeat⟩ => planRingSeek_ok hm hbeat rows,
    .of_plan (exec_of_planOf rfl) fun x ⟨hm, hlines, hlow, hhigh⟩ => planRingAdv_ok hm hlines hlow hhigh beat,
    .of_plan (exec_of_planOf rfl) fun x ⟨hm, hbeat, hring, hpsn⟩ => planRingGong_ok hm hbeat hring hpsn,
    .of_plan (exec_of_planOf rfl) fun x ⟨hm, hbeat⟩ => planDmark_ok hm hbeat code⟩

end Sys2Proof.Machine

namespace Sys2Proof.Machine

/-! Refresh, precharges and slots outside the streams, modes and traces (R270, R271, R273, R281, R300, R301). -/

theorem exec_refreshAccrual (n b : Nat) (s : State) : exec (.refreshAccrual n b) s = .next (s.accrue n b) := rfl
theorem exec_baseDieRefresh (n b : Nat) (s : State) : exec (.baseDieRefresh n b) s = .next (s.baseRefresh n b) := rfl
theorem exec_abandonPrecharge (n b : Nat) (s : State) : exec (.abandonPrecharge n b) s = .next (s.abandonPre n b) := rfl
theorem exec_pooledSlot (n : Nat) (s : State) : exec (.pooledSlot n) s = .next (s.pooledSlot n) := rfl
theorem exec_pchModeChange (n : Nat) (m : PchMode) (s : State) : exec (.pchModeChange n m) s = .next (s.pchModeChange n m) := rfl
theorem exec_traceForward (core : Nat) (s : State) : exec (.traceForward core) s = .next (s.traceForward core) := rfl

/-- A pooled request waits, and its ACT breaks no rule (R301, log 51). -/
def Pch.mayOpen (p : Pch) (t : Nat) (q : PoolReq) : Bool := q.start.isNone && (p.broken opAct q.bank t).isEmpty

theorem Pch.mayOpen_iff {p : Pch} {t : Nat} {q : PoolReq} : p.mayOpen t q = true ↔ q.start = none ∧ p.broken opAct q.bank t = [] := by
  simp [Pch.mayOpen]

theorem State.leaseActive_none {p : Pch} (h : p.lease = none) (s : State) : s.leaseActive p = none := by
  rw [State.leaseActive, h, Option.bind_none]

section
variable {s : State} {n b : Nat}

/-- On its own cycle the debt of a bank of a channel neither pooled nor leased rises by one (R270). -/
theorem State.accrue_unleased (hown : s.tlc % 5850 = 365 * b) (hb : b < 16) (honce : s.ticked.contains (2, n * 16 + b) = false)
    (hlease : (s.pch n).lease = none) (hmode : (s.pch n).mode ≠ .pooled) :
    s.accrue n b = (s.tickOnce 2 (n * 16 + b)).modPch n fun p => { p with debt := p.debt.set b ((s.pch n).debtOf b + 1) } := by
  have hdue : ¬((!accrues b s.tlc) = true ∨ b ≥ 16 ∨ s.ticked.contains (2, n * 16 + b) = true) :=
    not_or.2 ⟨by simp [accrues, hown], not_or.2 ⟨Nat.not_le.2 hb, Bool.eq_false_iff.1 honce⟩⟩
  simp only [State.accrue, if_neg hdue, State.leaseActive_none hlease]
  exact if_neg fun h => hmode h.1

/-- The base die refreshes a bank in debt of a channel without a lease (R271). -/
theorem State.baseRefresh_due (hlease : (s.pch n).lease = none) (hquiet : (s.pch n).quiet = false) (hmode : (s.pch n).mode ≠ .retired)
    (hdebt : 0 < (s.pch n).debtOf b) (h : (s.pch n).broken opRefpb b s.tlc = []) :
    s.baseRefresh n b = s.modPch n fun p => p.refresh s.tlc b := by
  have hmay : s.baseMayRefresh n b = true := by
    simp [State.baseMayRefresh, State.leaseActive_none hlease, hquiet, hmode, hdebt, h]
  exact if_pos hmay

/-- The stream of an ending attempt is over past cycle f + 32, or past f once it has ended or stopped (R41, R273). -/
theorem State.streamOver_ending {g : Gang} {f : FaultRec} (hphase : g.phase = .ending) (hfault : g.fault = some f)
    (h : f.f + 32 < s.tlc ∨ (f.f < s.tlc ∧ ∃ m ∈ g.mems, m.pch = n ∧ (m.strm.st = .ended ∨ m.strm.st = .stopped))) :
    s.streamOver g n = true := by
  simpa [State.streamOver, hphase, hfault, Stream.over] using h

/-- Its sequencer precharges the active banks of the channel it leased (R273). -/
theorem State.abandonPre_over {g : Gang} {gid row : Nat} (hopen : (s.pch n).bankAt b s.tlc = .active row)
    (h : (s.pch n).broken opPre b s.tlc = []) (hlease : (s.pch n).lease = some gid) (hg : aget gid s.gangs = some g)
    (hover : s.streamOver g n = true) : s.abandonPre n b = s.modPch n fun p => p.precharge s.tlc opPre b := by
  have hmay : s.mayAbandonPre n b = true := by
    simp [State.mayAbandonPre, hopen, BankSt.row, h, hlease, hg, hover]
  exact if_pos hmay

/-- A slot of a pooled channel serves the first request that may open its row (R301). -/
theorem State.pooledSlot_open (hslot : s.tlc % 6 = 0) (hmode : (s.pch n).mode = .pooled) (honce : s.ticked.contains (1, n) = false) :
    s.pooledSlot n = ((s.pch n).pool.find? ((s.pch n).mayOpen s.tlc)).elim (s.tickOnce 1 n) fun q =>
      (s.tickOnce 1 n).modPch n fun p => p.serveRow s.tlc q := by
  have hdue : ¬(s.tlc % 6 ≠ 0 ∨ (s.pch n).mode ≠ .pooled ∨ s.ticked.contains (1, n) = true) :=
    not_or.2 ⟨not_not.2 hslot, not_or.2 ⟨not_not.2 hmode, Bool.eq_false_iff.1 honce⟩⟩
  rw [State.pooledSlot, if_neg hdue]
  change (match (s.pch n).pool.find? ((s.pch n).mayOpen s.tlc) with | none => _ | some q => _) = _
  cases (s.pch n).pool.find? ((s.pch n).mayOpen s.tlc) <;> rfl

/-- No row opens where no request may (R301). -/
theorem State.pooledSlot_idle (hslot : s.tlc % 6 = 0) (hmode : (s.pch n).mode = .pooled) (honce : s.ticked.contains (1, n) = false)
    (h : ∀ q ∈ (s.pch n).pool, ¬(q.start = none ∧ (s.pch n).broken opAct q.bank s.tlc = [])) : s.pooledSlot n = s.tickOnce 1 n := by
  have hnone : (s.pch n).pool.find? ((s.pch n).mayOpen s.tlc) = none :=
    List.find?_eq_none.2 fun q hq => mt Pch.mayOpen_iff.1 (h q hq)
  rw [State.pooledSlot_open hslot hmode honce, hnone, Option.elim_none]

/-- The oldest request that may opens its row (R301, log 51). -/
theorem State.pooledSlot_serves (hslot : s.tlc % 6 = 0) (hmode : (s.pch n).mode = .pooled) (honce : s.ticked.contains (1, n) = false)
    {l r : List PoolReq} {q : PoolReq} (hpool : (s.pch n).pool = l ++ q :: r)
    (hl : ∀ p ∈ l, ¬(p.start = none ∧ (s.pch n).broken opAct p.bank s.tlc = []))
    (hq : q.start = none ∧ (s.pch n).broken opAct q.bank s.tlc = []) :
    s.pooledSlot n = (s.tickOnce 1 n).modPch n fun p => p.serveRow s.tlc q := by
  have hfirst : (s.pch n).pool.find? ((s.pch n).mayOpen s.tlc) = some q :=
    List.find?_eq_some_iff_append.2 ⟨Pch.mayOpen_iff.2 hq, l, r, hpool, fun p hp => by simpa using mt Pch.mayOpen_iff.1 (hl p hp)⟩
  rw [State.pooledSlot_open hslot hmode honce, hfirst, Option.elim_some]

/-- A free channel without a region of firmware's changes its mode (R300, log 88). -/
theorem State.pchModeChange_free (hn : n < 512) (hfree : s.pchFree n = true) (hfirm : s.firmwareIn n = false) (m : PchMode) :
    s.pchModeChange n m = s.modPch n fun p => { p with mode := m } := by
  have hmay : ¬(512 ≤ n ∨ (!s.pchFree n) = true ∨ s.firmwareIn n = true) :=
    not_or.2 ⟨Nat.not_le.2 hn, not_or.2 ⟨by rw [hfree]; decide, Bool.eq_false_iff.1 hfirm⟩⟩
  exact if_neg hmay

/-- The oldest entry of a core's trace goes to the ring (R281). -/
theorem State.traceForward_cons {core : Nat} {e : BitVec 128} {rest : List (BitVec 128)} (h : (s.info core).trace = e :: rest) :
    s.traceForward core =
      { s.setInfo core { s.info core with trace := rest } with sched := { s.sched with traceRing := s.sched.traceRing ++ [e] } } := by
  rw [State.traceForward, h]
  rfl

end

/-- Settles O54: what each event does where it may take place. -/
theorem channelEvents : Obligations.ChannelEvents := by
  intro s n b core m
  refine ⟨fun hown hb honce hlease hmode => ?_, fun hlease hquiet hmode hdebt h => ?_, fun gid g f row hopen h hlease hg hphase hfault hend => ?_,
    fun hslot hmode honce => ⟨fun hnone => ?_, fun l q r hpool hl hq => ?_⟩, fun hn hfree hfirm => ?_, fun e rest h => ?_⟩
  · rw [exec_refreshAccrual, State.accrue_unleased hown hb honce hlease hmode]
  · rw [exec_baseDieRefresh, State.baseRefresh_due hlease hquiet hmode hdebt h]
  · rw [exec_abandonPrecharge, State.abandonPre_over hopen h hlease hg (State.streamOver_ending hphase hfault hend)]
  · rw [exec_pooledSlot, State.pooledSlot_idle hslot hmode honce hnone]
  · rw [exec_pooledSlot, State.pooledSlot_serves hslot hmode honce hpool hl hq]
  · rw [exec_pchModeChange, State.pchModeChange_free hn hfree hfirm]
  · rw [exec_traceForward, State.traceForward_cons h]

end Sys2Proof.Machine

namespace Sys2Proof.Machine

/-! CKMARK, SVC and EVENT (R280 to R282). -/

/-- A request finds room among the four entries of its core's list (R280). -/
theorem planSvc_room {x : Ctx} (h : x.c.svc.length < 4) (d a : Opnd) (code : BitVec 10) :
    planSvc d a code x = ⟨[a.xloc], .ok {
      claims := [(d.xloc, x.s.tlc + 1)], acts := [(x.s.tlc + 1, .wx d.start.toNat d.width 1)]
      core := fun c => { c with svc := c.svc ++ [⟨code, BitVec.ofNat 64 (x.c.rd a), x.who.rank, x.st.pc⟩] } }⟩ := by
  simp only [planSvc, h, decide_true, Bool.toNat_true, if_true]
  rfl

/-- A full list takes no request (R280). -/
theorem planSvc_full {x : Ctx} (h : 4 ≤ x.c.svc.length) (d a : Opnd) (code : BitVec 10) :
    planSvc d a code x = ⟨[a.xloc], .ok {
      claims := [(d.xloc, x.s.tlc + 1)], acts := [(x.s.tlc + 1, .wx d.start.toNat d.width 0)] }⟩ := by
  simp only [planSvc, Nat.not_lt.2 h, decide_false, Bool.toNat_false, Bool.false_eq_true, if_false]
  rfl

/-- An entry finds room among the sixteen of its core's trace queue (R281). -/
theorem planEvent_room {x : Ctx} (h : (x.s.info x.c.gcore).trace.length < 16) (d a : Opnd) (code : BitVec 10) :
    planEvent d a code x = ⟨[a.xloc], .ok {
      claims := [(d.xloc, x.s.tlc + 1)], acts := [(x.s.tlc + 1, .wx d.start.toNat d.width 1)]
      dev := fun s => s.setInfo x.c.gcore { x.s.info x.c.gcore with
        trace := (x.s.info x.c.gcore).trace ++ [x.traceEntry (x.c.rd a) code] } }⟩ := by
  simp only [planEvent, h, decide_true, Bool.toNat_true, if_true]
  rfl

/-- A full queue drops the entry (R281). -/
theorem planEvent_full {x : Ctx} (h : 16 ≤ (x.s.info x.c.gcore).trace.length) (d a : Opnd) (code : BitVec 10) :
    planEvent d a code x = ⟨[a.xloc], .ok {
      claims := [(d.xloc, x.s.tlc + 1)], acts := [(x.s.tlc + 1, .wx d.start.toNat d.width 0)] }⟩ := by
  simp only [planEvent, Nat.not_lt.2 h, decide_false, Bool.toNat_false, Bool.false_eq_true, if_false]
  rfl

/-- Settles O14: CKMARK is its plan, SVC and EVENT are theirs with room and without. -/
theorem systemInstructions : Obligations.SystemInstructions := by
  intro d a code
  refine ⟨?_, ?_, ?_, ?_, ?_⟩
  · exact Completes.of_plan (exec_of_planOf rfl) fun x _ => rfl
  · exact Completes.of_plan (exec_of_planOf rfl) fun x h => planSvc_room h d a code
  · exact Completes.of_plan (exec_of_planOf rfl) fun x h => planSvc_full h d a code
  · exact Completes.of_plan (exec_of_planOf rfl) fun x h => planEvent_room h d a code
  · exact Completes.of_plan (exec_of_planOf rfl) fun x h => planEvent_full h d a code

/-! TRAPNZ and BRK (R278, R279). -/

theorem planTrapnz_zero {a : Opnd} {x : Ctx} (h : x.c.rd a = 0) (code : BitVec 10) : planTrapnz a code x = ⟨[a.xloc], .ok {}⟩ :=
  if_neg (not_not_intro h)

theorem planTrapnz_ne {a : Opnd} {x : Ctx} (h : x.c.rd a ≠ 0) (code : BitVec 10) :
    planTrapnz a code x = .bad [a.xloc] 4 code.toNat (x.c.rd a) := if_pos h

theorem planBrk_disabled {x : Ctx} (h : x.g.brken = false) (code : BitVec 10) : planBrk code x = ⟨[], .ok {}⟩ :=
  if_neg (Bool.eq_false_iff.1 h)

theorem planBrk_enabled {x : Ctx} (h : x.g.brken = true) (code : BitVec 10) : planBrk code x = .bad [] 5 code.toNat := if_pos h

/-- Settles O15: NOP, TRAP, ILL and the unassigned opcodes have one plan each, TRAPNZ and BRK one for each case. -/
theorem trappingInstructions : Obligations.TrappingInstructions := by
  intro a code body op
  refine ⟨?_, ?_, ?_, ?_, ?_, ?_, ?_, ?_⟩
  · exact Completes.of_plan (exec_of_planOf rfl) fun x _ => rfl
  · exact Completes.of_plan (exec_of_planOf rfl) fun x h => planTrapnz_zero h code
  · exact Completes.of_plan (exec_of_planOf rfl) fun x h => planBrk_disabled h code
  · exact Faults.of_plan (exec_of_planOf rfl) fun x _ => rfl
  · exact Faults.of_plan (exec_of_planOf rfl) fun x h => planTrapnz_ne h code
  · exact Faults.of_plan (exec_of_planOf rfl) fun x h => planBrk_enabled h code
  · exact Faults.of_plan (exec_of_planOf rfl) fun x _ => rfl
  · exact Faults.of_plan (exec_of_planOf rfl) fun x _ => rfl

end Sys2Proof.Machine

namespace Sys2Proof.Machine

/-! Cold reset (R402, R422). -/

theorem dstat_reset : State.reset.dstat = 0 := by decide +kernel

/-- Before the root controller has set READY, the registers read 0 but for DSTAT and what a recovery uses (R402, R403, R419). -/
theorem State.registerRead_notReady {s : State} (h : s.root.ready = false) (hw : s.root.waiting = none) (bar off : Nat) :
    s.registerRead bar off = if bar = 0 ∧ off = 0 then s.dstat else if bar = 0 ∧ off = 0x400 then s.host.rctlPage else 0 := by
  simp [State.registerRead, h, hw]

/-- Settles O43: each field is read off `State.reset`, and its registers are those of a device that is not ready. -/
theorem resetState : Obligations.ResetState := by
  refine ⟨rfl, rfl, rfl, fun _ => rfl, rfl, rfl, rfl, rfl, fun bar off => ?_, reset_inv⟩
  rw [State.registerRead_notReady rfl rfl, dstat_reset]
  split
  · rfl
  · exact ite_self _

/-! Poison under a store (R387). -/

@[simp] theorem mem_insertNat {a n : Nat} {l : List Nat} : a ∈ insertNat n l ↔ a = n ∨ a ∈ l := by
  induction l with
  | nil => simp [insertNat]
  | cons b t ih =>
    simp only [insertNat]
    split
    · simp
    split
    · simp_all
    · simp [ih, or_left_comm]

theorem mem_foldl_insertNat {a : Nat} (bs ps : List Nat) : a ∈ bs.foldl (fun ps b => insertNat b ps) ps ↔ a ∈ bs ∨ a ∈ ps := by
  induction bs generalizing ps with
  | nil => simp
  | cons b t ih => rw [List.foldl_cons, ih, mem_insertNat, List.mem_cons]; tauto

/-- Dropping the listed numbers that meet a condition leaves the others. -/
theorem mem_foldl_drop {a : Nat} (p : Nat → Bool) (bs ps : List Nat) :
    a ∈ bs.foldl (fun ps b => if p b then ps.filter (· != b) else ps) ps ↔ a ∈ ps ∧ ¬ (a ∈ bs ∧ p a = true) := by
  induction bs generalizing ps with
  | nil => simp
  | cons b t ih =>
    rw [List.foldl_cons, ih, List.mem_cons]
    by_cases hb : p b = true
    · rw [if_pos hb, List.mem_filter, bne_iff_ne]
      by_cases hab : a = b
      · subst hab; tauto
      · tauto
    · rw [if_neg hb]
      by_cases hab : a = b
      · subst hab; tauto
      · tauto

/-- The beats that a write of n bytes at k reaches. -/
theorem mem_beats {k n b : Nat} (hn : 0 < n) :
    b ∈ (List.range ((k + n - 1) / 32 + 1 - k / 32)).map (k / 32 + ·) ↔ k < 32 * b + 32 ∧ 32 * b < k + n := by
  rw [List.mem_map]
  constructor
  · rintro ⟨i, hi, rfl⟩
    rw [List.mem_range] at hi
    omega
  · intro h
    exact ⟨b - k / 32, List.mem_range.2 (by omega), by omega⟩

/-- A poisoned write poisons every beat that it reaches. -/
theorem mem_poisonAfter_poisoned {ps : List Nat} {k n b : Nat} (hn : 0 < n) :
    b ∈ poisonAfter ps k n true ↔ (k < 32 * b + 32 ∧ 32 * b < k + n) ∨ b ∈ ps := by
  unfold poisonAfter
  simp only [if_true]
  rw [mem_foldl_insertNat, mem_beats hn]

/-- A clean write cleans the beats that it covers. -/
theorem mem_poisonAfter_clean {ps : List Nat} {k n b : Nat} (hn : 0 < n) :
    b ∈ poisonAfter ps k n false ↔ b ∈ ps ∧ ¬ (k ≤ 32 * b ∧ 32 * b + 32 ≤ k + n) := by
  unfold poisonAfter
  simp only [Bool.false_eq_true, if_false]
  rw [mem_foldl_drop (fun b => decide (k ≤ 32 * b) && decide (32 * b + 32 ≤ k + n)), mem_beats hn]
  simp only [Bool.and_eq_true, decide_eq_true_eq]
  refine and_congr_right fun _ => not_congr ⟨And.right, fun h => ⟨by omega, h⟩⟩

theorem State.store_poison (s : State) {k : Nat} {bs : List Byte} {psn : Bool} (h : bs ≠ []) :
    (s.store k bs psn).poison = poisonAfter s.poison k bs.length psn := by
  cases bs with
  | nil => exact absurd rfl h
  | cons b t => rfl

/-- A beat's mark after a poisoned store. -/
theorem State.store_poisoned_contains (s : State) {k : Nat} {bs : List Byte} (h : bs ≠ []) (b : Nat) :
    (s.store k bs true).poison.contains b = (decide (k < 32 * b + 32 ∧ 32 * b < k + bs.length) || s.poison.contains b) := by
  rw [State.store_poison s h, Bool.eq_iff_iff]
  simp [mem_poisonAfter_poisoned (List.length_pos_iff.2 h)]

/-- A beat's mark after a clean store. -/
theorem State.store_clean_contains (s : State) (k : Nat) (bs : List Byte) (b : Nat) :
    (s.store k bs false).poison.contains b = (s.poison.contains b && !decide (k ≤ 32 * b ∧ 32 * b + 32 ≤ k + bs.length)) := by
  by_cases h : bs = []
  · subst h
    rw [State.store_nil, decide_eq_false (by rw [List.length_nil]; omega), Bool.not_false, Bool.and_true]
  · rw [State.store_poison s h, Bool.eq_iff_iff]
    simp [mem_poisonAfter_clean (List.length_pos_iff.2 h)]

/-- A store leaves the mark of a beat that it does not reach. -/
theorem State.store_contains_outside (s : State) {k b : Nat} {bs : List Byte} (psn : Bool)
    (h : 32 * b + 32 ≤ k ∨ k + bs.length ≤ 32 * b) : (s.store k bs psn).poison.contains b = s.poison.contains b := by
  by_cases hb : bs = []
  · subst hb; rfl
  have hn := List.length_pos_iff.2 hb
  cases psn with
  | false => rw [s.store_clean_contains, decide_eq_false (by omega), Bool.not_false, Bool.and_true]
  | true => rw [s.store_poisoned_contains hb, decide_eq_false (by omega), Bool.false_or]

/-- Settles O45: the bytes by the laws of memory, the marks by what a poisoned and a clean store leave of a beat's. -/
theorem storesWriteBytes : Obligations.StoresWriteBytes := by
  intro s k a bs psn hs
  refine ⟨State.read_store k a bs psn hs, State.store_inv k bs psn hs, ?_, s.store_gangs k bs psn, s.store_tlc k bs psn, ?_, ?_, ?_, ?_⟩
  · rw [State.store_mem]
    exact Mem.bytes_put k bs hs
  · exact fun b h => s.store_contains_outside psn h
  · rintro b rfl h1 h2
    rw [s.store_clean_contains, decide_eq_true ⟨h1, h2⟩, Bool.not_true, Bool.and_false]
  · rintro b rfl h
    rw [s.store_clean_contains, decide_eq_false h, Bool.not_false, Bool.and_true]
  · rintro b rfl hb h1 h2
    rw [s.store_poisoned_contains hb, decide_eq_true ⟨h1, h2⟩, Bool.true_or]

end Sys2Proof.Machine

namespace Sys2Proof.Machine

/-! Memory stays canonical (O44). Each operation over the state is one of two kinds: it leaves memory alone (its lemma `_mem`), or it stores or
drops bytes and keeps the list canonical (its lemma `_wf`). The lemmas follow the model's own order, so that each cites only those of the
operations that its definition calls. -/

/-- A fold of updates that each leave memory alone leaves it alone. -/
@[simp] theorem State.foldl_mem {α : Type} {f : State → α → State} (hf : ∀ s a, (f s a).mem = s.mem) (l : List α) (s : State) :
    (l.foldl f s).mem = s.mem := by
  induction l generalizing s with
  | nil => rfl
  | cons a t ih => rw [List.foldl_cons, ih, hf]

/-- So does a fold that carries something beside the state. -/
theorem State.foldl_fst_mem {α β : Type} {f : State × β → α → State × β} (hf : ∀ q a, (f q a).1.mem = q.1.mem) (l : List α)
    (q : State × β) : (l.foldl f q).1.mem = q.1.mem := by
  induction l generalizing q with
  | nil => rfl
  | cons a t ih => rw [List.foldl_cons, ih, hf]

/-- A fold of updates that each keep memory canonical keeps it canonical. -/
theorem State.foldl_wf {α : Type} {f : State → α → State} (hf : ∀ s a, s.mem.wf = true → (f s a).mem.wf = true) (l : List α)
    {s : State} (h : s.mem.wf = true) : (l.foldl f s).mem.wf = true := State.Inv.foldl hf l h

/-- So does a fold that carries something beside the state. -/
theorem State.foldl_fst_wf {α β : Type} {f : State × β → α → State × β}
    (hf : ∀ q a, q.1.mem.wf = true → (f q a).1.mem.wf = true) (l : List α) {q : State × β} (h : q.1.mem.wf = true) : (l.foldl f q).1.mem.wf = true := by
  induction l generalizing q with
  | nil => exact h
  | cons a t ih => exact ih (hf q a h)

@[simp] theorem State.store_wf {s : State} (h : s.mem.wf = true) (k bs psn) : (s.store k bs psn).mem.wf = true := State.store_inv k bs psn h

/-- The state of a pair that an operation answers lists the memory that the operation is known to leave. -/
theorem State.mem_of_fst {α : Type} {q : State × α} {s t : State} {a : α} (hq : q.1.mem = s.mem) (h : q = (t, a)) : t.mem = s.mem := by
  rw [← hq, h]

/-! Errors and their records (R383 to R399). -/

@[simp] theorem State.poisonBeat_mem (s : State) (k) : (s.poisonBeat k).mem = s.mem := rfl
@[simp] theorem State.errRecord_mem (s : State) (r) : (s.errRecord r).mem = s.mem := rfl
@[simp] theorem State.flitFixed_mem (s : State) (e) : (s.flitFixed e).mem = s.mem := by grind [State.flitFixed, State.errRecord_mem]
@[simp] theorem State.flitsFixed_mem (s : State) : s.flitsFixed.mem = s.mem := State.foldl_mem (fun s _ => s.flitFixed_mem ..) _ s
@[simp] theorem State.flitBetween_mem (s : State) (gid a b dst) : (s.flitBetween gid a b dst).1.mem = s.mem := (s.flitBetween_frame ..).2.2
@[simp] theorem State.correctedAll_mem (s : State) (g src r) : (s.correctedAll g src r).mem = s.mem := (s.correctedAll_frame ..).2.2
@[simp] theorem State.movedBad_mem (s : State) (g src r dst) : (s.movedBad g src r dst).mem = s.mem := (s.movedBad_frame ..).2.2

@[simp] theorem State.raiseCut_mem (s : State) (gid t w tr) : (s.raiseCut gid t w tr).mem = s.mem := by
  grind [State.raiseCut, State.modGang_mem, State.raise_mem]

@[simp] theorem State.parityFresh_mem (s : State) (cores l) : (s.parityFresh cores l).mem = s.mem := by
  unfold State.parityFresh
  (repeat' split) <;> rfl

@[simp] theorem State.parityReset_mem (s : State) (core) : (s.parityReset core).mem = s.mem := by
  unfold State.parityReset
  (repeat' split) <;> rfl

/-! Reads of core memory by a word. -/

@[simp] theorem State.loadRead_mem (s : State) (gid w gcore addr n reach) : (s.loadRead gid w gcore addr n reach).1.mem = s.mem := by
  grind [State.loadRead, State.correctedAll_mem, State.modGang_mem]

/-! Scalar loads (R142). -/

@[simp] theorem State.xload_mem (s : State) (gid w gcore addr n start width land) :
    (s.xload gid w gcore addr n start width land).mem = s.mem := by
  simp [State.xload]

/-! Feeds and fills. -/

@[simp] theorem State.lateRead_mem (s : State) (gid rank w addr n) : (s.lateRead gid rank w addr n).1.mem = s.mem := by
  unfold State.lateRead
  (repeat' split) <;> rfl

@[simp] theorem State.lateBytes_mem (s : State) (gid rank gcore w addr n keeps) :
    (s.lateBytes gid rank gcore w addr n keeps).1.mem = s.mem := by
  grind [State.lateBytes, State.correctedAll_mem, State.lateRead_mem, State.raiseCut_mem]

@[simp] theorem State.feedFetch_mem (s : State) (gid w f src cont round row) : (s.feedFetch gid w f src cont round row).mem = s.mem := by
  simp only [State.feedFetch]
  (repeat' split) <;> grind [State.addStash_mem, State.lateBytes_mem, State.modCore_mem, State.raiseCut_mem]

@[simp] theorem State.feedFill_mem (s : State) (gid w f j) : (s.feedFill gid w f j).mem = s.mem := by
  grind [State.feedFill, State.modGang_mem, State.parityFresh_mem, State.raiseCut_mem]

@[simp] theorem State.winRead_mem (s : State) (gid w f j row g c addr) : (s.winRead gid w f j row g c addr).mem = s.mem := by
  grind [State.winRead, State.addStash_mem, State.lateBytes_mem, State.raiseCut_mem]

@[simp] theorem State.boxLine_mem (s : State) (gid w addr n line) : (s.boxLine gid w addr n line).mem = s.mem := by
  grind [State.boxLine, State.lateBytes_mem, State.modCore_mem]

@[simp] theorem State.cropPix_mem (s : State) (gid w f g row k c addr) : (s.cropPix gid w f g row k c addr).mem = s.mem := by
  grind [State.cropPix, State.addStash_mem, State.lateBytes_mem]

@[simp] theorem State.cropFill_mem (s : State) (gid w f g near ws fl) : (s.cropFill gid w f g near ws fl).mem = s.mem := by
  simp [State.cropFill]

/-! The matrix. -/

@[simp] theorem State.mmaPair_mem (s : State) (gid w j a b bw ap2 sa sb) : (s.mmaPair gid w j a b bw ap2 sa sb).mem = s.mem := by
  simp only [State.mmaPair]
  (repeat' split) <;> simp

@[simp] theorem State.mmaLand_mem (s : State) (gid w n p sa sb zero diag) : (s.mmaLand gid w n p sa sb zero diag).mem = s.mem := rfl

@[simp] theorem State.poolEntry_mem (s : State) (gid w j e) : (s.poolEntry gid w j e).mem = s.mem := by
  simp only [State.poolEntry]
  (repeat' split) <;> simp

@[simp] theorem State.poolLand_mem (s : State) (gid w n g mx init fin incl sg) : (s.poolLand gid w n g mx init fin incl sg).mem = s.mem :=
  rfl

@[simp] theorem State.aldRow_mem (s : State) (gid w row addr land) : (s.aldRow gid w row addr land).mem = s.mem := by
  grind [State.aldRow, State.lateBytes_mem, State.modGang_mem]

/-! Gongs (R237 to R247). -/

@[simp] theorem State.setGong_wf {s : State} (h : s.mem.wf = true) (key g) : (s.setGong key g).mem.wf = true := by simp [State.setGong, h]

@[simp] theorem State.gongRead_mem (s : State) (g key) : (s.gongRead g key).1.mem = s.mem := by
  grind [State.gongRead, State.correctedAll_mem, State.errRecord_mem]

@[simp] theorem State.gongFixed_mem (s : State) (gid key) : (s.gongFixed gid key).mem = s.mem := by simp [State.gongFixed]

@[simp] theorem State.relink_wf {s : State} (h : s.mem.wf = true) (key) : (s.relink key).mem.wf = true := by
  simp only [State.relink]
  (repeat' split) <;> simp [h]

@[simp] theorem State.releaseGong_wf {s : State} (h : s.mem.wf = true) (key) : (s.releaseGong key).mem.wf = true := by
  simp [State.releaseGong, h]

@[simp] theorem State.forgetApplied_mem (s : State) (key) : (s.forgetApplied key).mem = s.mem := rfl

@[simp] theorem State.updRaise_mem (s : State) (u tr) : (s.updRaise u tr).mem = s.mem := by
  grind [State.updRaise, State.raise_mem, State.raiseCut_mem]

@[simp] theorem State.updEvent_mem (s : State) (u cause) : (s.updEvent u cause).mem = s.mem := by
  unfold State.updEvent
  (repeat' split) <;> rfl

@[simp] theorem State.gongApply_wf {s : State} (h : s.mem.wf = true) (u) : (s.gongApply u).mem.wf = true := by
  simp only [State.gongApply]
  (repeat' split) <;> simp [h]

@[simp] theorem State.gongUpdate_wf {s : State} (h : s.mem.wf = true) (u) : (s.gongUpdate u).mem.wf = true := by
  grind [State.gongUpdate, State.gongApply_wf, State.gongFixed_mem, State.gongRead_mem, State.updEvent_mem, State.updRaise_mem]

@[simp] theorem State.gongAdvance_wf {s : State} (h : s.mem.wf = true) (key) : (s.gongAdvance key).mem.wf = true := by
  simp only [State.gongAdvance]
  (repeat' split) <;> simp [h]

@[simp] theorem State.gongOrdered_wf {s : State} (h : s.mem.wf = true) (us) : (s.gongOrdered us).mem.wf = true :=
  State.foldl_wf (fun _ u hs => State.gongUpdate_wf hs u) _ h

@[simp] theorem State.gongCounts_wf {s : State} (h : s.mem.wf = true) (us) : (s.gongCounts us).mem.wf = true := by
  simp [State.gongCounts, h]

@[simp] theorem State.gongUpdates_wf {s : State} (h : s.mem.wf = true) (us) : (s.gongUpdates us).mem.wf = true :=
  State.foldl_wf (fun _ k hs => State.gongAdvance_wf hs k) _ (State.gongOrdered_wf h us)

@[simp] theorem State.regist_mem (s : State) (gid w h key) : (s.regist gid w h key).mem = s.mem := by
  grind [State.regist, State.gongFixed_mem, State.modGang_mem, State.raiseCut_mem]

@[simp] theorem State.gongHdl_mem (s : State) (gid w h key d land) : (s.gongHdl gid w h key d land).mem = s.mem := by
  unfold State.gongHdl
  (repeat' split) <;> simp

@[simp] theorem State.atomic_wf {s : State} (h : s.mem.wf = true) (gid w op flag key wd b c d land) :
    (s.atomic gid w op flag key wd b c d land).mem.wf = true := by
  simp only [State.atomic]
  (repeat' split) <;> simp [h]

/-! Movement (R201 to R212). -/

@[simp] theorem State.srcRead_mem (s : State) (gid w key n) : (s.srcRead gid w key n).1.mem = s.mem := by
  unfold State.srcRead
  (repeat' split) <;> simp

@[simp] theorem State.srcDecode_mem (s : State) (gid w key n) : (s.srcDecode gid w key n).1.mem = s.mem := by
  grind [State.srcDecode, State.correctedAll_mem, State.raiseCut_mem, State.srcRead_mem]

@[simp] theorem State.moveBeat_mem (s : State) (gid w src dst land) : (s.moveBeat gid w src dst land).mem = s.mem := by
  simp [State.moveBeat]

@[simp] theorem State.lineFlit_mem (s : State) (gid src dst) : (s.lineFlit gid src dst).1.mem = s.mem := by
  unfold State.lineFlit
  (repeat' split) <;> rfl

@[simp] theorem State.lineCopy_mem (s : State) (gid w src dst land) : (s.lineCopy gid w src dst land).mem = s.mem := by
  grind [State.lineCopy, State.addAgenda_mem, State.lineFlit_mem, State.moveBeat_mem, State.srcRead_mem]

@[simp] theorem State.conv_mem (s : State) (gid w var fmts fmtd rnd src dst m land) :
    (s.conv gid w var fmts fmtd rnd src dst m land).mem = s.mem := by
  unfold State.conv
  grind [State.srcDecode_mem, State.addAgenda_mem, State.raiseCut_mem]

@[simp] theorem State.trnRead_mem (s : State) (gid w src k) : (s.trnRead gid w src k).mem = s.mem := by
  grind [State.trnRead, State.addStash_mem, State.srcDecode_mem]

@[simp] theorem State.trnDone_mem (s : State) (gid w es k) : (s.trnDone gid w es k).mem = s.mem := by
  grind [State.trnDone, State.modGang_mem]

@[simp] theorem State.slotRead_mem (s : State) (gid w slot addr) : (s.slotRead gid w slot addr).mem = s.mem := by
  grind [State.slotRead, State.addAgenda_mem, State.srcDecode_mem]

@[simp] theorem State.xformLine_wf {s : State} (h : s.mem.wf = true) (gid w var sg fmt par key) :
    (s.xformLine gid w var sg fmt par key).mem.wf = true := by
  grind [State.xformLine, State.modCore_mem, State.srcDecode_mem, State.store_wf]

/-! Untimed requests and pages (R213 to R229). -/

@[simp] theorem State.physWrite_wf {s : State} (h : s.mem.wf = true) (k bs psn) : (s.physWrite k bs psn).mem.wf = true := by
  simp only [State.physWrite]
  (repeat' split) <;> simp [h]

@[simp] theorem State.poolBeat_mem (s : State) (own lead k wr) : (s.poolBeat own lead k wr).mem = s.mem := by
  unfold State.poolBeat
  (repeat' split) <;> rfl

@[simp] theorem State.poolSpan_mem (s : State) (own k n wr) : (s.poolSpan own k n wr).mem = s.mem := by
  unfold State.poolSpan
  split
  · rfl
  · exact State.foldl_mem (fun s _ => s.poolBeat_mem ..) _ s

@[simp] theorem State.notePage_mem (s : State) (own page) : (s.notePage own page).mem = s.mem := by
  unfold State.notePage
  (repeat' split) <;> rfl

@[simp] theorem State.walkNote_mem (s : State) (own keys) : (s.walkNote own keys).mem = s.mem := State.foldl_mem (fun s k => by simp) _ s

/-- A walk leaves memory alone where its finish does. -/
theorem State.translate.walked_mem {own die root va} {s : State} {finish} (h : ∀ s e, (finish s e).1.mem = s.mem) :
    (State.translate.walked own die root va s finish).1.mem = s.mem := by
  grind [State.translate.walked, State.walkNote_mem]

@[simp] theorem State.translate_mem (s : State) (own die root va wr) : (s.translate own die root va wr).1.mem = s.mem := by
  have hw (f : State → TlbEnt → State × Except Trap Nat) (hf : ∀ s e, (f s e).1.mem = s.mem) (s : State) :=
    State.translate.walked_mem (own := own) (die := die) (root := root) (va := va) (s := s) hf
  grind [State.translate, State.notePage_mem]

@[simp] theorem State.nextDraw_mem (s : State) : s.nextDraw.mem = s.mem := rfl

@[simp] theorem State.placeKey_mem (s : State) (own g c p n wr) : (s.placeKey own g c p n wr).1.mem = s.mem := by
  unfold State.placeKey
  (repeat' split) <;> simp

@[simp] theorem State.readKey_mem (s : State) (own g src k n sp ad flit) : (s.readKey own g src k n sp ad flit).1.mem = s.mem := by
  grind [State.readKey, State.correctedAll_mem, State.poolSpan_mem]

@[simp] theorem State.readPlace_mem (s : State) (id g c fuel p n) : (s.readPlace id g c fuel p n).1.mem = s.mem := by
  induction fuel generalizing s p n with
  | zero => rfl
  | succ fuel ih => grind [State.readPlace, State.placeKey_mem, State.readKey_mem]

@[simp] theorem State.readAt_mem (s : State) (id g c p n) : (s.readAt id g c p n).1.mem = s.mem := by simp [State.readAt]

theorem Lead.beat_mem (l : Lead) (g c p n) : (l.beat g c p n).1.s.mem = l.s.mem := by
  grind [Lead.beat, State.placeKey_mem, State.flitBetween_mem, State.readKey_mem]

theorem Lead.span_mem (l : Lead) (g c fuel p n) : (l.span g c fuel p n).1.s.mem = l.s.mem := by
  induction fuel generalizing l p n with
  | zero => rfl
  | succ fuel ih => grind [Lead.span, Lead.beat_mem]

@[simp] theorem State.resolve_mem (s : State) (id g c ws) : (s.resolve id g c ws).1.mem = s.mem := by
  induction ws generalizing s with
  | nil => rfl
  | cons w t ih => grind [State.resolve, State.placeKey_mem]

/-- What is read first leaves memory alone where what follows does. -/
theorem Lead.then_mem {k : Lead → List Byte → Lead × Option Job0} (hk : ∀ l bs, (k l bs).1.s.mem = l.s.mem) (l : Lead) (g c p n) :
    (l.then g c p n k).1.s.mem = l.s.mem := by
  grind [Lead.then, Lead.read, Lead.span_mem]

theorem Lead.workMpb_mem (l : Lead) (g c r addr) : (l.workMpb g c r addr).1.s.mem = l.s.mem := by
  unfold Lead.workMpb
  extract_lets
  split
  · rfl
  split
  · rfl
  split
  · rfl
  · exact Lead.then_mem (fun l q => Lead.then_mem (fun l k => rfl) l g c _ _) l g c _ _

theorem Lead.withDsc_mem {k : Lead → Dsc → List Nat → Lead × Option Job0} (hk : ∀ l d ix, (k l d ix).1.s.mem = l.s.mem) (l : Lead)
    (g c dsc kind) : (l.withDsc g c dsc kind k).1.s.mem = l.s.mem :=
  Lead.then_mem (fun l bs => by
    dsimp only
    split
    · rfl
    · exact Lead.then_mem (fun l ix => hk ..) l g c _ _) l g c _ _

theorem Lead.work_mem (l : Lead) (g c r) : (l.work g c r).1.s.mem = l.s.mem := by
  unfold Lead.work
  split
  · rfl
  · rfl
  · exact Lead.withDsc_mem (fun l d ix => rfl) l g c _ _
  · exact Lead.withDsc_mem (fun l d ex => Lead.then_mem (fun l tb => rfl) l g c _ _) l g c _ _
  · exact Lead.withDsc_mem (fun l d ix => rfl) l g c _ _
  · exact Lead.withDsc_mem (fun l d ix => Lead.then_mem (fun l wb => rfl) l g c _ _) l g c _ _
  · split <;> rfl
  · exact Lead.then_mem (fun l hdr => Lead.then_mem (fun l bs => rfl) l g c _ _) l g c _ _
  · exact l.workMpb_mem ..

@[simp] theorem State.poolAdd_mem (s : State) (req ms) : (s.poolAdd req ms).mem = s.mem :=
  State.foldl_mem (fun s _ => s.poolBeat_mem ..) _ s

@[simp] theorem State.setWork_mem (s : State) (id g c j) : (s.setWork id g c j).mem = s.mem := by simp [State.setWork]

@[simp] theorem State.startReq_mem (s : State) (id) : (s.startReq id).mem = s.mem := by
  unfold State.startReq
  grind [State.nextDraw_mem, State.modReq_mem, State.setWork_mem, Lead.work_mem]

@[simp] theorem State.blockRead_mem (s : State) (gid w req addr) : (s.blockRead gid w req addr).mem = s.mem := by
  grind [State.blockRead, State.correctedAll_mem, State.modReq_mem, State.raiseCut_mem, State.srcRead_mem]

@[simp] theorem State.settled_mem (s : State) (n) : (s.settled n).mem = s.mem := State.foldl_mem (fun s _ => s.modReq_mem ..) _ s
@[simp] theorem State.spoilNode_mem (s : State) (n) : (s.spoilNode n).mem = s.mem := by simp [State.spoilNode]

@[simp] theorem State.spoil_mem (s : State) (tr) : (s.spoil tr).1.mem = s.mem := by
  have hnode (ns : List (Nat × Node)) (s : State) : (ns.foldl (fun (s : State) p => s.spoilNode p.1) s).mem = s.mem :=
    State.foldl_mem (fun s _ => s.spoilNode_mem ..) ns s
  unfold State.spoil
  grind [State.errRecord_mem]

@[simp] theorem State.reqFault_mem (s : State) (id tr) : (s.reqFault id tr).mem = s.mem := rfl
@[simp] theorem State.beatFlit_mem (s : State) (gid die src dst) : (s.beatFlit gid die src dst).1.mem = s.mem := by simp [State.beatFlit]

@[simp] theorem State.landMove_wf {s : State} (h : s.mem.wf = true) (old gid r m) : (s.landMove old gid r m).mem.wf = true := by
  simp only [State.landMove]
  (repeat' split) <;> simp [h]

@[simp] theorem State.landBeat_wf {s : State} (h : s.mem.wf = true) (old prev id mv) : (s.landBeat old prev id mv).1.mem.wf = true := by
  simp only [State.landBeat]
  (repeat' split) <;> simp [h]

@[simp] theorem State.beatLanding_wf {s : State} (h : s.mem.wf = true) (id mv) : (s.beatLanding id mv).mem.wf = true := by
  simp [State.beatLanding, h]

@[simp] theorem State.reqCounts_mem (s : State) (gid g r) : (s.reqCounts gid g r).mem = s.mem := by
  grind [State.reqCounts, State.addAgenda_mem, State.raise_mem]

@[simp] theorem State.completeReq_mem (s : State) (id cancelled) : (s.completeReq id cancelled).mem = s.mem := by
  grind [State.completeReq, State.modGang_mem, State.poolDrop_mem, State.raise_mem, State.reqCounts_mem, State.startReq_mem]

/-! Memory streams. -/

@[simp] theorem State.colNote_mem (s : State) (gid r dst) : (s.colNote gid r dst).mem = s.mem := (s.colNote_frame ..).2.2

@[simp] theorem State.ringRegist_mem (s : State) (lost gid w h) : (s.ringRegist lost gid w h).1.mem = s.mem := by
  simp only [State.ringRegist]
  (repeat' split) <;> simp

@[simp] theorem State.accrue_mem (s : State) (n b) : (s.accrue n b).mem = s.mem := by
  grind [State.accrue, State.modPch_mem, State.raise_mem, State.tickOnce_mem]

@[simp] theorem State.baseRefresh_mem (s : State) (n b) : (s.baseRefresh n b).mem = s.mem := by
  unfold State.baseRefresh
  (repeat' split) <;> rfl

@[simp] theorem State.abandonPre_mem (s : State) (n b) : (s.abandonPre n b).mem = s.mem := by
  unfold State.abandonPre
  (repeat' split) <;> rfl

@[simp] theorem State.pooledSlot_mem (s : State) (n) : (s.pooledSlot n).mem = s.mem := by
  grind [State.pooledSlot, State.modPch_mem, State.tickOnce_mem]

/-! System instructions. -/

@[simp] theorem State.segmentRelease_mem (s : State) (gid) : (s.segmentRelease gid).mem = s.mem := by
  unfold State.segmentRelease
  split
  · rfl
  · split
    · rfl
    · exact State.foldl_mem (fun s _ => s.raise_mem ..) _ _

@[simp] theorem State.iteration_mem (s : State) (gid rank id) : (s.iteration gid rank id).mem = s.mem := by
  unfold State.iteration
  (repeat' split) <;> rfl

@[simp] theorem State.waitEnd_mem (s : State) (gid rank) : (s.waitEnd gid rank).mem = s.mem := by
  unfold State.waitEnd
  (repeat' split) <;> rfl

@[simp] theorem State.budgetOut_mem (s : State) (gid rank) : (s.budgetOut gid rank).mem = s.mem := by
  unfold State.budgetOut
  (repeat' split) <;> rfl

/-! Vector memory. -/

@[simp] theorem State.laneReads_mem (s : State) (gid w gcore addrs m n) : (s.laneReads gid w gcore addrs m n).1.mem = s.mem := by
  unfold State.laneReads
  split
  · exact s.loadRead_mem ..
  · refine State.foldl_fst_mem (fun q i => ?_) _ (s, [])
    exact q.1.loadRead_mem ..

@[simp] theorem State.vload_mem (s : State) (gid w gcore addrs m n start width land) :
    (s.vload gid w gcore addrs m n start width land).mem = s.mem := by
  simp [State.vload]

/-! Issue. -/

@[simp] theorem State.fetched_mem (s : State) (g rs) : (s.fetched g rs).mem = s.mem :=
  State.foldl_mem (fun s _ => s.correctedAll_mem ..) rs s

/-! The turn of the cycle: reads, consumptions, landings and beats. -/

@[simp] theorem State.bankConflict_mem (s : State) (g) : (s.bankConflict g).mem = s.mem :=
  State.foldl_mem (fun s gid => by dsimp only; split <;> simp [State.raise_mem]) _ s

@[simp] theorem State.collide_mem (s : State) (gid g due) : (s.collide gid g due).mem = s.mem := by
  unfold State.collide
  refine (State.foldl_mem (fun s c => by simp) _ _).trans (State.foldl_fst_mem (fun q c => ?_) _ (s, []))
  dsimp only
  split
  · rfl
  · exact q.1.raise_mem ..

@[simp] theorem State.parityWrite_mem (s : State) (gid w l) : (s.parityWrite gid w l).mem = s.mem := by
  unfold State.parityWrite
  (repeat' split) <;> rfl

@[simp] theorem State.parityCells_mem (s : State) (gid w hit) : (s.parityCells gid w hit).mem = s.mem := by
  unfold State.parityCells
  (repeat' split) <;> rfl

@[simp] theorem State.landAct_mem (s : State) (gid w a) : (s.landAct gid w a).mem = s.mem := by
  unfold State.landAct
  (repeat' split) <;> simp

@[simp] theorem State.readCore_mem (s : State) (gid w start width f) : (s.readCore gid w start width f).mem = s.mem := by
  unfold State.readCore
  (repeat' split) <;> rfl

@[simp] theorem State.readAct_mem (s : State) (gid w a) : (s.readAct gid w a).mem = s.mem := by
  unfold State.readAct
  (repeat' split) <;> simp

@[simp] theorem State.useAct_mem (s : State) (gid w a) : (s.useAct gid w a).mem = s.mem := by unfold State.useAct; (repeat' split) <;> simp

@[simp] theorem State.rmwAct_wf {s : State} (h : s.mem.wf = true) (conf gid w a) : (s.rmwAct conf gid w a).1.mem.wf = true := by
  simp only [State.rmwAct]
  (repeat' split) <;> simp [h]

/-- Acts that each leave memory alone leave it alone. -/
@[simp] theorem State.foldActs_mem {f : State → Nat → Who → Act → State} (hf : ∀ s g w a, (f s g w a).mem = s.mem) (s : State) (due : List
    (Nat × Timed)) :
    (s.foldActs due f).mem = s.mem := State.foldl_mem (fun s p => by split <;> simp [hf]) due s

@[simp] theorem State.memWrites_wf {s : State} (h : s.mem.wf = true) (due reqs conf) : (s.memWrites due reqs conf).mem.wf = true := by
  unfold State.memWrites
  extract_lets ws ps qs at_ s1
  have h1 : s1.mem.wf = true := State.foldl_wf (fun _ _ hs => State.store_wf hs ..) _ h
  have hdone : (s1.foldActs due fun s gid w a => match a with
      | .trnLand _ es k => s.trnDone gid w es k
      | _ => s).mem = s1.mem := State.foldActs_mem (fun s gid w a => by split <;> simp) s1 due
  exact hdone ▸ h1

@[simp] theorem State.dropBeats_mem (s : State) : s.dropBeats.mem = s.mem := rfl

@[simp] theorem State.beginWork_wf {s : State} (h : s.mem.wf = true) (pre due skip) : (State.beginWork pre s due skip).mem.wf = true := by
  unfold State.beginWork
  extract_lets beats old reqs conf s1 s2 s3 s4 lands sel s5 s6 s7 s8 rmw s9 q
  have hold : old.mem.wf = true := by
    have : old.mem = s.mem := (State.foldl_mem (fun s _ => s.startReq_mem ..) _ _).trans s.dropBeats_mem
    rwa [this]
  have h4 : s4.mem = old.mem := calc
    s4.mem = s3.mem := State.foldl_mem (fun s p => s.drop_mem p) _ s3
    _ = s2.mem := State.foldl_mem (fun s _ => s.collide_mem ..) _ s2
    _ = old.mem := State.foldl_mem (fun s g => s.bankConflict_mem g) _ s1
  have h6 : s6.mem = old.mem := by simp [s6, s5, h4]
  have h7 : s7.mem.wf = true := State.memWrites_wf (h6 ▸ hold) ..
  have h8 : s8.mem.wf = true := State.foldl_fst_wf (fun q b hq => State.landBeat_wf hq ..) beats h7
  have hrmw (q : State × List GongUpd) (f : Act → Bool) (hq : q.1.mem.wf = true) : (rmw q f).1.mem.wf = true :=
    State.foldl_fst_wf (fun q p hq => by
      split
      · exact State.rmwAct_wf hq ..
      · exact hq) _ hq
  exact hrmw _ _ (State.gongCounts_wf (hrmw _ _ (hrmw _ _ h8)) _)

@[simp] theorem State.settleGongs_wf {s : State} (h : s.mem.wf = true) : s.settleGongs.mem.wf = true := by simp [State.settleGongs, h]

@[simp] theorem State.endReads_wf {s : State} (h : s.mem.wf = true) : s.endReads.mem.wf = true := by
  simp only [State.endReads]
  (repeat' split) <;> simp [h]

@[simp] theorem State.beginCycle_wf {s : State} (h : s.mem.wf = true) (pre) : (State.beginCycle pre s).mem.wf = true := by
  simp only [State.beginCycle]
  (repeat' split) <;> simp [h]

@[simp] theorem State.relinkAll_wf {s : State} (h : s.mem.wf = true) : s.relinkAll.mem.wf = true :=
  State.foldl_wf (fun _ k hs => State.relink_wf hs k) _ h

@[simp] theorem State.endCycle_wf {s : State} (h : s.mem.wf = true) : s.endCycle.mem.wf = true := by simp [State.endCycle, h]
@[simp] theorem State.clears_mem (s : State) : s.clears.mem = s.mem := State.foldActs_mem (fun s _ _ _ => s.landAct_mem ..) s _

theorem State.tick_wf {s : State} (h : s.mem.wf = true) {ends : State → State} (hends : ∀ s, s.mem.wf = true → (ends s).mem.wf = true)
    (pre : State → State) : (State.tick pre ends s).mem.wf = true := by
  unfold State.tick
  exact State.beginCycle_wf (hends _ (by simp [h])) pre

/-! Event rings and queues (R409). -/

@[simp] theorem State.modQueue_mem (s : State) (q f) : (s.modQueue q f).mem = s.mem := rfl

@[simp] theorem State.msix_mem (s : State) (g) : (s.msix g).mem = s.mem := by unfold State.msix; (repeat' split) <;> rfl

@[simp] theorem State.ringWrite_mem (s : State) (g bs) : (s.ringWrite g bs).mem = s.mem := by simp [State.ringWrite]

@[simp] theorem State.post_mem (s : State) (g job bs) : (s.post g job bs).mem = s.mem := by
  grind [State.post, State.modRing_mem, State.ringWrite_mem]

@[simp] theorem State.flushRing_mem (s : State) (g n) : (s.flushRing g n).mem = s.mem := by
  induction n generalizing s with
  | zero => rfl
  | succ n ih => grind [State.flushRing, State.ringWrite_mem, State.modRing_mem]

@[simp] theorem State.event_mem (s : State) (kind q tag job arg jflags trec) : (s.event kind q tag job arg jflags trec).mem = s.mem := by
  simp [State.event]

@[simp] theorem State.status_mem (s : State) (code) : (s.status code).mem = s.mem := by simp [State.status]
@[simp] theorem State.countLo_mem (s : State) : s.countLo.mem = s.mem := rfl
@[simp] theorem State.countHi_mem (s : State) : s.countHi.mem = s.mem := rfl

@[simp] theorem State.virtRead_mem (s : State) (root fuel va n) : (s.virtRead root fuel va n).1.mem = s.mem := by
  induction fuel generalizing s va n with
  | zero => rfl
  | succ fuel ih => grind [State.virtRead, State.translate_mem, State.readKey_mem]

@[simp] theorem State.virtBytes_mem (s : State) (root va n) : (s.virtBytes root va n).1.mem = s.mem := by simp [State.virtBytes]

@[simp] theorem State.virtWrite_wf {s : State} (h : s.mem.wf = true) (root fuel va bs) : (s.virtWrite root fuel va bs).1.mem.wf = true := by
  induction fuel generalizing s va bs with
  | zero => exact h
  | succ fuel ih =>
    have hm := s.translate_mem none noDie root va true
    unfold State.virtWrite
    split
    · exact h
    split
    · exact h
    split
    · exact State.mem_of_fst hm ‹_› ▸ h
    · have hs := State.mem_of_fst hm ‹_› ▸ h
      exact ih (State.physWrite_wf (by simpa using hs) ..) _ _

@[simp] theorem State.virtPut_wf {s : State} (h : s.mem.wf = true) (root va bs) : (s.virtPut root va bs).1.mem.wf = true := by
  simp [State.virtPut, h]

/-! Task objects and launches (R315 to R326). -/

@[simp] theorem State.readTob_mem (s : State) (root va) : (s.readTob root va).1.mem = s.mem := by grind [State.readTob, State.virtBytes_mem]

@[simp] theorem State.readTobs_mem (s : State) (root vas) : (s.readTobs root vas).1.mem = s.mem := by
  induction vas generalizing s with
  | nil => rfl
  | cons va t ih => grind [State.readTobs, State.readTob_mem]

@[simp] theorem State.readGraph_mem (s : State) (root v) : (s.readGraph root v).1.mem = s.mem := by
  grind [State.readGraph, State.readTobs_mem, State.virtBytes_mem]

@[simp] theorem State.enqueue_mem (s : State) (q job idx total) : (s.enqueue q job idx total).mem = s.mem := rfl

@[simp] theorem State.newJob_mem (s : State) (q graph ver ts deps a) : (s.newJob q graph ver ts deps a).mem = s.mem :=
  State.foldl_mem (fun s _ => s.enqueue_mem ..) _ _

@[simp] theorem State.launch_mem (s : State) (q w a) : (s.launch q w a).1.mem = s.mem := by
  unfold State.launch
  grind [State.readTob_mem, State.newJob_mem, State.readGraph_mem]

@[simp] theorem State.addTob_mem (s : State) (job q va) : (s.addTob job q va).1.mem = s.mem := by
  grind [State.addTob, State.enqueue_mem, State.modJob_mem, State.readTob_mem]

@[simp] theorem State.dropRefs_mem (s : State) (ns) : (s.dropRefs ns).mem = s.mem := rfl
@[simp] theorem State.freeLeases_mem (s : State) (gid) : (s.freeLeases gid).mem = s.mem := rfl
@[simp] theorem State.dropGang_wf {s : State} (h : s.mem.wf = true) (gid) : (s.dropGang gid).mem.wf = true := by simp [State.dropGang, h]
@[simp] theorem State.freeVersions_mem (s : State) : s.freeVersions.mem = s.mem := rfl

@[simp] theorem State.endJob_wf {s : State} (h : s.mem.wf = true) (n how rec_) : (s.endJob n how rec_).mem.wf = true := by
  unfold State.endJob
  split
  · exact h
  · refine State.foldl_wf (fun _ k hs => State.relink_wf hs k) _ ?_
    exact State.foldl_wf (fun _ n hs => State.dropGang_wf hs n) _ h

@[simp] theorem State.flagArea_wf {s : State} (h : s.mem.wf = true) (n) : (s.flagArea n).mem.wf = true := by
  simp only [State.flagArea]
  (repeat' split) <;> simp [h]

@[simp] theorem State.evalHead_mem (s : State) (qn) : (s.evalHead qn).mem = s.mem := by grind [State.evalHead, State.setQueue_mem]
@[simp] theorem State.evalHeads_mem (s : State) : s.evalHeads.mem = s.mem := State.foldl_mem (fun s _ => s.evalHead_mem ..) _ s

/-! Trap records and dispositions (R283 to R288). -/

@[simp] theorem State.trapWrite_mem (s : State) (bits) : (s.trapWrite bits).1.mem = s.mem := rfl
@[simp] theorem State.verdict_mem (s : State) (g m outcome verdict act) : (s.verdict g m outcome verdict act).mem = s.mem := rfl

@[simp] theorem State.lastingActs_mem (s : State) (g m) : (s.lastingActs g m).mem = s.mem := by
  unfold State.lastingActs
  (repeat' split) <;> simp

@[simp] theorem State.machineCheck_mem (s : State) (g f) : (s.machineCheck g f).1.mem = s.mem := by
  grind [State.machineCheck, State.lastingActs_mem, State.verdict_mem]

@[simp] theorem State.toFront_mem (s : State) (q st) : (s.toFront q st).mem = s.mem := rfl

@[simp] theorem State.dispose_wf {s : State} (h : s.mem.wf = true) (gid g f) : (s.dispose gid g f).mem.wf = true := by
  simp only [State.dispose]
  (repeat' split) <;> simp [h]

/-! The scheduler (R326 to R341). -/

@[simp] theorem State.askReserve_mem (s : State) (q id) : (s.askReserve q id).mem = s.mem := by
  unfold State.askReserve
  (repeat' split) <;> rfl

@[simp] theorem State.grantIn_mem (s : State) (rs) : (s.grantIn rs).mem = s.mem := by
  induction rs generalizing s with
  | nil => rfl
  | cons r t ih => grind [State.grantIn]

@[simp] theorem State.grantReserve_mem (s : State) : s.grantReserve.mem = s.mem := by simp [State.grantReserve]

@[simp] theorem State.saveSeg_mem (s : State) (core a n) : (s.saveSeg core a n).1.mem = s.mem := by
  grind [State.saveSeg, State.correctedAll_mem]

@[simp] theorem State.saveAll_mem (s : State) (core segs) : (s.saveAll core segs).1.mem = s.mem := by
  induction segs generalizing s with
  | nil => rfl
  | cons a t ih => grind [State.saveAll, State.saveSeg_mem]

@[simp] theorem State.saveFails_wf {s : State} (h : s.mem.wf = true) (k tr) : (s.saveFails k tr).mem.wf = true := by
  simp only [State.saveFails]
  (repeat' split) <;> simp [h]

@[simp] theorem State.preempt_wf {s : State} (h : s.mem.wf = true) (op) : (s.preempt op).mem.wf = true := State.foldl_wf (fun s k hs => by
  have hm := s.saveAll_mem k.core k.segs
  dsimp only
  split
  · exact State.saveFails_wf (State.mem_of_fst hm ‹_› ▸ hs) k _
  · exact (State.mem_of_fst hm ‹_› ▸ hs : _)) _ h

@[simp] theorem State.preemption_wf {s : State} (h : s.mem.wf = true) (op) : (s.preemption op).mem.wf = true := by
  simp only [State.preemption]
  (repeat' split) <;> simp [h]

@[simp] theorem State.affinityExpiry_mem (s : State) (op) : (s.affinityExpiry op).mem = s.mem := rfl

@[simp] theorem State.bindLeases_mem (s : State) (gid g ls) : (s.bindLeases gid g ls).1.mem = s.mem := by
  induction ls generalizing s with
  | nil => rfl
  | cons l t ih => grind [State.bindLeases, State.modPch_mem, State.modGang_mem]

@[simp] theorem State.dispatch_wf {s : State} (h : s.mem.wf = true) (q st t cells) : (s.dispatch q st t cells).mem.wf = true := by
  unfold State.dispatch
  extract_lets ops start s1 s2 gid sch s3
  have h1 : s1.mem.wf = true := State.foldl_wf (fun s op hs => State.preempt_wf hs op) _ h
  have h3 : s3.mem.wf = true := h1
  split
  · exact h1
  split
  · exact h3
  extract_lets src g s4
  have h4 : s4.mem.wf = true := h3
  have hm := s4.bindLeases_mem gid g t.tob.named
  split
  · exact State.dispose_wf h4 ..
  split
  · exact (State.mem_of_fst hm ‹_› ▸ h4 : _)
  · exact State.dropGang_wf (State.mem_of_fst hm ‹_› ▸ h4) gid

@[simp] theorem State.reach_mem (s : State) (c q) : (s.reach c q).mem = s.mem := rfl

@[simp] theorem State.roundRobin_wf {s : State} (h : s.mem.wf = true) (c qs fuel risen) :
    (State.roundRobin c qs fuel risen s).mem.wf = true := by
  induction fuel generalizing s risen with
  | zero => exact h
  | succ fuel ih =>
    unfold State.roundRobin
    split
    · exact ih (by simpa using h) _
    extract_lets v go
    have hgo (t : State) (ht : t.mem.wf = true) (risen : List Nat) : (go t risen).mem.wf = true := ih (by simpa using ht) risen
    split
    · exact hgo _ (by simpa using h) _
    split
    · exact hgo _ h _
    split
    · exact State.dispatch_wf h ..
    split
    · exact hgo _ h _
    · exact hgo _ (by simpa using h) _

@[simp] theorem State.serve_wf {s : State} (h : s.mem.wf = true) (c) : (s.serve c).mem.wf = true := by
  simp only [State.serve]
  (repeat' split) <;> simp [h]

@[simp] theorem State.dispatchSlot_wf {s : State} (h : s.mem.wf = true) : s.dispatchSlot.mem.wf = true := by
  simp only [State.dispatchSlot]
  (repeat' split) <;> simp [h]

@[simp] theorem State.waiterRelease_mem (s : State) (id) : (s.waiterRelease id).mem = s.mem := by
  unfold State.waiterRelease
  (repeat' split) <;> rfl

@[simp] theorem State.regionResident_mem (s : State) (job lreg pch rows) : (s.regionResident job lreg pch rows).mem = s.mem := by
  unfold State.regionResident
  (repeat' split) <;> rfl

@[simp] theorem State.hangTimeout_mem (s : State) : s.hangTimeout.mem = s.mem := by unfold State.hangTimeout; (repeat' split) <;> rfl

/-! A step from its dispatch to its end. -/

@[simp] theorem State.declare_mem (s : State) (ws t) : (s.declare ws t).mem = s.mem := rfl

@[simp] theorem State.dispatchFault_wf {s : State} (h : s.mem.wf = true) (gid g tr) : (s.dispatchFault gid g tr).mem.wf = true := by
  simp only [State.dispatchFault]
  (repeat' split) <;> simp [h]

@[simp] theorem State.swapPlane_wf {s : State} (h : s.mem.wf = true) (t bs core) : (s.swapPlane t bs core).mem.wf = true := by
  simp [State.swapPlane, h]

@[simp] theorem State.stageMem_wf {s : State} (h : s.mem.wf = true) (gid g m) : (s.stageMem gid g m).mem.wf = true := by
  simp only [State.stageMem]
  (repeat' split) <;> simp [h]

@[simp] theorem State.imageOf_mem (s : State) (g) : (s.imageOf g).1.mem = s.mem := by
  unfold State.imageOf
  split
  · exact State.foldl_mem (fun s _ => s.correctedAll_mem ..) _ s
  · exact s.virtBytes_mem ..

@[simp] theorem State.stagingCheck_wf {s : State} (h : s.mem.wf = true) (gid) : (s.stagingCheck gid).mem.wf = true := by
  unfold State.stagingCheck
  split
  · exact h
  rename_i g _
  have hm := s.imageOf_mem g
  split
  · split
    · exact h
    split
    · exact State.dispatchFault_wf (State.mem_of_fst hm ‹_› ▸ h) ..
    rename_i s1 bs hbs
    have h1 : s1.mem.wf = true := State.mem_of_fst hm hbs ▸ h
    extract_lets ws crc s2 ready s3
    have h2 : s2.mem.wf = true := by rwa [State.declare_mem]
    have h3 : s3.mem.wf = true := State.foldl_wf (fun _ _ hs => State.swapPlane_wf hs ..) _ h2
    split
    · exact State.dispatchFault_wf h1 ..
    split
    · exact State.dispatchFault_wf h1 ..
    split
    · exact State.dispatchFault_wf h2 ..
    split
    · exact State.dispatchFault_wf h2 ..
    · exact State.foldl_wf (fun _ _ hs => State.stageMem_wf hs ..) _ h3
  · exact h

@[simp] theorem State.clearCarve_wf {s : State} (h : s.mem.wf = true) (core job lo hi stay) :
    (s.clearCarve core job lo hi stay).mem.wf = true :=
  Mem.wf_filter _ h

@[simp] theorem State.restore_wf {s : State} (h : s.mem.wf = true) (core segs saved) : (s.restore core segs saved).mem.wf = true := by
  induction segs generalizing s saved with
  | nil => simpa [State.restore] using h
  | cons a t ih =>
    cases saved with
    | nil => simpa [State.restore] using h
    | cons b r => exact ih (by simp [h]) r

@[simp] theorem State.prepare_wf {s : State} (h : s.mem.wf = true) (g rank core) : (s.prepare g rank core).1.mem.wf = true := by
  simp only [State.prepare]
  (repeat' split) <;> simp [h]

@[simp] theorem State.accNote_mem (s : State) (g rank) : (s.accNote g rank).mem = s.mem := by unfold State.accNote; (repeat' split) <;> simp

@[simp] theorem State.settle_mem (s : State) : s.settle.mem = s.mem := State.foldl_mem (fun s p => by
  have hquiet (b : Bool) (c : State → MStream → Prop) [∀ s m, Decidable (c s m)] (ms : List MStream) (s : State) :
      (ms.foldl (fun (s : State) m => if c s m then s.modPch m.pch fun q => { q with quiet := b } else s) s).mem = s.mem :=
    State.foldl_mem (fun s m => by split <;> rfl) ms s
  split
  · split
    · rfl
    · split <;> exact hquiet ..
  · rfl) _ s

@[simp] theorem State.downbeat_wf {s : State} (h : s.mem.wf = true) (gid) : (s.downbeat gid).mem.wf = true := by
  unfold State.downbeat
  split
  · exact h
  split
  · exact h
  extract_lets cell ws ranks s1 accs r held src bel s2
  have h1 : s1.mem.wf = true := by
    have : s1.mem = s.mem := State.foldl_mem (fun s _ => s.accNote_mem ..) _ s
    rwa [this]
  have hr : r.1.mem.wf = true := by
    refine State.foldl_fst_wf (fun q p hq => ?_) ranks (q := (s1, [])) h1
    exact State.prepare_wf hq ..
  have h2 : s2.mem = r.1.mem := by unfold s2; split <;> rfl
  rw [State.modGang_mem, h2]
  exact hr

@[simp] theorem State.stepOverrun_mem (s : State) (gid) : (s.stepOverrun gid).mem = s.mem := by
  unfold State.stepOverrun
  (repeat' split) <;> rfl

@[simp] theorem State.arrive_mem (s : State) (g kind i n rank waddr key h) : (s.arrive g kind i n rank waddr key h).mem = s.mem := by
  grind [State.arrive, State.complEvent_mem, State.errRecord_mem]

@[simp] theorem State.complEntry_mem (s : State) (g i c e) : (s.complEntry g i c e).mem = s.mem := by
  unfold State.complEntry
  grind [State.arrive_mem, State.addTob_mem, State.complEvent_mem, State.launch_mem]

@[simp] theorem State.drainAcc_wf {s : State} (h : s.mem.wf = true) (c) : (s.drainAcc c).mem.wf = true := by simp [State.drainAcc, h]

@[simp] theorem State.keep_wf {s : State} (h : s.mem.wf = true) (g c) : (s.keep g c).mem.wf = true := by
  simp only [State.keep]
  (repeat' split) <;> simp [h]

@[simp] theorem State.complete_wf {s : State} (h : s.mem.wf = true) (gid) : (s.complete gid).mem.wf = true := by
  unfold State.complete
  extract_lets s1
  have h1 : s1.mem.wf = true := State.gongCounts_wf h []
  clear_value s1
  split
  · exact h1
  split
  · exact h1
  extract_lets fl live s2 es s3 s4 s5 s6 s7 sch s8 s9
  have h3 : s3.mem = s1.mem := State.foldl_mem (fun s _ => s.complEntry_mem ..) _ s2
  have h4 : s4.mem.wf = true := by
    have : s4.mem = s3.mem := by unfold s4; split <;> simp
    rwa [this, h3]
  have h5 : s5.mem.wf = true := by
    unfold s5
    split
    · exact State.foldl_wf (fun s c hs => State.keep_wf hs _ c) _ h4
    · exact h4
  have h6 : s6.mem = s5.mem := by unfold s6; (repeat' split) <;> simp
  have h9 : s9.mem.wf = true := State.dropGang_wf (s := s8) (h6 ▸ h5) gid
  split
  · exact State.endJob_wf h9 ..
  · exact h9

@[simp] theorem State.leasesOver_mem (s : State) : s.leasesOver.mem = s.mem := by grind [State.leasesOver, State.wake_mem]

@[simp] theorem State.credit_wf {s : State} (hs : s.mem.wf = true) (h a) : (s.credit h a).mem.wf = true := by
  grind [State.credit, State.gongRead_mem, State.setGong_wf]

@[simp] theorem State.abandonFinish_wf {s : State} (h : s.mem.wf = true) (gid) : (s.abandonFinish gid).mem.wf = true := by
  unfold State.abandonFinish
  extract_lets s1
  have h1 : s1.mem.wf = true := State.gongCounts_wf h []
  clear_value s1
  split
  · exact h1
  split
  · exact h1
  extract_lets s2 s3 accs
  have h2 : s2.mem.wf = true := State.foldl_wf (fun s a hs => State.credit_wf hs _ a) _ h1
  simpa [s3] using h2

@[simp] theorem State.trapRecord_wf {s : State} (h : s.mem.wf = true) (gid) : (s.trapRecord gid).mem.wf = true := by
  simp only [State.trapRecord]
  (repeat' split) <;> simp [h]

@[simp] theorem State.flagAreaWrite_wf {s : State} (h : s.mem.wf = true) (job) : (s.flagAreaWrite job).mem.wf = true := by
  simp only [State.flagAreaWrite]
  (repeat' split) <;> simp [h]

@[simp] theorem State.jobAbort_wf {s : State} (h : s.mem.wf = true) (job) : (s.jobAbort job).mem.wf = true := by simp [State.jobAbort, h]

/-! The change engine (R351 to R359). -/

@[simp] theorem State.answer_mem (s : State) (id g c addr work code count value) :
    (s.answer id g c addr work code count value).mem = s.mem := by
  simp [State.answer]

@[simp] theorem State.refuse_mem (s : State) (id g c tr) : (s.refuse id g c tr).mem = s.mem := rfl

@[simp] theorem State.layerTable_mem (s : State) (id) : (s.layerTable id).mem = s.mem := by
  grind [State.layerTable, State.answer_mem, State.nextDraw_mem, State.readAt_mem, State.refuse_mem, State.setCmu_mem]

@[simp] theorem State.frameScore_mem (s : State) (id) : (s.frameScore id).mem = s.mem := by
  grind [State.frameScore, State.answer_mem, State.nextDraw_mem, State.readAt_mem, State.refuse_mem, State.setCmu_mem]

@[simp] theorem State.cmuFinish_mem (s : State) (id ok) : (s.cmuFinish id ok).mem = s.mem := rfl

/-! The Belfry (R360 to R377). -/

@[simp] theorem State.tableOut_wf {s : State} (h : s.mem.wf = true) : s.tableOut.mem.wf = true := by
  unfold State.tableOut
  split
  · exact h
  extract_lets ks st s1 s2 bel
  have h1 : s1.mem.wf = true := State.foldl_wf (fun s k hs => State.store_wf (by simpa using hs) ..) _ h
  have h2 : s2.mem.wf = true := by
    unfold s2
    split
    · exact h1
    · exact State.store_wf (by simpa using h1) ..
  exact h2

@[simp] theorem State.takeRef_mem (s : State) (gid n) : (s.takeRef gid n).mem = s.mem := by unfold State.takeRef; (repeat' split) <;> rfl

@[simp] theorem State.stopWait_mem (s : State) (id) : (s.stopWait id).mem = s.mem := rfl

@[simp] theorem State.belRead_mem (s : State) (id g c va n) : (s.belRead id g c va n).1.mem = s.mem := by
  grind [State.belRead, State.readAt_mem, State.spoil_mem]

@[simp] theorem State.readRun_mem (s : State) (n v off len) : (s.readRun n v off len).1.mem = s.mem := by
  grind [State.readRun, State.correctedAll_mem, State.movedBad_mem, State.poolSpan_mem, State.spoilNode_mem]

@[simp] theorem State.storedInput_mem (s : State) (n v) : (s.storedInput n v).1.mem = s.mem := by simp [State.storedInput]

@[simp] theorem State.depositMoves_mem (s : State) (id g c es) : (s.depositMoves id g c es).1.mem = s.mem := by
  induction es generalizing s with
  | nil => rfl
  | cons p t ih => grind [State.depositMoves, State.placeKey_mem]

@[simp] theorem State.setDeposit_mem (s : State) (id g c addr n run base logg units exts) :
    (s.setDeposit id g c addr n run base logg units exts).mem = s.mem := by
  simp [State.setDeposit]

@[simp] theorem State.matchUnits_mem (s : State) (us ns) : (s.matchUnits us ns).1.mem = s.mem := by
  induction ns generalizing s with
  | nil => rfl
  | cons p t ih => grind [State.matchUnits, State.storedInput_mem]

@[simp] theorem State.depServe_mem (s : State) (gid g r c addr base size w) : (s.depServe gid g r c addr base size w).mem = s.mem := by
  grind [State.depServe, State.answer_mem, State.matchUnits_mem, State.modNode_mem, State.modReq_mem, State.refuse_mem,
      State.setDeposit_mem, State.takeRef_mem]

@[simp] theorem State.belDeposit_mem (s : State) (id) : (s.belDeposit id).mem = s.mem := by
  simp only [State.belDeposit]
  (repeat' split) <;> grind [State.refuse_mem, State.stopWait_mem, State.depServe_mem, State.nextDraw_mem,
      State.belRead_mem]

@[simp] theorem State.depositFinish_mem (s : State) (id node ok) : (s.depositFinish id node ok).mem = s.mem := by
  unfold State.depositFinish
  (repeat' split) <;> simp

@[simp] theorem State.confirm_mem (s : State) (bs ns m) : (s.confirm bs ns m).1.mem = s.mem := by
  induction ns generalizing s m with
  | nil => rfl
  | cons n t ih => grind [State.confirm, State.modNode_mem, State.storedInput_mem]

@[simp] theorem State.belLookup_mem (s : State) (id) : (s.belLookup id).mem = s.mem := by
  grind [State.belLookup, State.answer_mem, State.belRead_mem, State.confirm_mem, State.nextDraw_mem, State.refuse_mem, State.takeRef_mem]

@[simp] theorem State.chain_mem (s : State) (ns) : (s.chain ns).1.mem = s.mem := by
  induction ns generalizing s with
  | nil => rfl
  | cons n t ih => grind [State.chain, State.readRun_mem]

@[simp] theorem State.belResume_mem (s : State) (id) : (s.belResume id).mem = s.mem := by
  have hway (l : List Nat) (s : State) : (l.foldl (fun (s : State) m => s.modNode m fun v => { v with stamp := s.tlc }) s).mem = s.mem :=
    State.foldl_mem (fun s _ => s.modNode_mem ..) l s
  simp only [State.belResume]
  (repeat' split) <;> grind [State.refuse_mem, State.answer_mem, State.takeRef_mem, State.nextDraw_mem, State.chain_mem]

@[simp] theorem State.belPin_mem (s : State) (id) : (s.belPin id).mem = s.mem := by
  grind [State.belPin, State.answer_mem, State.modNode_mem, State.refuse_mem]

@[simp] theorem State.engineEnd_mem (s : State) (r ok) : (s.engineEnd r ok).mem = s.mem := by
  unfold State.engineEnd
  (repeat' split) <;> simp

@[simp] theorem State.finishReq_mem (s : State) (id cancelled) : (s.finishReq id cancelled).mem = s.mem := by
  grind [State.finishReq, State.completeReq_mem, State.engineEnd_mem, State.startReq_mem]

@[simp] theorem State.depositDone_mem (s : State) (id) : (s.depositDone id).mem = s.mem := by
  unfold State.depositDone
  (repeat' split) <;> simp

/-! Launch packets and codec streams (R404 to R408, R344 to R350). -/

@[simp] theorem State.streamOpen_mem (s : State) (n engine codec q rate gong) : (s.streamOpen n engine codec q rate gong).mem = s.mem := by
  unfold State.streamOpen
  (repeat' split) <;> rfl

@[simp] theorem State.codecPut_wf {s : State} (h : s.mem.wf = true) (c ws) : (s.codecPut c ws).mem.wf = true :=
  State.foldl_wf (fun _ _ hs => State.virtPut_wf hs ..) ws h

@[simp] theorem State.emit_mem (s : State) (c p o) : (s.emit c p o).mem = s.mem := by grind [State.emit, State.modStream_mem]

@[simp] theorem State.frameOutput_mem (s : State) (n pic) : (s.frameOutput n pic).mem = s.mem := by
  unfold State.frameOutput
  (repeat' split) <;> simp

@[simp] theorem State.codecLand_wf {s : State} (h : s.mem.wf = true) : s.codecLand.mem.wf = true := State.foldl_wf (fun s p hs => by
  dsimp only
  split
  · exact hs
  · exact State.codecPut_wf (s := { s with fresh := s.fresh + 1 }) hs ..) _ h

@[simp] theorem State.frameGong_wf {s : State} (h : s.mem.wf = true) (n) : (s.frameGong n).mem.wf = true := by
  simp only [State.frameGong]
  (repeat' split) <;> simp [h]

@[simp] theorem State.unitConsumed_mem (s : State) (n) : (s.unitConsumed n).mem = s.mem := by
  grind [State.unitConsumed, State.event_mem, State.modStream_mem, State.virtBytes_mem]

@[simp] theorem State.framePacket_mem (s : State) (q b) : (s.framePacket q b).mem = s.mem := by
  grind [State.framePacket, State.emit_mem, State.event_mem, State.modStream_mem]

/-! Scrubs, repairs, spares and dies (R389 to R396). -/

@[simp] theorem State.traceForward_mem (s : State) (core) : (s.traceForward core).mem = s.mem := by
  unfold State.traceForward
  (repeat' split) <;> rfl

@[simp] theorem State.scrub_mem (s : State) (key) : (s.scrub key).mem = s.mem := by
  grind [State.scrub, State.correctedAll_mem, State.movedBad_mem, State.poisonBeat_mem]

@[simp] theorem State.writeBack_mem (s : State) : s.writeBack.mem = s.mem := by unfold State.writeBack; (repeat' split) <;> rfl

@[simp] theorem State.repairRecord_mem (s : State) (pch bank row outcome act) : (s.repairRecord pch bank row outcome act).mem = s.mem := rfl

@[simp] theorem State.rowRepair_wf {s : State} (h : s.mem.wf = true) (pch bank row hard) :
    (s.rowRepair pch bank row hard).mem.wf = true := by
  simp only [State.rowRepair]
  (repeat' split) <;> simp [h]

@[simp] theorem State.loseLine_wf {s : State} (h : s.mem.wf = true) (key) : (s.loseLine key).mem.wf = true := by simp [State.loseLine, h]
@[simp] theorem State.lineRecord_mem (s : State) (cause key orig outcome act) : (s.lineRecord cause key orig outcome act).mem = s.mem := rfl

@[simp] theorem State.unplace_wf {s : State} (h : s.mem.wf = true) (p) : (s.unplace p).mem.wf = true :=
  State.foldl_wf (fun s g hs => by simp [hs]) _ h

@[simp] theorem State.lineRemap_wf {s : State} (h : s.mem.wf = true) (unit) : (s.lineRemap unit).mem.wf = true := by
  simp only [State.lineRemap]
  (repeat' split) <;> simp [h]

@[simp] theorem State.dieSubstitution_wf {s : State} (h : s.mem.wf = true) (d) : (s.dieSubstitution d).mem.wf = true := by
  simp only [State.dieSubstitution]
  (repeat' split) <;> simp [h]

@[simp] theorem State.dieAbort_wf {s : State} (h : s.mem.wf = true) : s.dieAbort.mem.wf = true := by
  unfold State.dieAbort
  split
  · exact h
  split
  · exact h
  · exact State.foldl_wf (fun _ _ hs => State.endJob_wf hs ..) _ (State.foldl_wf (fun s op hs => State.preempt_wf hs op) _ h)

@[simp] theorem State.substitutionEnd_wf {s : State} (h : s.mem.wf = true) (d) : (s.substitutionEnd d).mem.wf = true := by
  simp only [State.substitutionEnd]
  (repeat' split) <;> simp [h, Mem.wf_filter]

@[simp] theorem State.dieAbsent_wf {s : State} (h : s.mem.wf = true) (d) : (s.dieAbsent d).mem.wf = true := by
  simp only [State.dieAbsent]
  (repeat' split) <;> simp [h]

@[simp] theorem State.futureResolved_wf {s : State} (h : s.mem.wf = true) (root va entry) :
    (s.futureResolved root va entry).mem.wf = true := by
  unfold State.futureResolved
  split
  · exact h
  split
  · exact h
  · refine State.foldl_wf (fun _ _ hs => State.endJob_wf hs ..) _ ?_
    rw [State.wake_mem]
    exact State.physWrite_wf h ..

@[simp] theorem State.ringOut_wf {s : State} (h : s.mem.wf = true) (m size recs) : (s.ringOut m size recs).1.mem.wf = true := by
  unfold State.ringOut
  split
  · exact h
  extract_lets due key
  split
  · exact h
  · exact State.foldl_wf (fun s r hs => State.store_wf (by simpa using hs) ..) _ h

@[simp] theorem State.pchModeChange_mem (s : State) (n m) : (s.pchModeChange n m).mem = s.mem := by
  unfold State.pchModeChange
  (repeat' split) <;> rfl

/-! The host link (R401 to R423). -/

@[simp] theorem State.windowWrite_wf {s : State} (h : s.mem.wf = true) (off bs) : (s.windowWrite off bs).mem.wf = true := by
  unfold State.windowWrite
  split
  · exact h
  extract_lets ps s1
  have h1 : s1.mem.wf = true := State.foldl_wf (fun s p hs => State.physWrite_wf (by simpa using hs) ..) _ h
  split
  · simpa using h1
  · exact h1

@[simp] theorem State.windowBeat_mem (s : State) (pa n) : (s.windowBeat pa n).1.mem = s.mem := by
  grind [State.windowBeat, State.correctedAll_mem, State.movedBad_mem, State.poisonBeat_mem, State.poolSpan_mem]

@[simp] theorem State.windowRead_mem (s : State) (off n) : (s.windowRead off n).mem = s.mem := by
  have hbeats (l : List (Nat × Nat × Nat)) := State.foldl_fst_mem (f := fun (q : State × List Byte) p =>
    ((q.1.windowBeat p.1 p.2.2).1, q.2 ++ (q.1.windowBeat p.1 p.2.2).2)) (fun q p => q.1.windowBeat_mem ..) l (s, [])
  simp only [State.windowRead]
  (repeat' split) <;> simp [hbeats]

@[simp] theorem State.badLaunch_mem (s : State) (off) : (s.badLaunch off).mem = s.mem := by simp [State.badLaunch]
@[simp] theorem State.rejectLaunch_mem (s : State) (q b why) : (s.rejectLaunch q b why).mem = s.mem := by simp [State.rejectLaunch]

@[simp] theorem State.packet_mem (s : State) (q b) : (s.packet q b).mem = s.mem := by
  grind [State.packet, State.evalHead_mem, State.framePacket_mem, State.launch_mem, State.rejectLaunch_mem]

@[simp] theorem State.launchWrite_mem (s : State) (off b) : (s.launchWrite off b).mem = s.mem := by
  unfold State.launchWrite
  (repeat' split) <;> simp

@[simp] theorem State.econs_mem (s : State) (g val) : (s.econs g val).mem = s.mem := by
  grind [State.econs, State.flushRing_mem, State.modRing_mem, State.msix_mem]

@[simp] theorem State.esizeWrite_mem (s : State) (g val) : (s.esizeWrite g val).mem = s.mem := by
  unfold State.esizeWrite
  (repeat' split) <;> simp

@[simp] theorem State.ebaseWrite_mem (s : State) (g val) : (s.ebaseWrite g val).mem = s.mem := by
  unfold State.ebaseWrite
  (repeat' split) <;> rfl

@[simp] theorem State.queueRing_mem (s : State) (q g) : (s.queueRing q g).mem = s.mem := by
  grind [State.queueRing, State.flushRing_mem, State.modQueue_mem, State.modRing_mem]

@[simp] theorem State.invgo_mem (s : State) (val) : (s.invgo val).mem = s.mem := by unfold State.invgo; (repeat' split) <;> rfl

@[simp] theorem State.invalidationDone_mem (s : State) : s.invalidationDone.mem = s.mem := by
  unfold State.invalidationDone
  (repeat' split) <;> simp

@[simp] theorem State.pwinWrite_mem (s : State) (w high val) : (s.pwinWrite w high val).mem = s.mem := rfl

@[simp] theorem State.bar0Write_mem (s : State) (off val) : (s.bar0Write off val).mem = s.mem := by
  unfold State.bar0Write
  (repeat' split) <;> simp

/-- What a write to a register of BAR 2 can do; the statement keeps the checker from unfolding the offset's arithmetic. -/
theorem State.bar2Write_cases {s : State} {val : BitVec 64} {P : State → Prop} (same : P s) (base : ∀ g, P (s.ebaseWrite g val))
    (size : ∀ g, P (s.esizeWrite g val)) (cons : ∀ g, P (s.econs g val)) (queue : ∀ q g, P (s.queueRing q g)) (off : Nat) :
    P (s.bar2Write off val) := by
  unfold State.bar2Write
  dsimp only
  split
  · split
    · exact base _
    · exact size _
    · exact cons _
    · exact same
  · split
    · exact queue _ _
    · exact same

@[simp] theorem State.bar2Write_mem (s : State) (off val) : (s.bar2Write off val).mem = s.mem :=
  State.bar2Write_cases (P := fun t => t.mem = s.mem) rfl (s.ebaseWrite_mem · val) (s.esizeWrite_mem · val) (s.econs_mem · val)
      s.queueRing_mem off

@[simp] theorem State.queueWrite_mem (s : State) (q rec_) : (s.queueWrite q rec_).mem = s.mem := by
  grind [State.queueWrite, State.modQueue_mem]

@[simp] theorem State.versionWrite_mem (s : State) (rec_) : (s.versionWrite rec_).mem = s.mem := by
  grind [State.versionWrite, State.freeVersions_mem]

/-! Boot, SPDM and the root controller (R418 to R427). -/

@[simp] theorem State.pooledFor_mem (s : State) (l) : (s.pooledFor l).mem = s.mem := State.foldl_mem (fun s p => by simp) _ s

@[simp] theorem State.firmwareSetup_mem (s : State) : s.firmwareSetup.mem = s.mem := by
  grind [State.firmwareSetup, State.pooledFor_mem, State.sendHost_mem]

@[simp] theorem State.bootStage_mem (s : State) (imgs) : (s.bootStage imgs).mem = s.mem := by
  grind [State.bootStage, State.firmwareSetup_mem, State.modRoot_mem]

@[simp] theorem State.rctl_mem (s : State) (val) : (s.rctl val).mem = s.mem := by grind [State.rctl, State.modRoot_mem]

@[simp] theorem State.recov_wf {s : State} (h : s.mem.wf = true) (off bs) : (s.recov off bs).mem.wf = true := by
  simp only [State.recov]
  (repeat' split) <;> simp [h]

@[simp] theorem State.registerWrite_wf {s : State} (h : s.mem.wf = true) (bar off val) : (s.registerWrite bar off val).mem.wf = true := by
  simp only [State.registerWrite]
  (repeat' split) <;> simp [h]

/-- Reset memory lists nothing. -/
@[simp] theorem State.coldReset_wf (s : State) : s.coldReset.mem.wf = true := rfl

@[simp] theorem State.endQuiet_wf {s : State} (h : s.mem.wf = true) (n) : (s.endQuiet n).mem.wf = true := by simp [State.endQuiet, h]

@[simp] theorem State.functionReset_wf {s : State} (h : s.mem.wf = true) : s.functionReset.mem.wf = true :=
  State.foldl_wf (fun _ n hs => State.endQuiet_wf hs n) _ h

@[simp] theorem State.thermalHold_mem (s : State) (t) : (s.thermalHold t).mem = s.mem := by
  grind [State.thermalHold, State.modRoot_mem, State.status_mem]

@[simp] theorem State.thermalEnd_mem (s : State) (t) : (s.thermalEnd t).mem = s.mem := by
  grind [State.thermalEnd, State.modRoot_mem, State.status_mem, State.thermalHold_mem]

@[simp] theorem State.powerHold_mem (s : State) (w) : (s.powerHold w).mem = s.mem := by unfold State.powerHold; (repeat' split) <;> simp

@[simp] theorem State.powerEnd_mem (s : State) (w) : (s.powerEnd w).mem = s.mem := by unfold State.powerEnd; (repeat' split) <;> simp

@[simp] theorem State.thermalShutdown_wf {s : State} (h : s.mem.wf = true) : s.thermalShutdown.mem.wf = true := by
  simp only [State.thermalShutdown]
  (repeat' split) <;> simp [h]

@[simp] theorem State.configRequest_mem (s : State) (write reg val) : (s.configRequest write reg val).mem = s.mem := by
  unfold State.configRequest
  (repeat' split) <;> rfl

@[simp] theorem State.spdmNote_mem (s : State) (req answer) : (s.spdmNote req answer).mem = s.mem := rfl
@[simp] theorem State.spdm_mem (s : State) (name code req body) : (s.spdm name code req body).mem = s.mem := rfl
@[simp] theorem State.spdmSigned_mem (s : State) (name code req body) : (s.spdmSigned name code req body).mem = s.mem := rfl

@[simp] theorem State.spdmAfter_mem {f : State → State} (hf : ∀ s, (f s).mem = s.mem) (s : State) (ok : Bool) :
    (s.spdmAfter ok f).mem = s.mem := by unfold State.spdmAfter; (repeat' split) <;> simp [hf]

@[simp] theorem State.getVersion_mem (s : State) : s.getVersion.mem = s.mem := State.spdmAfter_mem (fun s => (s.modRoot _).spdm_mem ..) s _
@[simp] theorem State.getCapabilities_mem (s : State) : s.getCapabilities.mem = s.mem := State.spdmAfter_mem (fun s => s.spdm_mem ..) s _

@[simp] theorem State.negotiate_mem (s : State) (hash asym) : (s.negotiate hash asym).mem = s.mem :=
  State.spdmAfter_mem (fun s => (s.modRoot _).spdm_mem ..) s _

@[simp] theorem State.getDigests_mem (s : State) : s.getDigests.mem = s.mem := State.spdmAfter_mem (fun s => s.spdm_mem ..) s _

@[simp] theorem State.getCertificate_mem (s : State) (slot off len) : (s.getCertificate slot off len).mem = s.mem :=
  State.spdmAfter_mem (fun s => s.spdm_mem ..) s _

@[simp] theorem State.challenge_mem (s : State) (slot nonce) : (s.challenge slot nonce).mem = s.mem :=
  State.spdmAfter_mem (fun s => s.spdmSigned_mem ..) s _

@[simp] theorem State.getMeasurements_mem (s : State) (index nonce) : (s.getMeasurements index nonce).mem = s.mem :=
  State.spdmAfter_mem (fun s => s.spdmSigned_mem ..) s _

/-! What happens next. -/

@[simp] theorem Auto.apply_wf {s : State} (h : s.mem.wf = true) (a) : (Auto.apply a s).mem.wf = true := by
  simp only [Auto.apply]
  (repeat' split) <;> simp [h]

@[simp] theorem State.requestsEnd_mem (s : State) : s.requestsEnd.mem = s.mem := State.foldl_mem (fun s _ => s.finishReq_mem ..) _ _
@[simp] theorem State.gongsDone_wf {s : State} (h : s.mem.wf = true) : s.gongsDone.mem.wf = true := by simp [State.gongsDone, h]

@[simp] theorem State.ringsOut_wf {s : State} (h : s.mem.wf = true) : s.ringsOut.mem.wf = true := by
  grind [State.ringsOut, State.ringOut_wf]

@[simp] theorem State.upkeep_wf {s : State} (h : s.mem.wf = true) : s.upkeep.mem.wf = true := by
  grind [State.upkeep, State.codecLand_wf, State.dieAbort_wf, State.leasesOver_mem, State.ringsOut_wf, State.tableOut_wf,
      State.writeBack_mem]

@[simp] theorem State.nextCycle_wf {s : State} (h : s.mem.wf = true) : s.nextCycle.mem.wf = true := by
  unfold State.nextCycle
  simp only [State.evalHeads_mem, State.settle_mem]
  exact State.tick_wf (State.upkeep_wf h) (fun s hs => by simpa using hs) State.pre

/-! What a word does to memory as it issues. -/

/-- A plan whose effects keep memory canonical on their issue cycle. -/
def Plan.KeepsMem (p : Plan) : Prop := ∀ e, p.res = .ok e → ∀ s : State, s.mem.wf = true → (e.dev s).mem.wf = true

theorem Plan.KeepsFiles.keepsMem {p : Plan} (h : p.KeepsFiles false) : p.KeepsMem := fun e he s hs => by
  rwa [((h e he).2.2 s).2.2 rfl]

theorem Plan.keepsMem_error (r : List Loc) (tr : Trap) : Plan.KeepsMem ⟨r, .error tr⟩ := nofun

theorem Plan.keepsMem_withMem {x : Ctx} {f : MStream → Pch → Plan} (h : ∀ m p, (f m p).KeepsMem) : (x.withMem f).KeepsMem := by
  unfold Ctx.withMem
  split
  · exact h _ _
  · exact Plan.keepsMem_error _ _

/-- A write command stores one line (R263). -/
theorem planWrite_keepsMem (op : Nat) (mask : BitVec 8) (bank : BitVec 4) (col : BitVec 5) (beat : BitVec 13) (x : Ctx) :
    (planWrite op mask bank col beat x).KeepsMem := Plan.keepsMem_withMem fun m p => by
  dsimp only
  split
  · exact Plan.keepsMem_error _ _
  split
  · exact Plan.keepsMem_error _ _
  · exact Plan.keepsMem_error _ _
  · exact Plan.keepsMem_error _ _
  rintro e he s hs
  cases he
  refine State.store_wf ?_ ..
  rw [(x.ringNote_frame ..).2.2]
  split <;> simpa using hs

theorem planWrz_keepsMem (bank : BitVec 4) (col : BitVec 5) (x : Ctx) : (planWrz bank col x).KeepsMem := Plan.keepsMem_withMem fun m p => by
  split
  · exact Plan.keepsMem_error _ _
  rintro e he s hs
  cases he
  exact State.store_wf (s := s.modPch m.pch _) hs _ _ _

/-- Every word's plan keeps memory canonical: four store, the others leave it alone (R91). -/
theorem planOf_keepsMem {i : Instr} {p : Ctx → Plan} (h : planOf i = some p) (x : Ctx) : (p x).KeepsMem := by
  have hk := planOf_keepsFiles h x
  unfold storesAtIssue at hk
  split at hk
  · cases h; exact planWrite_keepsMem _ _ _ _ _ x
  · cases h; exact planWrite_keepsMem _ _ _ _ _ x
  · cases h; exact planWrite_keepsMem _ _ _ _ _ x
  · cases h; exact planWrz_keepsMem _ _ x
  · exact hk.keepsMem

theorem Ctx.run_wf {x : Ctx} {p : Plan} (i : Instr) (hp : p.KeepsMem) (h : x.s.mem.wf = true) : (x.run i p).mem.wf = true := by
  obtain ⟨tr, hr⟩ | ⟨e, he, hr⟩ := x.run_cases i p
  · rwa [hr, State.raise_mem]
  · rw [hr, Ctx.issued, State.modCore_mem]
    exact hp e he x.s h

theorem issue_wf {i : Instr} {p : Ctx → Plan} {s t : State} (hp : ∀ x, (p x).KeepsMem) (h : s.mem.wf = true) (ht : issue i p s = .next t) :
    t.mem.wf = true := by
  cases hx : s.ctx s.cursor i with
  | none => simp [issue, hx] at ht
  | some x =>
    rw [issue_next hx] at ht
    cases ht
    exact Ctx.run_wf i (hp x) (State.ctx_s hx ▸ h)

/-! What one step does. -/

/-- A word issues its plan; each of the other rows of the table is one of the updates above. -/
theorem exec_wf {i : Instr} {s t : State} (h : s.mem.wf = true) (ht : exec i s = .next t) : t.mem.wf = true := by
  cases hp : planOf i with
  | some p => exact issue_wf (planOf_keepsMem hp) h (exec_of_planOf hp s ▸ ht)
  | none =>
    cases i <;> simp only [planOf, reduceCtorEq] at hp
    all_goals
      cases ht
      simp [h]

theorem State.nextInput_mem {s t : State} {i : Instr} (h : s.nextInput = some (i, t)) : t.mem = s.mem := by
  obtain ⟨e, -, he⟩ := Option.map_eq_some_iff.1 h
  cases he
  rfl

/-- What a turn hands on lists a canonical memory. -/
def Turn.KeepsMem : Turn → Prop
  | .run _ t => t.mem.wf = true
  | .auto _ => True
  | .done t => t.mem.wf = true

theorem State.wordTurn_keepsMem {s : State} (h : s.mem.wf = true) (gid g rank st) : (s.wordTurn gid g rank st).KeepsMem := by
  unfold State.wordTurn
  dsimp only
  split
  · simpa [Turn.KeepsMem] using h
  · simpa [Turn.KeepsMem, State.raise_mem] using h

theorem State.turn_keepsMem {s : State} (h : s.mem.wf = true) : s.turn.KeepsMem := by
  unfold State.turn
  split
  · exact (State.nextInput_mem ‹_› ▸ h : _)
  split
  · trivial
  split
  · exact State.wordTurn_keepsMem h ..
  split
  · trivial
  split
  · exact State.gongsDone_wf h
  split
  · trivial
  · exact State.nextCycle_wf h

/-- Settles O44: a step is a turn (`State.turn_keepsMem`) and then, for a word or an event, `exec_wf` or `Auto.apply_wf`. -/
theorem memoryStaysCanonical : Obligations.MemoryStaysCanonical := by
  intro s t h ht
  have hk := State.turn_keepsMem h
  unfold step at ht
  split at ht
  · next hturn => exact exec_wf (hturn ▸ hk : Turn.KeepsMem (.run _ _)) ht
  · cases ht; exact Auto.apply_wf h _
  · next hturn => cases ht; exact (hturn ▸ hk : Turn.KeepsMem (.done _))

end Sys2Proof.Machine

namespace Sys2Proof.Machine

/-! Codec streams: how the operations of R344 to R350 and R407 read, stream by stream. -/

@[simp] theorem State.stream_modStream_self (s : State) (n : Nat) (f : CodecStream → CodecStream) :
    (s.modStream n f).stream n = (s.stream n).map f := aget_amod_self n f s.codec

/-- A packet leaves the frame that a stream holds (R407). -/
@[simp] theorem CodecStream.give_held (c : CodecStream) (b : List Byte) : (c.give b).held = c.held := by
  simp only [CodecStream.give]
  split_ifs <;> rfl

theorem State.streamOpen_fresh {s : State} {n engine codec q rate : Nat} {gong : BitVec 64} (h : s.stream n = none) (hn : n < 512)
    (he : engine < 16) (hc : codec ≤ 2) (hq : q < 1024) :
    let c : CodecStream := {
      stream := n, engine := engine, codec := codec, q := q, rate := rate, gong := gong, units := [], eos := [], outs := [], frame := 0
      lastErr := false, lastPic := none, held := none, owed := 0, read := [], shown := 0, flush := false, writes := [] }
    s.streamOpen n engine codec q rate gong = { s with codec := aset n c s.codec } := by
  intro c
  rw [State.streamOpen, if_neg (by omega)]
  simp only [h, c]

theorem State.frameOutput_next {s : State} {n : Nat} {c : CodecStream} (h : s.stream n = some c) (hh : c.held = none) :
    s.frameOutput n c.shown = match s.nextFrame c, c.outs with
      | none, _ => s
      | some p, [] => s.modStream n fun d => { d with held := some p }
      | some p, o :: _ => s.emit c p o := by
  simp only [State.frameOutput, h, hh, Option.isSome_none, bne_self_eq_false, Bool.or_self, Bool.false_eq_true, if_false]
    <;> rfl

theorem State.frameOutput_outOfTurn {s : State} {n pic : Nat} {c : CodecStream} (h : s.stream n = some c) (hp : c.shown ≠ pic) :
    s.frameOutput n pic = s := by
  simp [State.frameOutput, h, hp]

theorem State.frameGong_present {s : State} {n : Nat} {c : CodecStream} (h : s.stream n = some c) (ho : c.owed ≠ 0) :
    let f := (c.frame + 2 ^ 32 - c.owed) % 2 ^ 32
    let t := (s.codecPut c (c.writes.filter fun w => w.1 == f)).modStream n fun c =>
      { c with owed := c.owed - 1, writes := c.writes.filter fun w => w.1 != f }
    t.diePresent (fld c.gong.toNat 0 31 / 2 ^ 28) = true → s.frameGong n = { t with gongQ := t.gongQ ++ [{
      key := vtKey (fld c.gong.toNat 0 31), ord := (4, c.engine, 0, 0, 0), kind := 5, n := 1, handle := c.gong, gang := 0, who := none }] } := by
  intro f t hd
  simp only [State.frameGong, h, if_neg ho]
  exact if_pos hd

theorem State.unitConsumed_read {s t : State} {n va ln : Nat} {tag : BitVec 32} {c : CodecStream} {rest : List (Nat × Nat × BitVec 32)}
    {bs : List Byte} (h : s.stream n = some c) (hu : c.units = (va, ln, tag) :: rest) (hh : c.held = none)
    (hr : s.virtBytes (s.queue c.q).root va ln = (t, .ok bs)) :
    s.unitConsumed n = if c.flush = true ∧ (s.nextFrame c).isSome = true then s else (t.modStream n fun c => { c with
        units := rest, eos := (c.eos.map (· - 1)).filter (0 < ·), flush := c.eos.contains 1
        read := (if c.flush then [] else c.read) ++ [some bs], shown := if c.flush then 0 else c.shown }).event 5 (some c.q) tag.toNat 0 n 0 0 := by
  simp only [State.unitConsumed, h, hu, hh, hr, Option.isSome_none, Bool.false_or, Bool.and_eq_true]

/-! Frame packets (R407, R411). -/

theorem State.framePacket_rejected {s : State} {q why : Nat} {b : List Byte} (h : s.frameReject q b = some why) :
    s.framePacket q b = s.event 4 (some q) (bfld b 4 4) 0 why 0 0 := by
  simp only [State.framePacket, h]

/-- An accepted packet joins its stream; a frame that waits is output if the packet leaves the stream an output set. -/
theorem State.framePacket_accepted {s : State} {q : Nat} {b : List Byte} {c : CodecStream} (h : s.frameReject q b = none)
    (hc : s.stream (bfld b 2 2) = some c) :
    s.framePacket q b = match c.held, (c.give b).outs with
      | some p, o :: _ => (s.modStream (bfld b 2 2) fun c => c.give b).emit (c.give b) p o
      | _, _ => s.modStream (bfld b 2 2) fun c => c.give b := by
  simp only [State.framePacket, h, State.stream_modStream_self, hc, Option.map_some, CodecStream.give_held]
    <;> rfl

/-! Launch ports (R404 to R406). -/

theorem State.launchWrite_beyond {s : State} {off : Nat} (b : List Byte) (h : 4 * 2 ^ 20 ≤ off) : s.launchWrite off b = s := if_pos h

theorem State.launchWrite_bad {s : State} {off : Nat} {b : List Byte} (h : off < 4 * 2 ^ 20)
    (hb : off % 4096 ≠ 0 ∨ b.length ≠ 64 ∨ s.root.ready = false) :
    s.launchWrite off b = s.countHi.event 8 (some (off / 4096)) 0 0 0 0 0 := by
  rw [State.launchWrite, if_neg (Nat.not_le.2 h), if_pos (by simpa using hb)]
  rfl

theorem State.launchWrite_packet {s : State} {off : Nat} {b : List Byte} (h : off < 4 * 2 ^ 20) (ha : off % 4096 = 0) (hl : b.length = 64)
    (hr : s.root.ready = true) : s.launchWrite off b = s.packet (off / 4096) b := by
  rw [State.launchWrite, if_neg (Nat.not_le.2 h), if_neg (by simp [ha, hl, hr])]

theorem State.packet_malformed {s : State} {q : Nat} {b : List Byte} (ht : bfld b 0 1 ≠ 3) (hm : packetMalformed b = true) :
    s.packet q b = s.event 4 (some q) (bfld b 4 4) 0 1 0 0 := by
  rw [State.packet, if_neg ht, if_pos hm]
  rfl

theorem State.packet_launched {s u : State} {q : Nat} {b : List Byte} (ht : bfld b 0 1 ≠ 3) (hm : packetMalformed b = false)
    (hu : s.launch q (packetWanted b) (packetArgs b) = (u, none)) : s.packet q b = u.evalHead q := by
  rw [State.packet, if_neg ht, if_neg (by simp [hm]), hu]

/-- The port of queue q stands at 4096 × q (R404). -/
theorem port_div (q : Nat) : 4096 * q / 4096 = q := by omega

theorem exec_framePacket_bad {s : State} {q : Nat} {b : List Byte} (hq : q < 1024) (hb : b.length ≠ 64 ∨ s.root.ready = false) :
    exec (.framePacket q b) s = .next (s.countHi.event 8 (some q) 0 0 0 0 0) := by
  refine congrArg Host.Outcome.next ((State.launchWrite_bad (by omega) (.inr hb)).trans ?_)
  rw [port_div]

theorem exec_framePacket {s : State} {q : Nat} {b : List Byte} (hq : q < 1024) (hl : b.length = 64) (hr : s.root.ready = true)
    (ht : bfld b 0 1 = 3) : exec (.framePacket q b) s = .next (s.framePacket q b) := by
  refine congrArg Host.Outcome.next ((State.launchWrite_packet (by omega) (by omega) hl hr).trans ?_)
  rw [port_div, State.packet, if_pos ht]

/-- Settles O56: each event is its operation on the state, and each clause one case of that operation. -/
theorem launchAndCodec : Obligations.LaunchAndCodec := by
  intro s off q n engine codec rate gong b
  refine ⟨fun h => ?_, fun h hb => ?_, fun h ha hl hr ht hm => ?_, fun u h ha hl hr ht hm hu => ?_, exec_framePacket_bad,
    fun why hq hl hr ht h => ?_, fun c hq hl hr ht h hc hh => ?_, fun c p o rest hq hl hr ht h hc hh ho => ?_,
    fun c va tag ln rest t bs h hu hh hr => ?_, fun c h hh => ?_, fun c pic h hp => ?_, fun c h ho => ?_, fun h hn he hc hq => ?_⟩
  · exact congrArg Host.Outcome.next (State.launchWrite_beyond b h)
  · exact congrArg Host.Outcome.next (State.launchWrite_bad h hb)
  · exact congrArg Host.Outcome.next ((State.launchWrite_packet h ha hl hr).trans (State.packet_malformed ht hm))
  · exact congrArg Host.Outcome.next ((State.launchWrite_packet h ha hl hr).trans (State.packet_launched ht hm hu))
  · rw [exec_framePacket hq hl hr ht, State.framePacket_rejected h]
  · rw [exec_framePacket hq hl hr ht, State.framePacket_accepted h hc, hh]
  · rw [exec_framePacket hq hl hr ht, State.framePacket_accepted h hc, hh, ho]
  · exact congrArg Host.Outcome.next (State.unitConsumed_read h hu hh hr)
  · exact congrArg Host.Outcome.next (State.frameOutput_next h hh)
  · exact congrArg Host.Outcome.next (State.frameOutput_outOfTurn h hp)
  · intro f t hd
    exact congrArg Host.Outcome.next (State.frameGong_present h ho hd)
  · exact congrArg Host.Outcome.next (State.streamOpen_fresh h hn he hc hq)

end Sys2Proof.Machine

namespace Sys2Proof.Machine

/-! Records and losses (R393, R394, R399): what they leave. -/

@[simp] theorem State.store_fresh (s : State) (k : Nat) (bs : List Byte) (psn : Bool) : (s.store k bs psn).fresh = s.fresh := by
  unfold State.store; split <;> rfl

@[simp] theorem State.repairRecord_fresh (s : State) (pch bank row outcome act) :
    (s.repairRecord pch bank row outcome act).fresh = s.fresh := rfl
@[simp] theorem State.repairRecord_gangs (s : State) (pch bank row outcome act) :
    (s.repairRecord pch bank row outcome act).gangs = s.gangs := rfl
@[simp] theorem State.repairRecord_rows (s : State) (pch bank row outcome act) :
    (s.repairRecord pch bank row outcome act).err.rows = s.err.rows := rfl
@[simp] theorem State.repairRecord_repairs (s : State) (pch bank row outcome act) :
    (s.repairRecord pch bank row outcome act).err.repairs = s.err.repairs := rfl

@[simp] theorem State.lineRecord_fresh (s : State) (cause key orig outcome act) : (s.lineRecord cause key orig outcome act).fresh = s.fresh := rfl
@[simp] theorem State.lineRecord_gangs (s : State) (cause key orig outcome act) : (s.lineRecord cause key orig outcome act).gangs = s.gangs := rfl
@[simp] theorem State.loseLine_fresh (s : State) (key : Nat) : (s.loseLine key).fresh = s.fresh + 1 := State.store_fresh ..
@[simp] theorem State.loseLine_gangs (s : State) (key : Nat) : (s.loseLine key).gangs = s.gangs := State.store_gangs ..

@[simp] theorem State.status_root (s : State) (code : Nat) : (s.status code).root = s.root := by
  obtain ⟨h, e⟩ := State.event_eq s 7 none 0 0 code 0 0
  rw [State.status, e]

/-! Scrubs (R389, R390). -/

theorem State.movedBad_none (s : State) (g : Option Gang) (src : Nat) {r : Read} (dst : Option Nat) (h : r.bad = none) :
    s.movedBad g src r dst = s := by
  simp only [State.movedBad, h]

theorem State.scrub_corrects {s : State} {key : Nat} (hm : s.mayScrub (key / 32 * 32) = true) (hb : (s.fetch (key / 32 * 32) 32).bad = none) :
    let r := s.fetch (key / 32 * 32) 32
    let u := s.correctedAll none 1 r
    s.scrub key = { u with err := { u.err with writeback := u.err.writeback ++ r.fixed.map fun k => (k, s.tlc) } } := by
  intro r u
  have ht : u.tlc = s.tlc := (State.correctedAll_frame ..).2.1
  simp only [State.scrub, hm, hb, State.movedBad_none _ _ _ _ hb, Bool.not_true, Option.isSome_none, Bool.false_eq_true, if_false]
  rw [ht]

/-! Row repair (R394). -/

theorem State.rowRepair_free {s : State} {pch bank row : Nat} (hard : Bool) (hp : pch < 512) (hb : bank < 16) (hr : row < 49152)
    (hf : s.pchFree pch = true) (hm : s.rowMapped pch bank row = false) :
    (s.rowRepair pch bank row hard).fresh = s.fresh + 1 ∧ (s.rowRepair pch bank row hard).gangs = s.gangs ∧
      if (hard && s.err.repairs.contains (rowUnit pch bank row, false) || Config.repairLeft s.fresh) = true then
        (rowUnit pch bank row, hard) ∈ (s.rowRepair pch bank row hard).err.repairs
      else rowUnit pch bank row ∈ (s.rowRepair pch bank row hard).err.rows := by
  rw [State.rowRepair, if_neg (by simp [hf, hm]; omega)]
  extract_lets u again e s1 key bs s2 s3 e3 s4
  change _ ∧ _ ∧ if (again || Config.repairLeft s.fresh) = true then _ else _
  clear_value key bs
  by_cases h : (again || Config.repairLeft s.fresh) = true
  · rw [if_pos h, if_neg (by simpa [or_iff_not_imp_left] using h)]
    refine ⟨?_, ?_, ?_⟩
    · exact (State.repairRecord_fresh ..).trans (State.store_fresh s2 key bs false)
    · exact (State.repairRecord_gangs ..).trans (State.store_gangs s2 key bs false)
    · rw [State.repairRecord_repairs]; exact List.mem_cons_self
  · rw [if_neg h, if_pos (by simpa using h)]
    exact ⟨rfl, rfl, by rw [State.repairRecord_rows]; exact mem_insertNat.2 (.inl rfl)⟩

/-! Spare lines (R393). -/

theorem State.lineRemap_core {s : State} {unit orig : Nat} (hk : storeOf (unit / 64 * 64) = some .core)
    (ho : aget (mcUnit 82 (unit / 64 * 64)) s.err.lasting = some orig) :
    let line := unit / 64 * 64
    let core := (line - 2 ^ 49) / 2 ^ 21
    let bank := core * 32 + cmBank ((line - 2 ^ 49) % 2 ^ 21)
    let n := (aget bank s.err.spareCm).getD 0
    let t := (s.loseLine line).lineRecord 82 line orig 4 3
    s.lineRemap unit =
      if 4 ≤ n then
        if s.gangs.any fun g => g.2.cells.contains core && !(match g.2.phase with | .placed _ | .staged _ => true | _ => false) then s
        else ((s.unplace (· == core)).markUnusable core).lineRecord 82 line orig 5 4
      else { t with err := { t.err with spareCm := aset bank (n + 1) s.err.spareCm } } := by
  intro line core bank n t
  simp only [State.lineRemap, hk, ho]
  rfl

theorem State.lineRemap_vault {s : State} {unit orig : Nat} (hk : storeOf (unit / 64 * 64) = some .vault)
    (ho : aget (mcUnit 81 (unit / 64 * 64)) s.err.lasting = some orig) :
    let line := unit / 64 * 64
    let bank := (line - 2 ^ 48) / 2 ^ 24 * 16 + vtBank ((line - 2 ^ 48) % 2 ^ 24)
    let n := (aget bank s.err.spareVt).getD 0
    let t := (s.loseLine line).lineRecord 81 line orig 4 3
    s.lineRemap unit = if 16 ≤ n then s else { t with err := { t.err with spareVt := aset bank (n + 1) s.err.spareVt } } := by
  intro line bank n t
  simp only [State.lineRemap, hk, ho]
  rfl

/-- A line of core memory moves to a spare line while its bank has one. -/
theorem State.lineRemap_core_spare {s : State} {unit orig bank : Nat} (hk : storeOf (unit / 64 * 64) = some .core)
    (ho : aget (mcUnit 82 (unit / 64 * 64)) s.err.lasting = some orig)
    (hb : bank = (unit / 64 * 64 - 2 ^ 49) / 2 ^ 21 * 32 + cmBank ((unit / 64 * 64 - 2 ^ 49) % 2 ^ 21))
    (hn : (aget bank s.err.spareCm).getD 0 < 4) :
    aget bank (s.lineRemap unit).err.spareCm = some ((aget bank s.err.spareCm).getD 0 + 1) ∧ (s.lineRemap unit).fresh = s.fresh + 1 ∧
      (s.lineRemap unit).gangs = s.gangs := by
  rw [State.lineRemap_core hk ho, ← hb, if_neg (Nat.not_le.2 hn)]
  exact ⟨aget_aset_self .., by simp only [State.lineRecord_fresh, State.loseLine_fresh],
    by simp only [State.lineRecord_gangs, State.loseLine_gangs]⟩

/-- A line of a vault moves to a spare line while its bank has one. -/
theorem State.lineRemap_vault_spare {s : State} {unit orig bank : Nat} (hk : storeOf (unit / 64 * 64) = some .vault)
    (ho : aget (mcUnit 81 (unit / 64 * 64)) s.err.lasting = some orig)
    (hb : bank = (unit / 64 * 64 - 2 ^ 48) / 2 ^ 24 * 16 + vtBank ((unit / 64 * 64 - 2 ^ 48) % 2 ^ 24))
    (hn : (aget bank s.err.spareVt).getD 0 < 16) :
    aget bank (s.lineRemap unit).err.spareVt = some ((aget bank s.err.spareVt).getD 0 + 1) ∧ (s.lineRemap unit).fresh = s.fresh + 1 ∧
      (s.lineRemap unit).gangs = s.gangs := by
  rw [State.lineRemap_vault hk ho, ← hb, if_neg (Nat.not_le.2 hn)]
  exact ⟨aget_aset_self .., by simp only [State.lineRecord_fresh, State.loseLine_fresh],
    by simp only [State.lineRecord_gangs, State.loseLine_gangs]⟩

/-! Dies (R395, R396). -/

theorem State.dieSubstitution_begins {s : State} {d : Nat} (hd : d < 8) (hu : s.root.spareUsed = false) (hf : s.root.spareFailed = false)
    (hs : s.root.substituting = none) (ha : s.root.absent.contains d = false) : s.dieSubstitution d =
      ((({ s with root := { s.root with substituting := some d, aborted := false } } : State).unplace (onDie d)).status 2) := by
  rw [State.dieSubstitution, if_neg (by rw [hu, hf, hs, ha]; simp; omega)]

theorem State.dieAbsent_marks {s : State} {d : Nat} (hd : d < 8) (ha : s.root.absent.contains d = false)
    (hu : s.root.spareUsed = true ∨ s.root.spareFailed = true) :
    let sub := if s.root.substituting = some d then none else s.root.substituting
    s.dieAbsent d = (({ s with root := { s.root with
      absent := insertNat d s.root.absent, substituting := sub, aborted := s.root.aborted && sub.isSome } } : State).unplace (onDie d)).status
        (4 + 256 * d) := by
  intro sub
  rw [State.dieAbsent, if_neg (by rw [ha]; simp; grind)]

/-- Memory without the keys of a condition reads zero there. -/
theorem Mem.read_filter_not {p : Nat → Bool} {k : Nat} (h : p k = true) (m : Mem) : Mem.read k (m.filter fun c => !p c.1) = 0 := by
  induction m with
  | nil => rfl
  | cons c m ih =>
    rw [List.filter_cons]
    split
    · next hc =>
      have hck : c.1 ≠ k := by rintro rfl; simp [h] at hc
      rw [Mem.read, if_neg hck, ih]
    · exact ih

theorem State.substitutionEnd_works {s : State} {d : Nat} (hs : s.root.substituting = some d) (ha : s.root.aborted = true)
    (hf : s.root.spareFailed = false) (hw : Config.spareWorks = true) :
    (s.substitutionEnd d).root = { s.root with substituting := none, aborted := false, spareUsed := true, dieMap := s.root.dieMap.set d 8 } ∧
      (s.substitutionEnd d).mem = s.mem.filter fun c => !keyOnDie d c.1 := by
  rw [State.substitutionEnd, if_neg (by simp [hs, ha, hf]), if_neg (by simp [hw])]
  exact ⟨State.status_root .., State.status_mem ..⟩

theorem State.substitutionEnd_fails {s : State} {d : Nat} (hs : s.root.substituting = some d) (ha : s.root.aborted = true)
    (hf : s.root.spareFailed = false) (hw : Config.spareWorks ≠ true) :
    (s.substitutionEnd d).root = { s.root with spareFailed := true } ∧ (s.substitutionEnd d).mem = s.mem := by
  rw [State.substitutionEnd, if_neg (by simp [hs, ha, hf]), if_pos (by simpa using hw)]
  exact ⟨State.status_root .., State.status_mem ..⟩

/-- Settles O58: each event is its operation on the state; `repairLeft` and `spareWorks` decide only between the two outcomes named. -/
theorem reliabilityEvents : Obligations.ReliabilityEvents := by
  intro s key pch bank row unit d orig hard
  refine ⟨fun hm hb => ?_, fun hp hb hr hf hm => ⟨_, rfl, State.rowRepair_free hard hp hb hr hf hm⟩,
    ⟨fun hk ho hn => ⟨_, rfl, State.lineRemap_core_spare hk ho rfl hn⟩, fun hk ho hn => ⟨_, rfl, State.lineRemap_vault_spare hk ho rfl hn⟩,
      fun hk ho hn hg => ?_⟩, fun hd hu hf hs ha => ?_, fun hs ha hf => ⟨_, rfl, ?_⟩, fun hd ha hu => ?_⟩
  · exact congrArg Host.Outcome.next (State.scrub_corrects hm hb)
  · refine congrArg Host.Outcome.next (((State.lineRemap_core hk ho).trans (if_pos hn)).trans (if_neg fun h => ?_))
    obtain ⟨g, hgm, h⟩ := List.any_eq_true.1 h
    obtain ⟨hc, hph⟩ := Bool.and_eq_true_iff.1 h
    obtain ⟨n, hn | hn⟩ := hg g hgm hc <;> simp [hn] at hph
  · exact congrArg Host.Outcome.next (State.dieSubstitution_begins hd hu hf hs ha)
  · split
    · next hw =>
      obtain ⟨hroot, hmem⟩ := State.substitutionEnd_works hs ha hf hw
      rw [hroot, hmem]
      exact ⟨rfl, rfl, rfl, fun k hk => Mem.read_filter_not hk s.mem⟩
    · next hw =>
      obtain ⟨hroot, hmem⟩ := State.substitutionEnd_fails hs ha hf hw
      rw [hroot, hmem]
      exact ⟨hs, rfl, rfl⟩
  · exact congrArg Host.Outcome.next (State.dieAbsent_marks hd ha hu)

end Sys2Proof.Machine

namespace Sys2Proof.Machine

/-! The device-memory window (R401, R422). -/

theorem State.windowWrite_notReady {s : State} (h : s.root.ready = false) (off : Nat) (bs : List Byte) : s.windowWrite off bs = s := by
  rw [State.windowWrite, h]; rfl

theorem State.windowRead_notReady {s : State} (h : s.root.ready = false) (off n : Nat) :
    s.windowRead off n = s.sendHost (.readData (List.replicate n 0)) := by
  rw [State.windowRead, h]; rfl

/-- A write with no barred beat lands beat by beat and is not counted. -/
theorem State.windowWrite_open {s : State} {off : Nat} {bs : List Byte} (h : s.root.ready = true) (hb : s.windowBarred off bs.length = false) :
    s.windowWrite off bs = (s.windowPieces off bs.length).foldl (fun (s : State) p =>
      (s.poolSpan none p.1 p.2.2 true).physWrite p.1 ((bs.drop p.2.1).take p.2.2) false) s := by
  have hf : ((s.windowPieces off bs.length).filter fun p => !s.barred p.1 p.2.2) = s.windowPieces off bs.length :=
    List.filter_eq_self.2 fun p hp => by simpa using List.any_eq_false.1 hb p hp
  simp only [State.windowWrite, h, hb, hf, Bool.not_true, Bool.false_eq_true, if_false]

theorem State.windowBeat_barred {s : State} {a k : Nat} (h : s.barred a k = true) : s.windowBeat a k = (s, List.replicate k 0xFF) := by
  rw [State.windowBeat, if_pos h]

theorem State.windowBeat_clean {s : State} {a k : Nat} (h : s.barred a k = false) (hb : (s.physRead a k).bad = none)
    (hp : (s.physRead a k).psn = false) :
    s.windowBeat a k = ((s.poolSpan none a k false).correctedAll none 2 (s.physRead a k), (s.physRead a k).bytes) := by
  rw [State.windowBeat, if_neg (by simp [h])]
  simp only [State.movedBad, hb, hp, Option.isSome_none, Bool.or_self, Bool.false_eq_true, if_false]

/-- A read of one beat is that beat's. -/
theorem State.windowRead_one {s : State} {off n a k : Nat} (h : s.root.ready = true) (hw : s.windowPieces off n = [(a, 0, k)]) :
    s.windowRead off n = (if s.barred a k then (s.windowBeat a k).1.countLo else (s.windowBeat a k).1).sendHost
      (.readData (s.windowBeat a k).2) := by
  simp only [State.windowRead, State.windowBarred, h, hw, Bool.not_true, Bool.false_eq_true, if_false, List.any_cons, List.any_nil,
    Bool.or_false, List.foldl_cons, List.foldl_nil, List.nil_append]

/-! Invalidations (R415). -/

theorem State.invgo_queued {s : State} {val : BitVec 64} (hg : val.getLsbD 0 = true) (h : s.root.ready = true)
    (hl : s.host.invQueue.length < 8) : s.invgo val = { s with host := { s.host with invQueue := s.host.invQueue ++
      [(s.host.invRoot.toNat, s.host.invVa.toNat / 4096, s.host.invCnt.toNat, s.reqSeq)] } } := by
  rw [State.invgo, if_neg (by simp [hg, h]), if_neg (Nat.not_le.2 hl)]

theorem State.invgo_full {s : State} {val : BitVec 64} (hg : val.getLsbD 0 = true) (h : s.root.ready = true)
    (hl : 8 ≤ s.host.invQueue.length) : s.invgo val = s.countLo := by
  rw [State.invgo, if_neg (by simp [hg, h]), if_pos hl]

theorem State.invalidationDone_ready {s : State} {e : Nat × Nat × Nat × Nat} {rest : List (Nat × Nat × Nat × Nat)}
    (hq : s.host.invQueue = e :: rest) (hr : s.invalidationReady e = true) :
    s.invalidationDone = (({ s with
      tlb := s.tlb.filter (fun x => !inInvalidation e x.root x.page)
      host := { s.host with invQueue := rest, invSeq := s.host.invSeq + 1 } } : State).event 6 none 0 0 (s.host.invSeq + 1).toNat 0 0) := by
  simp only [State.invalidationDone, hq, hr, Bool.not_true, Bool.false_eq_true, if_false]

/-! Event rings (R409). -/

/-- Consumption without ARM moves ECONS and nothing else where no event is held. -/
theorem State.econs_unarmed {s : State} {g : Nat} {val : BitVec 64} (hg : g < 16) (h : s.root.ready = true) (ha : val.getLsbD 63 = false)
    (hh : (s.ring g).held = []) : s.econs g val = s.modRing g fun r =>
      { r with cons := if 2 ^ 31 ≤ (r.prod - val.truncate 32).toNat then r.prod else val.truncate 32, arm := false } := by
  rw [State.econs, if_neg (by simp [h]; omega)]
  simp only [ha, Bool.false_and, Bool.false_eq_true, if_false, State.ring_modRing, hh]
  rfl

/-! Recovery (R419, R423). -/

theorem State.rctl_closed {s : State} (h : s.root.waiting = none) (val : BitVec 64) : s.rctl val = s := by
  rw [State.rctl, h]; rfl

theorem State.rctl_page {s : State} {k : Nat} {val : BitVec 64} (h : s.root.waiting = some k) (hv : val.getLsbD 63 = false) :
    s.rctl val = { s with host := { s.host with rctlPage := fld val.toNat 0 7 } } := by
  simp only [State.rctl, h, hv, Option.isNone_some, Bool.not_false, Bool.false_eq_true, if_false, if_true]

/-- What memory reads does not depend on the host's side. -/
theorem State.fetch_host (s : State) (t : HostIf) (k n : Nat) : ({ s with host := t } : State).fetch k n = s.fetch k n := rfl

theorem State.recoveryImage_host (s : State) (t : HostIf) : ({ s with host := t } : State).recoveryImage = s.recoveryImage := by
  simp only [State.recoveryImage, State.fetch_host]

theorem State.rctl_go {s : State} {k : Nat} {val : BitVec 64} (h : s.root.waiting = some k) (hv : val.getLsbD 63 = true) :
    s.rctl val = { s with
      host := { s.host with rctlPage := fld val.toNat 0 7 }
      root := match imageFault s.root s.recoveryImage with
        | none => { s.root.load s.recoveryImage with fail := 0, waiting := none }
        | some w => { s.root with fail := w + 16 * (s.recoveryImage.kind % 16) } } := by
  simp only [State.rctl, State.recoveryImage_host]
  rw [if_neg (by simp [h]), if_neg (by simp [hv])]
  cases imageFault s.root s.recoveryImage <;> rfl

/-! Registers of BAR 0 (R402, R422). -/

theorem State.registerWrite_winbase {s : State} (h : s.root.ready = true) (val : BitVec 64) :
    s.registerWrite 0 0x8 val = { s with host := { s.host with winbase := BitVec.ofNat 64 (fld val.toNat 30 18 * 2 ^ 30) } } := by
  simp [State.registerWrite, State.bar0Write, h]

theorem State.registerWrite_powcap {s : State} (h : s.root.ready = true) (val : BitVec 64) :
    s.registerWrite 0 0x300 val = { s with host := { s.host with powcap := BitVec.ofNat 64 (fld val.toNat 0 11) } } := by
  simp [State.registerWrite, State.bar0Write, h]

theorem State.registerWrite_notReady {s : State} (h : s.root.ready = false) (val : BitVec 64) : s.registerWrite 0 0x8 val = s := by
  simp [State.registerWrite, h]

/-- Settles O59: each access is its operation on the state, and each clause one case of that operation. -/
theorem hostAccesses : Obligations.HostAccesses := by
  intro s off n ring bs val
  refine ⟨fun h => ⟨?_, ?_⟩, fun h hb => ?_, fun a k h hw hb hbad hp => ?_, fun a k h hw hb => ?_, fun hg h hl => ?_, fun hg h hl => ?_,
    fun e rest hq hr => ?_, fun hg h ha hh => ?_, fun h => ?_, fun k h hv => ?_, fun k h hv => ?_, fun h => ?_, fun h => ?_, fun h => ?_⟩
    <;> refine congrArg Host.Outcome.next ?_
  · exact State.windowWrite_notReady h off bs
  · exact State.windowRead_notReady h off n
  · exact State.windowWrite_open h hb
  · rw [State.windowRead_one h hw, State.windowBeat_clean hb hbad hp, if_neg (by simp [hb])]
  · rw [State.windowRead_one h hw, State.windowBeat_barred hb, if_pos hb]
  · exact State.invgo_queued hg h hl
  · exact State.invgo_full hg h hl
  · exact State.invalidationDone_ready hq hr
  · exact State.econs_unarmed hg h ha hh
  · exact State.rctl_closed h val
  · exact State.rctl_page h hv
  · exact State.rctl_go h hv
  · exact State.registerWrite_winbase h val
  · exact State.registerWrite_powcap h val
  · exact State.registerWrite_notReady h val

end Sys2Proof.Machine

namespace Sys2Proof.Machine

/-! The checks of an image (R419). -/

/-- An image has no fault where it passes each of the six checks. -/
theorem imageFault_eq_none {r : RootCtl} {i : Image} : imageFault r i = none ↔ ∀ c ∈ imageChecks r i, c = true := by
  simp [imageFault, imageChecks, List.range_succ]

@[simp] theorem RootCtl.load_stage (r : RootCtl) (i : Image) : (r.load i).stage = r.stage := rfl

/-- Loading an image of one kind loads none of another. -/
theorem RootCtl.has_load_other {r : RootCtl} {i : Image} {kind : Nat} (h : i.kind ≠ kind) : (r.load i).has kind = r.has kind := by
  simp only [RootCtl.has, RootCtl.load, List.any_cons, List.any_filter, beq_eq_false_iff_ne.2 h, Bool.false_or]
  congr 1
  funext l
  by_cases hl : l.1 = kind
  · simp [hl, Ne.symm h]
  · simp [hl]

/-! Boot stages (R422, R423). -/

theorem RootCtl.advance_on {r : RootCtl} (h : r.waiting = none) : r.advance = { r with stage := r.stage + 1 } := by
  rw [RootCtl.advance, h]; rfl

theorem RootCtl.advance_waits {r : RootCtl} {k : Nat} (h : r.waiting = some k) : r.advance = r := by
  rw [RootCtl.advance, h]; rfl

theorem RootCtl.need_loaded {r : RootCtl} (imgs : List Image) {kind : Nat} (h : r.has kind = true) : r.need imgs kind = r := by
  rw [RootCtl.need, h]; rfl

theorem RootCtl.need_waits {r : RootCtl} (imgs : List Image) {k : Nat} (kind : Nat) (h : r.waiting = some k) : r.need imgs kind = r := by
  rw [RootCtl.need, if_pos (by simp [h])]

theorem RootCtl.need_missing {r : RootCtl} {imgs : List Image} {kind : Nat} (h : r.has kind = false) (hw : r.waiting = none)
    (hi : (imgs.find? fun i => i.kind == kind) = none) : r.need imgs kind = { r with fail := 1 + 16 * kind, waiting := some kind } := by
  rw [RootCtl.need, if_neg (by simp [h, hw]), hi]

theorem RootCtl.need_accepted {r : RootCtl} {imgs : List Image} {i : Image} {kind : Nat} (h : r.has kind = false) (hw : r.waiting = none)
    (hi : (imgs.find? fun i => i.kind == kind) = some i) (hf : imageFault r i = none) : r.need imgs kind = r.load i := by
  rw [RootCtl.need, if_neg (by simp [h, hw]), hi]
  simp only [hf]

theorem RootCtl.need_refused {r : RootCtl} {imgs : List Image} {i : Image} {kind n : Nat} (h : r.has kind = false) (hw : r.waiting = none)
    (hi : (imgs.find? fun i => i.kind == kind) = some i) (hf : imageFault r i = some n) :
    r.need imgs kind = { r with fail := n + 16 * kind, waiting := some kind } := by
  rw [RootCtl.need, if_neg (by simp [h, hw]), hi]
  simp only [hf]

theorem RootCtl.patch_missing {r : RootCtl} {imgs : List Image} (h : (imgs.find? fun i => i.kind == 1) = none) : r.patch imgs = r := by
  rw [RootCtl.patch, h]

theorem RootCtl.patch_accepted {r : RootCtl} {imgs : List Image} {i : Image} (h : (imgs.find? fun i => i.kind == 1) = some i)
    (hf : imageFault r i = none) : r.patch imgs = r.load i := by
  simp only [RootCtl.patch, h, hf, Option.isNone_none, if_true]

theorem RootCtl.patch_refused {r : RootCtl} {imgs : List Image} {i : Image} {n : Nat} (h : (imgs.find? fun i => i.kind == 1) = some i)
    (hf : imageFault r i = some n) : r.patch imgs = r := by
  simp only [RootCtl.patch, h, hf, Option.isNone_some, Bool.false_eq_true, if_false]

/-- The pools that firmware asks for leave the root controller as it is. -/
@[simp] theorem State.pooledFor_root (s : State) (l : List (Nat × Nat)) : (s.pooledFor l).root = s.root := by
  unfold State.pooledFor
  induction (List.range 512).filter _ generalizing s with
  | nil => rfl
  | cons n t ih => rw [List.foldl_cons, ih, State.modPch_root]

@[simp] theorem State.firmwareSetup_root (s : State) : s.firmwareSetup.root = s.root := by
  simp only [State.firmwareSetup]
  split
  · rw [State.sendHost_root, State.pooledFor_root]
  · rw [State.pooledFor_root]

section
variable {s : State} {imgs : List Image} (hp : s.root.powered = true) (hw : s.root.waiting = none) (hr : s.root.ready = false)
include hp hw hr

/-! What a boot that waits for nothing does in each stage. -/

theorem State.bootStage_plain (hs : s.root.stage = 0 ∨ s.root.stage = 1 ∨ s.root.stage = 4 ∨ s.root.stage = 8) :
    s.bootStage imgs = s.modRoot fun r => { r with stage := r.stage + 1 } := by
  have h : s.bootStage imgs = s.modRoot RootCtl.advance := by
    rcases hs with h | h | h | h <;> simp [State.bootStage, hp, hw, hr, h]
  rw [h, State.modRoot, RootCtl.advance_on hw]
  rfl

theorem State.bootStage_patch (hs : s.root.stage = 2) : s.bootStage imgs = { s with root := { s.root.patch imgs with stage := 3 } } := by
  have h : s.bootStage imgs = s.modRoot fun r => (r.patch imgs).advance := by simp [State.bootStage, hp, hw, hr, hs]
  have hpw : (s.root.patch imgs).waiting = none ∧ (s.root.patch imgs).stage = 2 := by
    simp only [RootCtl.patch]
    split
    · exact ⟨hw, hs⟩
    · split
      · exact ⟨hw, hs⟩
      · exact ⟨hw, hs⟩
  rw [h, State.modRoot, RootCtl.advance_on hpw.1, hpw.2]

theorem State.bootStage_need (hs : s.root.stage = 3) : s.bootStage imgs = { s with root := (s.root.need imgs 2).advance } := by
  simp [State.bootStage, hp, hw, hr, hs, State.modRoot]

theorem State.bootStage_clock (hs : s.root.stage = 5) :
    s.bootStage imgs = { s.modRoot (fun r => { r with stage := r.stage + 1 }) with tlc := 0 } := by
  have h : s.bootStage imgs = { s.modRoot RootCtl.advance with tlc := 0 } := by simp [State.bootStage, hp, hw, hr, hs]
  rw [h, State.modRoot, RootCtl.advance_on hw]
  rfl

theorem State.bootStage_needs (hs : s.root.stage = 6) :
    s.bootStage imgs = { s with root := ((s.root.need imgs 3).need imgs 4).advance } := by
  simp [State.bootStage, hp, hw, hr, hs, State.modRoot]

theorem State.bootStage_setup (hs : s.root.stage = 7) :
    s.bootStage imgs = s.firmwareSetup.modRoot fun r => { r with stage := r.stage + 1 } := by
  have h : s.bootStage imgs = s.firmwareSetup.modRoot RootCtl.advance := by simp [State.bootStage, hp, hw, hr, hs]
  rw [h, State.modRoot, State.firmwareSetup_root, RootCtl.advance_on hw, State.modRoot, State.firmwareSetup_root]

theorem State.bootStage_ready (hs : s.root.stage = 9) :
    s.bootStage imgs = s.modRoot fun r => { r.commitCounters with ready := true } := by
  simp [State.bootStage, hp, hw, hr, hs]

end

section
variable {r : RootCtl} {imgs : List Image} {i j : Image} (hw : r.waiting = none) (h3 : r.has 3 = false)
include hw h3

/-! Stage 6 needs the images of KIND 3 and 4, in that order (R423). -/

theorem RootCtl.needs_missing (hi : (imgs.find? fun i => i.kind == 3) = none) :
    ((r.need imgs 3).need imgs 4).advance = { r with fail := 49, waiting := some 3 } := by
  rw [RootCtl.need_missing h3 hw hi, RootCtl.need_waits imgs 4 (k := 3) rfl]
  exact RootCtl.advance_waits (k := 3) rfl

theorem RootCtl.needs_refused {n : Nat} (hi : (imgs.find? fun i => i.kind == 3) = some i) (hf : imageFault r i = some n) :
    ((r.need imgs 3).need imgs 4).advance = { r with fail := n + 48, waiting := some 3 } := by
  rw [RootCtl.need_refused h3 hw hi hf, RootCtl.need_waits imgs 4 (k := 3) rfl]
  exact RootCtl.advance_waits (k := 3) rfl

/-- An accepted image of KIND 3 leaves that of KIND 4 to load. -/
theorem RootCtl.needs_first (h4 : r.has 4 = false) (hi : (imgs.find? fun i => i.kind == 3) = some i) (hf : imageFault r i = none) :
    r.need imgs 3 = r.load i ∧ (r.load i).has 4 = false := by
  have hk : i.kind = 3 := by simpa using List.find?_some hi
  exact ⟨RootCtl.need_accepted h3 hw hi hf, by rw [RootCtl.has_load_other (by omega), h4]⟩

theorem RootCtl.needs_missing_second (h4 : r.has 4 = false) (hi : (imgs.find? fun i => i.kind == 3) = some i) (hf : imageFault r i = none)
    (hj : (imgs.find? fun i => i.kind == 4) = none) :
    ((r.need imgs 3).need imgs 4).advance = { r.load i with fail := 65, waiting := some 4 } := by
  obtain ⟨h, h4'⟩ := RootCtl.needs_first hw h3 h4 hi hf
  rw [h, RootCtl.need_missing h4' hw hj]
  exact RootCtl.advance_waits (k := 4) rfl

theorem RootCtl.needs_refused_second {n : Nat} (h4 : r.has 4 = false) (hi : (imgs.find? fun i => i.kind == 3) = some i)
    (hf : imageFault r i = none) (hj : (imgs.find? fun i => i.kind == 4) = some j) (hfj : imageFault r j = some n) :
    ((r.need imgs 3).need imgs 4).advance = { r.load i with fail := n + 64, waiting := some 4 } := by
  obtain ⟨h, h4'⟩ := RootCtl.needs_first hw h3 h4 hi hf
  rw [h, RootCtl.need_refused h4' hw hj hfj]
  exact RootCtl.advance_waits (k := 4) rfl

theorem RootCtl.needs_accepted (h4 : r.has 4 = false) (hi : (imgs.find? fun i => i.kind == 3) = some i) (hf : imageFault r i = none)
    (hj : (imgs.find? fun i => i.kind == 4) = some j) (hfj : imageFault r j = none) :
    ((r.need imgs 3).need imgs 4).advance = { (r.load i).load j with stage := r.stage + 1 } := by
  obtain ⟨h, h4'⟩ := RootCtl.needs_first hw h3 h4 hi hf
  rw [h, RootCtl.need_accepted h4' hw hj hfj]
  exact RootCtl.advance_on hw

end

/-! Attestation (R421). -/

theorem State.spdmAfter_open {s : State} (hp : s.root.powered = true) (hs : 2 ≤ s.root.stage) (ok : Bool) (f : State → State) :
    s.spdmAfter ok f = if ok then f s else s.sendHost (.spdm "ERROR" [] [] []) := by
  simp [State.spdmAfter, State.doeOpen, hp, hs]

theorem State.getVersion_eq (s : State) : s.getVersion = if s.root.powered = true ∧ 2 ≤ s.root.stage then
    (s.modRoot fun r => { r with spdmVersion := true, spdmAlgs := false, spdmLog := [] }).spdm "VERSION" 0x04 [0x84] [0x12, 0x13] else s := by
  simp only [State.getVersion, State.spdmAfter, State.doeOpen]
  by_cases h : s.root.powered = true ∧ 2 ≤ s.root.stage
  · rw [if_pos h, if_neg (by simp [h]), if_pos trivial]
    rfl
  · rw [if_neg h, if_pos (by simp at h ⊢; grind)]

section
variable {s : State} (hp : s.root.powered = true) (hs : 2 ≤ s.root.stage)
include hp hs

/-! The other requests, from stage 2 on (R422). -/

theorem State.getCapabilities_early (h : s.root.spdmVersion = false) : s.getCapabilities = s.sendHost (.spdm "ERROR" [] [] []) := by
  rw [State.getCapabilities, State.spdmAfter_open hp hs, h]; rfl

theorem State.getCapabilities_open (h : s.root.spdmVersion = true) : s.getCapabilities = s.spdm "CAPABILITIES" 0x61 [0xE1] (leBytes 4 0x16) := by
  rw [State.getCapabilities, State.spdmAfter_open hp hs, h]; rfl

theorem State.negotiate_open (hash asym : BitVec 32) (h : s.root.spdmVersion = true) : s.negotiate hash asym =
    (s.modRoot fun r => { r with spdmAlgs := hash.getLsbD 1 && asym.getLsbD 3 }).spdm "ALGORITHMS" 0x63
      (0xE3 :: (leBytes 4 hash.toNat ++ leBytes 4 asym.toNat))
      (leBytes 4 (if hash.getLsbD 1 then 2 else 0) ++ leBytes 4 (if asym.getLsbD 3 then 8 else 0)) := by
  rw [State.negotiate, State.spdmAfter_open hp hs, h]; rfl

theorem State.getDigests_open (h : s.root.spdmAlgs = true) :
    s.getDigests = s.spdm "DIGESTS" 0x01 [0x81] (leBytes 48 (Config.sha384 Config.certChain).toNat) := by
  rw [State.getDigests, State.spdmAfter_open hp hs, h]; rfl

theorem State.getCertificate_open (off len : Nat) (h : s.root.spdmAlgs = true) : s.getCertificate 0 off len =
    s.spdm "CERTIFICATE" 0x02 (0x82 :: (leBytes 2 off ++ leBytes 2 len)) ((Config.certChain.drop off).take len) := by
  rw [State.getCertificate, State.spdmAfter_open hp hs, h]; rfl

theorem State.challenge_open (nonce : BitVec 256) (h : s.root.spdmAlgs = true) : s.challenge 0 nonce =
    s.spdmSigned "CHALLENGE_AUTH" 0x03 (0x83 :: (leBytes 1 0 ++ leBytes 32 nonce.toNat)) (leBytes 48 (Config.sha384 Config.certChain).toNat) := by
  rw [State.challenge, State.spdmAfter_open hp hs, h]; rfl

theorem State.challenge_otherSlot {slot : Nat} (nonce : BitVec 256) (h : slot ≠ 0) :
    s.challenge slot nonce = s.sendHost (.spdm "ERROR" [] [] []) := by
  rw [State.challenge, State.spdmAfter_open hp hs, if_neg (by simp [h])]

theorem State.getMeasurements_number (nonce : BitVec 256) (h : s.root.spdmAlgs = true) : s.getMeasurements 0 nonce =
    s.spdmSigned "MEASUREMENTS" 0x60 (0xE0 :: (leBytes 1 0 ++ leBytes 32 nonce.toNat)) [6] := by
  rw [State.getMeasurements, State.spdmAfter_open hp hs, h]; rfl

theorem State.getMeasurements_one {index : Nat} (nonce : BitVec 256) (h : s.root.spdmAlgs = true) (h1 : 1 ≤ index) (h6 : index ≤ 6) :
    s.getMeasurements index nonce =
      s.spdmSigned "MEASUREMENTS" 0x60 (0xE0 :: (leBytes 1 index ++ leBytes 32 nonce.toNat)) (s.measurement index) := by
  rw [State.getMeasurements, State.spdmAfter_open hp hs, if_pos (by simp [h, h6]), if_neg (by omega), if_neg (by omega)]
  rfl

end

/-! Configuration requests (R400, R422). -/

theorem State.configRequest_early {s : State} (hp : s.root.powered = true) (hs : s.root.stage ≤ 1) (write : Bool) (reg : Nat) (val : BitVec 32) :
    s.configRequest write reg val = s.sendHost (.config none) := by
  rw [State.configRequest, if_neg (by simp [hp]), if_pos hs]

theorem State.configRequest_read {s : State} (hp : s.root.powered = true) (hs : 2 ≤ s.root.stage) (reg : Nat) (val : BitVec 32) :
    s.configRequest false reg val = s.sendHost (.config (some (Config.configRead s.host.cfg reg))) := by
  rw [State.configRequest, if_neg (by simp [hp]), if_neg (by omega), if_neg Bool.false_ne_true]

/-! Temperature and power (R426, R427). -/

theorem State.thermalHold_begins {s : State} {t : Nat} (ht : 110 ≤ t) (hh : s.root.thermalHold = false) :
    s.thermalHold t = (s.modRoot fun r => { r with junction := t % 256, thermalHold := true }).status 5 :=
  if_pos ⟨ht, by simp [State.modRoot, hh]⟩

theorem State.thermalHold_reads {s : State} {t : Nat} (h : t < 110 ∨ s.root.thermalHold = true) :
    s.thermalHold t = s.modRoot fun r => { r with junction := t % 256 } :=
  if_neg (by simp [State.modRoot]; grind)

theorem State.thermalEnd_hot {s : State} {t : Nat} (ht : 110 ≤ t) : s.thermalEnd t = s.thermalHold t := if_pos ht

theorem State.thermalEnd_ends {s : State} {t : Nat} (ht : t < 100) (hh : s.root.thermalHold = true) :
    s.thermalEnd t = (s.modRoot fun r => { r with junction := t % 256, thermalHold := false }).status 6 := by
  rw [State.thermalEnd, if_neg (by omega)]
  exact if_pos ⟨ht, hh⟩

theorem State.thermalEnd_warm {s : State} {t : Nat} (h1 : 100 ≤ t) (h2 : t < 110) :
    s.thermalEnd t = s.modRoot fun r => { r with junction := t % 256 } := by
  rw [State.thermalEnd, if_neg (by omega)]
  exact if_neg fun h => absurd h.1 (by omega)

theorem State.powerHold_begins {s : State} {w : Nat} (hw : s.powerCap < w) (hh : s.root.powerHold = false) :
    s.powerHold w = (s.modRoot fun r => { r with powerHold := true }).status 5 := if_pos ⟨hw, by simp [hh]⟩

theorem State.powerEnd_ends {s : State} {w : Nat} (hw : w ≤ s.powerCap) (hh : s.root.powerHold = true) :
    s.powerEnd w = (s.modRoot fun r => { r with powerHold := false }).status 6 := if_pos ⟨hw, hh⟩

theorem State.thermalShutdown_hot {s : State} (hj : 120 ≤ s.root.junction) (hp : s.root.powered = true) :
    s.thermalShutdown = { s.coldReset with root := { s.coldReset.root with powered := false, stage := 0, junction := s.root.junction } } := by
  rw [State.thermalShutdown, if_neg (by simp [hp]; omega)]

/-- Settles O60: each request is its operation on the state, and each clause one case of that operation. -/
theorem bootAndRoot : Obligations.BootAndRoot := by
  intro s imgs hash asym cfg slot off len t w reg nonce noted answer signed asks image runs open_
  refine ⟨rfl, fun i => ?_, fun hp hw hr => ⟨fun hs => ?_, fun hs => ?_, fun hs h3 h4 => ?_, fun hs => ?_, fun hs => ?_, fun hs => ?_, fun hs => ?_⟩,
    rfl, ?_, fun ho hv => ?_, fun ho hv => ?_, fun ho ha => ?_, fun hp hs => ?_, fun hp hs => ?_, fun ht hh => ?_, fun ht => ?_, fun ht hh => ?_,
    fun ht hh => ?_, fun ht hh => ?_, fun hc hh => ?_, fun hc hh => ?_, fun hj hp => ?_⟩
  · rw [imageFault_eq_none]
    simp [imageChecks, Image.signed, and_assoc]
  · refine ⟨fun hi => ?_, fun i hi => ?_⟩
    · exact congrArg Host.Outcome.next (by rw [State.bootStage_patch hp hw hr hs, RootCtl.patch_missing hi])
    · refine congrArg Host.Outcome.next ((State.bootStage_patch hp hw hr hs).trans ?_)
      cases hf : imageFault s.root i with
      | none => rw [RootCtl.patch_accepted hi hf]
      | some n => rw [RootCtl.patch_refused hi hf]
  · refine ⟨fun h2 => ?_, fun h2 => ⟨fun hi => ?_, fun i hi => ?_⟩⟩ <;>
      refine congrArg Host.Outcome.next ((State.bootStage_need hp hw hr hs).trans ?_)
    · rw [RootCtl.need_loaded imgs h2, RootCtl.advance_on hw, hs]
    · rw [RootCtl.need_missing h2 hw hi, RootCtl.advance_waits (k := 2) rfl]
    · cases hf : imageFault s.root i with
      | none => rw [RootCtl.need_accepted h2 hw hi hf, RootCtl.advance_on (r := s.root.load i) hw, RootCtl.load_stage, hs]
      | some n => rw [RootCtl.need_refused h2 hw hi hf, RootCtl.advance_waits (k := 2) rfl]
  · refine ⟨fun hi => ?_, fun i hi => ?_⟩ <;> refine congrArg Host.Outcome.next ((State.bootStage_needs hp hw hr hs).trans ?_)
    · rw [RootCtl.needs_missing hw h3 hi]
    · cases hf : imageFault s.root i with
      | some n => rw [RootCtl.needs_refused hw h3 hi hf]
      | none =>
        cases hj : image 4 with
        | none => rw [RootCtl.needs_missing_second hw h3 h4 hi hf hj]
        | some j =>
          cases hfj : imageFault s.root j with
          | none => rw [RootCtl.needs_accepted hw h3 h4 hi hf hj hfj, hs]; simp only [hfj]
          | some n => rw [RootCtl.needs_refused_second hw h3 h4 hi hf hj hfj]; simp only [hfj]
  · exact congrArg Host.Outcome.next (State.bootStage_plain hp hw hr hs)
  · exact congrArg Host.Outcome.next (State.bootStage_setup hp hw hr hs)
  · exact congrArg Host.Outcome.next (State.bootStage_clock hp hw hr hs)
  · exact congrArg Host.Outcome.next (State.bootStage_ready hp hw hr hs)
  · refine (congrArg Host.Outcome.next (State.getVersion_eq s)).trans ?_
    split
    · rfl
    · rfl
  · exact congrArg Host.Outcome.next (State.getCapabilities_early ho.1 ho.2 hv)
  · exact ⟨congrArg Host.Outcome.next (State.getCapabilities_open ho.1 ho.2 hv),
      congrArg Host.Outcome.next (State.negotiate_open ho.1 ho.2 hash asym hv)⟩
  · refine ⟨?_, ?_, fun h => ?_, fun h => ?_, fun h1 h6 => ?_, fun h => ?_⟩
    · exact congrArg Host.Outcome.next (State.getDigests_open ho.1 ho.2 ha)
    · exact congrArg Host.Outcome.next (State.getCertificate_open ho.1 ho.2 off len ha)
    · subst h
      exact congrArg Host.Outcome.next (State.challenge_open ho.1 ho.2 nonce ha)
    · subst h
      exact congrArg Host.Outcome.next (State.getMeasurements_number ho.1 ho.2 nonce ha)
    · exact congrArg Host.Outcome.next (State.getMeasurements_one ho.1 ho.2 nonce ha h1 h6)
    · exact congrArg Host.Outcome.next (State.challenge_otherSlot ho.1 ho.2 nonce h)
  · exact congrArg Host.Outcome.next (State.configRequest_early hp hs true reg cfg)
  · exact congrArg Host.Outcome.next (State.configRequest_read hp hs reg cfg)
  · exact congrArg Host.Outcome.next (State.thermalHold_begins ht hh)
  · exact congrArg Host.Outcome.next (State.thermalHold_reads (.inl ht))
  · exact congrArg Host.Outcome.next (State.thermalEnd_ends ht hh)
  · exact congrArg Host.Outcome.next ((State.thermalEnd_hot ht).trans (State.thermalHold_begins ht hh))
  · by_cases hw : t < 110
    · exact congrArg Host.Outcome.next (State.thermalEnd_warm ht hw)
    · exact congrArg Host.Outcome.next ((State.thermalEnd_hot (Nat.not_lt.1 hw)).trans (State.thermalHold_reads (.inr (hh.resolve_left hw))))
  · exact congrArg Host.Outcome.next (State.powerHold_begins hc hh)
  · exact congrArg Host.Outcome.next (State.powerEnd_ends hc hh)
  · exact ⟨_, congrArg Host.Outcome.next (State.thermalShutdown_hot hj hp), rfl, rfl, rfl, rfl⟩

end Sys2Proof.Machine
